-- ==== Sys2Proof/Word.lean ====
section
/-! DEFINITION. Words, bytes, vectors and the plain containers of the Galnan-4 model: types only. -/

namespace Sys2Proof

/-- One byte of storage. -/
abbrev Byte := BitVec 8
/-- A 64-bit scalar entry: belt entries, short and main registers, special registers (07 R179). -/
abbrev Word := BitVec 64
/-- One instruction word or extension word (12 R300). -/
abbrev IWord := BitVec 32
/-- A 256-byte vector (00 R5). -/
abbrev Vec := BitVec 2048
/-- A storage location (01 R17, R18): HBM byte = stack * 2^36 + offset; vault, system region, control
register and host bytes = their physical address; scratchpad byte = 2^60 + COREID * 2^21 + offset. -/
abbrev Loc := Nat

/-- Storage with carried codes and line metadata (11 R278, R279, R282), as sparse canonical lists.
`cells` lists the bytes that are not zero. `syns` lists, per granule, the stored code XOR the code of the
stored data, where that is not zero (a granule is listed exactly when its code mismatches). `metas` lists,
per 64-byte line, the eight metadata bits where they are not zero. -/
structure Store where
  cells : List Host.Cell
  syns  : List (Nat × BitVec 16)
  metas : List (Nat × Byte)
  deriving DecidableEq, Repr, Inhabited

/-- Storage as zero-fill leaves it: zero bytes, valid codes, clear metadata (01 R27 step 7). -/
def Store.empty : Store := { cells := [], syns := [], metas := [] }

/-- A scalar entry with its word code (11 R279). `syn` is the carried code XOR the code of `val`.
`busy` is 0, or 1 + the tag of the issued load whose data the entry still waits for (21 R468). -/
structure SWord where
  val  : Word
  syn  : BitVec 16
  busy : Nat
  deriving DecidableEq, Repr

/-- A vector entry with its sixteen granule codes (11 R279): bits [16g+15:16g] of `syn` are the
carried code of granule g XOR the code of its data. -/
structure VWord where
  val : Vec
  syn : BitVec 256
  deriving DecidableEq, Repr

/-- The zero entry with a valid code (07 R170). -/
def SWord.zero : SWord := { val := 0, syn := 0, busy := 0 }
/-- An entry freshly generated from a result (07 R180, 14 R337). -/
def SWord.fresh (v : Word) : SWord := { val := v, syn := 0, busy := 0 }
/-- The zero vector with valid codes. -/
def VWord.zero : VWord := { val := 0, syn := 0 }
/-- A vector freshly generated from a result (16 R392). -/
def VWord.fresh (v : Vec) : VWord := { val := v, syn := 0 }

end Sys2Proof
end

