-- ==== Sys2Proof/Syntax.lean ====
section
/-! DEFINITION. The operations and events of the opcode table: operand types, event operands, and Instr. -/

namespace Sys2Proof

/-- The four sequencers of a slot (07 R168). -/
inductive Seq where | K | L | C | S
  deriving DecidableEq, Repr

/-- The sync nibble of a word (12 R300). -/
structure Nib where
  wp : Bool
  wn : Bool
  sp : Bool
  sn : Bool
  deriving DecidableEq, Repr

/-- The nibble that neither waits nor signals. -/
def Nib.none : Nib := ⟨false, false, false, false⟩

/-- A six-bit operand field read as a source (12 R302, 07 R179). -/
inductive Opnd where
  | belt (a : BitVec 4)
  | short (n : BitVec 4)
  | main (m : BitVec 5)
  deriving DecidableEq, Repr

/-- A six-bit operand field read as a destination (07 R180): belt ages other than 0 do not decode. -/
inductive Dest where
  | push
  | short (n : BitVec 4)
  | main (m : BitVec 5)
  deriving DecidableEq, Repr

/-- MULH mod (14 R348). -/
inductive MulhMod where | ss | uu | su
  deriving DecidableEq, Repr
/-- Signed or unsigned (14 R348, R349). -/
inductive Sgn where | s | u
  deriving DecidableEq, Repr
/-- Field width of SEXT and ZEXT (14 R348). -/
inductive XWidth where | w8 | w16 | w32
  deriving DecidableEq, Repr
/-- Condition of CMP and CMPI (14 R348, R352). -/
inductive Cond where | eq | lt | ltu | ne
  deriving DecidableEq, Repr
/-- Ordering mod of an atomic (08 R216). -/
inductive MemOrd where | rlx | acq | rel | acqrel
  deriving DecidableEq, Repr
/-- Operation of RED (15 R371). -/
inductive RedOp where | add | min | max | minu | maxu | and | or | xor
  deriving DecidableEq, Repr
/-- VFMA mod (16 R393). -/
inductive FmaMod where | fma | fms | fnma | fnms
  deriving DecidableEq, Repr
/-- VABS mod (16 R393). -/
inductive AbsMod where | abs | neg | csgn
  deriving DecidableEq, Repr
/-- VCMP condition (16 R395). -/
inductive VCond where | eq | lt | le | ne
  deriving DecidableEq, Repr
/-- VIADD, VISUB, VIMUL mod (16 R396). -/
inductive SatMod where | wrap | ss | us
  deriving DecidableEq, Repr
/-- VLOGIC mod (16 R396). -/
inductive LogicOp where | and | or | xor | andn
  deriving DecidableEq, Repr
/-- VSHIFT mod (16 R396). -/
inductive ShiftOp where | shl | shr | sra | rot
  deriving DecidableEq, Repr
/-- VIMINMAX mod (16 R396). -/
inductive MinMaxOp where | mins | maxs | minu | maxu
  deriving DecidableEq, Repr
/-- VREDM mod (16 R399). -/
inductive RedmOp where | max | min | amax | amin
  deriving DecidableEq, Repr
/-- Element size of VLDX and VSTX (16 R401). -/
inductive ESize where | b | h | w | d
  deriving DecidableEq, Repr
/-- Target width of VPACK, source width of VUNPK (16 R411). -/
inductive PackT where | h | b | n
  deriving DecidableEq, Repr
/-- Conversion format codes 0-14 (09 R231); code 15 does not decode. -/
inductive Fmt where
  | fp32 | bf16 | fp16 | fp64 | e4m3 | e5m2 | e2m1 | tq4
  | int8 | uint8 | int16 | int32 | int64 | e8m0 | tensor
  deriving DecidableEq, Repr
/-- Access paths (08 R218). -/
inductive Path where | core | copy | matrix | gather | coll
  deriving DecidableEq, Repr
/-- Ring role named by RBIND (15 R380). -/
inductive Role where | producer | consumer
  deriving DecidableEq, Repr

/-- A fabric flit: the header of 02 R36, the code field and the data field of R35.
`reject` marks an answer as REJECT (R41; the spec gives the mark no bits, log 18). `rsvd` holds [127:125]. -/
structure Flit where
  kind   : BitVec 6
  cls    : BitVec 2
  dst    : BitVec 12
  src    : BitVec 12
  jobtag : BitVec 12
  tag    : BitVec 12
  hops   : BitVec 4
  addr   : BitVec 45
  gmask  : BitVec 8
  meta0  : BitVec 6
  meta1  : BitVec 6
  rsvd   : BitVec 3
  codes  : BitVec 128
  data   : BitVec 1024
  reject : Bool
  deriving DecidableEq, Repr

/-- What the steps of a start meet outside the package (01 R27, R28; 18 R440; 03 R64, R86).
`failStep` gives, per die, the step among 2-6 that the die fails, 0 for none. -/
structure StartArgs where
  failStep : List Nat
  supSigOk : Bool
  svbase   : Word
  suproot  : Word
  supen    : Bool
  portMode : BitVec 2
  svns     : List Word
  digests  : List (BitVec 512)
  deriving DecidableEq, Repr

/-- What a scan access names (01 R32): the status and error registers; storage, HBM and scratchpads among it; registers of a
sequencer and of a slot, a field of its snapshot; a granule of a cached line, of an instruction cache, of a constant cache; a device
control register of a die; a cached translation. -/
inductive ScanTarget where
  | status
  | ecc (die : Nat)
  | storage (l : Loc) (n : Nat)
  | pc (slot : Nat) (q : Seq)
  | main (slot : Nat) (q : Seq) (m : Nat)
  | short (slot : Nat) (q : Seq) (n : Nat)
  | belt (slot : Nat) (q : Seq) (a : Nat)
  | vmain (slot : Nat) (m : Nat)
  | vshort (slot : Nat) (n : Nat)
  | vbelt (slot : Nat) (a : Nat)
  | special (slot : Nat) (q : Seq) (number : Nat)
  | acc (slot : Nat) (bank : Bool) (i : Nat)
  | queue (slot k i : Nat)
  | snapshot (slot off n : Nat)
  | line (cluster line g : Nat)
  | code (core : Nat) (q : Seq) (gran : Nat)
  | const (core line g : Nat)
  | control (die off : Nat)
  | leaf (i : Nat)
  deriving DecidableEq, Repr

/-- What fences a die by itself (01 R29): the loss of its UCIe link to another die, a fault on its rails, a missing heartbeat. -/
inductive FenceCause where
  | link (die other : Nat)
  | rail (die : Nat)
  | heartbeat (die : Nat)
  deriving DecidableEq, Repr

/-- The die that a cause concerns. -/
def FenceCause.die : FenceCause → Nat
  | .link d _ => d
  | .rail d => d
  | .heartbeat d => d

/-- What a soft error flips (11 R283): a stored data bit under an unchanged code; a bit that the ECC
corrects and counts; a line the ECC cannot correct; a register bit; a queue entry bit; bits of the three results of a
slot's next voted word (R296). -/
inductive UpsetTarget where
  | dataBit (l : Loc) (bit : Nat)
  | corrected (l : Loc)
  | uncorrectable (l : Loc)
  | mainReg (slot : Nat) (q : Seq) (m : Nat) (bit : Nat)
  | vecReg (slot : Nat) (m : Nat) (bit : Nat)
  | queue1 (slot : Nat) (bit : Nat)
  | acc (slot : Nat) (bank : Bool) (byte : Nat) (bit : Nat)
  | voted (slot : Nat) (a b c : BitVec 2048)
  deriving DecidableEq, Repr

/-- The job-record fields a CREATE_JOB packet carries (03 R68, R69). `spill` is the room of the spill
area the supervisor assigns per die (05 R121), in records, and `save` the physical address of the job's save area (05 R146). -/
structure JobReq where
  weight  : Nat
  maxprio : BitVec 2
  flags   : BitVec 3
  ptroot  : Word
  evq     : Word
  jobsync : Word
  policy  : Word
  migth   : BitVec 32
  spill   : Nat
  save    : Word
  deriving DecidableEq, Repr, Inhabited

/-- A checkpoint image: sections 2 and 3 of 03 R83 with their side-band, and what the trailer holds.
`bytes` stands for every byte before the trailer, over which the digest is taken. -/
structure Image where
  body   : Store
  bytes  : List Byte
  digest : BitVec 512
  sig    : List Byte
  key    : Option (BitVec 512)
  deriving DecidableEq, Repr, Inhabited

/-- Where a checkpoint goes (03 R83): fabric destinations or the port-1 target. -/
inductive CkptTarget where
  | fabric (devs : List (BitVec 12))
  | port1
  deriving DecidableEq, Repr, Inhabited

/-- The status of CKPT_DONE (03 R84). -/
inductive CkptStatus where | ok | targetStall | targetError
  deriving DecidableEq, Repr

/-- A floating-point reduction packet as it reaches its home (13 R323, 08 R226): the identity of the
source, the admission table, the formats, the skip flag and the contribution's bytes with their codes. -/
structure RedPacket where
  slot  : Nat
  uid   : Nat
  seqno : BitVec 16
  table : Word
  tag   : BitVec 32
  crec  : Word
  skip  : Bool
  sfmt  : Fmt
  dfmt  : Fmt
  src   : Word
  dst   : Word
  len   : Nat
  deriving DecidableEq, Repr

/-- Every row of spec/opcode_table.json. Words of a sequencer carry their sync nibble first (12 R300). Event rows
carry what the event names, or take it from the head of an input queue of State: the flit, host access or request
that comes about. -/
inductive Instr where
  -- start, power, freeze, scan (01)
  | start (a : StartArgs)
  | scanReadout (t : ScanTarget)
  | unlockToken (challenge token : List Byte)
  | powerSample (watts : Nat)
  | powerLimit (thermal : Bool)
  | thermalSample (die : Nat) (temp : Nat)
  | dieFenced (cause : FenceCause)
  | distributorHeartbeat (die : Nat)
  -- fabric (02)
  | invalidFlit (port : Nat) (f : Flit)
  | linkRetry (port : Nat)
  | portDown (port : Nat)
  | deviceLost (dev : BitVec 12)
  | relFabricTimeout (slot : Nat) (q : Seq)
  | collectiveTimeout (coll : Nat)
  | shardComplete (coll : Nat) (shard : Nat)
  | collectiveComplete (coll : Nat)
  | gangTimeout (lgid : BitVec 32)
  | gangReservationExpiry (lgid : BitVec 32)
  -- host requests and queues (03)
  | killDone (job : Nat)
  | hostCompletionTimeout (job : Nat)
  | ckptDone (st : CkptStatus)
  | queueSlotAccept (job : Nat) (desc : Word)
  | queueStall (job : Nat) (desc : Word)
  | issuePacket (job : Nat) (desc : Word) (record : Word) (kind : Byte) (rest : List Byte)
  | collRequest (job : Nat) (desc : Word) (record : Word) (rest : List Byte)
  -- translation, bias, migration (04)
  | pageWalk (die : Nat) (job : Nat) (va : Word)
  | walkRestart (die : Nat) (job : Nat) (va : Word)
  | engineFault (slot : Nat) (eng : Nat)
  | engineFaultResume (source : BitVec 32) (eng : BitVec 8)
  | engineFaultAbort (source : BitVec 32) (eng : BitVec 8)
  | biasFlipToHost (region : BitVec 36)
  | biasFlipToDevice (region : BitVec 36)
  | biasFlipComplete (region : Nat)
  | migrate (die : Nat) (region : Nat) (deviceSide : Bool)
  -- scheduler and graphs (05, 06)
  | taskEnd (slot : Nat)
  | recordAging (cluster : Nat) (job : Nat) (prio : Nat)
  | gangReservationTimeout (gang : Nat)
  | preemptionDelay (cluster : Nat)
  | barrierForward (die : Nat) (bar : Nat) (lost : Bool)
  | instanceGrant (slot : Nat)
  | escapementSample (graph : Nat)
  | balanceDecision (graph : Nat)
  | commandPull (slot : Nat) (eng : Nat)
  | decoupleDeadlock (slot : Nat) (cycles : Nat)
  -- deliveries and completions (07, 08, 11, 13, 15)
  | loadDelivery (slot : Nat) (q : Seq) (tag : Nat)
  | regionDrainComplete (slot : Nat)
  | copyPacketComplete (slot : Nat) (ctx : Nat)
  | matrixCommandComplete (slot : Nat)
  | gatherComplete (slot : Nat)
  | streamTile (sub : Nat)
  | streamComplete (sub : Nat)
  | fpReduceContribution (p : RedPacket)
  | fpReduceTimeout (table : Loc)
  | eccCounterRead (die : Nat)
  -- class 0x00, control (14)
  | nop (n : Nib)
  | br (n : Nib) (off : BitVec 20)
  | beq (n : Nib) (a b : Opnd) (off : BitVec 8)
  | bne (n : Nib) (a b : Opnd) (off : BitVec 8)
  | blt (n : Nib) (a b : Opnd) (off : BitVec 8)
  | bge (n : Nib) (a b : Opnd) (off : BitVec 8)
  | bltu (n : Nib) (a b : Opnd) (off : BitVec 8)
  | bgeu (n : Nib) (a b : Opnd) (off : BitVec 8)
  | bz (n : Nib) (a : Opnd) (off : BitVec 14)
  | bnz (n : Nib) (a : Opnd) (off : BitVec 14)
  | call (n : Nib) (off : BitVec 20)
  | calli (n : Nib) (a : Opnd) (off : BitVec 14)
  | ret (n : Nib) (a : Opnd)
  | jmpi (n : Nib) (a : Opnd) (off : BitVec 14)
  | loop (n : Nib) (off : BitVec 20)
  | setlc (n : Nib) (a b : Opnd)
  | stage (k : BitVec 3)
  | tend (n : Nib)
  | yield (n : Nib)
  | seg (n : Nib) (cost : BitVec 20) (sig : BitVec 32)
  | segend (n : Nib)
  -- class 0x20, scalar integer (14)
  | add (n : Nib) (d : Dest) (a b : Opnd)
  | sub (n : Nib) (d : Dest) (a b : Opnd)
  | mul (n : Nib) (d : Dest) (a b : Opnd)
  | mulh (n : Nib) (m : MulhMod) (d : Dest) (a b : Opnd)
  | div (n : Nib) (m : Sgn) (d : Dest) (a b : Opnd)
  | rem (n : Nib) (m : Sgn) (d : Dest) (a b : Opnd)
  | and (n : Nib) (d : Dest) (a b : Opnd)
  | or (n : Nib) (d : Dest) (a b : Opnd)
  | xor (n : Nib) (d : Dest) (a b : Opnd)
  | andn (n : Nib) (d : Dest) (a b : Opnd)
  | shl (n : Nib) (d : Dest) (a b : Opnd)
  | shr (n : Nib) (d : Dest) (a b : Opnd)
  | sra (n : Nib) (d : Dest) (a b : Opnd)
  | rot (n : Nib) (d : Dest) (a b : Opnd)
  | min (n : Nib) (m : Sgn) (d : Dest) (a b : Opnd)
  | max (n : Nib) (m : Sgn) (d : Dest) (a b : Opnd)
  | clz (n : Nib) (d : Dest) (a : Opnd)
  | ctz (n : Nib) (d : Dest) (a : Opnd)
  | popc (n : Nib) (d : Dest) (a : Opnd)
  | sext (n : Nib) (m : XWidth) (d : Dest) (a : Opnd)
  | zext (n : Nib) (m : XWidth) (d : Dest) (a : Opnd)
  | cmp (n : Nib) (m : Cond) (d : Dest) (a b : Opnd)
  | sel (n : Nib) (a b c : Opnd)
  | lea (n : Nib) (sh : BitVec 2) (d : Dest) (a b : Opnd)
  | mov (n : Nib) (d : Dest) (a : Opnd)
  -- class 0x40, immediates, queues, special registers, tokens (14)
  | li (n : Nib) (d : Dest) (imm : BitVec 14)
  | liw (n : Nib) (d : Dest) (imm : BitVec 32)
  | lihi (n : Nib) (d : Dest) (a : Opnd) (imm : BitVec 32)
  | addi (n : Nib) (f : Opnd) (imm : BitVec 14)
  | andi (n : Nib) (f : Opnd) (imm : BitVec 14)
  | ori (n : Nib) (f : Opnd) (imm : BitVec 14)
  | xori (n : Nib) (f : Opnd) (imm : BitVec 14)
  | shli (n : Nib) (f : Opnd) (sh : BitVec 6)
  | shri (n : Nib) (f : Opnd) (sh : BitVec 6)
  | srai (n : Nib) (f : Opnd) (sh : BitVec 6)
  | cmpi (n : Nib) (m : Cond) (a : Opnd) (imm : BitVec 12)
  | qput (n : Nib) (k : BitVec 3) (f : Opnd)
  | qget (n : Nib) (f : Dest) (k : BitVec 3)
  | qpeek (n : Nib) (f : Dest) (k : BitVec 3)
  | qcnt (n : Nib) (f : Dest) (k : BitVec 3)
  | rdsr (n : Nib) (f : Dest) (sr : BitVec 12)
  | wrsr (n : Nib) (sr : BitVec 12) (f : Opnd)
  | tsig (n : Nib) (cnt : BitVec 4) (pred : Bool)
  | twait (n : Nib) (cnt : BitVec 4) (pred : Bool)
  -- class 0x60, memory and atomics (15)
  | ldb (n : Nib) (d : Dest) (a : Opnd) (off : BitVec 8)
  | ldh (n : Nib) (d : Dest) (a : Opnd) (off : BitVec 8)
  | ldw (n : Nib) (d : Dest) (a : Opnd) (off : BitVec 8)
  | ldd (n : Nib) (d : Dest) (a : Opnd) (off : BitVec 8)
  | ldc (n : Nib) (d : Dest) (a : Opnd) (off : BitVec 8)
  | ldq (n : Nib) (k : BitVec 3) (f : Opnd) (off : BitVec 8)
  | ldvq (n : Nib) (k : BitVec 3) (f : Opnd) (off : BitVec 8)
  | stb (n : Nib) (b a : Opnd) (off : BitVec 8)
  | sth (n : Nib) (b a : Opnd) (off : BitVec 8)
  | stw (n : Nib) (b a : Opnd) (off : BitVec 8)
  | std (n : Nib) (b a : Opnd) (off : BitVec 8)
  | stvq (n : Nib) (k : BitVec 3) (f : Opnd) (off : BitVec 8)
  | stt (n : Nib) (a b : Opnd) (fmt : BitVec 2)
  | pref (n : Nib) (a : Opnd) (off : BitVec 8)
  | aadd (n : Nib) (o : MemOrd) (d : Dest) (a b : Opnd)
  | amin (n : Nib) (o : MemOrd) (d : Dest) (a b : Opnd)
  | amax (n : Nib) (o : MemOrd) (d : Dest) (a b : Opnd)
  | aminu (n : Nib) (o : MemOrd) (d : Dest) (a b : Opnd)
  | amaxu (n : Nib) (o : MemOrd) (d : Dest) (a b : Opnd)
  | aand (n : Nib) (o : MemOrd) (d : Dest) (a b : Opnd)
  | aor (n : Nib) (o : MemOrd) (d : Dest) (a b : Opnd)
  | axor (n : Nib) (o : MemOrd) (d : Dest) (a b : Opnd)
  | aswap (n : Nib) (o : MemOrd) (d : Dest) (a b : Opnd)
  | cas (n : Nib) (o : MemOrd) (a b c : Opnd)
  | casw (n : Nib) (o : MemOrd) (a b c : Opnd)
  | red (n : Nib) (op : RedOp) (o : MemOrd) (a b : Opnd)
  -- class 0x80, synchronisation (15)
  | acq (n : Nib) (d : Dest) (a : Opnd)
  | rel (n : Nib) (a b : Opnd)
  | bind (n : Nib) (a b c : Opnd)
  | unbind (n : Nib) (a b : Opnd)
  | fence (n : Nib)
  | xfence (n : Nib) (src dst : Path)
  | cflush (n : Nib) (a b : Opnd)
  | cinv (n : Nib) (a b : Opnd)
  | rclaim (n : Nib) (rg : BitVec 5) (f : Opnd)
  | rfill (n : Nib) (rg : BitVec 5) (f : Opnd)
  | rwaitf (n : Nib) (rg : BitVec 5) (f : Opnd)
  | rtake (n : Nib) (rg : BitVec 5) (f : Opnd)
  | rfree (n : Nib) (rg : BitVec 5) (f : Opnd)
  | rwaite (n : Nib) (rg : BitVec 5) (f : Opnd)
  | rstat (n : Nib) (f : Dest) (rg : BitVec 5)
  | rbind (n : Nib) (rg : BitVec 5) (f : Opnd) (role : Role)
  | fwait (n : Nib) (a b c : Opnd)
  | ffill (n : Nib) (a b : Opnd)
  | ftest (n : Nib) (d : Dest) (a : Opnd)
  | bararr (n : Nib) (bn : BitVec 4)
  | barwait (n : Nib) (f : Opnd) (bn : BitVec 4)
  | barsync (n : Nib) (bn : BitVec 4)
  | wpwait (n : Nib) (f : Opnd) (ctx : BitVec 2)
  -- class 0xA0, vector arithmetic (16)
  | vadd (n : Nib) (d : Dest) (a b : Opnd)
  | vsub (n : Nib) (d : Dest) (a b : Opnd)
  | vmul (n : Nib) (d : Dest) (a b : Opnd)
  | vfma (n : Nib) (m : FmaMod) (a b c : Opnd)
  | vmin (n : Nib) (d : Dest) (a b : Opnd)
  | vmax (n : Nib) (d : Dest) (a b : Opnd)
  | vabs (n : Nib) (m : AbsMod) (d : Dest) (a b : Opnd)
  | vdiv (n : Nib) (d : Dest) (a b : Opnd)
  | vsqrt (n : Nib) (d : Dest) (a : Opnd)
  | vrcp (n : Nib) (d : Dest) (a : Opnd)
  | vrsq (n : Nib) (d : Dest) (a : Opnd)
  | vexp2 (n : Nib) (d : Dest) (a : Opnd)
  | vlog2 (n : Nib) (d : Dest) (a : Opnd)
  | vcmp (n : Nib) (m : VCond) (d : Dest) (a b : Opnd)
  | vsel (n : Nib) (a b c : Opnd)
  | viadd (n : Nib) (m : SatMod) (d : Dest) (a b : Opnd)
  | visub (n : Nib) (m : SatMod) (d : Dest) (a b : Opnd)
  | vimul (n : Nib) (m : SatMod) (d : Dest) (a b : Opnd)
  | vlogic (n : Nib) (m : LogicOp) (d : Dest) (a b : Opnd)
  | vshift (n : Nib) (m : ShiftOp) (d : Dest) (a b : Opnd)
  | viminmax (n : Nib) (m : MinMaxOp) (d : Dest) (a b : Opnd)
  | vsett (n : Nib) (fmt : BitVec 4)
  | vbcast (n : Nib) (d : Dest) (a : Opnd)
  | vextr (n : Nib) (d : Dest) (a b : Opnd)
  | vins (n : Nib) (a b c : Opnd)
  | vperm (n : Nib) (d : Dest) (a b : Opnd)
  | viota (n : Nib) (d : Dest) (imm : BitVec 14)
  | vreds (n : Nib) (d : Dest) (a : Opnd)
  | vredm (n : Nib) (m : RedmOp) (d : Dest) (a : Opnd)
  -- class 0xC0, vector memory, conversion, statistics (16)
  | vld (n : Nib) (d : Dest) (a : Opnd) (off : BitVec 8)
  | vst (n : Nib) (b a : Opnd) (off : BitVec 8)
  | vldx (n : Nib) (z : ESize) (d : Dest) (a b : Opnd)
  | vstx (n : Nib) (z : ESize) (a b c : Opnd)
  | vcvt (n : Nib) (a : Opnd) (dst src : Fmt) (rtz hi : Bool)
  | vquant (n : Nib) (a : Opnd) (dst src : Fmt) (rtz hi : Bool)
  | vdeq (n : Nib) (a : Opnd) (dst src : Fmt) (rtz hi : Bool)
  | vresid (n : Nib) (a b c : Opnd)
  | vtopk (n : Nib) (f : Opnd) (k : BitVec 5)
  | vhist (n : Nib) (a b : Opnd)
  | vamax (n : Nib) (d : Dest) (a : Opnd)
  | vpack (n : Nib) (t : PackT) (d : Dest) (a b : Opnd)
  | vunpk (n : Nib) (t : PackT) (d : Dest) (a : Opnd)
  -- class 0xE0, engines, launch, system (17, 18)
  | mma (n : Nib) (f : Opnd)
  | gmma (n : Nib) (f : Opnd)
  | mconv (n : Nib) (f : Opnd)
  | mzero (n : Nib) (bank clr : Bool)
  | mswap (n : Nib)
  | mepi (n : Nib) (f : Opnd)
  | mstatr (n : Nib) (f : Dest) (bank : Bool)
  | copy (n : Nib) (f : Opnd) (ctx : BitVec 2)
  | copym (n : Nib) (f : Opnd) (ctx : BitVec 2)
  | gath (n : Nib) (f : Opnd)
  | strsub (n : Nib) (f : Opnd)
  | strdrop (n : Nib) (f : Opnd)
  | coll (n : Nib) (f : Opnd)
  | launch (n : Nib) (f : Opnd)
  | gang (n : Nib) (f : Opnd)
  | spawn (n : Nib) (f : Opnd)
  | jdec (n : Nib) (a b : Opnd)
  | cancel (n : Nib) (f : Opnd)
  | phend (n : Nib) (f : Opnd)
  | svc (n : Nib) (imm : BitVec 14)
  | trap (n : Nib) (imm : BitVec 14)
  | eret (n : Nib)
  | cropen (n : Nib) (off : BitVec 32)
  | crclose (n : Nib)
  | snap (n : Nib) (f : Opnd)
  | snapld (n : Nib) (f : Opnd)
  | tlbinvRange (n : Nib) (a b : Opnd)
  | tlbinvJob (n : Nib) (a : Opnd)
  | tlbinvAll (n : Nib)
  -- steps without a word, continued (07, 04, 11, 01)
  | storePerformed (slot : Nat) (q : Seq)
  | softError (t : UpsetTarget)
  -- rows without operands of their own: a flit at the head of the receive queue (02)
  | wr
  | wrack
  | rd
  | rdresp
  | atom
  | atomresp
  | relw
  | filln
  | freen
  | smax
  | smaxres
  | gres
  | gresack
  | gstart
  | gstartack
  | gcancel
  | cwr
  | hbeat
  -- a host access at the head of the host ports' queue (03, 04)
  | srqWrite
  | sevqWrite
  | registerWrite
  | hostMemRead
  | hostMemWrite
  | hostSnoop
  -- a request at the head of the supervisor's requests (03)
  | createJob
  | killJob
  | createQueue
  | destroyQueue
  | checkpoint
  | restore
  | attest
  | fwStage
  | fenceDie
  -- pins, periodic steps and the VOTE prefix (01, 02, 03, 04, 14)
  | freeze
  | thermalStep
  | masterElection
  | deviceHeartbeat
  | warmReset
  | counterHalving
  | checkpointTargetStall
  | freezeRelease
  | resetNAssertion
  | pwrgoodFall
  | vote
  deriving DecidableEq, Repr

end Sys2Proof
end

