-- ==== Sys2Proof/WellFormed.lean ====
section
/-! DEFINITION. Which instructions are well formed: the checks of 12 R305 step 4 that the operand types of
Syntax.lean do not already make, and which rows are words of a sequencer. -/

namespace Sys2Proof

/-- q1 and q2 hold vectors, the other queues scalars (07 R176). -/
def vectorQueue (k : BitVec 3) : Bool := k == 1 || k == 2

/-- The formats VTYPE.FMT can hold: 0-5 and 8-12 (16 R389, R390). -/
def vtypeFmt (f : BitVec 4) : Bool := f.ult 6 || (!f.ult 8 && f.ult 13)

/-- The width of a format's elements in bits (09 R231, 16 R388). -/
def fmtWidth : Fmt → Nat
  | .fp32 | .int32 => 32
  | .bf16 | .fp16 | .int16 => 16
  | .fp64 | .int64 => 64
  | .e2m1 | .tq4 => 4
  | .e4m3 | .e5m2 | .int8 | .uint8 | .e8m0 | .tensor => 8

/-- FP32, BF16, FP16, FP64. -/
def fmtWide : Fmt → Bool
  | .fp32 | .bf16 | .fp16 | .fp64 => true
  | _ => false
/-- An integer format. -/
def fmtInt : Fmt → Bool
  | .int8 | .uint8 | .int16 | .int32 | .int64 => true
  | _ => false
/-- A block format. -/
def fmtBlock : Fmt → Bool
  | .e2m1 | .tq4 => true
  | _ => false
/-- The formats VQUANT makes and VDEQ takes: codes 4-10 (16 R405, R406). -/
def fmtQuant : Fmt → Bool
  | .e4m3 | .e5m2 | .e2m1 | .tq4 | .int8 | .uint8 | .int16 => true
  | _ => false

/-- HI and RTZ of a conversion word (16 R403): HI only between different widths, RTZ only from a float or E8M0 source
to an integer. -/
def cvtFlagsOk (d s : Fmt) (rtz hi : Bool) : Bool :=
  (!hi || fmtWidth d != fmtWidth s) && (!rtz || (fmtInt d && !fmtInt s))
/-- VCVT's formats (16 R404). -/
def vcvtOk (d s : Fmt) (rtz hi : Bool) : Bool :=
  !fmtBlock d && !fmtBlock s && d != .tensor && s != .tensor && cvtFlagsOk d s rtz hi
/-- VQUANT's formats (16 R405). -/
def vquantOk (d s : Fmt) (rtz hi : Bool) : Bool :=
  fmtWide s && fmtQuant d && cvtFlagsOk d s rtz hi && !(fmtBlock d && hi)
/-- VDEQ's formats (16 R406). -/
def vdeqOk (d s : Fmt) (rtz hi : Bool) : Bool :=
  fmtWide d && fmtQuant s && !rtz && (!hi || fmtWidth d != fmtWidth s) && !(fmtBlock s && hi)

/-- The value checks of R305 step 4 left to a predicate: a TSIG or TWAIT count of 1-15 (14 R357), a VTOPK k of
1-31, a zero b field on VABS abs and neg, a VSETT format that VTYPE can hold, the formats and flags of a conversion word,
and a queue of a kind the word can use.
QPUT, QGET and QPEEK may name either kind on C only: `queueKindOk` checks that beside the sequencer. -/
def Instr.wellFormed : Instr → Bool
  | .tsig _ c _ => c != 0
  | .twait _ c _ => c != 0
  | .vtopk _ _ k => k != 0
  | .vabs _ .abs _ _ b => b == .belt 0
  | .vabs _ .neg _ _ b => b == .belt 0
  | .vsett _ f => vtypeFmt f
  | .vcvt _ _ d s z h => vcvtOk d s z h
  | .vquant _ _ d s z h => vquantOk d s z h
  | .vdeq _ _ d s z h => vdeqOk d s z h
  | .ldq _ k _ _ => !vectorQueue k
  | .ldvq _ k _ _ => vectorQueue k
  | .stvq _ k _ _ => vectorQueue k
  | _ => true

/-- The event rows of the table: steps of the part that no word of a sequencer encodes (spec/95). -/
def Instr.isEvent : Instr → Bool
  | .start _ | .freeze | .scanReadout _ | .unlockToken _ _ | .powerSample _ | .powerLimit _
  | .thermalSample _ _ | .thermalStep | .dieFenced _ | .masterElection | .distributorHeartbeat _
  | .wr | .wrack | .rd | .rdresp | .atom | .atomresp | .relw | .filln | .freen
  | .smax | .smaxres | .gres | .gresack | .gstart | .gstartack | .gcancel | .cwr
  | .hbeat | .invalidFlit _ _ | .linkRetry _ | .portDown _ | .deviceHeartbeat | .deviceLost _
  | .relFabricTimeout _ _ | .collectiveTimeout _ | .shardComplete _ _ | .collectiveComplete _
  | .gangTimeout _ | .gangReservationExpiry _ | .createJob | .killJob | .killDone _
  | .hostCompletionTimeout _ | .createQueue | .destroyQueue | .checkpoint | .ckptDone _
  | .checkpointTargetStall | .restore | .attest | .fwStage | .warmReset | .fenceDie
  | .queueSlotAccept _ _ | .queueStall _ _ | .issuePacket _ _ _ _ _ | .collRequest _ _ _ _
  | .srqWrite | .sevqWrite | .registerWrite | .pageWalk _ _ _ | .walkRestart _ _ _
  | .engineFault _ _ | .engineFaultResume _ _ | .engineFaultAbort _ _ | .biasFlipToHost _
  | .biasFlipToDevice _ | .biasFlipComplete _ | .hostMemRead | .hostMemWrite
  | .counterHalving | .migrate _ _ _ | .taskEnd _ | .recordAging _ _ _ | .gangReservationTimeout _
  | .preemptionDelay _ | .barrierForward _ _ _ | .instanceGrant _ | .escapementSample _
  | .balanceDecision _ | .commandPull _ _ | .decoupleDeadlock _ _ | .loadDelivery _ _ _
  | .regionDrainComplete _ | .copyPacketComplete _ _ | .matrixCommandComplete _ | .gatherComplete _
  | .streamTile _ | .streamComplete _ | .fpReduceContribution _ | .fpReduceTimeout _
  | .eccCounterRead _ | .storePerformed _ _ | .hostSnoop | .softError _ | .freezeRelease
  | .resetNAssertion | .pwrgoodFall => true
  | _ => false

/-- The rows that a sequencer fetches and issues. -/
def Instr.isWord (i : Instr) : Bool := !i.isEvent

/-- A long instruction takes two words (12 R300). -/
def Instr.isLong : Instr → Bool
  | .seg _ _ _ | .liw _ _ _ | .lihi _ _ _ _ | .stt _ _ _ _ | .cropen _ _ => true
  | _ => false

/-- The length of a word in bytes, 4 or 8 (12 R300). -/
def Instr.len (i : Instr) : Nat := if i.isLong then 8 else 4

end Sys2Proof
end

