-- ==== Sys2Proof/Decode.lean ====
section
/-! DEFINITION. The decoder, total on any words, rejecting by name, and after it the encoder: both written from
the payload formats and the opcode map of 12 R300-R307. -/

namespace Sys2Proof

/-- Why a word does not decode. `unassigned` is R305 step 1, the others are step 4; all of them trap ILLEGAL. -/
inductive DecodeErr where
  | unassigned | reservedBits | undefinedMod | badFormat | badRange | beltAge | queueKind | nibble
  deriving DecidableEq, Repr

/-- What decoding answers. -/
abbrev Dec := Except DecodeErr Instr

/-- A source field (12 R302). -/
def src (f : BitVec 6) : Opnd :=
  if f.extractLsb' 5 1 = 1#1 then .main (f.extractLsb' 0 5)
  else if f.extractLsb' 4 1 = 1#1 then .short (f.extractLsb' 0 4) else .belt (f.extractLsb' 0 4)

/-- A destination field (07 R180): belt ages other than 0 do not decode. -/
def dest? (f : BitVec 6) : Option Dest :=
  match src f with
  | .belt a => if a = 0 then some .push else none
  | .short n => some (.short n)
  | .main m => some (.main m)

/-- The six bits of a source field. -/
def Opnd.bits : Opnd → BitVec 6
  | .belt a => 0#2 ++ a
  | .short n => 1#2 ++ n
  | .main m => 1#1 ++ m
/-- The six bits of a destination field. -/
def Dest.bits : Dest → BitVec 6
  | .push => 0
  | .short n => 1#2 ++ n
  | .main m => 1#1 ++ m

/-- The nibble of bits [31:28] (12 R300). -/
def Nib.ofBits (b : BitVec 4) : Nib := ⟨b.getLsbD 3, b.getLsbD 2, b.getLsbD 1, b.getLsbD 0⟩
/-- The bits of a nibble. -/
def Nib.bits (n : Nib) : BitVec 4 := BitVec.ofBool n.wp ++ BitVec.ofBool n.wn ++ BitVec.ofBool n.sp ++ BitVec.ofBool n.sn

/- Mod values, each in the order of the opcode map (12 R307, R313); a value not listed is undefined. -/
/-- The code of a MulhMod. -/
def MulhMod.bits : MulhMod → BitVec 2
  | .ss => 0 | .uu => 1 | .su => 2
/-- The MulhMod of a code. -/
def MulhMod.ofBits (b : BitVec 2) : Option MulhMod :=
  match b.toNat with
  | 0 => some .ss | 1 => some .uu | 2 => some .su | _ => none
/-- The code of a Sgn. -/
def Sgn.bits : Sgn → BitVec 2
  | .s => 0 | .u => 1
/-- The Sgn of a code. -/
def Sgn.ofBits (b : BitVec 2) : Option Sgn :=
  match b.toNat with
  | 0 => some .s | 1 => some .u | _ => none
/-- The code of a XWidth. -/
def XWidth.bits : XWidth → BitVec 2
  | .w8 => 0 | .w16 => 1 | .w32 => 2
/-- The XWidth of a code. -/
def XWidth.ofBits (b : BitVec 2) : Option XWidth :=
  match b.toNat with
  | 0 => some .w8 | 1 => some .w16 | 2 => some .w32 | _ => none
/-- The code of a Cond. -/
def Cond.bits : Cond → BitVec 2
  | .eq => 0 | .lt => 1 | .ltu => 2 | .ne => 3
/-- The Cond of a code. -/
def Cond.ofBits (b : BitVec 2) : Option Cond :=
  match b.toNat with
  | 0 => some .eq | 1 => some .lt | 2 => some .ltu | 3 => some .ne | _ => none
/-- The code of a MemOrd. -/
def MemOrd.bits : MemOrd → BitVec 2
  | .rlx => 0 | .acq => 1 | .rel => 2 | .acqrel => 3
/-- The MemOrd of a code. -/
def MemOrd.ofBits (b : BitVec 2) : Option MemOrd :=
  match b.toNat with
  | 0 => some .rlx | 1 => some .acq | 2 => some .rel | 3 => some .acqrel | _ => none
/-- The code of a FmaMod. -/
def FmaMod.bits : FmaMod → BitVec 2
  | .fma => 0 | .fms => 1 | .fnma => 2 | .fnms => 3
/-- The FmaMod of a code. -/
def FmaMod.ofBits (b : BitVec 2) : Option FmaMod :=
  match b.toNat with
  | 0 => some .fma | 1 => some .fms | 2 => some .fnma | 3 => some .fnms | _ => none
/-- The code of a AbsMod. -/
def AbsMod.bits : AbsMod → BitVec 2
  | .abs => 0 | .neg => 1 | .csgn => 2
/-- The AbsMod of a code. -/
def AbsMod.ofBits (b : BitVec 2) : Option AbsMod :=
  match b.toNat with
  | 0 => some .abs | 1 => some .neg | 2 => some .csgn | _ => none
/-- The code of a VCond. -/
def VCond.bits : VCond → BitVec 2
  | .eq => 0 | .lt => 1 | .le => 2 | .ne => 3
/-- The VCond of a code. -/
def VCond.ofBits (b : BitVec 2) : Option VCond :=
  match b.toNat with
  | 0 => some .eq | 1 => some .lt | 2 => some .le | 3 => some .ne | _ => none
/-- The code of a SatMod. -/
def SatMod.bits : SatMod → BitVec 2
  | .wrap => 0 | .ss => 1 | .us => 2
/-- The SatMod of a code. -/
def SatMod.ofBits (b : BitVec 2) : Option SatMod :=
  match b.toNat with
  | 0 => some .wrap | 1 => some .ss | 2 => some .us | _ => none
/-- The code of a LogicOp. -/
def LogicOp.bits : LogicOp → BitVec 2
  | .and => 0 | .or => 1 | .xor => 2 | .andn => 3
/-- The LogicOp of a code. -/
def LogicOp.ofBits (b : BitVec 2) : Option LogicOp :=
  match b.toNat with
  | 0 => some .and | 1 => some .or | 2 => some .xor | 3 => some .andn | _ => none
/-- The code of a ShiftOp. -/
def ShiftOp.bits : ShiftOp → BitVec 2
  | .shl => 0 | .shr => 1 | .sra => 2 | .rot => 3
/-- The ShiftOp of a code. -/
def ShiftOp.ofBits (b : BitVec 2) : Option ShiftOp :=
  match b.toNat with
  | 0 => some .shl | 1 => some .shr | 2 => some .sra | 3 => some .rot | _ => none
/-- The code of a MinMaxOp. -/
def MinMaxOp.bits : MinMaxOp → BitVec 2
  | .mins => 0 | .maxs => 1 | .minu => 2 | .maxu => 3
/-- The MinMaxOp of a code. -/
def MinMaxOp.ofBits (b : BitVec 2) : Option MinMaxOp :=
  match b.toNat with
  | 0 => some .mins | 1 => some .maxs | 2 => some .minu | 3 => some .maxu | _ => none
/-- The code of a RedmOp. -/
def RedmOp.bits : RedmOp → BitVec 2
  | .max => 0 | .min => 1 | .amax => 2 | .amin => 3
/-- The RedmOp of a code. -/
def RedmOp.ofBits (b : BitVec 2) : Option RedmOp :=
  match b.toNat with
  | 0 => some .max | 1 => some .min | 2 => some .amax | 3 => some .amin | _ => none
/-- The code of a ESize. -/
def ESize.bits : ESize → BitVec 2
  | .b => 0 | .h => 1 | .w => 2 | .d => 3
/-- The ESize of a code. -/
def ESize.ofBits (b : BitVec 2) : Option ESize :=
  match b.toNat with
  | 0 => some .b | 1 => some .h | 2 => some .w | 3 => some .d | _ => none
/-- The code of a PackT. -/
def PackT.bits : PackT → BitVec 2
  | .h => 0 | .b => 1 | .n => 2
/-- The PackT of a code. -/
def PackT.ofBits (b : BitVec 2) : Option PackT :=
  match b.toNat with
  | 0 => some .h | 1 => some .b | 2 => some .n | _ => none
/-- RBIND roles: 1 producer, 2 consumer (12 R307). -/
def Role.bits : Role → BitVec 2
  | .producer => 1 | .consumer => 2
/-- The role of a code. -/
def Role.ofBits (b : BitVec 2) : Option Role :=
  match b.toNat with
  | 1 => some .producer | 2 => some .consumer | _ => none
/-- Conversion format codes (09 R231). -/
def Fmt.bits : Fmt → BitVec 4
  | .fp32 => 0 | .bf16 => 1 | .fp16 => 2 | .fp64 => 3 | .e4m3 => 4 | .e5m2 => 5 | .e2m1 => 6 | .tq4 => 7
  | .int8 => 8 | .uint8 => 9 | .int16 => 10 | .int32 => 11 | .int64 => 12 | .e8m0 => 13 | .tensor => 14
/-- The format of a code, none for 15 (09 R231). -/
def Fmt.ofBits (b : BitVec 4) : Option Fmt :=
  match b.toNat with
  | 0 => some .fp32 | 1 => some .bf16 | 2 => some .fp16 | 3 => some .fp64 | 4 => some .e4m3 | 5 => some .e5m2
  | 6 => some .e2m1 | 7 => some .tq4 | 8 => some .int8 | 9 => some .uint8 | 10 => some .int16 | 11 => some .int32
  | 12 => some .int64 | 13 => some .e8m0 | 14 => some .tensor | _ => none
/-- RED operation codes (12 R307). -/
def RedOp.bits : RedOp → BitVec 6
  | .add => 0 | .min => 1 | .max => 2 | .minu => 3 | .maxu => 4 | .and => 5 | .or => 6 | .xor => 7
/-- The RED operation of a code; other values are undefined. -/
def RedOp.ofBits (b : BitVec 6) : Option RedOp :=
  match b.toNat with
  | 0 => some .add | 1 => some .min | 2 => some .max | 3 => some .minu | 4 => some .maxu | 5 => some .and
  | 6 => some .or | 7 => some .xor | _ => none
/-- Path codes (08 R218). -/
def Path.bits : Path → BitVec 3
  | .core => 0 | .copy => 1 | .matrix => 2 | .gather => 3 | .coll => 4
/-- The path of a code 0-4. -/
def Path.ofBits (b : BitVec 3) : Option Path :=
  match b.toNat with
  | 0 => some .core | 1 => some .copy | 2 => some .matrix | 3 => some .gather | 4 => some .coll | _ => none
/-- The opcode of a word (12 R300). -/
def opcodeOf (w : IWord) : Nat := (w.extractLsb' 20 8).toNat
/-- The payload of a word (12 R300). -/
def payloadOf (w : IWord) : BitVec 20 := w.extractLsb' 0 20
/-- Field [19:14]. -/
def fa (p : BitVec 20) : BitVec 6 := p.extractLsb' 14 6
/-- Field [13:8]. -/
def fb (p : BitVec 20) : BitVec 6 := p.extractLsb' 8 6
/-- Field [7:2]. -/
def fd (p : BitVec 20) : BitVec 6 := p.extractLsb' 2 6
/-- Field [1:0]. -/
def fm (p : BitVec 20) : BitVec 2 := p.extractLsb' 0 2
/-- Field [13:0]. -/
def fi (p : BitVec 20) : BitVec 14 := p.extractLsb' 0 14
/-- Field [7:0]. -/
def fo (p : BitVec 20) : BitVec 8 := p.extractLsb' 0 8
/-- Field [13:11] of format Q. -/
def fq (p : BitVec 20) : BitVec 3 := p.extractLsb' 11 3

/-- Reserved bits must be zero (R305 step 4). -/
def rZero (ok : Bool) (i : Instr) : Dec := if ok then .ok i else .error .reservedBits
/-- A destination field, then the rest. -/
def rDest (f : BitVec 6) (k : Dest → Dec) : Dec :=
  match dest? f with
  | some d => k d
  | none => .error .beltAge
/-- A mod or subfield value read by a table. -/
def rMod {α : Type} (o : Option α) (k : α → Dec) : Dec :=
  match o with
  | some m => k m
  | none => .error .undefinedMod
/-- Format Z. -/
def rZ (p : BitVec 20) (i : Instr) : Dec := rZero (p == 0) i
/-- Format A2 with mod 0. -/
def rA2 (p : BitVec 20) (k : Dest → Opnd → Opnd → Instr) : Dec :=
  if fm p = 0 then rDest (fd p) fun d => .ok (k d (src (fa p)) (src (fb p))) else .error .undefinedMod
/-- Format A2 with a mod table. -/
def rA2m {α : Type} (tbl : BitVec 2 → Option α) (p : BitVec 20) (k : α → Dest → Opnd → Opnd → Instr) : Dec :=
  rMod (tbl (fm p)) fun m => rDest (fd p) fun d => .ok (k m d (src (fa p)) (src (fb p)))
/-- Format A2 with b zero and mod 0. -/
def rA2u (p : BitVec 20) (k : Dest → Opnd → Instr) : Dec :=
  if fm p = 0 then rDest (fd p) fun d => rZero (fb p == 0) (k d (src (fa p))) else .error .undefinedMod
/-- Format A2 with b zero and a mod table. -/
def rA2um {α : Type} (tbl : BitVec 2 → Option α) (p : BitVec 20) (k : α → Dest → Opnd → Instr) : Dec :=
  rMod (tbl (fm p)) fun m => rDest (fd p) fun d => rZero (fb p == 0) (k m d (src (fa p)))
/-- Format A2 with d zero and mod 0. -/
def rNoD (p : BitVec 20) (k : Opnd → Opnd → Instr) : Dec :=
  if fm p = 0 then rZero (fd p == 0) (k (src (fa p)) (src (fb p))) else .error .undefinedMod
/-- Format A3 with mod 0. -/
def rA3 (p : BitVec 20) (k : Opnd → Opnd → Opnd → Instr) : Dec :=
  if fm p = 0 then .ok (k (src (fa p)) (src (fb p)) (src (fd p))) else .error .undefinedMod
/-- Format A3 with a mod table. -/
def rA3m {α : Type} (tbl : BitVec 2 → Option α) (p : BitVec 20) (k : α → Opnd → Opnd → Opnd → Instr) : Dec :=
  rMod (tbl (fm p)) fun m => .ok (k m (src (fa p)) (src (fb p)) (src (fd p)))
/-- Format B2: fields a, b, off8. -/
def rB2 (p : BitVec 20) (k : Opnd → Opnd → BitVec 8 → Instr) : Dec := .ok (k (src (fa p)) (src (fb p)) (fo p))
/-- Format B2 whose b field is the destination (12 R307, class 0x60). -/
def rB2d (p : BitVec 20) (k : Dest → Opnd → BitVec 8 → Instr) : Dec :=
  rDest (fb p) fun d => .ok (k d (src (fa p)) (fo p))
/-- Format AI: f and imm14. -/
def rAI (p : BitVec 20) (k : Opnd → BitVec 14 → Dec) : Dec := k (src (fa p)) (fi p)
/-- Format AI whose f is a destination. -/
def rAId (p : BitVec 20) (k : Dest → BitVec 14 → Instr) : Dec := rDest (fa p) fun d => .ok (k d (fi p))
/-- Format AI with an unsigned shift in imm14[5:0] (14 R351). -/
def rAIsh (p : BitVec 20) (k : Opnd → BitVec 6 → Instr) : Dec :=
  rZero (p.extractLsb' 6 8 == 0) (k (src (fa p)) (p.extractLsb' 0 6))
/-- STAGE: nibble and f zero, imm14 0-7. -/
def rStage (n : Nib) (p : BitVec 20) : Dec :=
  if n = .none then
    if p.extractLsb' 14 6 = 0 then
      if p.extractLsb' 3 11 = 0 then .ok (.stage (p.extractLsb' 0 3)) else .error .badRange
    else .error .reservedBits
  else .error .nibble
/-- VOTE: nibble and payload zero. -/
def rVote (n : Nib) (p : BitVec 20) : Dec := if n = .none then rZ p .vote else .error .nibble
/-- LEA: the mod is the shift. -/
def rLea (n : Nib) (p : BitVec 20) : Dec := rDest (fd p) fun d => .ok (.lea n (fm p) d (src (fa p)) (src (fb p)))
/-- LIW: [19:14] d, [13:0] zero, then the extension word. -/
def rLiw (n : Nib) (p : BitVec 20) (x : IWord) : Dec := rDest (fa p) fun d => rZero (fi p == 0) (.liw n d x)
/-- LIHI: [19:14] a, [13:8] d, [7:0] zero. -/
def rLihi (n : Nib) (p : BitVec 20) (x : IWord) : Dec :=
  rDest (fb p) fun d => rZero (fo p == 0) (.lihi n d (src (fa p)) x)
/-- Format AIc: a, [13:12] cond, [11:0] imm12. -/
def rCmpi (n : Nib) (p : BitVec 20) : Dec :=
  rMod (Cond.ofBits (p.extractLsb' 12 2)) fun m => .ok (.cmpi n m (src (fa p)) (p.extractLsb' 0 12))
/-- QPUT: off8 and [2:0] zero. -/
def rQput (n : Nib) (p : BitVec 20) : Dec := rZero (p.extractLsb' 0 11 == 0) (.qput n (fq p) (src (fa p)))
/-- QGET, QPEEK, QCNT: f a destination. -/
def rQd (p : BitVec 20) (k : Dest → BitVec 3 → Instr) : Dec :=
  rDest (fa p) fun d => rZero (p.extractLsb' 0 11 == 0) (k d (fq p))
/-- LDQ, LDVQ, STVQ: f base, [10:3] off8; the queue is of the kind the word can use. -/
def rQm (p : BitVec 20) (k : BitVec 3 → Opnd → BitVec 8 → Instr) : Dec :=
  let i := k (fq p) (src (fa p)) (p.extractLsb' 3 8)
  if p.extractLsb' 0 3 = 0 then (if i.wellFormed then .ok i else .error .queueKind) else .error .reservedBits
/-- RDSR. -/
def rRdsr (n : Nib) (p : BitVec 20) : Dec :=
  rDest (fa p) fun d => rZero (fm p == 0) (.rdsr n d (p.extractLsb' 2 12))
/-- WRSR. -/
def rWrsr (n : Nib) (p : BitVec 20) : Dec := rZero (fm p == 0) (.wrsr n (p.extractLsb' 2 12) (src (fa p)))
/-- TSIG, TWAIT: [3:0] count 1-15, [4] direction, the rest zero. -/
def rTok (p : BitVec 20) (k : BitVec 4 → Bool → Instr) : Dec :=
  if p.extractLsb' 5 15 = 0 then
    if p.extractLsb' 0 4 = 0 then .error .badRange else .ok (k (p.extractLsb' 0 4) (p.getLsbD 4))
  else .error .reservedBits
/-- STT: first word a, b, [7:0] zero; extension [3:0] format 0-3, the rest zero. -/
def rStt (n : Nib) (p : BitVec 20) (x : IWord) : Dec :=
  if fo p = 0 ∧ x.extractLsb' 4 28 = 0 then
    if x.extractLsb' 2 2 = 0 then .ok (.stt n (src (fa p)) (src (fb p)) (x.extractLsb' 0 2)) else .error .badRange
  else .error .reservedBits
/-- PREF: b zero. -/
def rPref (n : Nib) (p : BitVec 20) : Dec := rZero (fb p == 0) (.pref n (src (fa p)) (fo p))
/-- RED: the d field is the operation, mod the ordering. -/
def rRed (n : Nib) (p : BitVec 20) : Dec :=
  rMod (RedOp.ofBits (fd p)) fun op => rMod (MemOrd.ofBits (fm p)) fun o =>
    .ok (.red n op o (src (fa p)) (src (fb p)))
/-- XFENCE: f zero, [2:0] from path, [5:3] to path, the rest zero. -/
def rXfence (n : Nib) (p : BitVec 20) : Dec :=
  if p.extractLsb' 6 14 = 0 then
    rMod (Path.ofBits (p.extractLsb' 0 3)) fun s => rMod (Path.ofBits (p.extractLsb' 3 3)) fun d => .ok (.xfence n s d)
  else .error .reservedBits
/-- Format G with role zero. -/
def rG (p : BitVec 20) (k : BitVec 5 → Opnd → Instr) : Dec :=
  rZero (p.extractLsb' 0 9 == 0) (k (p.extractLsb' 9 5) (src (fa p)))
/-- RSTAT. -/
def rRstat (n : Nib) (p : BitVec 20) : Dec :=
  rDest (fa p) fun d => rZero (p.extractLsb' 0 9 == 0) (.rstat n d (p.extractLsb' 9 5))
/-- RBIND: role 1 producer, 2 consumer. -/
def rRbind (n : Nib) (p : BitVec 20) : Dec :=
  if p.extractLsb' 0 7 = 0 then
    rMod (Role.ofBits (p.extractLsb' 7 2)) fun r => .ok (.rbind n (p.extractLsb' 9 5) (src (fa p)) r)
  else .error .reservedBits
/-- BARARR, BARSYNC: f zero, [3:0] the barrier, the rest zero. -/
def rBar (p : BitVec 20) (k : BitVec 4 → Instr) : Dec := rZero (p.extractLsb' 4 16 == 0) (k (p.extractLsb' 0 4))
/-- BARWAIT. -/
def rBarwait (n : Nib) (p : BitVec 20) : Dec :=
  rZero (p.extractLsb' 4 10 == 0) (.barwait n (src (fa p)) (p.extractLsb' 0 4))
/-- WPWAIT, COPY, COPYM: [1:0] the context, the rest of imm14 zero. -/
def rCtx (p : BitVec 20) (k : Opnd → BitVec 2 → Instr) : Dec :=
  rZero (p.extractLsb' 2 12 == 0) (k (src (fa p)) (fm p))
/-- VABS: b zero for abs and neg. -/
def rVabs (n : Nib) (p : BitVec 20) : Dec :=
  rMod (AbsMod.ofBits (fm p)) fun m => rDest (fd p) fun d =>
    let i := Instr.vabs n m d (src (fa p)) (src (fb p))
    rZero i.wellFormed i
/-- VSETT: f zero, [3:0] the format code, the rest zero. -/
def rVsett (n : Nib) (p : BitVec 20) : Dec :=
  if p.extractLsb' 4 16 = 0 then
    (if vtypeFmt (p.extractLsb' 0 4) then .ok (.vsett n (p.extractLsb' 0 4)) else .error .badFormat)
  else .error .reservedBits
/-- Format C: a, [13:10] destination code, [9:6] source code, [5] RTZ, [4] HI, [3:0] zero. -/
def rC (p : BitVec 20) (k : Opnd → Fmt → Fmt → Bool → Bool → Instr) : Dec :=
  match Fmt.ofBits (p.extractLsb' 10 4), Fmt.ofBits (p.extractLsb' 6 4) with
  | some d, some s =>
    let i := k (src (fa p)) d s (p.getLsbD 5) (p.getLsbD 4)
    if p.extractLsb' 0 4 = 0 then (if i.wellFormed then .ok i else .error .badFormat) else .error .reservedBits
  | _, _ => .error .badFormat
/-- VTOPK: [4:0] k of 1-31, the rest zero. -/
def rVtopk (n : Nib) (p : BitVec 20) : Dec :=
  if p.extractLsb' 5 9 = 0 then
    (if p.extractLsb' 0 5 = 0 then .error .badRange else .ok (.vtopk n (src (fa p)) (p.extractLsb' 0 5)))
  else .error .reservedBits
/-- MZERO: f zero, [0] bank, [1] clear MSTAT, the rest zero. -/
def rMzero (n : Nib) (p : BitVec 20) : Dec := rZero (p.extractLsb' 2 18 == 0) (.mzero n (p.getLsbD 0) (p.getLsbD 1))
/-- MSTATR: f destination, [0] bank, the rest zero. -/
def rMstatr (n : Nib) (p : BitVec 20) : Dec :=
  rDest (fa p) fun d => rZero (p.extractLsb' 1 13 == 0) (.mstatr n d (p.getLsbD 0))
/-- SVC, TRAP: f zero, imm14 unsigned. -/
def rImm (p : BitVec 20) (k : BitVec 14 → Instr) : Dec := rZero (fa p == 0) (k (fi p))
/-- CROPEN: payload zero, then the extension word. -/
def rCropen (n : Nib) (p : BitVec 20) (x : IWord) : Dec := rZ p (.cropen n x)
/-- TLBINV: mod 0 range a, b; 1 job a with b zero; 2 all with a and b zero; d zero. -/
def rTlbinv (n : Nib) (p : BitVec 20) : Dec :=
  if fd p = 0 then
    match (fm p).toNat with
    | 0 => .ok (.tlbinvRange n (src (fa p)) (src (fb p)))
    | 1 => rZero (fb p == 0) (.tlbinvJob n (src (fa p)))
    | 2 => rZero (fa p == 0 && fb p == 0) (.tlbinvAll n)
    | _ => .error .undefinedMod
  else .error .reservedBits

/-- Class 0x00 of the opcode map (12 R307). -/
def decControl (n : Nib) (op : Nat) (p : BitVec 20) (x : IWord) : Dec :=
  match op with
  | 0x00 => rZ p (.nop n)
  | 0x01 => .ok (.br n (p.extractLsb' 0 20))
  | 0x02 => rB2 p (.beq n)
  | 0x03 => rB2 p (.bne n)
  | 0x04 => rB2 p (.blt n)
  | 0x05 => rB2 p (.bge n)
  | 0x06 => rB2 p (.bltu n)
  | 0x07 => rB2 p (.bgeu n)
  | 0x08 => rAI p fun f i => .ok (.bz n f i)
  | 0x09 => rAI p fun f i => .ok (.bnz n f i)
  | 0x0A => .ok (.call n (p.extractLsb' 0 20))
  | 0x0B => rAI p fun f i => .ok (.calli n f i)
  | 0x0C => rAI p fun f i => rZero (i == 0) (.ret n f)
  | 0x0D => rAI p fun f i => .ok (.jmpi n f i)
  | 0x0E => .ok (.loop n (p.extractLsb' 0 20))
  | 0x0F => rNoD p (.setlc n)
  | 0x10 => rStage n p
  | 0x11 => rZ p (.tend n)
  | 0x12 => rZ p (.yield n)
  | 0x13 => rVote n p
  | 0x14 => .ok (.seg n (p.extractLsb' 0 20) x)
  | 0x15 => rZ p (.segend n)
  | _ => .error .unassigned

/-- Class 0x20 of the opcode map (12 R307). -/
def decScalar (n : Nib) (op : Nat) (p : BitVec 20) (_ : IWord) : Dec :=
  match op with
  | 0x20 => rA2 p (.add n)
  | 0x21 => rA2 p (.sub n)
  | 0x22 => rA2 p (.mul n)
  | 0x23 => rA2m MulhMod.ofBits p (.mulh n)
  | 0x24 => rA2m Sgn.ofBits p (.div n)
  | 0x25 => rA2m Sgn.ofBits p (.rem n)
  | 0x26 => rA2 p (.and n)
  | 0x27 => rA2 p (.or n)
  | 0x28 => rA2 p (.xor n)
  | 0x29 => rA2 p (.andn n)
  | 0x2A => rA2 p (.shl n)
  | 0x2B => rA2 p (.shr n)
  | 0x2C => rA2 p (.sra n)
  | 0x2D => rA2 p (.rot n)
  | 0x2E => rA2m Sgn.ofBits p (.min n)
  | 0x2F => rA2m Sgn.ofBits p (.max n)
  | 0x30 => rA2u p (.clz n)
  | 0x31 => rA2u p (.ctz n)
  | 0x32 => rA2u p (.popc n)
  | 0x33 => rA2um XWidth.ofBits p (.sext n)
  | 0x34 => rA2um XWidth.ofBits p (.zext n)
  | 0x35 => rA2m Cond.ofBits p (.cmp n)
  | 0x36 => rA3 p (.sel n)
  | 0x37 => rLea n p
  | 0x38 => rA2u p (.mov n)
  | _ => .error .unassigned

/-- Class 0x40 of the opcode map (12 R307). -/
def decImm (n : Nib) (op : Nat) (p : BitVec 20) (x : IWord) : Dec :=
  match op with
  | 0x40 => rAId p (.li n)
  | 0x41 => rLiw n p x
  | 0x42 => rLihi n p x
  | 0x43 => rAI p fun f i => .ok (.addi n f i)
  | 0x44 => rAI p fun f i => .ok (.andi n f i)
  | 0x45 => rAI p fun f i => .ok (.ori n f i)
  | 0x46 => rAI p fun f i => .ok (.xori n f i)
  | 0x47 => rAIsh p (.shli n)
  | 0x48 => rAIsh p (.shri n)
  | 0x49 => rAIsh p (.srai n)
  | 0x4A => rCmpi n p
  | 0x4B => rQput n p
  | 0x4C => rQd p (.qget n)
  | 0x4D => rQd p (.qpeek n)
  | 0x4E => rQd p (.qcnt n)
  | 0x4F => rRdsr n p
  | 0x50 => rWrsr n p
  | 0x51 => rTok p (.tsig n)
  | 0x52 => rTok p (.twait n)
  | _ => .error .unassigned

/-- Class 0x60 of the opcode map (12 R307). -/
def decMem (n : Nib) (op : Nat) (p : BitVec 20) (x : IWord) : Dec :=
  match op with
  | 0x60 => rB2d p (.ldb n)
  | 0x61 => rB2d p (.ldh n)
  | 0x62 => rB2d p (.ldw n)
  | 0x63 => rB2d p (.ldd n)
  | 0x64 => rB2d p (.ldc n)
  | 0x65 => rQm p (.ldq n)
  | 0x66 => rQm p (.ldvq n)
  | 0x67 => rB2 p fun a b o => .stb n b a o
  | 0x68 => rB2 p fun a b o => .sth n b a o
  | 0x69 => rB2 p fun a b o => .stw n b a o
  | 0x6A => rB2 p fun a b o => .std n b a o
  | 0x6B => rQm p (.stvq n)
  | 0x6C => rStt n p x
  | 0x6D => rPref n p
  | 0x6E => rA2m MemOrd.ofBits p (.aadd n)
  | 0x6F => rA2m MemOrd.ofBits p (.amin n)
  | 0x70 => rA2m MemOrd.ofBits p (.amax n)
  | 0x71 => rA2m MemOrd.ofBits p (.aminu n)
  | 0x72 => rA2m MemOrd.ofBits p (.amaxu n)
  | 0x73 => rA2m MemOrd.ofBits p (.aand n)
  | 0x74 => rA2m MemOrd.ofBits p (.aor n)
  | 0x75 => rA2m MemOrd.ofBits p (.axor n)
  | 0x76 => rA2m MemOrd.ofBits p (.aswap n)
  | 0x77 => rA3m MemOrd.ofBits p (.cas n)
  | 0x78 => rA3m MemOrd.ofBits p (.casw n)
  | 0x79 => rRed n p
  | _ => .error .unassigned

/-- Class 0x80 of the opcode map (12 R307). -/
def decSync (n : Nib) (op : Nat) (p : BitVec 20) (_ : IWord) : Dec :=
  match op with
  | 0x80 => rA2u p (.acq n)
  | 0x81 => rNoD p (.rel n)
  | 0x82 => rA3 p (.bind n)
  | 0x83 => rNoD p (.unbind n)
  | 0x84 => rZ p (.fence n)
  | 0x85 => rXfence n p
  | 0x86 => rNoD p (.cflush n)
  | 0x87 => rNoD p (.cinv n)
  | 0x88 => rG p (.rclaim n)
  | 0x89 => rG p (.rfill n)
  | 0x8A => rG p (.rwaitf n)
  | 0x8B => rG p (.rtake n)
  | 0x8C => rG p (.rfree n)
  | 0x8D => rG p (.rwaite n)
  | 0x8E => rRstat n p
  | 0x8F => rRbind n p
  | 0x90 => rA3 p (.fwait n)
  | 0x91 => rNoD p (.ffill n)
  | 0x92 => rA2u p (.ftest n)
  | 0x93 => rBar p (.bararr n)
  | 0x94 => rBarwait n p
  | 0x95 => rBar p (.barsync n)
  | 0x96 => rCtx p (.wpwait n)
  | _ => .error .unassigned

/-- Class 0xA0 of the opcode map (12 R307). -/
def decVec (n : Nib) (op : Nat) (p : BitVec 20) (_ : IWord) : Dec :=
  match op with
  | 0xA0 => rA2 p (.vadd n)
  | 0xA1 => rA2 p (.vsub n)
  | 0xA2 => rA2 p (.vmul n)
  | 0xA3 => rA3m FmaMod.ofBits p (.vfma n)
  | 0xA4 => rA2 p (.vmin n)
  | 0xA5 => rA2 p (.vmax n)
  | 0xA6 => rVabs n p
  | 0xA7 => rA2 p (.vdiv n)
  | 0xA8 => rA2u p (.vsqrt n)
  | 0xA9 => rA2u p (.vrcp n)
  | 0xAA => rA2u p (.vrsq n)
  | 0xAB => rA2u p (.vexp2 n)
  | 0xAC => rA2u p (.vlog2 n)
  | 0xAD => rA2m VCond.ofBits p (.vcmp n)
  | 0xAE => rA3 p (.vsel n)
  | 0xAF => rA2m SatMod.ofBits p (.viadd n)
  | 0xB0 => rA2m SatMod.ofBits p (.visub n)
  | 0xB1 => rA2m SatMod.ofBits p (.vimul n)
  | 0xB2 => rA2m LogicOp.ofBits p (.vlogic n)
  | 0xB3 => rA2m ShiftOp.ofBits p (.vshift n)
  | 0xB4 => rA2m MinMaxOp.ofBits p (.viminmax n)
  | 0xB5 => rVsett n p
  | 0xB6 => rA2u p (.vbcast n)
  | 0xB7 => rA2 p (.vextr n)
  | 0xB8 => rA3 p (.vins n)
  | 0xB9 => rA2 p (.vperm n)
  | 0xBA => rAId p (.viota n)
  | 0xBB => rA2u p (.vreds n)
  | 0xBC => rA2um RedmOp.ofBits p (.vredm n)
  | _ => .error .unassigned

/-- Class 0xC0 of the opcode map (12 R307). -/
def decVecMem (n : Nib) (op : Nat) (p : BitVec 20) (_ : IWord) : Dec :=
  match op with
  | 0xC0 => rB2d p (.vld n)
  | 0xC1 => rB2 p fun a b o => .vst n b a o
  | 0xC2 => rA2m ESize.ofBits p (.vldx n)
  | 0xC3 => rA3m ESize.ofBits p (.vstx n)
  | 0xC4 => rC p (.vcvt n)
  | 0xC5 => rC p (.vquant n)
  | 0xC6 => rC p (.vdeq n)
  | 0xC7 => rA3 p (.vresid n)
  | 0xC8 => rVtopk n p
  | 0xC9 => rNoD p (.vhist n)
  | 0xCA => rA2u p (.vamax n)
  | 0xCB => rA2m PackT.ofBits p (.vpack n)
  | 0xCC => rA2um PackT.ofBits p (.vunpk n)
  | _ => .error .unassigned

/-- Class 0xE0 of the opcode map (12 R307). -/
def decSys (n : Nib) (op : Nat) (p : BitVec 20) (x : IWord) : Dec :=
  match op with
  | 0xE0 => rAI p fun f i => rZero (i == 0) (.mma n f)
  | 0xE1 => rAI p fun f i => rZero (i == 0) (.gmma n f)
  | 0xE2 => rAI p fun f i => rZero (i == 0) (.mconv n f)
  | 0xE3 => rMzero n p
  | 0xE4 => rZ p (.mswap n)
  | 0xE5 => rAI p fun f i => rZero (i == 0) (.mepi n f)
  | 0xE6 => rMstatr n p
  | 0xE7 => rCtx p (.copy n)
  | 0xE8 => rCtx p (.copym n)
  | 0xE9 => rAI p fun f i => rZero (i == 0) (.gath n f)
  | 0xEA => rAI p fun f i => rZero (i == 0) (.strsub n f)
  | 0xEB => rAI p fun f i => rZero (i == 0) (.strdrop n f)
  | 0xEC => rAI p fun f i => rZero (i == 0) (.coll n f)
  | 0xED => rAI p fun f i => rZero (i == 0) (.launch n f)
  | 0xEE => rAI p fun f i => rZero (i == 0) (.gang n f)
  | 0xEF => rAI p fun f i => rZero (i == 0) (.spawn n f)
  | 0xF0 => rNoD p (.jdec n)
  | 0xF1 => rAI p fun f i => rZero (i == 0) (.cancel n f)
  | 0xF2 => rAI p fun f i => rZero (i == 0) (.phend n f)
  | 0xF3 => rImm p (.svc n)
  | 0xF4 => rImm p (.trap n)
  | 0xF5 => rZ p (.eret n)
  | 0xF6 => rCropen n p x
  | 0xF7 => rZ p (.crclose n)
  | 0xF8 => rAI p fun f i => rZero (i == 0) (.snap n f)
  | 0xF9 => rAI p fun f i => rZero (i == 0) (.snapld n f)
  | 0xFA => rTlbinv n p
  | _ => .error .unassigned

/-- Decode a word and the word after it (12 R303-R307). The second is read by the long forms only. -/
def decode (w x : IWord) : Dec :=
  let n := Nib.ofBits (w.extractLsb' 28 4)
  let op := opcodeOf w
  let p := payloadOf w
  match op / 32 with
  | 0 => decControl n op p x
  | 1 => decScalar n op p x
  | 2 => decImm n op p x
  | 3 => decMem n op p x
  | 4 => decSync n op p x
  | 5 => decVec n op p x
  | 6 => decVecMem n op p x
  | _ => decSys n op p x

/-- OPC is assigned in the opcode map (R305 step 1, R307). -/
def opcodeAssigned (op : Nat) : Bool :=
  match op / 32 with
  | 0 => op ≤ 0x15
  | 1 => op ≤ 0x38
  | 2 => op ≤ 0x52
  | 3 => op ≤ 0x79
  | 4 => op ≤ 0x96
  | 5 => op ≤ 0xBC
  | 6 => op ≤ 0xCC
  | 7 => op ≤ 0xFA
  | _ => false

/-- The opcodes of the long forms: SEG, LIW, LIHI, STT, CROPEN (12 R300, R307). -/
def opcodeLong (op : Nat) : Bool := op == 0x14 || op == 0x41 || op == 0x42 || op == 0x6C || op == 0xF6

/-- The opcode's permission column (R305 step 2, R307). -/
def opcodePermits (op : Nat) (q : Seq) : Bool :=
  if op < 0x60 then (op != 0x12 || q == .K)
  else if op ≤ 0x64 then q == .K || q == .L
  else if op ≤ 0x66 then q == .L
  else if op ≤ 0x6A then q == .K || q == .S
  else if op ≤ 0x6C then q == .S
  else if op ≤ 0x6D then q == .K || q == .L
  else if op ≤ 0x87 then q != .C
  else if op ≤ 0x8F then true
  else if op ≤ 0x95 then q == .K
  else if op ≤ 0x96 then q == .L || q == .C
  else if op ≤ 0xE6 then q == .C
  else if op ≤ 0xE9 then q == .L
  else if op ≤ 0xEB then q == .L || q == .S
  else if op ≤ 0xF3 then q == .K
  else if op ≤ 0xF4 then true
  else q == .K

/-- The supervisor-only opcodes: ERET, SNAP, SNAPLD, TLBINV (R305 step 5, R307). -/
def opcodeSupervisor (op : Nat) : Bool := op == 0xF5 || op == 0xF8 || op == 0xF9 || op == 0xFA

/-- The writer of a queue (07 R176). -/
def queueWriter (k : BitVec 3) : Seq :=
  match k.toNat with
  | 0 => .K | 1 => .L | 2 => .C | 3 => .S | 4 => .L | 5 => .K | 6 => .L | _ => .C
/-- The reader of a queue (07 R176). -/
def queueReader (k : BitVec 3) : Seq :=
  match k.toNat with
  | 0 => .L | 1 => .C | 2 => .S | 3 => .K | 4 => .K | 5 => .C | 6 => .S | _ => .K

/-- R305 step 3, from the word's own bits: the Q field names a queue of a kind the word can use, and the
issuing sequencer is not the writer or reader the word needs. -/
def queueRoleFails (q : Seq) (w : IWord) : Bool :=
  let k := fq (payloadOf w)
  let v := vectorQueue k
  match opcodeOf w with
  | 0x4B => (q == .C || !v) && queueWriter k != q
  | 0x4C => (q == .C || !v) && queueReader k != q
  | 0x4D => (q == .C || !v) && queueReader k != q
  | 0x4E => queueWriter k != q && queueReader k != q
  | 0x65 => !v && queueWriter k != q
  | 0x66 => v && queueWriter k != q
  | 0x6B => v && queueReader k != q
  | _ => false

/-- The part of R305 step 4 that depends on the sequencer: QPUT, QGET and QPEEK name a vector queue on C only. -/
def queueKindOk (q : Seq) : Instr → Bool
  | .qput _ k _ => q == .C || !vectorQueue k
  | .qget _ _ k => q == .C || !vectorQueue k
  | .qpeek _ _ k => q == .C || !vectorQueue k
  | _ => true

/-- The issue cost of a word's opcode, its extension word included (12 R310). SEG and SEGEND cost nothing. -/
def opcodeCost (op : Nat) : Nat :=
  let base :=
    if op == 0x14 || op == 0x15 then 0
    else if op < 0x20 then 1
    else if op == 0x22 || op == 0x23 then 2
    else if op == 0x24 || op == 0x25 then 8
    else if op < 0x60 then 1
    else if op ≤ 0x6B || op == 0x6D then 2
    else if op < 0x80 then 4
    else if op < 0xA0 then 2
    else if op == 0xA7 || (0xA8 ≤ op && op ≤ 0xAC) then 4
    else if op == 0xBB || op == 0xBC then 2
    else if op < 0xC0 then 1
    else if op == 0xC2 || op == 0xC3 || op == 0xC8 || op == 0xC9 then 4
    else if op < 0xE0 then 2
    else if op == 0xF3 || op == 0xF4 || op == 0xF5 || op == 0xF7 then 2
    else 4
  if opcodeLong op && op != 0x14 then base + 1 else base

/-- VOTE may precede class 0x20, opcodes 0x40-0x4A and class 0xA0 (11 R296). -/
def votable (op : Nat) : Bool :=
  (0x20 ≤ op && op ≤ 0x38) || (0x40 ≤ op && op ≤ 0x4A) || (0xA0 ≤ op && op ≤ 0xBC)

/-- The two words of an instruction; the second is zero for a short one. -/
abbrev Enc := IWord × IWord
/-- A one-word instruction (12 R300). -/
def short (n : Nib) (op : BitVec 8) (p : BitVec 20) : Enc := (n.bits ++ op ++ p, 0)
/-- A two-word instruction (12 R300). -/
def long (n : Nib) (op : BitVec 8) (p : BitVec 20) (x : IWord) : Enc := (n.bits ++ op ++ p, x)
/-- Formats A2 and A3: a, b, d or c, mod. -/
def wA (a b d : BitVec 6) (m : BitVec 2) : BitVec 20 := a ++ b ++ d ++ m
/-- Format B2. -/
def wB2 (a b : BitVec 6) (o : BitVec 8) : BitVec 20 := a ++ b ++ o
/-- Format AI. -/
def wAI (f : BitVec 6) (i : BitVec 14) : BitVec 20 := f ++ i
/-- Format Q. -/
def wQ (f : BitVec 6) (k : BitVec 3) (o : BitVec 8) : BitVec 20 := f ++ k ++ o ++ 0#3
/-- Format S. -/
def wS (f : BitVec 6) (r : BitVec 12) : BitVec 20 := f ++ r ++ 0#2
/-- Format G. -/
def wG (f : BitVec 6) (r : BitVec 5) (l : BitVec 2) : BitVec 20 := f ++ r ++ l ++ 0#7
/-- Format C. -/
def wC (f : BitVec 6) (d s : BitVec 4) (rtz hi : Bool) : BitVec 20 :=
  f ++ d ++ s ++ BitVec.ofBool rtz ++ BitVec.ofBool hi ++ 0#4

/-- The words of an instruction (12 R300-R307); none for the event rows, which no word encodes. -/
def encode (i : Instr) : Option Enc :=
  match i with
  | .nop n => some (short n 0x00 0)
  | .br n o => some (short n 0x01 o)
  | .beq n a b o => some (short n 0x02 (wB2 a.bits b.bits o))
  | .bne n a b o => some (short n 0x03 (wB2 a.bits b.bits o))
  | .blt n a b o => some (short n 0x04 (wB2 a.bits b.bits o))
  | .bge n a b o => some (short n 0x05 (wB2 a.bits b.bits o))
  | .bltu n a b o => some (short n 0x06 (wB2 a.bits b.bits o))
  | .bgeu n a b o => some (short n 0x07 (wB2 a.bits b.bits o))
  | .bz n f i => some (short n 0x08 (wAI f.bits i))
  | .bnz n f i => some (short n 0x09 (wAI f.bits i))
  | .call n o => some (short n 0x0A o)
  | .calli n f i => some (short n 0x0B (wAI f.bits i))
  | .ret n f => some (short n 0x0C (wAI f.bits 0))
  | .jmpi n f i => some (short n 0x0D (wAI f.bits i))
  | .loop n o => some (short n 0x0E o)
  | .setlc n a b => some (short n 0x0F (wA a.bits b.bits 0 0))
  | .stage k => some (short .none 0x10 (wAI 0 (k.setWidth 14)))
  | .tend n => some (short n 0x11 0)
  | .yield n => some (short n 0x12 0)
  | .vote => some (short .none 0x13 0)
  | .seg n c x => some (long n 0x14 c x)
  | .segend n => some (short n 0x15 0)
  | .add n d a b => some (short n 0x20 (wA a.bits b.bits d.bits 0))
  | .sub n d a b => some (short n 0x21 (wA a.bits b.bits d.bits 0))
  | .mul n d a b => some (short n 0x22 (wA a.bits b.bits d.bits 0))
  | .mulh n m d a b => some (short n 0x23 (wA a.bits b.bits d.bits m.bits))
  | .div n m d a b => some (short n 0x24 (wA a.bits b.bits d.bits m.bits))
  | .rem n m d a b => some (short n 0x25 (wA a.bits b.bits d.bits m.bits))
  | .and n d a b => some (short n 0x26 (wA a.bits b.bits d.bits 0))
  | .or n d a b => some (short n 0x27 (wA a.bits b.bits d.bits 0))
  | .xor n d a b => some (short n 0x28 (wA a.bits b.bits d.bits 0))
  | .andn n d a b => some (short n 0x29 (wA a.bits b.bits d.bits 0))
  | .shl n d a b => some (short n 0x2A (wA a.bits b.bits d.bits 0))
  | .shr n d a b => some (short n 0x2B (wA a.bits b.bits d.bits 0))
  | .sra n d a b => some (short n 0x2C (wA a.bits b.bits d.bits 0))
  | .rot n d a b => some (short n 0x2D (wA a.bits b.bits d.bits 0))
  | .min n m d a b => some (short n 0x2E (wA a.bits b.bits d.bits m.bits))
  | .max n m d a b => some (short n 0x2F (wA a.bits b.bits d.bits m.bits))
  | .clz n d a => some (short n 0x30 (wA a.bits 0 d.bits 0))
  | .ctz n d a => some (short n 0x31 (wA a.bits 0 d.bits 0))
  | .popc n d a => some (short n 0x32 (wA a.bits 0 d.bits 0))
  | .sext n m d a => some (short n 0x33 (wA a.bits 0 d.bits m.bits))
  | .zext n m d a => some (short n 0x34 (wA a.bits 0 d.bits m.bits))
  | .cmp n m d a b => some (short n 0x35 (wA a.bits b.bits d.bits m.bits))
  | .sel n a b c => some (short n 0x36 (wA a.bits b.bits c.bits 0))
  | .lea n sh d a b => some (short n 0x37 (wA a.bits b.bits d.bits sh))
  | .mov n d a => some (short n 0x38 (wA a.bits 0 d.bits 0))
  | .li n d i => some (short n 0x40 (wAI d.bits i))
  | .liw n d x => some (long n 0x41 (wAI d.bits 0) x)
  | .lihi n d a x => some (long n 0x42 (wB2 a.bits d.bits 0) x)
  | .addi n f i => some (short n 0x43 (wAI f.bits i))
  | .andi n f i => some (short n 0x44 (wAI f.bits i))
  | .ori n f i => some (short n 0x45 (wAI f.bits i))
  | .xori n f i => some (short n 0x46 (wAI f.bits i))
  | .shli n f s => some (short n 0x47 (wAI f.bits (s.setWidth 14)))
  | .shri n f s => some (short n 0x48 (wAI f.bits (s.setWidth 14)))
  | .srai n f s => some (short n 0x49 (wAI f.bits (s.setWidth 14)))
  | .cmpi n m a i => some (short n 0x4A (wAI a.bits (m.bits ++ i)))
  | .qput n k f => some (short n 0x4B (wQ f.bits k 0))
  | .qget n f k => some (short n 0x4C (wQ f.bits k 0))
  | .qpeek n f k => some (short n 0x4D (wQ f.bits k 0))
  | .qcnt n f k => some (short n 0x4E (wQ f.bits k 0))
  | .rdsr n f r => some (short n 0x4F (wS f.bits r))
  | .wrsr n r f => some (short n 0x50 (wS f.bits r))
  | .tsig n c d => some (short n 0x51 (wAI 0 (0#9 ++ BitVec.ofBool d ++ c)))
  | .twait n c d => some (short n 0x52 (wAI 0 (0#9 ++ BitVec.ofBool d ++ c)))
  | .ldb n d a o => some (short n 0x60 (wB2 a.bits d.bits o))
  | .ldh n d a o => some (short n 0x61 (wB2 a.bits d.bits o))
  | .ldw n d a o => some (short n 0x62 (wB2 a.bits d.bits o))
  | .ldd n d a o => some (short n 0x63 (wB2 a.bits d.bits o))
  | .ldc n d a o => some (short n 0x64 (wB2 a.bits d.bits o))
  | .ldq n k f o => some (short n 0x65 (wQ f.bits k o))
  | .ldvq n k f o => some (short n 0x66 (wQ f.bits k o))
  | .stb n b a o => some (short n 0x67 (wB2 a.bits b.bits o))
  | .sth n b a o => some (short n 0x68 (wB2 a.bits b.bits o))
  | .stw n b a o => some (short n 0x69 (wB2 a.bits b.bits o))
  | .std n b a o => some (short n 0x6A (wB2 a.bits b.bits o))
  | .stvq n k f o => some (short n 0x6B (wQ f.bits k o))
  | .stt n a b f => some (long n 0x6C (wB2 a.bits b.bits 0) (f.setWidth 32))
  | .pref n a o => some (short n 0x6D (wB2 a.bits 0 o))
  | .aadd n m d a b => some (short n 0x6E (wA a.bits b.bits d.bits m.bits))
  | .amin n m d a b => some (short n 0x6F (wA a.bits b.bits d.bits m.bits))
  | .amax n m d a b => some (short n 0x70 (wA a.bits b.bits d.bits m.bits))
  | .aminu n m d a b => some (short n 0x71 (wA a.bits b.bits d.bits m.bits))
  | .amaxu n m d a b => some (short n 0x72 (wA a.bits b.bits d.bits m.bits))
  | .aand n m d a b => some (short n 0x73 (wA a.bits b.bits d.bits m.bits))
  | .aor n m d a b => some (short n 0x74 (wA a.bits b.bits d.bits m.bits))
  | .axor n m d a b => some (short n 0x75 (wA a.bits b.bits d.bits m.bits))
  | .aswap n m d a b => some (short n 0x76 (wA a.bits b.bits d.bits m.bits))
  | .cas n m a b c => some (short n 0x77 (wA a.bits b.bits c.bits m.bits))
  | .casw n m a b c => some (short n 0x78 (wA a.bits b.bits c.bits m.bits))
  | .red n op o a b => some (short n 0x79 (wA a.bits b.bits op.bits o.bits))
  | .acq n d a => some (short n 0x80 (wA a.bits 0 d.bits 0))
  | .rel n a b => some (short n 0x81 (wA a.bits b.bits 0 0))
  | .bind n a b c => some (short n 0x82 (wA a.bits b.bits c.bits 0))
  | .unbind n a b => some (short n 0x83 (wA a.bits b.bits 0 0))
  | .fence n => some (short n 0x84 0)
  | .xfence n s d => some (short n 0x85 (wAI 0 (0#8 ++ d.bits ++ s.bits)))
  | .cflush n a b => some (short n 0x86 (wA a.bits b.bits 0 0))
  | .cinv n a b => some (short n 0x87 (wA a.bits b.bits 0 0))
  | .rclaim n r f => some (short n 0x88 (wG f.bits r 0))
  | .rfill n r f => some (short n 0x89 (wG f.bits r 0))
  | .rwaitf n r f => some (short n 0x8A (wG f.bits r 0))
  | .rtake n r f => some (short n 0x8B (wG f.bits r 0))
  | .rfree n r f => some (short n 0x8C (wG f.bits r 0))
  | .rwaite n r f => some (short n 0x8D (wG f.bits r 0))
  | .rstat n f r => some (short n 0x8E (wG f.bits r 0))
  | .rbind n r f l => some (short n 0x8F (wG f.bits r l.bits))
  | .fwait n a b c => some (short n 0x90 (wA a.bits b.bits c.bits 0))
  | .ffill n a b => some (short n 0x91 (wA a.bits b.bits 0 0))
  | .ftest n d a => some (short n 0x92 (wA a.bits 0 d.bits 0))
  | .bararr n b => some (short n 0x93 (wAI 0 (b.setWidth 14)))
  | .barwait n f b => some (short n 0x94 (wAI f.bits (b.setWidth 14)))
  | .barsync n b => some (short n 0x95 (wAI 0 (b.setWidth 14)))
  | .wpwait n f c => some (short n 0x96 (wAI f.bits (c.setWidth 14)))
  | .vadd n d a b => some (short n 0xA0 (wA a.bits b.bits d.bits 0))
  | .vsub n d a b => some (short n 0xA1 (wA a.bits b.bits d.bits 0))
  | .vmul n d a b => some (short n 0xA2 (wA a.bits b.bits d.bits 0))
  | .vfma n m a b c => some (short n 0xA3 (wA a.bits b.bits c.bits m.bits))
  | .vmin n d a b => some (short n 0xA4 (wA a.bits b.bits d.bits 0))
  | .vmax n d a b => some (short n 0xA5 (wA a.bits b.bits d.bits 0))
  | .vabs n m d a b => some (short n 0xA6 (wA a.bits b.bits d.bits m.bits))
  | .vdiv n d a b => some (short n 0xA7 (wA a.bits b.bits d.bits 0))
  | .vsqrt n d a => some (short n 0xA8 (wA a.bits 0 d.bits 0))
  | .vrcp n d a => some (short n 0xA9 (wA a.bits 0 d.bits 0))
  | .vrsq n d a => some (short n 0xAA (wA a.bits 0 d.bits 0))
  | .vexp2 n d a => some (short n 0xAB (wA a.bits 0 d.bits 0))
  | .vlog2 n d a => some (short n 0xAC (wA a.bits 0 d.bits 0))
  | .vcmp n m d a b => some (short n 0xAD (wA a.bits b.bits d.bits m.bits))
  | .vsel n a b c => some (short n 0xAE (wA a.bits b.bits c.bits 0))
  | .viadd n m d a b => some (short n 0xAF (wA a.bits b.bits d.bits m.bits))
  | .visub n m d a b => some (short n 0xB0 (wA a.bits b.bits d.bits m.bits))
  | .vimul n m d a b => some (short n 0xB1 (wA a.bits b.bits d.bits m.bits))
  | .vlogic n m d a b => some (short n 0xB2 (wA a.bits b.bits d.bits m.bits))
  | .vshift n m d a b => some (short n 0xB3 (wA a.bits b.bits d.bits m.bits))
  | .viminmax n m d a b => some (short n 0xB4 (wA a.bits b.bits d.bits m.bits))
  | .vsett n f => some (short n 0xB5 (wAI 0 (f.setWidth 14)))
  | .vbcast n d a => some (short n 0xB6 (wA a.bits 0 d.bits 0))
  | .vextr n d a b => some (short n 0xB7 (wA a.bits b.bits d.bits 0))
  | .vins n a b c => some (short n 0xB8 (wA a.bits b.bits c.bits 0))
  | .vperm n d a b => some (short n 0xB9 (wA a.bits b.bits d.bits 0))
  | .viota n d i => some (short n 0xBA (wAI d.bits i))
  | .vreds n d a => some (short n 0xBB (wA a.bits 0 d.bits 0))
  | .vredm n m d a => some (short n 0xBC (wA a.bits 0 d.bits m.bits))
  | .vld n d a o => some (short n 0xC0 (wB2 a.bits d.bits o))
  | .vst n b a o => some (short n 0xC1 (wB2 a.bits b.bits o))
  | .vldx n m d a b => some (short n 0xC2 (wA a.bits b.bits d.bits m.bits))
  | .vstx n m a b c => some (short n 0xC3 (wA a.bits b.bits c.bits m.bits))
  | .vcvt n a d s z h => some (short n 0xC4 (wC a.bits d.bits s.bits z h))
  | .vquant n a d s z h => some (short n 0xC5 (wC a.bits d.bits s.bits z h))
  | .vdeq n a d s z h => some (short n 0xC6 (wC a.bits d.bits s.bits z h))
  | .vresid n a b c => some (short n 0xC7 (wA a.bits b.bits c.bits 0))
  | .vtopk n f k => some (short n 0xC8 (wAI f.bits (k.setWidth 14)))
  | .vhist n a b => some (short n 0xC9 (wA a.bits b.bits 0 0))
  | .vamax n d a => some (short n 0xCA (wA a.bits 0 d.bits 0))
  | .vpack n m d a b => some (short n 0xCB (wA a.bits b.bits d.bits m.bits))
  | .vunpk n m d a => some (short n 0xCC (wA a.bits 0 d.bits m.bits))
  | .mma n f => some (short n 0xE0 (wAI f.bits 0))
  | .gmma n f => some (short n 0xE1 (wAI f.bits 0))
  | .mconv n f => some (short n 0xE2 (wAI f.bits 0))
  | .mzero n b c => some (short n 0xE3 (wAI 0 (0#12 ++ BitVec.ofBool c ++ BitVec.ofBool b)))
  | .mswap n => some (short n 0xE4 0)
  | .mepi n f => some (short n 0xE5 (wAI f.bits 0))
  | .mstatr n f b => some (short n 0xE6 (wAI f.bits (0#13 ++ BitVec.ofBool b)))
  | .copy n f c => some (short n 0xE7 (wAI f.bits (c.setWidth 14)))
  | .copym n f c => some (short n 0xE8 (wAI f.bits (c.setWidth 14)))
  | .gath n f => some (short n 0xE9 (wAI f.bits 0))
  | .strsub n f => some (short n 0xEA (wAI f.bits 0))
  | .strdrop n f => some (short n 0xEB (wAI f.bits 0))
  | .coll n f => some (short n 0xEC (wAI f.bits 0))
  | .launch n f => some (short n 0xED (wAI f.bits 0))
  | .gang n f => some (short n 0xEE (wAI f.bits 0))
  | .spawn n f => some (short n 0xEF (wAI f.bits 0))
  | .jdec n a b => some (short n 0xF0 (wA a.bits b.bits 0 0))
  | .cancel n f => some (short n 0xF1 (wAI f.bits 0))
  | .phend n f => some (short n 0xF2 (wAI f.bits 0))
  | .svc n i => some (short n 0xF3 (wAI 0 i))
  | .trap n i => some (short n 0xF4 (wAI 0 i))
  | .eret n => some (short n 0xF5 0)
  | .cropen n x => some (long n 0xF6 0 x)
  | .crclose n => some (short n 0xF7 0)
  | .snap n f => some (short n 0xF8 (wAI f.bits 0))
  | .snapld n f => some (short n 0xF9 (wAI f.bits 0))
  | .tlbinvRange n a b => some (short n 0xFA (wA a.bits b.bits 0 0))
  | .tlbinvJob n a => some (short n 0xFA (wA a.bits 0 0 1))
  | .tlbinvAll n => some (short n 0xFA (wA 0 0 0 2))
  | .start _ | .freeze | .scanReadout _ | .unlockToken _ _ | .powerSample _ | .powerLimit _
  | .thermalSample _ _ | .thermalStep | .dieFenced _ | .masterElection | .distributorHeartbeat _
  | .wr | .wrack | .rd | .rdresp | .atom | .atomresp | .relw | .filln | .freen
  | .smax | .smaxres | .gres | .gresack | .gstart | .gstartack | .gcancel | .cwr
  | .hbeat | .invalidFlit _ _ | .linkRetry _ | .portDown _ | .deviceHeartbeat | .deviceLost _
  | .relFabricTimeout _ _ | .collectiveTimeout _ | .shardComplete _ _ | .collectiveComplete _
  | .gangTimeout _ | .gangReservationExpiry _ | .createJob | .killJob | .killDone _
  | .hostCompletionTimeout _ | .createQueue | .destroyQueue | .checkpoint | .ckptDone _
  | .checkpointTargetStall | .restore | .attest | .fwStage | .warmReset | .fenceDie
  | .queueSlotAccept _ _ | .queueStall _ _ | .issuePacket _ _ _ _ _ | .collRequest _ _ _ _
  | .srqWrite | .sevqWrite | .registerWrite | .pageWalk _ _ _ | .walkRestart _ _ _
  | .engineFault _ _ | .engineFaultResume _ _ | .engineFaultAbort _ _ | .biasFlipToHost _
  | .biasFlipToDevice _ | .biasFlipComplete _ | .hostMemRead | .hostMemWrite
  | .counterHalving | .migrate _ _ _ | .taskEnd _ | .recordAging _ _ _ | .gangReservationTimeout _
  | .preemptionDelay _ | .barrierForward _ _ _ | .instanceGrant _ | .escapementSample _
  | .balanceDecision _ | .commandPull _ _ | .decoupleDeadlock _ _ | .loadDelivery _ _ _
  | .regionDrainComplete _ | .copyPacketComplete _ _ | .matrixCommandComplete _ | .gatherComplete _
  | .streamTile _ | .streamComplete _ | .fpReduceContribution _ | .fpReduceTimeout _
  | .eccCounterRead _ | .storePerformed _ _ | .hostSnoop | .softError _ | .freezeRelease
  | .resetNAssertion | .pwrgoodFall => none

/-- The instruction of a word given as a number whose bit 0 is the first word's least significant bit, with
`nbits` bits given and every later bit zero. -/
def decodeTableWord (nbits w : Nat) : Option Instr :=
  let v := w % 2 ^ nbits
  match decode (BitVec.ofNat 32 v) (BitVec.ofNat 32 (v / 2 ^ 32)) with
  | .ok i => some i
  | .error _ => none

end Sys2Proof
end

