-- ==== Sys2Proof/Machine/Assoc.lean ====
section
/-! DEFINITION. Sparse data by key: lists of (key, value) pairs with rising keys and no entry equal to what an
unlisted key reads as. -/

namespace Sys2Proof.Machine

/-- The value listed for a key, `d` for an unlisted key. -/
def kvGet {α : Type} (d : α) : List (Nat × α) → Nat → α
  | [], _ => d
  | (k, v) :: t, a => if a = k then v else kvGet d t a

/-- The value listed for a key, if any. -/
def kvFind {α : Type} : List (Nat × α) → Nat → Option α
  | [], _ => none
  | (k, v) :: t, a => if a = k then some v else kvFind t a

/-- The list without a key. -/
def kvErase {α : Type} (l : List (Nat × α)) (a : Nat) : List (Nat × α) := l.filter fun e => e.1 != a

/-- The list with a key's value, in key order. -/
def kvInsert {α : Type} (a : Nat) (v : α) : List (Nat × α) → List (Nat × α)
  | [] => [(a, v)]
  | (k, x) :: t => if a < k then (a, v) :: (k, x) :: t else if a = k then (a, v) :: t else (k, x) :: kvInsert a v t

/-- Set a key's value; the value of an unlisted key removes the entry. -/
def kvSet {α : Type} [DecidableEq α] (d : α) (l : List (Nat × α)) (a : Nat) (v : α) : List (Nat × α) :=
  if v = d then kvErase l a else kvInsert a v l

/-- Keys rise strictly. -/
def kvSorted {α : Type} : List (Nat × α) → Bool
  | [] => true
  | [_] => true
  | (a, _) :: (b, y) :: t => a < b && kvSorted ((b, y) :: t)

/-- The canonical form: keys rise strictly and no entry equals the value of an unlisted key. -/
def kvWf {α : Type} [DecidableEq α] (d : α) (l : List (Nat × α)) : Bool := kvSorted l && l.all fun e => e.2 != d

end Sys2Proof.Machine
end

