-- ==== Sys2Proof/Machine/Crc.lean ====
section
/-! DEFINITION. The check codes: CRC-16 of granules and words (11 R278, R279) and CRC-32C of segments (11 R297). -/

namespace Sys2Proof.Machine

/-- One bit of the CRC-16 with polynomial 0x8BB7, MSB first (11 R278). -/
def crc16Bit (c : BitVec 16) (b : Bool) : BitVec 16 :=
  if c.msb != b then (c <<< 1) ^^^ 0x8BB7#16 else c <<< 1

/-- One byte, bit 7 first. -/
def crc16Byte (c : BitVec 16) (g : Byte) : BitVec 16 :=
  let c := crc16Bit c (g.getLsbD 7)
  let c := crc16Bit c (g.getLsbD 6)
  let c := crc16Bit c (g.getLsbD 5)
  let c := crc16Bit c (g.getLsbD 4)
  let c := crc16Bit c (g.getLsbD 3)
  let c := crc16Bit c (g.getLsbD 2)
  let c := crc16Bit c (g.getLsbD 1)
  crc16Bit c (g.getLsbD 0)

/-- The n low bytes of a number, lowest address first (00 R4). -/
def bytesOf : Nat → Nat → List Byte
  | 0, _ => []
  | n + 1, v => BitVec.ofNat 8 v :: bytesOf n (v / 256)

/-- The number of a list of bytes, lowest address first (00 R4). -/
def natOf : List Byte → Nat
  | [] => 0
  | b :: t => b.toNat + 256 * natOf t

/-- The check code of bytes in ascending address order (11 R278). -/
def crc16 (l : List Byte) : BitVec 16 := l.foldl crc16Byte 0xFFFF#16

/-- The granule code (11 R278). -/
def granuleCode (g : BitVec 128) : BitVec 16 := crc16 (bytesOf 16 g.toNat)

/-- The word code (11 R279). -/
def wordCode (w : Word) : BitVec 16 := crc16 (bytesOf 8 w.toNat)

/-- One bit of the reflected CRC-32C (11 R297). -/
def crc32Bit (c : BitVec 32) : BitVec 32 := if c.getLsbD 0 then (c >>> 1) ^^^ 0x82F63B78#32 else c >>> 1

/-- One byte of the CRC-32C. -/
def crc32Byte (c : BitVec 32) (b : Byte) : BitVec 32 :=
  let c := c ^^^ b.setWidth 32
  crc32Bit (crc32Bit (crc32Bit (crc32Bit (crc32Bit (crc32Bit (crc32Bit (crc32Bit c)))))))

/-- SEGSIG after one more word: the running CRC-32C of words as four little-endian bytes each (11 R297). The
register holds the finished CRC; the empty CRC is 0. -/
def segSigNext (sig : BitVec 32) (w : IWord) : BitVec 32 :=
  ((bytesOf 4 w.toNat).foldl crc32Byte (sig ^^^ 0xFFFFFFFF#32)) ^^^ 0xFFFFFFFF#32

end Sys2Proof.Machine
end

