-- ==== Sys2Proof/Config.lean ====
section
/-! DEFINITION. What the spec leaves open, as uninterpreted constants, and the fixed figures of the package. -/

namespace Sys2Proof

/-- Free 64-bit values: contents the spec calls undefined (02 R55, R58; 06 R163; 17 R426). Log 10. -/
opaque Config.freeWord : Nat → BitVec 64

/-- Free bytes, for an undefined destination: a draw number and an address offset. Log 10. -/
opaque Config.freeByte : Nat → Nat → BitVec 8

/-- SHAKE256 with a 64-byte output (03 R83, R86, R88): a named standard, uninterpreted here. Log 11. -/
opaque Config.shake256 : List Byte → BitVec 512

/-- ML-DSA-65 verification (key, message, signature) (03 R83-R90): a named standard, uninterpreted. Log 11. -/
opaque Config.mldsaOk : BitVec 512 → List Byte → List Byte → Bool

/-- The ML-DSA-65 signature by the device identity key (03 R89, R90): uninterpreted. Log 11. -/
opaque Config.mldsaSign : List Byte → List Byte

/-- The digest of the fused root key (01 R27 step 2; 03 R86) and of the device identity key (03 R89). Log 11. -/
opaque Config.rootKey : BitVec 512

/-- The digest of the device identity public key (03 R89). Log 11. -/
opaque Config.identityKey : BitVec 512

/-- A device key's certificates chain to the Lanimor root (03 R85, R89; 01 R32). Log 11. -/
opaque Config.chains : BitVec 512 → Bool

/-- The key that an unlock token names (01 R32). Log 11. -/
opaque Config.tokenKey : List Byte → BitVec 512
/-- The challenge that a frozen package puts to the holder of an unlock token, by the number of its draw (01 R32). Log 11. -/
opaque Config.challenge : Nat → List Byte
/-- The product is LGN4-PKG, whose board sets the power limit (01 R22). Log 97. -/
opaque Config.boardLimit : Bool
/-- The type byte of a report over the management interface to which the spec gives none (01 R28, 03 R80). Log 37. -/
opaque Config.mgmtType : BitVec 8

/-- Which entry a full cache of translations gives up, by a draw number (04 R98). Log 8. -/
opaque Config.victim : Nat → Nat

/-- The lossless block coder of CWR (02 R39): the decompressed lines of a compressed block for a stated
line count, none when it does not decompress to that length. The spec does not give the coder. Log 12. -/
opaque Config.decompress : Nat → BitVec 880 → Option (List (BitVec 512))

/-- How the packet of a supervisor request lays out its operands after the code byte (03 R68 gives the
code, and byte 1 of FENCE_DIE, only): operand number, packet bytes. Log 13. -/
opaque Config.requestField : Nat → List Byte → BitVec 64
/-- A reserved byte of a request packet is not zero. Log 13. -/
opaque Config.requestReserved : List Byte → Bool
/-- The operands of a CREATE_JOB packet. Log 13. -/
opaque Config.requestJob : List Byte → JobReq
/-- The target that a CHECKPOINT packet names. Log 13. -/
opaque Config.requestTarget : List Byte → CkptTarget
/-- The image that the source of a RESTORE packet holds, by the packet and the time. Log 13. -/
opaque Config.requestImage : List Byte → Nat → Image
/-- The nonce of an ATTEST packet, the firmware image of an FW_STAGE packet, by the packet and the time. Log 13. -/
opaque Config.requestBytes : List Byte → Nat → List Byte
/-- A JOBTAG and a job id that the supervisor gives a new job, where they are free. Log 13. -/
opaque Config.jobTag : Nat → BitVec 12
/-- A job id. Log 13. -/
opaque Config.jobId : Nat → BitVec 10

/-- The device that holds the far side of a remote ring, and the address bits of its descriptor there, by the near
descriptor's location: the descriptor of 13 R335 names only the producer (02 R45, R46). Log 25. -/
opaque Config.ringDevice : Nat → BitVec 12

/-- The address of the far descriptor of a remote ring, by the near descriptor's location. Log 25. -/
opaque Config.ringAddr : Nat → BitVec 52

/-- The address of a far receive ring's descriptor, of one of its slots by number, its FILL when the sender first uses it
and its slot count, by the identity of the ring (02 R45, R54). Log 25. -/
opaque Config.farRing : Nat → BitVec 52
/-- A slot of a far receive ring. Log 25. -/
opaque Config.farSlot : Nat → Nat → BitVec 52
/-- FILL of a far receive ring. Log 25. -/
opaque Config.farFill : Nat → BitVec 32
/-- The slot count of a far receive ring. Log 25. -/
opaque Config.farCount : Nat → BitVec 16

/-- The agreement identifier of a collective by its job's tag, TAG and SEQ (02 R47, 17 R426). Log 47. -/
opaque Config.agreeId : BitVec 12 → BitVec 32 → BitVec 64 → BitVec 45

/-- The unit number in SOURCE of an event of a unit to which the spec gives none (03 R79): 0 the event unit, 1 a home,
16 + p the link unit of port p, 64 + d die d, 80 the power management, 81 the supervisor's processor, 96 a host port. Log 26. -/
opaque Config.unitNumber : Nat → BitVec 24
/-- The streamer of its stack's 32 that serves a subscription, by the subscription's number (01 R15, 04 R105, 13 R330). Log 26. -/
opaque Config.streamer : Nat → BitVec 5
/-- DETAIL of an event whose type gives it no meaning, by the type and what it concerns (03 R79, R80). Log 26. -/
opaque Config.eventDetail : BitVec 8 → Nat → BitVec 64
/-- DST of the HBEAT flits that a port sends (02 R61). Log 27. -/
opaque Config.heartbeatDst : Nat → BitVec 12

/-- Core clock bounds in steps of 100 MHz (01 R20). -/
def Config.clkMax : Nat := 27
/-- The least core clock, 1.8 GHz (01 R22). -/
def Config.clkMin : Nat := 18
/-- The package power limit of LGN4-MOD in watts (01 R22). -/
def Config.powerLimit : Nat := 12000
/-- The default pre-emption delay, 100 µs in ns (05 R145). -/
def Config.preemptDelay : Nat := 100000
/-- Live levels the master's table holds (05 R119). -/
def Config.maxLevels : Nat := 65536
end Sys2Proof
end

