-- ==== Sys2Proof/Machine/State.lean ====
section
/-! DEFINITION. The state of the package, all of it plain data; the reasons a step can stop; the state after reset. -/

namespace Sys2Proof.Machine

/-- Faults. No rule of the spec stops the machine for good, so the model stops only where its own input does:
`noStorage` is raised by HOST_MEM_READ and HOST_MEM_WRITE of an address outside the one range of device memory that the host sees
(03 R63), where no access of the host arrives. Safe: the hardware performs no such access. -/
inductive Fault where
  | noStorage (pa : Word)
  deriving DecidableEq, Repr

/-- Refusals: `notModelled`, raised by no meaning, names an instruction without one. Safe. -/
inductive Refusal where
  | notModelled (mnemonic : String)
  deriving DecidableEq, Repr

/-- A sequencer of a slot. Slots are numbered 2 * COREID + SLOT, COREID as 12 R308 gives. -/
structure Thread where
  slot : Nat
  seq  : Seq
  deriving DecidableEq, Repr

/-- Storage behind a virtual address (04 R91, R92, 01 R16). -/
inductive Area where
  | hbm | vault | sysRegion | control | host | scratch (core : Nat) | remote
  deriving DecidableEq, Repr

/-- A translated run of bytes inside one page: first location, length, the page's attributes (04 R97), and the lines of the table
entries that its translation was derived from (R100). -/
structure Span where
  va    : Word
  loc   : Loc
  len   : Nat
  area  : Area
  sw    : Nat
  et    : Bool
  tt    : Bool
  cst   : Bool
  walk  : List Nat := []
  deriving DecidableEq, Repr

/-- A queue or operand value: a scalar or a vector with its codes (07 R176). -/
inductive QVal where
  | s (w : SWord)
  | v (w : VWord)
  deriving DecidableEq, Repr

/-- A data-queue entry; reserved but unfilled while `val` is none (07 R177). `tag` names the word that fills it. -/
structure QEnt where
  tag : Nat
  val : Option QVal
  deriving DecidableEq, Repr

/-- One write of a tensor store: a run of bytes, its value, and the version stamped on its lines if tagged
(10 R265). -/
structure TWrite where
  span  : Span
  val   : Nat
  stamp : Option (BitVec 4)
  deriving DecidableEq, Repr

/-- A write by reduction at the home (15 R371). -/
structure RedWrite where
  span : Span
  op   : RedOp
  ord  : MemOrd
  val  : Word
  deriving DecidableEq, Repr

/-- What a producer counts into a tensor record (10 R265, R266): elements per histogram bin, zeros, saturations. -/
structure RecCounts where
  bins  : List (Nat × Nat)
  zeros : Nat
  sats  : Nat
  deriving DecidableEq, Repr

/-- A write of an engine: the codes of whole granules moved with it (none: generated), the version stamped on its lines
if it is tagged, and the metadata of a whole line moved whole (17 R422). -/
structure EWrite where
  span  : Span
  val   : Nat
  syns  : Option Nat
  stamp : Option (BitVec 4)
  md    : Option Byte
  deriving DecidableEq, Repr

/-- A release's own range, recorded with its sync word (08 R212). -/
inductive RelRange where
  | range (base : Word) (len : Nat)
  | all
  deriving DecidableEq, Repr

/-- The write an issued store-class word or an engine makes when it performs; also an entry of a region's write buffer
(11 R289). `rdone` is the release on a command's DONE word with the range it carries (13 R321). -/
inductive StoreOp where
  | plain (spans : List Span) (val : Nat)
  | vec (spans : List Span) (v : VWord)
  | tensor (ws : List TWrite)
  | red (r : RedWrite)
  | rel (span : Span) (val : Word)
  | count (span : Span) (c : RecCounts)
  | engine (ws : List EWrite)
  | rdone (span : Span) (val : Word) (range : RelRange)
  deriving DecidableEq, Repr

/-- What an issued word still has to do before it completes locally (07 R174). A load carries the value that it found as it issued, its
data if its bytes turn bad before it is delivered (04 R104; log 9). `await` is a table write that has performed, waiting for the accesses in
flight under what it dropped: the lines written, each with the first word number after the write (04 R100). `fill` is an FFILL whose
continuations from a node on are still to be pushed (05 R121, R143). `far` is an atomic or acquire at a home on another device, and `relw` a
release there, each with the TAG of the flit that the home answers (02 R37, R43). -/
inductive Work where
  | load (spans : List Span) (seen : QVal)
  | const (spans : List Span) (seen : QVal)
  | ldq (k : BitVec 3) (spans : List Span) (vec : Bool) (seen : QVal)
  | store (op : StoreOp)
  | qput (k : BitVec 3) (v : QVal)
  | await (drops : List (Nat × Nat))
  | fill (node : Word)
  | far (span : Span) (tag : BitVec 12) (ord : MemOrd)
  | relw (span : Span) (tag : BitVec 12)
  | none
  deriving DecidableEq, Repr

/-- An issued word not yet retired: its work, whether that is done, and the signals it has still to apply, each a
counter and an amount (07 R173, 14 R358), and the time it issued. A done word with signals left is holding them. -/
structure Outst where
  tag  : Nat
  pc   : Word
  work : Work
  done : Bool
  sigs : List (BitVec 3 × Nat)
  at_  : Nat := 0
  deriving DecidableEq, Repr

/-- A sequencer (07 R179-R183, R195). -/
structure SeqSt where
  pc      : Word
  belt    : Vector SWord (2 ^ 4)
  short   : Vector SWord (2 ^ 4)
  main    : Vector SWord (2 ^ 5)
  lc      : Word
  ec      : Word
  rrb     : BitVec 4
  stg     : BitVec 8
  tend    : Bool
  predOn  : Bool
  predN   : BitVec 3
  segOpen : Bool
  segExp  : BitVec 20
  segXsig : BitVec 32
  segCnt  : BitVec 20
  segSig  : BitVec 32
  outst   : List Outst
  waiting : Bool
  deriving DecidableEq, Repr

/-- A sequencer at task start, at its stream entry (07 R170). -/
def SeqSt.fresh (pc : Word) : SeqSt :=
  { pc, belt := .replicate _ .zero, short := .replicate _ .zero, main := .replicate _ .zero, lc := 0, ec := 0,
    rrb := 0, stg := 0, tend := false, predOn := false, predN := 0, segOpen := false, segExp := 0, segXsig := 0,
    segCnt := 0, segSig := 0, outst := [], waiting := false }

/-- A ring handle (07 R190). -/
structure Handle where
  desc   : Word
  first  : BitVec 32
  count  : BitVec 16
  done   : BitVec 16
  role   : Option Role
  flags  : Byte
  status : Byte
  seen   : BitVec 32
  deriving DecidableEq, Repr

/-- An unbound handle (15 R380 step 2). -/
def Handle.unbound : Handle :=
  { desc := 0, first := 0, count := 0, done := 0, role := none, flags := 0, status := 0, seen := 0 }

/-- An accumulator bank: elements by 128 * row + column, and codes of four-element runs as XOR differences by
32 * row + column / 4; zero elements and matching codes are not listed (07 R185, 11 R279). -/
structure Acc where
  elems : List (Nat × BitVec 32)
  syns  : List (Nat × BitVec 16)
  deriving DecidableEq, Repr

/-- A cleared bank (17 R418). -/
def Acc.zero : Acc := { elems := [], syns := [] }

/-- A tensor record as a command names it: its address, its storage, and its bytes at acceptance. -/
structure NamedRec where
  va   : Word
  span : Span
  val  : Nat
  deriving DecidableEq, Repr

/-- What a command resolved at acceptance (10 R268): RVER, the destination's and the source's record, formats and
scales. -/
structure Resolved where
  rver   : BitVec 4
  drec   : Option NamedRec
  dfmt   : Fmt
  dscale : Int
  srec   : Option NamedRec
  sfmt   : Fmt
  deriving DecidableEq, Repr

/-- A GMMA part's place in its command: the command's number and the member's (17 R417). -/
structure GPart where
  gid    : Nat
  member : Nat
  deriving DecidableEq, Repr

/-- A GMMA whose parts have not all ended (17 R417): the issuing slot, its packet, the version its writes are stamped with,
failed members with their fault codes, an aborted part, destination bytes and saturations so far, the record that a part
overflowed, and a fault of its completion record. -/
structure GCmd where
  gid     : Nat
  owner   : Nat
  pkt     : BitVec 512
  rver    : BitVec 4
  fails   : List (Nat × Nat)
  aborted : Bool
  bytes   : Nat
  sats    : Nat
  marked  : Option Word
  paused  : Option (BitVec 3 × Word × Bool)
  range   : RelRange
  deriving DecidableEq, Repr

/-- What a bank word or an engine packet asks of an engine (17 R416-R423). `ext` is the geometry extension of MCONV. -/
inductive CmdBody where
  | packet (pkt ext : BitVec 512) (r : Resolved) (part : Option GPart)
  | mzero (bank clr : Bool)
  | mswap
  deriving DecidableEq, Repr

/-- An accepted engine command: its body, progress in destination bytes or rows, saturations so far, whether it has
started, its pause on a fault (04 R105: kind, address, write) and whether its completion record faulted, its status once
it has one, with its fault code, the COPYM copy that it waits for (17 R421), the sequencer that queued it, the engine of
a sibling core that pulled it (06 R165) or that a queue's TARGET names, as core * 8 + engine, the saturations mark, the
descriptor of the shared queue that it came by (03 R72), the engine's command bank with the events and saturations of a closed matrix
command (06 R164), and the storage whose contents a false RELOC leaves undefined (R163). -/
structure Cmd where
  uid      : Nat
  body     : CmdBody
  progress : Nat
  sats     : Nat
  started  : Bool
  paused   : Option (BitVec 3 × Word × Bool)
  status   : Option Nat
  fcode    : Nat
  inRegion : Bool
  after    : Option Nat
  by_      : Seq
  pulled   : Option Nat
  marked   : Bool
  queue    : Option Word := none
  bank     : Acc := .zero
  events   : Word := 0
  satn     : Nat := 0
  scram    : List Span := []
  deriving DecidableEq, Repr

/-- A mark that awaits an observing word (10 R274): the command's path, DONE word, bank, copy context with the
pointer value before the command's first byte, the sequencer that observes, the record; a collective's sequence number, which
an ACQ must reach (20 R464). -/
structure OvfMark where
  path   : Path
  done   : Word
  bank   : Option Bool
  ctx    : Option (BitVec 2)
  low    : BitVec 32
  obs    : Seq
  record : Word
  seq    : Word := 0
  deriving DecidableEq, Repr

/-- Gang membership of a task: the gang level's header, shape, member, members, linked-gang id (05 R127), and the scope in which the gang
is placed, at its start and at a restore (R147). -/
structure GangRef where
  level   : Word
  shape   : BitVec 2
  member  : Nat
  members : Nat
  lgid    : Option (BitVec 32)
  scope   : Nat := 0
  cluster : Nat := 0
  die     : Nat := 0
  deriving DecidableEq, Repr

/-- A task in a slot or saved (05 R123, 07 R194, 12 R308). `parent` is the level header's address, 0 for the job; `escs` counts its escapes
by class, in the layout of CRSTAT [43:16] (05 R135, R137). -/
structure TaskInfo where
  record   : Word
  taskid   : Word
  job      : Nat
  prio     : Nat
  need     : Nat
  parent   : Word
  index    : BitVec 32
  gang     : Option GangRef
  graph    : Option (Word × Nat)
  dealt    : Bool
  idem     : Bool
  escs     : BitVec 28
  start    : Nat
  deriving DecidableEq, Repr

/-- Where an open region stands (11 R292, R294): open; draining, while its words and commands complete; performing,
once its first buffered write has started to perform. -/
inductive RegPhase where | opened | draining | performing
  deriving DecidableEq, Repr

/-- A containment region (11 R287-R294): the write buffer in order, each write with the sequencer that made it and
its word's PC; the handler and the word after CROPEN; the CRCLOSE that drains it and the first word number after
it; the address of a buffered write
that a home could not merge (R294). -/
structure Region where
  buf     : List (StoreOp × Seq × Word)
  handler : Word
  resume  : Word
  phase   : RegPhase
  closePc : Word
  closeUid : Nat
  failed  : Option Word
  deriving DecidableEq, Repr

/-- What a slot's K runs (18 R437, R438, R441). `handler` keeps an interrupted user context; `supTask` has none;
`frozen` is K stopped in supervisor mode. -/
inductive Mode where | user | handler | supTask | frozen
  deriving DecidableEq, Repr

/-- A slot (07 R168-R198). Vacant when `task` is none and `mode` is user. `fence` holds what XFENCE and CROPEN wait for,
`rpause` the ring unit's pause on a fault at the task's end (04 R105);
`vote` the bits that soft errors flip in the next voted word's three results. -/
structure Slot where
  task     : Option TaskInfo
  mode     : Mode
  snapped  : Bool
  held     : Bool
  k        : SeqSt
  l        : SeqSt
  c        : SeqSt
  s        : SeqSt
  ksup     : SeqSt
  vbelt    : Vector VWord (2 ^ 4)
  vshort   : Vector VWord (2 ^ 4)
  vmain    : Vector VWord (2 ^ 5)
  tok      : Vector (BitVec 4) (2 ^ 3)
  queues   : Vector (List QEnt) (2 ^ 3)
  vtype    : Word
  fpstat   : Word
  mstat0   : Word
  mstat1   : Word
  crstat   : Word
  subcnt   : Word
  corrcnt  : Word
  fmtovr   : Word
  chwp     : Vector (BitVec 32) (2 ^ 2)
  tcause   : Word
  taddr    : Word
  tpc      : Word
  tpcSet   : Bool
  deadlock : Nat
  barmap   : Vector (Option Nat) (2 ^ 4)
  armed    : Option (BitVec 4 × BitVec 32)
  handles  : Vector Handle (2 ^ 5)
  acc0     : Acc
  acc1     : Acc
  rpause   : Option (BitVec 3 × Word × Bool)
  mq       : List Cmd
  gq       : List Cmd
  ctxs     : Vector (List Cmd) (2 ^ 2)
  region   : Option Region
  marks    : List OvfMark
  nbrmask  : Byte
  fence    : List (Seq × Nat)
  relAt    : List (Seq × Nat)
  vote     : Option (BitVec 2048 × BitVec 2048 × BitVec 2048)
  deriving DecidableEq, Repr

/-- A vacant slot: what a task start finds (07 R170); the registers of no task hold zero (log 14). -/
def Slot.vacant : Slot :=
  { task := none, mode := .user, snapped := false, held := false,
    k := .fresh 0, l := .fresh 0, c := .fresh 0, s := .fresh 0, ksup := .fresh 0,
    vbelt := .replicate _ .zero, vshort := .replicate _ .zero, vmain := .replicate _ .zero,
    tok := .replicate _ 0, queues := .replicate _ [],
    vtype := 0, fpstat := 0, mstat0 := 0, mstat1 := 0, crstat := 0, subcnt := 0, corrcnt := 0, fmtovr := 0,
    chwp := .replicate _ 0, tcause := 0, taddr := 0, tpc := 0, tpcSet := false, deadlock := 0,
    barmap := .replicate _ none, armed := none, handles := .replicate _ .unbound,
    acc0 := .zero, acc1 := .zero, rpause := none, mq := [], gq := [], ctxs := .replicate _ [],
    region := none, marks := [], nbrmask := 0, fence := [], relAt := [], vote := none }

/-- One granule of a cached line: data, code difference, and the holder of a dirty copy: core 0-7 of the cluster
for its L1, 8 for the cluster cache (08 R201). -/
structure CGran where
  data  : BitVec 128
  syn   : BitVec 16
  dirty : Option (BitVec 4)
  deriving DecidableEq, Repr

/-- A line as one cluster holds it, by storage (01 R18): its valid granules, metadata and whether a whole-line write set them, the L1s
that hold it, and whether the cluster cache does (08 R200-R202). -/
structure CLine where
  gr        : Vector (Option CGran) (2 ^ 2)
  meta_     : Byte
  metaDirty : Bool
  l1        : BitVec 8
  cc        : Bool
  deriving DecidableEq, Repr

/-- A pointer entry that a die's walker holds (04 R98): the job and half of the walk, the level of the table that it points to, the address
bits above that level, the table, and the lines of the entries down to it. -/
structure PtrEnt where
  job    : Nat
  upper  : Bool
  level  : Nat
  index  : Nat
  table  : Nat
  lines  : List Nat
  deriving DecidableEq, Repr

/-- A cached translation (04 R98-R100): the job whose walk fetched it, upper half, its page's first
virtual address and size, the leaf, and the lines of the table entries the walk read. -/
structure TlbEnt where
  job     : Nat
  upper   : Bool
  base    : Word
  size    : Nat
  leaf    : Word
  entries : List Nat
  deriving DecidableEq, Repr

/-- What comes about next (log 3): an event row, a word of a thread, scheduling, the eviction of a cached line,
one more portion of work of an engine's queue, the pre-emption of a task with its CAUSE, the next push of an FFILL, the rest of a
cancel, a step of a collective, another try at the events that wait for room, or a host port's report of bad granules of a line. -/
inductive Happening where
  | event (i : Instr)
  | issue (t : Thread)
  | schedule
  | evict (cluster : Nat) (line : Nat)
  | work (slot eng uid : Nat)
  | preempt (slot : Nat) (taskid : Word) (cause : Nat)
  | fill (slot : Nat)
  | cancelled (job : Nat) (hdr : Word)
  | coll (uid : Nat)
  | posting
  | portError (line : Nat) (gmask : BitVec 4)
  deriving DecidableEq, Repr

/-- An agenda item: how far the time base advances before it, in ns, and what it is. -/
structure Item where
  dt   : Nat
  what : Happening
  deriving DecidableEq, Repr

/-- A live job: the fields of its record (03 R69), what the supervisor keeps for it (05 R121, R146; log 15, 17), its phase
counter and phases (05 R118, 17 R432), the last task number (12 R308) and its event queue's drops (03 R79). -/
structure Job where
  jobtag   : BitVec 12
  state    : Nat
  weight   : Nat
  maxprio  : BitVec 2
  flags    : Byte
  ptroot   : Word
  evq      : Word
  jobsync  : Word
  count    : Word
  policy   : Word
  migth    : BitVec 32
  subtot   : Word
  spill    : Nat
  save     : Word
  taskno   : Nat
  phase    : Word
  phaseno  : Nat
  closed   : List Word
  dropped  : Nat
  deriving DecidableEq, Repr

/-- A job id with no job: every field zero (03 R69 STATE 0). -/
def Job.free : Job :=
  { jobtag := 0, state := 0, weight := 0, maxprio := 0, flags := 0, ptroot := 0, evq := 0, jobsync := 0, count := 0,
    policy := 0, migth := 0, subtot := 0, spill := 0, save := 0, taskno := 0, phase := 0, phaseno := 0, closed := [],
    dropped := 0 }

/-- A die: fenced (01 R30), SVBASE (18 R439), SUPEN and SUPROOT (04 R103), the bias register's TARGET (true for
device-bias), BUSY, BIASERR and REGION (04 R103), SRAMCORR and HBMCORR (11 R283). -/
structure Die where
  fenced   : Bool
  svbase   : Word
  supen    : Bool
  suproot  : Word
  btarget  : Bool
  bbusy    : Bool
  berr     : Bool
  bregion  : BitVec 36
  sramcorr : BitVec 32
  hbmcorr  : BitVec 32
  deriving DecidableEq, Repr

/-- A die after reset. -/
def Die.reset : Die :=
  { fenced := false, svbase := 0, supen := false, suproot := 0, btarget := false, bbusy := false, berr := false,
    bregion := 0, sramcorr := 0, hbmcorr := 0 }

/-- An event record (03 R79). -/
structure Event where
  type   : Byte
  reply  : Bool
  job    : Nat
  source : BitVec 32
  addr   : Word
  time   : Nat
  detail : Word
  deriving DecidableEq, Repr

/-- A bias flip that has been asked for (04 R108): the storage region, the new bias (true for host), and the die whose
register asked, if one did, and whether it has begun. -/
structure Flip where
  region : Nat
  host   : Bool
  by_    : Option Nat
  begun  : Bool := false
  deriving DecidableEq, Repr

/-- An entry of a die's access counters (04 R109): the job of the last device access, both counts, and the order of
the last touch. -/
structure Counter where
  job  : Nat
  host : Nat
  dev  : Nat
  at_  : Nat
  deriving DecidableEq, Repr

/-! ## Engines outside a slot -/

/-- Where a completion is reported: a completion record, or the completion ring of a shared queue with its claim
(13 R321, 03 R77). -/
inductive Origin where
  | record (crec : Word)
  | queue (desc : Word)
  deriving DecidableEq, Repr

/-- A stream subscription (13 R330, 17 R424): the packet and its address, its ring's home, whole tiles done, whether a slot
is claimed or taken for the tile under way, a drop, a pause (04 R105), the status once complete. -/
structure Sub where
  uid    : Nat
  slot   : Nat
  job    : Nat
  stack  : Nat
  addr   : Word
  pkt    : BitVec 512
  origin : Origin
  ring   : Loc
  tiles  : Nat
  held   : Option (BitVec 32)
  drop   : Bool
  paused : Option (BitVec 3 × Word × Bool)
  status : Option Nat
  fcode  : Nat
  by_    : Seq
  deriving DecidableEq, Repr

/-- An element on its way through a collective: its code (none: thinned out), its block's scale byte, the code
difference of the granule that it came in (02 R54, R56). -/
structure CEl where
  code  : Option Nat
  scale : Nat
  syn   : BitVec 16
  deriving DecidableEq, Repr

/-- What a member sends to or receives from another member in one step of a collective: the bytes with the codes of their
granules, their length, and how many have gone through the ring (02 R54). -/
structure CMsg where
  peer  : Nat
  step  : Nat
  val   : Nat
  codes : Nat
  len   : Nat
  off   : Nat
  deriving DecidableEq, Repr

/-- One flit's worth of a scale agreement at a member that has not passed it on: its number, lanes, VER and SKEW, and whether a fold
found its carried codes wrong (02 R47, R48). -/
structure CFold where
  num   : Nat
  lanes : BitVec 1024
  ver   : BitVec 4
  skew  : Bool
  bad   : Bool := false
  deriving DecidableEq, Repr

/-- A collective on a member (02 R50-R58, 17 R426): the issuing slot and core, the descriptor and its address, the shared
queue that it came by, when it was accepted; its formats, scales, version and record; how far it is (0 accepted, 1 in
agreement, 2 + k in step k); the members; its own exponents, the agreement's flits and the numbers of those that have come from another
device; its elements, what it sends and has received; shards ready and shards raised; saturations, a mark, an unequal version; its status
once decided, with its fault code; its pause; whether its record has been written or given up, so that its release of SYNC is left. -/
structure Coll where
  uid    : Nat
  slot   : Nat
  job    : Nat
  core   : Nat
  addr   : Word
  desc   : BitVec 2048
  queue  : Option Word
  at_    : Nat
  fmt    : Fmt
  scale  : Int
  ver    : Nat
  sfmt   : Fmt
  sscale : Int
  record : Option NamedRec
  phase  : Nat
  mems   : List Nat
  vec    : List (BitVec 1024)
  folds  : List CFold
  got    : List Nat := []
  agreed : List (Nat × BitVec 1024)
  data   : List CEl
  outs   : List CMsg
  inns   : List CMsg
  ready  : List (Nat × List CEl)
  shards : List Nat
  sats   : Nat
  marked : Bool
  skew   : Bool
  status : Option Nat
  fcode  : Nat
  paused : Option (BitVec 3 × Word × Bool)
  ended  : Bool
  deriving DecidableEq, Repr

/-- A reduction admission pass at a home (08 R226, R227): its table, the home's stack, the table's valid entries, the entry
it waits for and since when, the contributions and skip notices that have arrived and are not added, and whether it is one
of the eight in progress. -/
structure RedPass where
  table   : Loc
  home    : Nat
  entries : List Nat
  pos     : Nat
  since   : Nat
  held    : List RedPacket
  active  : Bool
  deriving DecidableEq, Repr

/-- A saved task (05 R146): what the device keeps beside its image (log 46), that is its slot, its subscriptions with their progress and its
region's lines as they were saved; the physical address of its image in the job's save area, or its allocation where there is none; `uid` is where its collectives find it. -/
structure Saved where
  uid   : Nat
  slot  : Slot
  subs  : List Sub
  lines : List (Word × Nat)
  area  : Option Nat
  alloc : Store := .empty
  cause : Nat
  place : Nat
  deriving DecidableEq, Repr

/-- What a task-queue entry holds (05 R121, R146). `parent` 0 is the job. -/
inductive WorkItem where
  | task (record : Word) (parent : Word)
  | range (launch : Word) (first count : Nat)
  | saved (t : Saved)
  deriving DecidableEq, Repr

/-- A task-queue entry: when it was pushed and whether it has aged (05 R125), its place in the order of pushes (R124), and since when it
has stood at the head of its queue (R145). -/
structure WorkEnt where
  item  : WorkItem
  at_   : Nat
  aged  : Bool
  ord   : Nat
  since : Option Nat := none
  deriving DecidableEq, Repr

/-! ## Levels, launches, gangs, graphs, barriers (05, 06) -/

/-- A live-level table entry (05 R119), with the level's record address and kind; `forced` when a fence cancelled it, so
that it completes FAILED whatever its COUNT (05 R136). -/
structure Level where
  hdr    : Word
  parent : Word
  job    : Nat
  kind   : Nat
  forced : Bool := false
  deriving DecidableEq, Repr

/-- A launch whose indices are not all dealt (05 R134): next index and count left. -/
structure Deal where
  hdr   : Word
  job   : Nat
  prio  : Nat
  next  : Nat
  left  : Nat
  chunk : Nat
  dev   : Bool
  die   : Nat
  deriving DecidableEq, Repr

/-- A gang that waits to be placed (05 R127-R130): its record, shape and needs; when it was pushed, its place in the order of pushes, whether
it has aged, since when it has stood at the head (R124, R125, R145); its reservation: cluster, base, when it was made; the members saved
by a pre-emption, in order (R147). -/
structure GangReq where
  uid     : Nat
  hdr     : Word
  tmpl    : Word
  job     : Nat
  prio    : Nat
  shape   : BitVec 2
  members : Nat
  need    : Nat
  nbar    : Nat
  scope   : Nat
  cluster : Nat
  die     : Nat
  at_     : Nat
  ord     : Nat
  aged    : Bool := false
  since   : Option Nat := none
  lgid    : Option (BitVec 32)
  resv    : Option (Nat × Nat × Nat)
  saved   : List Saved := []
  deriving DecidableEq, Repr

/-- A linked gang (02 R59, R60): this device coordinates it or is a member; the devices with the address of each one's
record, who has accepted, who has started, the phase (0 reserving, 1 started, 2 cancelled) and the time it began. -/
structure LGang where
  lgid   : BitVec 32
  coord  : Bool
  hdr    : Word
  job    : Nat
  tmo    : Nat
  devs   : List (BitVec 12 × Word)
  acks   : List (BitVec 12)
  starts : List (BitVec 12)
  phase  : Nat
  at_    : Nat
  deriving DecidableEq, Repr

/-- A barrier of a die (05 R138, R139): participants (0 when free), arrivals, phase, a lost partner, the level that
holds it as job * 2^64 + header, the linked gang it serves with its local count and the local arrivals since they were last forwarded
(R141). -/
structure Bar where
  p     : Nat
  a     : Nat
  ph    : BitVec 32
  lost  : Bool
  owner : Nat
  lgid  : Option (BitVec 32)
  loc_  : Nat
  la    : Nat := 0
  deriving DecidableEq, Repr

/-- A free barrier. -/
def Bar.free : Bar := { p := 0, a := 0, ph := 0, lost := false, owner := 0, lgid := none, loc_ := 0 }

/-- A stage of a loaded graph (06 R150, R151, R158): its template's copy, its rings and the descriptors of them that the arbiter holds
(R152), needs and limits, counts, state. -/
structure Stage where
  tmpl    : BitVec 512
  tva     : Word
  inr     : Word
  outr    : Word
  insp    : Option Span
  outsp   : Option Span
  inst    : Nat
  inneed  : Nat
  outneed : Nat
  minc    : Nat
  maxc    : Nat
  cores   : List Nat
  started : Nat
  ended   : Nat
  lost    : Bool
  auto    : Nat
  left    : Nat
  state   : Nat
  deriving DecidableEq, Repr

/-- A loaded graph (06 R149, R156, R161, R162): stages, barriers, samples of this interval, moves under way (core, old
stage), the time its interval began. -/
structure Graph where
  hdr      : Word
  job      : Nat
  die      : Nat
  hyst     : Nat
  interval : Nat
  bars     : List Nat
  stages   : List Stage
  samples  : List (List Int)
  moves    : List (Nat × Nat)
  at_      : Nat
  deriving DecidableEq, Repr

/-- A ring unit's marks of one ring: absolute slot numbers filled and released ahead of the counters (06 R153), and
whether the descriptor is waiting to close (15 R382). -/
structure RingMarks where
  filled   : List Nat
  released : List Nat
  closing  : Bool
  deriving DecidableEq, Repr

/-- No marks. -/
def RingMarks.none : RingMarks := { filled := [], released := [], closing := false }

/-! ## Fabric (02) -/

/-- An inbound window (02 R41). -/
structure Window where
  base : Word
  size : Nat
  tag  : BitVec 12
  w    : Bool
  r    : Bool
  a    : Bool
  n    : Bool
  deriving DecidableEq, Repr

/-- A device-link port (02 R35, R37): dropped flits, consecutive failed retries of the flit under way, down. -/
structure Port where
  errs    : Nat
  retries : Nat
  down    : Bool
  deriving DecidableEq, Repr

/-- An outbound fabric window: a range of physical addresses that reaches memory homed on another device, from an address there on (08
R200; log 16). -/
structure OutWin where
  base : Nat
  size : Nat
  dev  : BitVec 12
  pa   : Nat
  deriving DecidableEq, Repr

/-- A posted write on its way to another device, without its WRACK yet (02 R42): its job, destination and TAG; for a slot's own write the
slot and the line; and whether it was lost with the device. -/
structure OutWr where
  job  : Nat
  dst  : BitVec 12
  tag  : BitVec 12
  slot : Option Nat
  line : Nat
  lost : Bool
  deriving DecidableEq, Repr

/-- A read of 128 bytes of another device for a core's L1, without its RDRESP yet (02 R37): TAG, device, core, and the first line. -/
structure FarRead where
  tag  : BitVec 12
  dst  : BitVec 12
  core : Nat
  line : Nat
  deriving DecidableEq, Repr

/-- A port that trains and has seen nothing. -/
def Port.up : Port := { errs := 0, retries := 0, down := false }

/-! ## Host (03, 04) -/

/-- What a host port or the supervisor's management puts in: a register write or a read through BAR0, a snoop, a line access, the
package power limit of the board's controller (01 R22), bytes that a checkpoint's target takes (03 R85), a rise of a fused minimum that
Lanimor has signed (03 R87), the pre-emption delay (05 R145), what the supervisor makes of a task that has met a machine check (R137),
and the loading of the fabric tables, for which the spec gives no register (02 R34, R41; log 24). -/
inductive HostIn where
  | srq (v : Word)
  | sevq (v : Word)
  | reg (die : Nat) (off : Nat) (v : Word)
  | route (dst : BitVec 12) (mask : BitVec 18)
  | window (i : Nat) (w : Option Window)
  | outWindow (i : Nat) (w : Option OutWin)
  | device (id : BitVec 12)
  | bar (die : Nat) (off : Nat)
  | limit (w : Nat)
  | progress
  | minimum (kind : Nat) (svn : Word) (sig : List Byte)
  | delay (ns : Nat)
  | dispose (slot : Nat) (replay : Bool)
  | read (pa n : Nat)
  | write (pa n v : Nat)
  | snoop (pa : Nat) (data : Option (BitVec 512))
  deriving DecidableEq, Repr

/-- A request to the supervisor (03 R68), as its packet gives it (log 13). -/
inductive Request where
  | createJob (r : JobReq)
  | killJob (job : Nat)
  | createQueue (job : Nat) (desc : Word)
  | destroyQueue (job : Nat) (desc : Word)
  | checkpoint (t : CkptTarget)
  | restore (i : Image)
  | attest (nonce : List Byte)
  | fwStage (image : List Byte)
  | warmReset
  | fenceDie (die : Nat)
  deriving DecidableEq, Repr

/-- What a request answers beside its completion: a job's id and tag, a quote, an image (03 R68, R83, R90). -/
inductive Reply where
  | job (id : Nat) (tag : BitVec 12)
  | quote (bytes : List Byte)
  | image (i : Image)
  | data (v : Nat)
  | read (v : List Byte) (poison : Bool)
  deriving DecidableEq, Repr

/-- An enabled shared queue (03 R71, R75): its descriptor, job, kind, since when the head slot has been claimed and not
seen, the write index a DESTROY_QUEUE read, and the packet accepted and not run of kinds 1 and 2: bytes 0-7, byte 8 and the bytes
up to 55. -/
structure HQueue where
  desc  : Word
  job   : Nat
  kind  : Nat
  since : Option Nat
  upto  : Option Nat
  pkt   : Option (Word × Byte × List Byte) := none
  deriving DecidableEq, Repr

/-! ## Power and start (01) -/

/-- The limiters (01 R20-R23): the clock setting of each in steps of 100 MHz, the package limit in watts, the power samples of the
last 1 ms with their times, newest first, the die temperatures in degrees and when each was read, the time of the thermal limiter's
last step, since when power has stood over its limit at the least clock, and the same for each die's temperature. -/
structure Power where
  powerClk   : Nat
  thermalClk : Nat
  limit      : Nat
  samples    : List (Nat × Nat)
  temps      : List (Nat × Nat)
  tempAt     : List (Nat × Nat)
  stepAt     : Option Nat
  overPower  : Option Nat
  overTemps  : List (Nat × Nat)
  deriving DecidableEq, Repr

/-- The limiters after reset: the nominal clock and the limit of LGN4-MOD. -/
def Power.reset : Power :=
  { powerClk := Config.clkMax, thermalClk := Config.clkMax, limit := Config.powerLimit, samples := [], temps := [], tempAt := [],
    stepAt := none, overPower := none, overTemps := [] }

/-- What a start leaves and a reset meets (01 R25-R32, 03 R86-R88): the pins RESET_N, PWRGOOD and FREEZE, PWRGOOD held since
RESET_N fell, the clocks frozen with READY as latched, the clean-shutdown flag, full read-out unlocked, the number of the challenge
that the freeze drew, the measurement registers, the fused minimum security versions, staged images. -/
structure Boot where
  resetN   : Bool
  pwrgood  : Bool
  held     : Bool
  pin      : Bool
  frozen   : Bool
  latched  : Bool
  clean    : Bool
  unlocked : Bool
  nonce    : Nat
  measure  : List (BitVec 512)
  minSvn   : List Word
  staged   : List (Nat × List Byte)
  portMode : BitVec 2
  deriving DecidableEq, Repr

/-- Before the first start: no rail, no flag, no measurement. -/
def Boot.reset : Boot :=
  { resetN := false, pwrgood := false, held := false, pin := false, frozen := false, latched := false, clean := false, unlocked := false, nonce := 0,
    measure := List.replicate 8 0, minSvn := List.replicate 8 0, staged := [], portMode := 0 }

/-- The package. A request in `requests` carries the job and descriptor of the queue that it came by; `ckStage` is 1 while a checkpoint or restore stops the jobs and 2 from `ckAt` on, while
its bytes move; `tlb` holds leaves by the number of their cache and `ptrs` pointer entries by die (04 R98); `drops` lists the table
lines written while accesses derived from them are in flight, each with the first word number after the write (04 R100), and `held` what
comes about again once a word completes or a flip ends (R100, R108); `delay` is the
pre-emption delay (05 R145) and `fwds` the barrier completions forwarded to other devices: device, linked gang, die and barrier (R141); `served` is the slot that an
engine or issue port served last, plus one, by its place (07 R169, R184, R186); `snaps` holds what the device keeps of a task that SNAP saved, beside its image (log 46); `shadows` holds a sender's
FILL and FREE of each far receive ring (02 R45); `outWins` the outbound fabric windows (08 R200), `outWrs` the posted writes without an acknowledgement and
`farReads` the reads without an answer (02 R42), `hbAt` when HBEAT was last sent, `freshWins` the lost devices since whose loss
a window has been loaded (R61); `deferred` lists the Regulator steps that wait for a held record: job, record, phase (10 R271). -/
structure State where
  mem     : Store
  clines  : List (Nat × CLine)
  icache  : List (Nat × BitVec 128)
  ccache  : List (Nat × CLine)
  tlb     : List (Nat × TlbEnt)
  ptrs    : List (Nat × PtrEnt)
  drops   : List (Nat × Nat)
  held    : List Happening
  ranges  : List (Nat × RelRange)
  slots   : List (Nat × Slot)
  time    : Nat
  turn    : Thread
  agenda  : List Item
  nextUid : Nat
  draws   : Nat
  served  : List (Nat × Nat)
  dies    : Vector Die (2 ^ 2)
  jobs    : List (Nat × Job)
  parked  : List (Nat × Nat × Word)
  srq     : Word
  sevq    : Word
  sevovf  : Bool
  supDrop : Nat
  waitEv  : List Event
  mgmt    : List Event
  deadCores : List Nat
  warm    : Bool
  dbg     : Bool
  ckbusy  : Bool
  ckStage : Nat
  ckAt    : Nat
  startrec : Word
  startAt : Nat
  bias    : List (Nat × Bool)
  flips   : List Flip
  counts  : List (Nat × Counter)
  running : Bool
  deferred : List (Nat × Word × Nat)
  gcmds   : List GCmd
  subs    : List Sub
  colls   : List Coll
  shadows : List (Nat × (BitVec 32 × BitVec 32))
  passes  : List RedPass
  levels  : List Level
  deals   : List Deal
  work    : List (Nat × List WorkEnt)
  snaps   : List Saved
  rr      : List (Nat × (Nat × Nat))
  gangs   : List GangReq
  delay   : Nat
  fwds    : List (BitVec 12 × BitVec 32 × Nat)
  lgangs  : List LGang
  bars    : List (Nat × Bar)
  graphs  : List Graph
  rings   : List (Nat × RingMarks)
  beats   : List (Nat × Nat)
  master  : Option Nat
  devId   : BitVec 12
  routes  : List (Nat × BitVec 18)
  windows : List (Nat × Window)
  ports   : List (Nat × Port)
  heard   : List (Nat × Nat)
  lostDevs : List (BitVec 12)
  freshWins : List (BitVec 12)
  hbAt    : Option Nat
  outWins : List (Nat × OutWin)
  outWrs  : List OutWr
  farReads : List FarRead
  rx      : List (Nat × Flit)
  tx      : List (Nat × Flit)
  hostIn  : List HostIn
  requests : List (Request × Option (Nat × Word))
  replies : List Reply
  hqueues : List HQueue
  power   : Power
  boot    : Boot
  deriving DecidableEq, Repr

/-- The machine right after reset. -/
def State.reset : State :=
  { mem := .empty, clines := [], icache := [], ccache := [], tlb := [], ptrs := [], drops := [], held := [], ranges := [], slots := [], time := 0,
    turn := ⟨0, .K⟩, agenda := [], nextUid := 0, draws := 0, served := [],
    dies := .replicate _ .reset, jobs := [], parked := [], srq := 0, sevq := 0, sevovf := false, supDrop := 0,
    waitEv := [], mgmt := [], deadCores := [], warm := false, dbg := false, ckbusy := false, ckStage := 0, ckAt := 0, startrec := 0, startAt := 0,
    bias := [], flips := [], counts := [], running := false,
    deferred := [], gcmds := [], subs := [], colls := [], shadows := [], passes := [], levels := [], deals := [], work := [], snaps := [], rr := [], gangs := [], delay := Config.preemptDelay, fwds := [], lgangs := [],
    bars := [], graphs := [], rings := [], beats := [], master := none, devId := 0, routes := [], windows := [],
    ports := [], heard := [], lostDevs := [], freshWins := [], hbAt := none, outWins := [], outWrs := [], farReads := [], rx := [], tx := [], hostIn := [], requests := [], replies := [],
    hqueues := [], power := .reset, boot := .reset }

end Sys2Proof.Machine
end

