-- ==== Sys2Proof/Machine/Ops.lean ====
section
/-! DEFINITION. The named operations over storage, caches, slots and sequencers, and the entry to and return from the
supervisor. -/

namespace Sys2Proof.Machine

/-! ## Storage (01 R16-R18, 11 R278-R282) -/

/-- Byte 0 of the scratchpad of a core. -/
def scratchBase (core : Nat) : Loc := 2 ^ 60 + core * 2 ^ 21

/-- The byte at a location. -/
def readByte (m : Store) (a : Loc) : Byte := kvGet 0 m.cells a
/-- Write the byte at a location; a zero byte is not listed. -/
def writeByte (m : Store) (a : Loc) (b : Byte) : Store := { m with cells := kvSet 0 m.cells a b }
/-- The n bytes from a location, lowest address least significant (00 R4). -/
def readNat (m : Store) (a : Loc) : Nat → Nat
  | 0 => 0
  | n + 1 => (readByte m a).toNat + 256 * readNat m (a + 1) n
/-- Write the n low bytes of a value from a location. -/
def writeNat (m : Store) (a : Loc) : Nat → Nat → Store
  | 0, _ => m
  | n + 1, v => writeNat (writeByte m a (BitVec.ofNat 8 v)) (a + 1) n (v / 256)
/-- A granule's stored code XOR the code of its data, by granule number. -/
def granSyn (m : Store) (g : Nat) : BitVec 16 := kvGet 0 m.syns g
/-- Set a granule's code difference. -/
def setGranSyn (m : Store) (g : Nat) (x : BitVec 16) : Store := { m with syns := kvSet 0 m.syns g x }
/-- A line's metadata, by line number (11 R282). -/
def lineMeta (m : Store) (l : Nat) : Byte := kvGet 0 m.metas l
/-- Set a line's metadata. -/
def setLineMeta (m : Store) (l : Nat) (x : Byte) : Store := { m with metas := kvSet 0 m.metas l x }
/-- The canonical form of storage. -/
def Memory.wf (m : Store) : Bool := kvWf 0 m.cells && kvWf 0 m.syns && kvWf 0 m.metas

/-- The POISON bit of line metadata (11 R282). -/
def poisoned (md : Byte) : Bool := md.getLsbD 3

/-- The storage location of a physical address, and what lies there; none outside every range of 01 R16. The spec lays out no part of the
system region, so a diagnostic read of it finds plain storage, which the record cache, directory and spill area of the model do not write
(01 R14; log 102). -/
def locate (pa : Nat) : Option (Loc × Area) :=
  if pa < 0xC000000000 then
    let n := pa / 65536
    some ((n % 12) * 2 ^ 36 + (n / 12) * 65536 + pa % 65536, .hbm)
  else if 0x1000000000000 ≤ pa ∧ pa < 0x1040000000000 then
    let d := (pa - 0x1000000000000) / 2 ^ 40
    let a := (pa - 0x1000000000000) % 2 ^ 40
    let n := a / 65536
    if a < 0x3000000000 then some ((3 * d + n % 3) * 2 ^ 36 + (n / 3) * 65536 + pa % 65536, .hbm) else none
  else if 0x2000000000000 ≤ pa ∧ pa < 0x2000400000000 then
    let a := pa % 2 ^ 32
    if a < 0xC000000 then some (pa, .vault)
    else if 0x10000000 ≤ a ∧ a < 0x11000000 then some (pa, .sysRegion) else none
  else if 0x3000000000000 ≤ pa ∧ pa < 0x3000100000000 then some (pa, .control)
  else if 0x8000000000000 ≤ pa ∧ pa < 0x10000000000000 then some (pa, .host)
  else none

/-- The physical address lies in a die-local alias (01 R16). -/
def inDieLocal (pa : Nat) : Bool := 0x1000000000000 ≤ pa && pa < 0x1040000000000

/-- The die that owns a location (01 R13, R17): the stack's die, the vault's die, the scratchpad's die. -/
def dieOf (a : Loc) : Option Nat :=
  if a < 12 * 2 ^ 36 then some (a / 2 ^ 36 / 3)
  else if 0x2000000000000 ≤ a ∧ a < 0x2000400000000 then some ((a - 0x2000000000000) / 2 ^ 32)
  else if 2 ^ 60 ≤ a then some ((a - 2 ^ 60) / 2 ^ 21 / 256)
  else none

/-! ## Slots, sequencers, jobs, dies -/

/-- The core of a slot number, in COREID form (12 R308). -/
def coreOf (slot : Nat) : Nat := slot / 2
/-- The cluster of a core, counted over the device. -/
def clusterOf (core : Nat) : Nat := core / 8
/-- The die of a core. -/
def dieOfCore (core : Nat) : Nat := core / 256

/-- A slot. -/
def getSlot (s : State) (k : Nat) : Slot := kvGet .vacant s.slots k
/-- Write a slot; a vacant slot is not listed. -/
def setSlot (s : State) (k : Nat) (x : Slot) : State := { s with slots := kvSet .vacant s.slots k x }
/-- Change a slot. -/
def updSlot (s : State) (k : Nat) (f : Slot → Slot) : State := setSlot s k (f (getSlot s k))

/-- A slot whose K runs supervisor code. -/
def Slot.supMode (x : Slot) : Bool := x.mode == .handler || x.mode == .supTask
/-- A sequencer of a slot; in supervisor mode K stands in its supervisor bank (18 R437). -/
def Slot.seq (x : Slot) : Seq → SeqSt
  | .K => if x.mode = .user then x.k else x.ksup
  | .L => x.l
  | .C => x.c
  | .S => x.s
/-- Write a sequencer of a slot. -/
def Slot.setSeq (x : Slot) (q : Seq) (v : SeqSt) : Slot :=
  match q with
  | .K => if x.mode = .user then { x with k := v } else { x with ksup := v }
  | .L => { x with l := v }
  | .C => { x with c := v }
  | .S => { x with s := v }

/-- A thread's sequencer. -/
def getSeq (s : State) (t : Thread) : SeqSt := (getSlot s t.slot).seq t.seq
/-- Write a thread's sequencer. -/
def setSeq (s : State) (t : Thread) (v : SeqSt) : State := updSlot s t.slot fun x => x.setSeq t.seq v
/-- Change a thread's sequencer. -/
def updSeq (s : State) (t : Thread) (f : SeqSt → SeqSt) : State := setSeq s t (f (getSeq s t))

/-- A job's fields. -/
def getJob (s : State) (j : Nat) : Job := kvGet .free s.jobs j
/-- Write a job's fields. -/
def setJob (s : State) (j : Nat) (x : Job) : State := { s with jobs := kvSet .free s.jobs j x }
/-- A die. -/
def getDie (s : State) (d : Nat) : Die := s.dies.toList.getD d .reset
/-- Change a die. -/
def updDie (s : State) (d : Nat) (f : Die → Die) : State :=
  if h : d < 4 then { s with dies := s.dies.set d (f (s.dies[d]'h)) h } else s

/-- The job of a slot: 0 for a supervisor task or a vacant slot (18 R448). -/
def Slot.job (x : Slot) : Nat :=
  match x.task with
  | some t => t.job
  | none => 0

/-- The slot number under which a unit of a die works on no slot's account, for a job. -/
def unitSlot (die job : Nat) : Nat := 2 ^ 20 + 4 * job + die
/-- The number names a unit, not a slot. -/
def isUnit (slot : Nat) : Bool := decide (2 ^ 20 ≤ slot)
/-- The job of a slot, or for which a unit works. -/
def slotJob (s : State) (slot : Nat) : Nat := if isUnit slot then (slot - 2 ^ 20) / 4 else (getSlot s slot).job

/-- The time base as TIME and event records read it, from the start on (03 R66, R79). -/
def now (s : State) : Nat := s.time - s.startAt
/-- Draw the index of the next free value (log 10). -/
def draw (s : State) : Nat × State := (s.draws, { s with draws := s.draws + 1 })
/-- One of some entries, which one is free (log 7). -/
def anyOf {α : Type} (s : State) (l : List α) : State × Option α :=
  let (i, s) := draw s
  (s, l[Config.victim i % l.length]?)
/-- Put an entry into the cache of its owner, of a given size; a full one gives up an entry (log 7). -/
def cachePut {β : Type} (s : State) (l : List (Nat × β)) (size key : Nat) (v : β) : State × List (Nat × β) :=
  let mine := l.filter fun e => e.1 / 2 ^ 64 == key / 2 ^ 64
  if (kvFind l key).isSome || decide (mine.length < size) then (s, kvInsert key v l) else
    let (s, x) := anyOf s mine
    (s, kvInsert key v (match x with | some x => kvErase l x.1 | none => l))
/-- A fresh number for an issued word or command. -/
def takeUid (s : State) : Nat × State := (s.nextUid, { s with nextUid := s.nextUid + 1 })
/-- The member number of a saved task of a gang. -/
def Saved.member (t : Saved) : Nat := ((t.slot.task.bind (·.gang)).map (·.member)).getD 0
/-- The tasks that a waiting gang stands for: all its members, or those that have been saved. -/
def GangReq.waiting (g : GangReq) : Nat := if g.saved.isEmpty then g.members else g.saved.length
/-- The tasks that pre-emption has saved and that wait to be restored (05 R146). -/
def savedTasks (s : State) : List Saved :=
  (s.work.flatMap fun e => e.2.filterMap fun w => match w.item with | .saved t => some t | _ => none) ++ s.gangs.flatMap (·.saved)
/-- Change every saved task, those that wait and those that SNAP has saved (05 R146, 18 R446). -/
def mapSaved (s : State) (f : Saved → Saved) : State :=
  { s with
    snaps := s.snaps.map f
    gangs := s.gangs.map fun (g : GangReq) => { g with saved := g.saved.map f }
    work := s.work.map fun e => (e.1, e.2.map fun (w : WorkEnt) => match w.item with
      | .saved t => { w with item := .saved (f t) }
      | _ => w) }
/-- A word has touched a barrier or ring shared with a missing member of a linked gang: the watchdog's last steps come about
(02 R60). -/
def gangTouched (s : State) (lgid : BitVec 32) : State :=
  if s.lgangs.any fun g => g.lgid == lgid && g.phase == 2 then
    { s with
      lgangs := s.lgangs.map fun (g : LGang) => if g.lgid = lgid ∧ g.phase = 2 then { g with phase := 3 } else g
      agenda := s.agenda ++ [⟨0, .event (.gangTimeout lgid)⟩] }
  else s
/-- The linked gang of a slot's task. -/
def Slot.linked (x : Slot) : Option (BitVec 32) := (x.task.bind (·.gang)).bind (·.lgid)
/-- A slot touches what it shares with a missing member. -/
def touchLost (s : State) (slot : Nat) : State :=
  match (getSlot s slot).linked with
  | some l => gangTouched s l
  | none => s
/-- A device is unreachable, or missing from a linked gang that has started (02 R60, R61): a coordinator knows who has started; a member
knows of itself and the coordinator, once the level's cancel has reached it. -/
def devMissing (s : State) (dev : BitVec 12) : Bool :=
  s.lostDevs.contains dev || s.lgangs.any fun g => decide (2 ≤ g.phase) && !g.starts.contains dev && g.devs.any fun d => d.1 == dev
/-- Place what comes about next at the end of the agenda (log 3). -/
def enqueue (s : State) (w : Happening) : State := { s with agenda := s.agenda ++ [⟨0, w⟩] }

/-! ## The fabric (02 R33-R38) -/

/-- The codes of a data field (02 R35). -/
def flitCodes (d : BitVec 1024) : BitVec 128 :=
  BitVec.ofNat 128 (((List.range 8).map fun g => (granuleCode (d.extractLsb' (128 * g) 128)).toNat * 2 ^ (16 * g)).foldl (· + ·) 0)
/-- A flit that names a word of up to 8 bytes: the value in bits 63-0 of its data field and the byte offset in its 128
bytes in bits 134-128 (log 25). -/
def wordFlit (s : State) (kind : BitVec 6) (cls : BitVec 2) (dst tag jobtag : BitVec 12) (pa : BitVec 52) (v : Word) : Flit :=
  let data : BitVec 1024 := v.setWidth 1024 ||| ((pa.extractLsb' 0 7).setWidth 1024 <<< 128)
  { kind, cls, dst, src := s.devId, jobtag, tag, hops := 0, addr := pa.extractLsb' 7 45, gmask := 0,
    meta0 := 0, meta1 := 0, rsvd := 0, codes := flitCodes data, data, reject := false }
/-- The die that carries a port (02 R33). -/
def portDie (p : Nat) : Nat := if p < 5 then 0 else if p < 10 then 1 else if p < 14 then 2 else 3
/-- A port carries flits: it is not down, and the die that carries it is not fenced (02 R33, R35, 01 R30). -/
def portUp (s : State) (p : Nat) : Bool := !(kvGet .up s.ports p).down && !(getDie s (portDie p)).fenced
/-- The port a flow leaves on (02 R34); none when its destination is unreachable. Where the flow's own port is down, the index is taken
again among the mask's ports that are up (R35 names none of them; log 103). -/
def routePort (s : State) (dst : BitVec 12) (cls : BitVec 2) : Option Nat :=
  let mask := kvGet 0 s.routes dst.toNat
  let all := (List.range 18).filter fun i => mask.getLsbD i
  let ports := all.filter (portUp s)
  let i := s.devId.toNat + 3 * dst.toNat + cls.toNat
  if s.lostDevs.contains dst then none
  else
    match all[i % all.length]? with
    | some p => if portUp s p then some p else ports[i % ports.length]?
    | none => none
/-- A device cannot be reached: it is lost, or no port carries flits to it (02 R34, R35, R61). -/
def unreachable (s : State) (dst : BitVec 12) : Bool := (routePort s dst 0).isNone

/-- Send a flit; one whose destination is unreachable is lost (02 R34, R42). -/
def sendFlit (s : State) (f : Flit) : State :=
  match routePort s f.dst f.cls with
  | some p => { s with tx := s.tx ++ [(p, f)] }
  | none => s

/-- A location in the range of outbound fabric windows (08 R200; log 16). -/
def farLoc (loc : Nat) : Bool := decide (2 ^ 50 ≤ loc) && decide (loc < 2 ^ 51)
/-- The device that holds a location of an outbound window, and its address there. -/
def farAddr (s : State) (loc : Nat) : Option (BitVec 12 × Nat) :=
  (s.outWins.find? fun w => decide (w.2.base ≤ loc) && decide (loc < w.2.base + w.2.size)).map fun w =>
    (w.2.dev, w.2.pa + (loc - w.2.base))
/-- What lies at a physical address that a leaf maps: a range of 01 R16, or the range of outbound windows. -/
def leafArea (pa : Nat) : Option (Loc × Area) :=
  match locate pa with
  | some x => some x
  | none => if farLoc pa then some (pa, .remote) else none
/-- The post of a write to a line of another device: the granules written, with their codes and the line's metadata (02 R42). `mark` is the
line of a slot's own write, else 0. -/
def postWr (s : State) (job line mark : Nat) (l : List (Nat × BitVec 128 × BitVec 16)) (md : Byte) : State :=
  match farAddr s (64 * line) with
  | none => s
  | some (dst, pa) =>
    let (n, s) := takeUid s
    let tag := BitVec.ofNat 12 n
    let g0 := pa / 64 % 2 * 4
    let sum (f : Nat × BitVec 128 × BitVec 16 → Nat) : Nat := (l.map f).foldl (· + ·) 0
    let f : Flit :=
      { kind := 1, cls := 0, dst, src := s.devId, jobtag := (getJob s job).jobtag, tag, hops := 0, addr := BitVec.ofNat 45 (pa / 128),
        gmask := BitVec.ofNat 8 (sum fun e => 2 ^ (g0 + e.1)), meta0 := if g0 = 0 then md.extractLsb' 2 6 else 0,
        meta1 := if g0 = 0 then 0 else md.extractLsb' 2 6, rsvd := 0,
        codes := BitVec.ofNat 128 (sum fun e => (granuleCode e.2.1 ^^^ e.2.2).toNat * 2 ^ (16 * (g0 + e.1))),
        data := BitVec.ofNat 1024 (sum fun e => e.2.1.toNat * 2 ^ (128 * (g0 + e.1))), reject := false }
    let w : OutWr := { job, dst, tag, slot := none, line := mark, lost := unreachable s dst }
    { sendFlit s f with outWrs := s.outWrs ++ [w] }

/-! ## Homes and cluster views (08 R200-R203) -/

/-- The granule `g` of line `line` at its home. -/
def homeGran (s : State) (line g : Nat) : CGran :=
  { data := BitVec.ofNat 128 (readNat s.mem (64 * line + 16 * g) 16), syn := granSyn s.mem (4 * line + g),
    dirty := none }
/-- The POISON that every access to storage of a fenced die meets, whatever its line's metadata holds (01 R30 step 3). -/
def fencePoison (s : State) (line : Nat) : Byte :=
  match dieOf (64 * line) with
  | some d => if (getDie s d).fenced && 64 * line < 2 ^ 60 then 8#8 else 0
  | none => 0
/-- A line's metadata at its home: storage of a fenced die reads poisoned (01 R30 step 3), and so does a line of another device that no L1
holds, for whoever cannot reach it there (02 R34; log 16). -/
def homeMeta (s : State) (line : Nat) : Byte :=
  lineMeta s.mem line ||| fencePoison s line ||| (if farLoc (64 * line) then 8#8 else 0)

/-- The spans a store writes. -/
def StoreOp.spans : StoreOp → List Span
  | .plain sps _ => sps
  | .vec sps _ => sps
  | .tensor ws => ws.map (·.span)
  | .red r => [r.span]
  | .rel sp _ => [sp]
  | .count sp _ => [sp]
  | .engine ws => ws.map (·.span)
  | .rdone sp _ _ => [sp]
/-- The spans that an issued word has still to reach. -/
def Work.spans : Work → List Span
  | .load sps _ => sps
  | .const sps _ => sps
  | .ldq _ sps _ _ => sps
  | .store op => op.spans
  | .qput _ _ => []
  | .await _ => []
  | .fill _ => []
  | .far sp _ _ => [sp]
  | .relw sp _ => [sp]
  | .none => []
/-- An issued word numbered below `bound`, of some slot, has still to reach a span of which `p` holds. -/
def accessing (s : State) (bound : Nat) (p : Span → Bool) : Bool :=
  s.slots.any fun e => [e.2.k, e.2.ksup, e.2.l, e.2.c, e.2.s].any fun q =>
    q.outst.any fun o => !o.done && decide (o.tag < bound) && o.work.spans.any p
/-- What cannot come about yet comes about again once a word completes or a flip ends (04 R100, R108). -/
def hold (s : State) (w : Happening) : State := if s.held.contains w then s else { s with held := s.held ++ [w] }
/-- What was held comes about again. -/
def unhold (s : State) : State := { s with agenda := s.agenda ++ s.held.map (⟨0, ·⟩), held := [] }

/-- The physical address of a location of HBM in the interleaved alias; other locations are their own (01 R17). -/
def physOf (loc : Loc) : Nat :=
  if loc < 12 * 2 ^ 36 then (loc % 2 ^ 36 / 65536 * 12 + loc / 2 ^ 36) * 65536 + loc % 65536 else loc
/-- The physical address of a location of HBM in its die's local alias; other locations are their own (01 R17). -/
def physLocal (loc : Loc) : Nat :=
  if loc < 12 * 2 ^ 36 then
    0x1000000000000 + loc / 2 ^ 36 / 3 * 2 ^ 40 + (loc % 2 ^ 36 / 65536 * 3 + loc / 2 ^ 36 % 3) * 65536 + loc % 65536
  else loc
/-- A line lies in one of some runs of physical addresses, through either alias (01 R17, R18). -/
def lineIn (runs : List (Nat × Nat)) (line : Nat) : Bool :=
  runs.any fun r => [physOf (64 * line), physLocal (64 * line)].any fun pa => decide (r.1 < pa + 64) && decide (pa < r.1 + r.2)
/-- The physical address of an entry (04 R94). -/
def ptePa (e : Word) : Nat := (e.extractLsb' 12 40).toNat * 4096

/-- A line has been written: translations derived from it are dropped (04 R100), with the lines that stores through them left dirty on their
way home and the accesses in flight under them noted; walks parked on it restart (R111), and events that wait for room look again (03
R79). -/
def lineWritten (s : State) (line : Nat) : State :=
  let s := if s.waitEv.isEmpty then s else enqueue s .posting
  let woken := s.parked.filter fun p => p.1 == line
  let gone := s.tlb.filter fun e => e.2.entries.contains line
  let pages := gone.map fun e => (ptePa e.2.leaf, e.2.size)
  let dirty := s.clines.filter fun c => (c.2.gr.toList.any fun x => x.any fun y => y.dirty.isSome) && lineIn pages (c.1 % 2 ^ 64)
  let s := { s with
    tlb := s.tlb.filter (fun e => !e.2.entries.contains line)
    ptrs := s.ptrs.filter (fun e => !e.2.lines.contains line)
    drops := if accessing s s.nextUid fun sp => sp.walk.contains line then s.drops ++ [(line, s.nextUid)] else s.drops
    parked := s.parked.filter (fun p => p.1 != line) }
  let s := dirty.foldl (fun s c => enqueue s (.evict (c.1 / 2 ^ 64) (c.1 % 2 ^ 64))) s
  woken.foldl (fun s p => enqueue s (.event (.walkRestart (p.2.1 / 1024) (p.2.1 % 1024) p.2.2))) s

/-- A write to a word clears the range recorded with it (08 R212). -/
def clearRanges (s : State) (a n : Nat) : State :=
  { s with ranges := s.ranges.filter (fun e => !(decide (e.1 < a + n) && decide (a < e.1 + 8))) }

/-- The line lies in host memory, which carries no codes (01 R16, 11 R281). -/
def hostLine (line : Nat) : Bool := decide (2 ^ 51 ≤ 64 * line) && decide (64 * line < 2 ^ 52)
/-- Write a whole granule at its home. A host port checks the codes of what it sends to host memory, which keeps none (11 R281). -/
def putHomeGran (s : State) (line g : Nat) (d : BitVec 128) (syn : BitVec 16) : State :=
  let y := if hostLine line then 0 else syn
  let s := { s with mem := setGranSyn (writeNat s.mem (64 * line + 16 * g) 16 d.toNat) (4 * line + g) y }
  if y = syn then s else enqueue s (.portError line (1#4 <<< g))
/-- Write a line's metadata at its home. -/
def putHomeMeta (s : State) (line : Nat) (md : Byte) : State := { s with mem := setLineMeta s.mem line md }

/-- The key of a line in a cluster's view. -/
def viewKey (cluster line : Nat) : Nat := cluster * 2 ^ 64 + line
/-- An empty line view. -/
def CLine.empty : CLine := { gr := .replicate _ none, meta_ := 0, metaDirty := false, l1 := 0, cc := false }
/-- What a cluster holds of a line. -/
def getView (s : State) (cluster line : Nat) : CLine := kvGet .empty s.clines (viewKey cluster line)
/-- Write what a cluster holds of a line; a line of which no granule is valid is not held. -/
def setView (s : State) (cluster line : Nat) (c : CLine) : State :=
  let c := if c.gr.toList.all Option.isNone then CLine.empty else c
  { s with clines := kvSet .empty s.clines (viewKey cluster line) c }

/-- Write the dirty granules that `who` picks back to their home; the copies stay, clean (08 R201). -/
def writeBack (s : State) (cluster line : Nat) (who : BitVec 4 → Bool) : State :=
  let c := getView s cluster line
  let pick (x : Option CGran) : Bool :=
    match x with
    | some y => y.dirty.elim false who
    | none => false
  if c.gr.toList.any pick then
    let whole := c.metaDirty && c.gr.toList.all pick
    let put (s : State) (g : Nat) : State :=
      match c.gr.toList.getD g none with
      | some y => if y.dirty.elim false who then putHomeGran (clearRanges s (64 * line + 16 * g) 16) line g y.data y.syn else s
      | none => s
    let s := put (put (put (put s 0) 1) 2) 3
    let s := if whole then putHomeMeta s line c.meta_ else s
    let gr := c.gr.map fun x => if pick x then x.map fun y => { y with dirty := none } else x
    lineWritten (setView s cluster line { c with gr, metaDirty := c.metaDirty && !whole }) line
  else s

/-- Drop the clean granules of a line that one core's L1 holds, and at wide scope those of its cluster (08 R208). -/
def dropClean (s : State) (core line : Nat) (wide : Bool) : State :=
  let c := getView s (clusterOf core) line
  let l1 := c.l1 &&& ~~~(1#8 <<< (core % 8))
  let gone := wide || (l1 == 0 && !c.cc)
  let gr := c.gr.map fun x =>
    match x with
    | some y => if gone && y.dirty.isNone then none else x
    | none => none
  setView s (clusterOf core) line { c with gr, l1 := if wide then 0 else l1, cc := c.cc && !wide }

/-- Write back and drop a line from a cluster's view. -/
def purge (s : State) (cluster line : Nat) : State :=
  setView (writeBack s cluster line fun _ => true) cluster line .empty

/-- The number of a sequencer: 0 K, 1 L, 2 C, 3 S (12 R308). -/
def seqNum : Seq → Nat
  | .K => 0
  | .L => 1
  | .C => 2
  | .S => 3
/-- The key of a code granule in the instruction cache of a sequencer kind of a core. -/
def fetchKey (core : Nat) (q : Seq) (gran : Nat) : Nat := (core * 4 + seqNum q) * 2 ^ 64 + gran
/-- The instruction caches of a core are emptied, as a task starts or is restored there (07 R169). -/
def dropFetched (s : State) (core : Nat) : State :=
  { s with icache := s.icache.filter fun e => e.1 / 2 ^ 64 / 4 != core }
/-- The place of an issue port among those that serve two slots in turn (07 R169). -/
def portPlace (core : Nat) (q : Seq) : Nat := 2 ^ 20 + core * 4 + seqNum q

/-- Storage that caches hold (08 R200): the cluster cache holds HBM and host lines only. -/
def Area.cached : Area → Bool
  | .hbm | .vault | .host | .remote => true
  | _ => false
/-- Lines that a cluster cache may hold. -/
def Area.inCluster : Area → Bool
  | .hbm | .host => true
  | _ => false

/-- A line leaves a core's L1: its dirty granules pass to the cluster cache, or to their home where that does not hold the line (08
R201). -/
def leaveL1 (s : State) (core line : Nat) : State :=
  let cl := clusterOf core
  let me := BitVec.ofNat 4 (core % 8)
  let s := if (getView s cl line).cc then s else writeBack s cl line fun o => o == me
  let c := getView s cl line
  let l1 := c.l1 &&& ~~~(1#8 <<< (core % 8))
  let pass (y : CGran) : CGran := { y with dirty := y.dirty.map fun o => if o = me then 8 else o }
  setView s cl line { c with gr := c.gr.map (fun x => if l1 == 0 && !c.cc then none else x.map pass), l1 }
/-- A line leaves a cluster cache: what is dirty there goes home (08 R201). -/
def leaveCluster (s : State) (cl line : Nat) : State :=
  let s := writeBack s cl line fun o => o == 8
  let c := getView s cl line
  setView s cl line { c with gr := if c.l1 = 0 then .replicate _ none else c.gr, cc := false }
/-- Room for a line that comes into a core's L1 of 64 KiB: a full one gives up a line (00 R3; log 7). -/
def roomL1 (s : State) (core line : Nat) : State :=
  let bit (c : CLine) : Bool := c.l1.getLsbD (core % 8)
  let mine := s.clines.filter fun e => e.1 / 2 ^ 64 == clusterOf core && bit e.2
  if bit (getView s (clusterOf core) line) || decide (mine.length < 1024) then s else
    match anyOf s mine with
    | (s, some e) => leaveL1 s core (e.1 % 2 ^ 64)
    | (s, none) => s
/-- Room for a line that comes into a cluster cache of 2 MiB (00 R3; log 7). -/
def roomCluster (s : State) (cl line : Nat) : State :=
  let mine := s.clines.filter fun e => e.1 / 2 ^ 64 == cl && e.2.cc
  if (getView s cl line).cc || decide (mine.length < 32768) then s else
    match anyOf s mine with
    | (s, some e) => leaveCluster s cl (e.1 % 2 ^ 64)
    | (s, none) => s

/-- Bring a line into a core's L1: granules not valid come from the home; a dirty granule of another L1 passes to
the cluster cache, or to its home where the cluster cache does not hold the line (08 R201, R202). -/
def fillLine (s : State) (core line : Nat) (area : Area) : State :=
  let cl := clusterOf core
  let me := BitVec.ofNat 4 (core % 8)
  let s := roomL1 (if area.inCluster then roomCluster s cl line else writeBack s cl line fun o => o != me) core line
  let c := getView s cl line
  let fill (g : Nat) (x : Option CGran) : Option CGran :=
    match x with
    | some y => some { y with dirty := y.dirty.map fun o => if o = me ∨ o = 8 then o else 8 }
    | none => some (homeGran s line g)
  let fresh := c.gr.toList.all Option.isNone
  setView s cl line
    { c with gr := #v[fill 0 c.gr[0], fill 1 c.gr[1], fill 2 c.gr[2], fill 3 c.gr[3]],
             meta_ := if fresh then homeMeta s line else c.meta_,
             l1 := c.l1 ||| (1#8 <<< (core % 8)), cc := c.cc || area.inCluster }

/-- Who accesses: a core through its L1, for a job; an engine through its cluster's view, for a job; a home, host port or device
unit. -/
inductive Who where
  | core (c : Nat) (job : Nat)
  | engine (c : Nat) (job : Nat)
  | home
  deriving DecidableEq, Repr

/-- The key of a region's counter on a die: regions of HBM by storage, of host memory by address (04 R109). -/
def countKey (die region : Nat) : Nat := die * 2 ^ 48 + region
/-- The counter with no entry. -/
def Counter.none : Counter := { job := 0, host := 0, dev := 0, at_ := 0 }
/-- Touch a die's counter entry for a region, creating it; a full cache discards its least recently touched entry. -/
def touchCount (s : State) (die region job : Nat) (f : Counter → Counter) : State :=
  let key := countKey die region
  let (n, s) := (s.nextUid, { s with nextUid := s.nextUid + 1 })
  let mine := s.counts.filter fun e => e.1 / 2 ^ 48 == die
  let s :=
    if (kvFind s.counts key).isNone && decide (65536 ≤ mine.length) then
      let old := mine.foldl (fun (m : Nat × Nat) e => if e.2.at_ < m.2 then (e.1, e.2.at_) else m) (0, n)
      { s with counts := kvErase s.counts old.1 }
    else s
  let c := (kvFind s.counts key).getD .none
  { s with counts := kvInsert key (f { c with job, at_ := n }) s.counts }

/-- Count a device access to a line (04 R109): an HBM region's entry is touched on its home die; an access of a line of
host memory that no cache of the cluster serves is counted on the accessing die, and MIGRATE comes about when the
job's threshold is reached; no threshold, no count (R110). -/
def countAccess (s : State) (core job : Nat) (area : Area) (line : Nat) : State :=
  let fresh := (getView s (clusterOf core) line).gr.toList.all Option.isNone
  match area with
  | .hbm => touchCount s (line / 2 ^ 30 / 3) (line / 1024) job id
  | .host =>
    if fresh then
      let die := dieOfCore core
      let th := ((getJob s job).migth.extractLsb' 16 16).toNat
      let s := touchCount s die (line / 1024) job fun c => if th = 0 then c else { c with dev := min 0xFFFF (c.dev + 1) }
      let c := (kvFind s.counts (countKey die (line / 1024))).getD .none
      if th ≠ 0 ∧ th ≤ c.dev then enqueue s (.event (.migrate die (line / 1024) true)) else s
    else s
  | _ => s

/-- A cluster holds a line of another device; it holds all of it or none (02 R42). -/
def farHeld (s : State) (cluster line : Nat) : Bool := !(getView s cluster line).gr.toList.any Option.isNone
/-- Prepare a line for an access. A line of another device comes into an L1 by RDRESP only. -/
def touchLine (s : State) (w : Who) (area : Area) (line : Nat) : State :=
  match w with
  | .core c job =>
    let s := countAccess s c job area line
    if area.cached && (area != .remote || farHeld s (clusterOf c) line) then fillLine s c line area else s
  | .engine c job => countAccess s c job area line
  | .home => s

/-- A granule as an accessor sees it. -/
def seeGran (s : State) (w : Who) (area : Area) (line g : Nat) : CGran :=
  match w with
  | .home => homeGran s line g
  | .core c _ | .engine c _ =>
    if area.cached then
      match (getView s (clusterOf c) line).gr.toList.getD g none with
      | some y => y
      | none => homeGran s line g
    else homeGran s line g
/-- A line's metadata as an accessor sees it. -/
def seeMeta (s : State) (w : Who) (area : Area) (line : Nat) : Byte :=
  match w with
  | .home => homeMeta s line
  | .core c _ | .engine c _ =>
    let v := getView s (clusterOf c) line
    if area.cached && !v.gr.toList.all Option.isNone then v.meta_ ||| fencePoison s line else homeMeta s line

/-- A write to part of one line: the bits written, their values, the codes of granules moved with their codes (none: the
writer generates them), the version stamped if the store is tagged. -/
structure LinePut where
  mask  : BitVec 512
  data  : BitVec 512
  syns  : Option (BitVec 64)
  stamp : Option (BitVec 4)
  deriving DecidableEq, Repr

/-- Granule g of a line-wide value. -/
def granBits (x : BitVec 512) (g : Nat) : BitVec 128 := x.extractLsb' (128 * g) 128

/-- Merge a write into a granule. A whole granule is replaced. Part of a granule is a consumption of the old one
(11 R280): a mismatch or poison reads as zeros on an ET page, counted, and otherwise fails. -/
def mergeGran (old : CGran) (md : Byte) (et : Bool) (p : LinePut) (g : Nat) : Option (BitVec 128 × BitVec 16 × Nat) :=
  let m := granBits p.mask g
  let d := granBits p.data g
  if m = BitVec.allOnes 128 then
    some (d, match p.syns with | some y => y.extractLsb' (16 * g) 16 | none => 0, 0)
  else if old.syn != 0 || poisoned md then
    if et then some (d &&& m, 0, 1) else none
  else some ((old.data &&& ~~~m) ||| (d &&& m), 0, 0)

/-- Metadata after a write: a tagged store sets VER and TT; a write of all four granules clears POISON, and TT when it
is untagged (11 R282). -/
def metaAfter (md : Byte) (p : LinePut) : Byte :=
  let whole := p.mask == BitVec.allOnes 512
  let md := if whole then md &&& 0xF7#8 else md
  match p.stamp with
  | some v => (md &&& 0x0B#8) ||| (v.setWidth 8 <<< 4) ||| 4#8
  | none => if whole then md &&& 0xFB#8 else md

/-- A write to a line of another device is posted to it; a cluster that holds the line takes the bytes, clean (02 R42). -/
def putFar (s : State) (w : Who) (line : Nat) (l : List (Nat × BitVec 128 × BitVec 16)) (md : Byte) : State :=
  let keep (c job : Nat) : State :=
    let s := postWr s job line line l md
    let cl := clusterOf c
    if !farHeld s cl line then s else
      let v := getView s cl line
      let set (g : Nat) (x : Option CGran) : Option CGran :=
        match l.find? fun e => e.1 == g with
        | some (_, d, y) => some { data := d, syn := y, dirty := none }
        | none => x
      setView s cl line { v with gr := #v[set 0 v.gr[0], set 1 v.gr[1], set 2 v.gr[2], set 3 v.gr[3]], meta_ := md }
  match w with
  | .core c job => keep c job
  | .engine c job => keep c job
  | .home => postWr s 0 line 0 l md
/-- Write part of one line for an accessor: none when the old granule of a merge is an uncorrectable error that the
page does not tolerate; else the state and the sectors substituted. A core writes its cluster's view (dirty in its
L1); an engine writes the home and drops its cluster's copies (08 R219); every other writer writes the home. -/
def putLine (s : State) (w : Who) (area : Area) (et : Bool) (line : Nat) (p : LinePut) : Option (State × Nat) :=
  let s := touchLine s w area line
  let md := seeMeta s w area line
  let step (g : Nat) (acc : Option (List (Nat × BitVec 128 × BitVec 16) × List Nat)) :
      Option (List (Nat × BitVec 128 × BitVec 16) × List Nat) :=
    if granBits p.mask g = 0 then acc else
      match acc, mergeGran (seeGran s w area line g) md et p g with
      | some (l, subs), some (d, y, k) => some (l ++ [(g, d, y)], if k = 0 then subs else subs ++ [g / 2])
      | _, _ => none
  match step 3 (step 2 (step 1 (step 0 (some ([], []))))) with
  | none => none
  | some (l, subs) =>
    let n := subs.eraseDups.length
    let md' := metaAfter md p
    if area = .remote then some (putFar s w line l md', n) else
    match w, area.cached with
    | .core c _, true =>
      let v := getView s (clusterOf c) line
      let me := BitVec.ofNat 4 (c % 8)
      let set (g : Nat) (x : Option CGran) : Option CGran :=
        match l.find? fun e => e.1 == g with
        | some (_, d, y) => some { data := d, syn := y, dirty := some me }
        | none => x
      let v := { v with gr := #v[set 0 v.gr[0], set 1 v.gr[1], set 2 v.gr[2], set 3 v.gr[3]], meta_ := md',
                        metaDirty := v.metaDirty || (md' != md) }
      some (lineWritten (setView s (clusterOf c) line v) line, n)
    | _, _ =>
      let s := l.foldl (fun s e => putHomeGran s line e.1 e.2.1 e.2.2) s
      let s := if md' = md then s else putHomeMeta s line md'
      let s :=
        match w with
        | .engine c _ =>
          if area.cached then
            let v := getView s (clusterOf c) line
            let cut (g : Nat) (x : Option CGran) : Option CGran := if l.any fun e => e.1 == g then none else x
            setView s (clusterOf c) line
              { v with gr := #v[cut 0 v.gr[0], cut 1 v.gr[1], cut 2 v.gr[2], cut 3 v.gr[3]], meta_ := md' }
          else s
        | _ => s
      some (lineWritten s line, n)

/-- The part of an n-byte value at `loc` that falls in one line. -/
def linePart (loc n v line : Nat) : BitVec 512 :=
  BitVec.ofNat 512 (if 64 * line ≤ loc then (v % 2 ^ (8 * n)) <<< (8 * (loc - 64 * line))
    else (v % 2 ^ (8 * n)) >>> (8 * (64 * line - loc)))
/-- The codes, 16 bits a granule from `loc`, that fall in one line. -/
def synPart (loc : Nat) (y : Nat) (line : Nat) : BitVec 64 :=
  BitVec.ofNat 64 (if 64 * line ≤ loc then y <<< (16 * ((loc - 64 * line) / 16))
    else y >>> (16 * ((64 * line - loc) / 16)))

/-- A run of bytes to write: location, length, value, the codes of whole granules moved with it, the stamp. -/
structure RunPut where
  loc   : Nat
  n     : Nat
  v     : Nat
  syns  : Option Nat
  stamp : Option (BitVec 4)
  deriving DecidableEq, Repr

/-- The part of a run in one line. -/
def RunPut.part (r : RunPut) (line : Nat) : LinePut :=
  { mask := linePart r.loc r.n (2 ^ (8 * r.n) - 1) line, data := linePart r.loc r.n r.v line,
    syns := r.syns.map fun y => synPart r.loc y line, stamp := r.stamp }

/-- Write the parts of a run in the lines from `line` on, at most `fuel` of them. -/
def putLines (w : Who) (area : Area) (et : Bool) (r : RunPut) : Nat → Nat → State → Nat → Option (State × Nat)
  | 0, _, s, k => some (s, k)
  | fuel + 1, line, s, k =>
    if r.loc + r.n ≤ 64 * line then some (s, k) else
      match putLine s w area et line (r.part line) with
      | none => none
      | some (s, j) => putLines w area et r fuel (line + 1) s (k + j)

/-- Write a run line by line; a write at its home clears the ranges recorded with the words it covers, one that stays in a cache does so as
it is written back (08 R212). The answer is none at a line whose merge fails; else the state and the sectors
substituted. -/
def putRun (s : State) (w : Who) (area : Area) (et : Bool) (r : RunPut) : Option (State × Nat) :=
  let s := match w, area.cached with | .core _ _, true => s | _, _ => clearRanges s r.loc r.n
  putLines w area et r (r.n / 64 + 2) (r.loc / 64) s 0

/-- One granule read: its number, data, code difference, poison. -/
structure GRead where
  gran   : Nat
  data   : BitVec 128
  syn    : BitVec 16
  poison : Bool
  deriving DecidableEq, Repr

/-- Read the granules from `g` on that hold bytes below `stop`, at most `fuel` of them; each line is an access once (04 R109). -/
def getGrans (w : Who) (area : Area) (stop : Nat) : Nat → Nat → State → List GRead → State × List GRead
  | 0, _, s, acc => (s, acc)
  | fuel + 1, g, s, acc =>
    if stop ≤ 16 * g then (s, acc) else
      let s := if g % 4 = 0 || acc.isEmpty then touchLine s w area (g / 4) else s
      let x := seeGran s w area (g / 4) (g % 4)
      getGrans w area stop fuel (g + 1) s (acc ++ [⟨g, x.data, x.syn, poisoned (seeMeta s w area (g / 4))⟩])

/-- Read the granules that hold n bytes at a location, bringing lines into a core's L1. -/
def getRun (s : State) (w : Who) (area : Area) (loc n : Nat) : State × List GRead :=
  getGrans w area (loc + n) (n / 16 + 2) (loc / 16) s []

/-- The granule is an uncorrectable error (11 R284). -/
def GRead.bad (g : GRead) : Bool := g.syn != 0 || g.poison

/-- The value of granules read for n bytes at a location. -/
def runValue (gs : List GRead) (loc n : Nat) : Nat :=
  ((gs.foldr (fun g acc => g.data.toNat + 2 ^ 128 * acc) 0) >>> (8 * (loc % 16))) % 2 ^ (8 * n)

/-- A consuming lane's input (11 R284, R285): on an ET page each 32-byte sector that holds a bad granule reads as
zeros and is counted; on another page the bad granules are answered. -/
def consume (gs : List GRead) (et : Bool) : Except (List GRead) (List GRead × Nat) :=
  let bad := gs.filter GRead.bad
  if bad.isEmpty then .ok (gs, 0)
  else if et then
    let sectors := (bad.map fun g => g.gran / 2).eraseDups
    .ok (gs.map fun g => if sectors.contains (g.gran / 2) then ⟨g.gran, 0, 0, false⟩ else g, sectors.length)
  else .error bad

/-- SUBCNT plus n, saturating (11 R285). -/
def addSubcnt (x : Slot) (n : Nat) : Slot :=
  { x with subcnt := BitVec.ofNat 64 (min (x.subcnt.toNat + n) 0xFFFFFFFF) }

/-! ## Entering and leaving the supervisor (18 R435-R441) -/

/-- A trap: its cause code (18 R436), KIND and WR of a PAGE, NUM, MCC, TRAPADDR, and whether TRAPPC is the word
after. -/
structure Trap where
  cause : Nat
  kind  : BitVec 3 := 0
  wr    : Bool := false
  num   : BitVec 14 := 0
  mcc   : BitVec 4 := 0
  addr  : Word := 0
  after : Bool := false
  deriving DecidableEq, Repr

/-- TRAPCAUSE of a trap (18 R435). -/
def trapCause (q : Seq) (tr : Trap) (nest : Bool) : Word :=
  BitVec.ofNat 64 (tr.cause + tr.kind.toNat * 2 ^ 8 + (if tr.wr then 2 ^ 11 else 0) + seqNum q * 2 ^ 12
    + tr.num.toNat * 2 ^ 16 + tr.mcc.toNat * 2 ^ 32 + (if nest then 2 ^ 36 else 0))

/-- Post a DIE_FENCED event for a core through the management interface and fence the core (18 R438, R440). -/
def fenceCore (s : State) (core : Nat) : State :=
  { s with deadCores := if s.deadCores.contains core then s.deadCores else s.deadCores ++ [core],
           mgmt := s.mgmt ++ [{ type := 0x0C, reply := false, job := 0, source := BitVec.ofNat 32 core, addr := 0,
                                time := now s, detail := Config.eventDetail 0x0C core }] }

/-- K stops with its slot frozen in supervisor mode (18 R438, R440). -/
def freezeSlot (s : State) (slot : Nat) : State :=
  fenceCore (updSlot s slot fun x => { x with mode := .frozen }) (coreOf slot)

/-- The supervisor bank of K at a trap from user mode: s0-s7 take the user bank's m8-m15, and the PC is SVBASE; the
rest of the bank is as it was left (18 R437 step 3). -/
def entryBank (x : Slot) (svbase : Word) : SeqSt :=
  let m (i : Nat) : SWord := x.k.main.toList.getD i .zero
  let b := x.ksup
  let short := b.short.set 0 (m 8) |>.set 1 (m 9) |>.set 2 (m 10) |>.set 3 (m 11) |>.set 4 (m 12)
    |>.set 5 (m 13) |>.set 6 (m 14) |>.set 7 (m 15)
  { b with short, pc := svbase, predOn := false, tend := false, segOpen := false, waiting := false }

/-- Take a trap raised by sequencer q of a slot, with its word at `pc` (18 R437, R438). From user mode the slot stops,
the three trap registers are written, and K runs in its supervisor bank from SVBASE. In supervisor mode the
registers are overwritten, NEST is set and K continues at SVBASE + 0x40. An SVBASE of 0 fetches nothing (R440). -/
def takeTrap (s : State) (slot : Nat) (q : Seq) (pc : Word) (tr : Trap) : State :=
  let x := getSlot s slot
  let svbase := (getDie s (dieOfCore (coreOf slot))).svbase
  let nest := x.supMode
  let x := { x with tcause := trapCause q tr nest, taddr := tr.addr, tpc := if tr.after then pc + 4 else pc,
                    tpcSet := false }
  let x :=
    if nest then { x with ksup := { x.ksup with pc := svbase + 0x40 } }
    else { x with mode := .handler, snapped := false, ksup := entryBank x svbase }
  let s := setSlot s slot x
  if svbase = 0 then freezeSlot s slot else s

/-- Return from the supervisor to the interrupted user context (18 R441): after an SVC the results go to m8 and m9;
K continues at TRAPPC when the trapping word was K's or the supervisor has written TRAPPC, else at its stop point
(04 R104 step 4; log 20); L, C and S stand at their stop points. Where K's own fetch faulted at an extension word, which TRAPPC names,
the stop point is the word before it (12 R306). -/
def returnUser (x : Slot) : Slot :=
  let ext := x.tcause.extractLsb' 0 8 = 4#8 ∧ x.tpc = x.k.pc + 4
  let k := if x.tpcSet ∨ (x.tcause.extractLsb' 12 2 = 0#2 ∧ ¬ext) then { x.k with pc := x.tpc } else x.k
  let k :=
    if (x.tcause.extractLsb' 0 8) = 6#8 then
      { k with main := (k.main.set 8 (x.ksup.short.toList.getD 0 .zero)).set 9 (x.ksup.short.toList.getD 1 .zero) }
    else k
  { x with mode := .user, k }

end Sys2Proof.Machine
end

