-- ==== Sys2Proof/Machine/Operands.lean ====
section
/-! DEFINITION. Operand forms: belts, short and main files with rotation, pushes, and the token counters and signals
of the sync nibble. -/

namespace Sys2Proof.Machine

/-- The physical main register that a field names (07 R181): fields below 16 name themselves, the others rotate. -/
def physMain (rrb : BitVec 4) (m : BitVec 5) : BitVec 5 :=
  if m.msb then 1#1 ++ (m.extractLsb' 0 4 + rrb) else m

/-- An entry of a file by its index. -/
def vget {α : Type} {w : Nat} (v : Vector α (2 ^ w)) (i : BitVec w) : α := v[i.toNat]'i.isLt
/-- Write an entry of a file. -/
def vset {α : Type} {w : Nat} (v : Vector α (2 ^ w)) (i : BitVec w) (x : α) : Vector α (2 ^ w) := v.set i.toNat x i.isLt

/-- Push onto a belt: every entry ages by one and age 15 is discarded (07 R180). -/
def pushBelt {α : Type} (b : Vector α (2 ^ 4)) (w : α) : Vector α (2 ^ 4) :=
  #v[w, b[0], b[1], b[2], b[3], b[4], b[5], b[6], b[7], b[8], b[9], b[10], b[11], b[12], b[13], b[14]]

/-- A scalar source (07 R179). -/
def readS (q : SeqSt) : Opnd → SWord
  | .belt a => vget q.belt a
  | .short n => vget q.short n
  | .main m => vget q.main (physMain q.rrb m)
/-- Write a scalar destination (07 R180). -/
def writeS (q : SeqSt) (d : Dest) (w : SWord) : SeqSt :=
  match d with
  | .push => { q with belt := pushBelt q.belt w }
  | .short n => { q with short := vset q.short n w }
  | .main m => { q with main := vset q.main (physMain q.rrb m) w }

/-- A vector source of C (07 R179, R181). -/
def readV (x : Slot) : Opnd → VWord
  | .belt a => vget x.vbelt a
  | .short n => vget x.vshort n
  | .main m => vget x.vmain (physMain x.c.rrb m)
/-- Write a vector destination of C (07 R180). -/
def writeV (x : Slot) (d : Dest) (w : VWord) : Slot :=
  match d with
  | .push => { x with vbelt := pushBelt x.vbelt w }
  | .short n => { x with vshort := vset x.vshort n w }
  | .main m => { x with vmain := vset x.vmain (physMain x.c.rrb m) w }

/-- The AI field of an immediate ALU word as a destination: a register is rewritten in place, a belt entry pushes
(12 R302). -/
def aiDest : Opnd → Dest
  | .belt _ => .push
  | .short n => .short n
  | .main m => .main m

/-- A word still waiting for its load (21 R468). -/
def swWaits (w : SWord) : Bool := w.busy != 0
/-- A scalar operand whose word code mismatches (11 R284). -/
def swBad (w : SWord) : Bool := w.syn != 0
/-- A vector operand of which some granule's code mismatches. -/
def vwBad (w : VWord) : Bool := w.syn != 0

/-- Deliver a loaded value to every entry that waits for its tag. -/
def deliver (q : SeqSt) (tag : Nat) (w : Word) : SeqSt :=
  let f (e : SWord) : SWord := if e.busy = tag + 1 then .fresh w else e
  { q with belt := q.belt.map f, short := q.short.map f, main := q.main.map f }

/-- Give up the load of a tag: its register holds its old word again, or its push leaves the belt (15 R363). -/
def unwait (q : SeqSt) (tag : Nat) : SeqSt :=
  let f (e : SWord) : SWord := if e.busy = tag + 1 then { e with busy := 0 } else e
  let b := q.belt.toList
  let belt := match b.findIdx? fun e => e.busy == tag + 1 with
    | some i => Vector.ofFn fun j => ((b.eraseIdx i) ++ [f (b.getD i .zero)]).getD j.val .zero
    | none => q.belt
  { q with belt, short := q.short.map f, main := q.main.map f }

/-! ## Tokens (07 R172, R173, 12 R301, 14 R358) -/

/-- The counter that WP waits on (12 R301). -/
def ctrWP : Seq → BitVec 3
  | .K => 3 | .L => 0 | .C => 1 | .S => 2
/-- The counter that WN waits on. -/
def ctrWN : Seq → BitVec 3
  | .K => 4 | .L => 5 | .C => 6 | .S => 7
/-- The counter that SP signals. -/
def ctrSP : Seq → BitVec 3
  | .K => 7 | .L => 4 | .C => 5 | .S => 6
/-- The counter that SN signals. -/
def ctrSN : Seq → BitVec 3
  | .K => 0 | .L => 1 | .C => 2 | .S => 3

/-- The waits a word makes: its nibble's, and a TWAIT's explicit count (14 R358). -/
def waitsOf (q : Seq) (n : Nib) (extra : Option (Bool × Nat)) : List (BitVec 3 × Nat) :=
  (if n.wp then [(ctrWP q, 1)] else []) ++ (if n.wn then [(ctrWN q, 1)] else [])
    ++ (match extra with
        | some (pred, c) => [(if pred then ctrWP q else ctrWN q, c)]
        | none => [])
/-- The signals a word makes, in program order: a TSIG's explicit count first, then its nibble's (14 R358). -/
def sigsOf (q : Seq) (n : Nib) (extra : Option (Bool × Nat)) : List (BitVec 3 × Nat) :=
  (match extra with
   | some (pred, c) => [(if pred then ctrSP q else ctrSN q, c)]
   | none => [])
    ++ (if n.sp then [(ctrSP q, 1)] else []) ++ (if n.sn then [(ctrSN q, 1)] else [])

/-- What a list of waits takes from one counter. -/
def demand (ws : List (BitVec 3 × Nat)) (i : BitVec 3) : Nat :=
  (ws.map fun w => if w.1 = i then w.2 else 0).sum
/-- Every counter holds what the waits take, all tested together (07 R173). -/
def waitsMet (tok : Vector (BitVec 4) (2 ^ 3)) (ws : List (BitVec 3 × Nat)) : Bool :=
  ws.all fun w => demand ws w.1 ≤ (vget tok w.1).toNat
/-- Take the waits from their counters. -/
def takeWaits (tok : Vector (BitVec 4) (2 ^ 3)) (ws : List (BitVec 3 × Nat)) : Vector (BitVec 4) (2 ^ 3) :=
  ws.foldl (fun t w => vset t w.1 (vget t w.1 - BitVec.ofNat 4 w.2)) tok

/-- An FFILL that may have continuations to push. -/
def Work.isFill : Work → Bool
  | .fill _ => true
  | _ => false
/-- A word after which its sequencer issues nothing before it is complete: an FFILL, or an atomic or acquire at a home on another device (05
R121, 08 R210). -/
def Work.gates : Work → Bool
  | .fill _ => true
  | .far _ _ _ => true
  | _ => false
/-- A word that waits for its load's data. -/
def Work.isLoad : Work → Bool
  | .load _ _ => true
  | .const _ _ => true
  | .ldq _ _ _ _ => true
  | _ => false
/-- A word of the classes that complete locally in program order and cover later signals (08 R205). -/
def Work.isStore : Work → Bool
  | .store _ => true
  | .relw _ _ => true
  | _ => false
/-- Such a word, or the table write of one that has performed and is not complete (04 R100). -/
def Work.covers : Work → Bool
  | .await _ => true
  | w => w.isStore

/-- Fill a reserved queue entry. -/
def fillQueue (x : Slot) (k : BitVec 3) (tag : Nat) (v : QVal) : Slot :=
  { x with queues := vset x.queues k ((vget x.queues k).map fun e => if e.tag = tag ∧ e.val.isNone
      then { e with val := some v } else e) }

/-- Apply as many of a word's signals as fit, in order: a counter that an earlier word of the sequencer still has to
signal, or that would pass 15, keeps this signal and every later one to it (07 R173, 14 R358). -/
def applySigs (tok : Vector (BitVec 4) (2 ^ 3)) (blocked : List (BitVec 3)) :
    List (BitVec 3 × Nat) → Vector (BitVec 4) (2 ^ 3) × List (BitVec 3) × List (BitVec 3 × Nat)
  | [] => (tok, blocked, [])
  | (i, n) :: t =>
    if blocked.contains i || 15 < (vget tok i).toNat + n then
      let (tok, b, l) := applySigs tok (i :: blocked) t
      (tok, b, (i, n) :: l)
    else applySigs (vset tok i (vget tok i + BitVec.ofNat 4 n)) blocked t

/-- Retire a sequencer's issued words in program order: a QPUT's entry is filled, and a done word's signals are
applied, once every earlier store-class word is done (08 R205). -/
def retire (x : Slot) (blocked : List (BitVec 3)) (stores : Bool) : List Outst → Slot × List Outst
  | [] => (x, [])
  | o :: t =>
    let (x, o) :=
      match o.work, o.done, stores with
      | .qput k v, false, false => (fillQueue x k o.tag v, { o with done := true })
      | _, _, _ => (x, o)
    if o.done && (!stores || o.sigs.isEmpty) then
      let (tok, b, l) := applySigs x.tok blocked o.sigs
      let (x, r) := retire { x with tok } b stores t
      (x, if l.isEmpty then r else { o with sigs := l } :: r)
    else
      let (x, r) := retire x (o.sigs.map (·.1) ++ blocked) (stores || (o.work.covers && !o.done)) t
      (x, o :: r)

/-- Retire one sequencer. -/
def retireSeq (x : Slot) (get : Slot → SeqSt) (put : Slot → SeqSt → Slot) : Slot :=
  let (x, l) := retire x [] false (get x).outst
  put x { get x with outst := l }

/-- Retire what can retire on every sequencer of a slot, K's supervisor bank included. -/
def settle (x : Slot) : Slot :=
  let x := retireSeq x (·.k) fun x v => { x with k := v }
  let x := retireSeq x (·.ksup) fun x v => { x with ksup := v }
  let x := retireSeq x (·.l) fun x v => { x with l := v }
  let x := retireSeq x (·.c) fun x v => { x with c := v }
  retireSeq x (·.s) fun x v => { x with s := v }

/-- The counters to which a sequencer is holding a signal (07 R173, R178). -/
def holding (tok : Vector (BitVec 4) (2 ^ 3)) (l : List Outst) : List (BitVec 3) :=
  let step (acc : List (BitVec 3) × Bool × List (BitVec 3)) (o : Outst) : List (BitVec 3) × Bool × List (BitVec 3) :=
    let (b, stores, h) := acc
    if o.done && !stores then
      ((o.sigs.map (·.1)) ++ b, stores,
        h ++ (o.sigs.filter fun s => !b.contains s.1 && decide (15 < (vget tok s.1).toNat + s.2)).map (·.1))
    else ((o.sigs.map (·.1)) ++ b, stores || (o.work.covers && !o.done), h)
  (l.foldl step ([], false, [])).2.2

/-- TOKSTAT (07 R178). -/
def tokstat (x : Slot) : Word :=
  let held := holding x.tok x.k.outst ++ holding x.tok x.ksup.outst ++ holding x.tok x.l.outst
    ++ holding x.tok x.c.outst ++ holding x.tok x.s.outst
  let f (i : Nat) : Nat := (vget x.tok (BitVec.ofNat 3 i)).toNat * 16 ^ i
    + (if held.contains (BitVec.ofNat 3 i) then 2 ^ (32 + i) else 0)
  BitVec.ofNat 64 (f 0 + f 1 + f 2 + f 3 + f 4 + f 5 + f 6 + f 7)

/-- QSTAT (07 R178). -/
def qstat (x : Slot) : Word :=
  let f (i : Nat) : Nat := (vget x.queues (BitVec.ofNat 3 i)).length * 32 ^ i
  BitVec.ofNat 64 (f 0 + f 1 + f 2 + f 3 + f 4 + f 5 + f 6 + f 7)

/-- The depth of a queue (07 R176). -/
def queueDepth (k : BitVec 3) : Nat := if vectorQueue k then 8 else 16

end Sys2Proof.Machine
end

