-- ==== Sys2Proof/Machine/Flags.lean ====
section
/-! DEFINITION. The integer functions and comparisons of 14 R339, R348-R352. No integer word sets FPSTAT (14 R337). -/

namespace Sys2Proof.Machine

/-- 1 or 0 as a result. -/
def flagWord (b : Bool) : Word := if b then 1 else 0

/-- CMP and CMPI conditions (14 R348, R352). -/
def condHolds (m : Cond) (a b : Word) : Bool :=
  match m with
  | .eq => a == b
  | .lt => a.slt b
  | .ltu => a.ult b
  | .ne => a != b

/-- MULH (14 R348). -/
def mulHigh (m : MulhMod) (a b : Word) : Word :=
  match m with
  | .ss => ((a.signExtend 128 * b.signExtend 128) >>> 64).setWidth 64
  | .uu => ((a.setWidth 128 * b.setWidth 128) >>> 64).setWidth 64
  | .su => ((a.signExtend 128 * b.setWidth 128) >>> 64).setWidth 64

/-- DIV (14 R349). -/
def divWord (m : Sgn) (a b : Word) : Word :=
  if b = 0 then BitVec.allOnes 64 else
    match m with
    | .u => a / b
    | .s => a.sdiv b
/-- REM (14 R349). -/
def remWord (m : Sgn) (a b : Word) : Word :=
  if b = 0 then a else
    match m with
    | .u => a % b
    | .s => a.srem b

/-- The low six bits of a shift count (14 R348). -/
def shiftAmt (b : Word) : Nat := (b.extractLsb' 0 6).toNat
/-- MIN and MAX (14 R348). -/
def minWord (m : Sgn) (a b : Word) : Word :=
  match m with
  | .s => if b.slt a then b else a
  | .u => if b.ult a then b else a
/-- MAX (14 R348). -/
def maxWord (m : Sgn) (a b : Word) : Word :=
  match m with
  | .s => if a.slt b then b else a
  | .u => if a.ult b then b else a

/-- Leading zeros among the n low bits, counting down from bit n - 1. -/
def leadZeros (a : Word) : Nat → Nat
  | 0 => 0
  | n + 1 => if a.getLsbD n then 0 else leadZeros a n + 1
/-- Trailing zeros: n bits remain from bit i up. -/
def trailZeros (a : Word) (i : Nat) : Nat → Nat
  | 0 => 0
  | n + 1 => if a.getLsbD i then 0 else trailZeros a (i + 1) n + 1
/-- Set bits among the n low bits. -/
def popCount (a : Word) : Nat → Nat
  | 0 => 0
  | n + 1 => (if a.getLsbD n then 1 else 0) + popCount a n

/-- The field of SEXT and ZEXT, sign-extended (14 R348). -/
def sextWord (m : XWidth) (a : Word) : Word :=
  match m with
  | .w8 => (a.extractLsb' 0 8).signExtend 64
  | .w16 => (a.extractLsb' 0 16).signExtend 64
  | .w32 => (a.extractLsb' 0 32).signExtend 64
/-- The field of SEXT and ZEXT, zero-extended. -/
def zextWord (m : XWidth) (a : Word) : Word :=
  match m with
  | .w8 => (a.extractLsb' 0 8).setWidth 64
  | .w16 => (a.extractLsb' 0 16).setWidth 64
  | .w32 => (a.extractLsb' 0 32).setWidth 64

/-- A word offset as a byte offset (12 R304). -/
def wordOff {w : Nat} (o : BitVec w) : Word := o.signExtend 64 <<< 2

end Sys2Proof.Machine
end

