-- ==== Sys2Proof/Machine/Translate.lean ====
section
/-! DEFINITION. Address translation: the window region, the page-table walk, cached translations and the permission
check (04 R91-R103, 05 R123). -/

namespace Sys2Proof.Machine

/-- Who translates: a slot (for a unit of a die, that die's first slot number), the job whose table serves the lower
half, supervisor mode, whether the core window region is in reach, as it is of no unit of a die, the micro-TLB of a sequencer's
fetches or data accesses, and the die whose TLB alone serves a streamer (04 R98). -/
structure TCtx where
  slot  : Nat
  job   : Nat
  sup   : Bool
  win   : Bool := true
  micro : Option Nat := none
  unit  : Option Nat := none
  deriving DecidableEq, Repr

/-- What an access needs of its page: read, write, execute, a tagged store; whether it may reach device control
registers and the system region (04 R97, R474); and whether it is one that performs at its word's home (08 R208, R216). -/
structure Need where
  r   : Bool := false
  w   : Bool := false
  x   : Bool := false
  tt  : Bool := false
  ctl : Bool := false
  sys : Bool := false
  atHome : Bool := false
  deriving DecidableEq, Repr

/-- The fault kinds of 04 R102. -/
abbrev Kind := BitVec 3
/-- NOT_PRESENT. -/
def kNotPresent : Kind := 1
/-- BAD_ENTRY. -/
def kBadEntry : Kind := 2
/-- PERMISSION. -/
def kPermission : Kind := 3
/-- NONCANONICAL. -/
def kNonCanonical : Kind := 4
/-- WINDOW. -/
def kWindow : Kind := 5
/-- ATTR. -/
def kAttr : Kind := 6

/-- The answer of a walk: a leaf with its page and the lines of the entries read; a fault; a leaf with MIG = 1 on a
line. -/
inductive WalkRes where
  | leaf (e : Word) (base : Nat) (size : Nat) (lines : List Nat)
  | fault (k : Kind)
  | mig (line : Nat)
  deriving DecidableEq, Repr

/-- Bit i of an entry. -/
def pteBit (e : Word) (i : Nat) : Bool := e.getLsbD i
/-- SW of an entry. -/
def pteSw (e : Word) : Nat := (e.extractLsb' 6 3).toNat

/-- The canonical test of 04 R91. -/
def canonical (va : Word) : Bool := va.extractLsb' 57 7 == (if va.getLsbD 56 then 127#7 else 0#7)
/-- The upper half. -/
def upperHalf (va : Word) : Bool := va.getLsbD 56
/-- The core window region (04 R91). -/
def inWindow (va : Word) : Bool := va.toNat / 2 ^ 32 == 0xFFFFFF00

/-- A leaf passes the checks of 04 R95 at its level and size. -/
def leafOk (e : Word) (upper : Bool) (level size : Nat) : Bool :=
  let pa := ptePa e
  e.extractLsb' 56 8 == 0
    && level ≤ 2
    && (level == 0 || !pteBit e 54)
    && !(pteBit e 53 && !upper) && !(pteBit e 5 && upper)
    && pteSw e ≤ 5
    && !(pteBit e 3 && !pteBit e 2) && !(pteBit e 3 && pteBit e 10)
    && pa % size == 0
    && (pteBit e 52 == inDieLocal pa)
    && (match leafArea pa, leafArea (pa + size - 1) with
        | some (_, a), some (_, b) =>
          a == b && (match a with
            | .sysRegion => upper && !pteBit e 4 && !pteBit e 3
            | .control => upper && !pteBit e 4
            | _ => true)
        | _, _ => false)

/-- A pointer entry passes the checks of 04 R95: no reserved bit, no leaf-only field, a table in HBM, a vault or host
memory. -/
def pointerOk (e : Word) : Bool :=
  e.extractLsb' 56 8 == 0 && e.extractLsb' 2 10 == 0 && e.extractLsb' 52 4 == 0
    && (match locate (ptePa e) with
        | some (_, .hbm) | some (_, .vault) | some (_, .host) => true
        | _ => false)

/-- The entry at a physical address as the walker reads it: the latest value any agent stored (04 R93). A poisoned line, or a granule
whose code does not match, gives no entry: the walk meets V = 1 with every reserved bit set, so that it faults BAD_ENTRY (01 R30; log
100). -/
def readEntry (s : State) (pa : Nat) : Word × Nat :=
  match locate pa with
  | some (loc, _) =>
    let line := loc / 64
    let g := loc / 16 % 4
    let held := s.clines.findSome? fun e =>
      if e.1 % 2 ^ 64 = line then
        match e.2.gr.toList.getD g none with
        | some y => if y.dirty.isSome then some y else none
        | none => none
      else none
    let y := held.getD (homeGran s line g)
    if y.syn != 0 || poisoned (homeMeta s line) then (BitVec.allOnes 64, line)
    else (BitVec.ofNat 64 (y.data.toNat >>> (8 * (loc % 16))), line)
  | none => (0, 0)

/-- The page size of a leaf at a level. -/
def pageSize (level : Nat) : Nat := 4096 * 512 ^ level

/-- A leaf's answer, after its checks; MIG parks (04 R111). -/
def leafRes (e : Word) (upper : Bool) (va level size line : Nat) (lines : List Nat) : WalkRes :=
  if leafOk e upper level size then
    (if pteBit e 55 then .mig line else .leaf e (va / size * size) size lines)
  else .fault kBadEntry

/-- The level-0 step with its group of sixteen entries (04 R96). -/
def walkGroup (s : State) (upper : Bool) (va table : Nat) (lines : List Nat) : WalkRes :=
  let ix := va / 4096 % 512
  let (g, gl) := readEntry s (table + ix / 16 * 16 * 8)
  if pteBit g 0 && pteBit g 54 then
    (if pteBit g 1 then leafRes g upper va 0 65536 gl (gl :: lines) else .fault kBadEntry)
  else
    let (e, el) := readEntry s (table + ix * 8)
    if !pteBit e 0 then .fault kNotPresent
    else if !pteBit e 1 || pteBit e 54 then .fault kBadEntry
    else leafRes e upper va 0 4096 el (el :: gl :: lines)

/-- The walk from a table of a level down (04 R93-R96). -/
def walkFrom (s : State) (upper : Bool) (va : Nat) : Nat → Nat → List Nat → WalkRes
  | 0, table, lines => walkGroup s upper va table lines
  | level + 1, table, lines =>
    let (e, el) := readEntry s (table + va / 4096 / 512 ^ (level + 1) % 512 * 8)
    if !pteBit e 0 then .fault kNotPresent
    else if pteBit e 1 then leafRes e upper va (level + 1) (pageSize (level + 1)) el (el :: lines)
    else if pointerOk e then walkFrom s upper va level (ptePa e) (el :: lines)
    else .fault kBadEntry

/-! ## Translation caches (04 R98, R99) -/

/-- The number of a die's TLB. -/
def tlbDie (d : Nat) : Nat := d
/-- The number of a cluster's TLB. -/
def tlbCluster (c : Nat) : Nat := 2 ^ 4 + c
/-- The number of a core's TLB. -/
def tlbCore (c : Nat) : Nat := 2 ^ 10 + c
/-- The number of a sequencer's data micro-TLB. -/
def tlbData (slot : Nat) (q : Seq) : Nat := 2 ^ 14 + 4 * slot + seqNum q
/-- The number of a sequencer's fetch micro-TLB. -/
def tlbFetch (slot : Nat) (q : Seq) : Nat := 2 ^ 15 + 4 * slot + seqNum q
/-- The leaves that a cache of translations holds. -/
def tlbSize (n : Nat) : Nat :=
  if n < 2 ^ 4 then 65536 else if n < 2 ^ 10 then 8192 else if n < 2 ^ 14 then 1024 else if n < 2 ^ 15 then 32 else 16
/-- The die of a cache of translations. -/
def tlbHome (n : Nat) : Nat :=
  if n < 2 ^ 4 then n
  else if n < 2 ^ 10 then (n - 2 ^ 4) / 32
  else if n < 2 ^ 14 then dieOfCore (n - 2 ^ 10)
  else dieOfCore (coreOf (n % 2 ^ 14 / 4))

/-- The die whose walker serves an access. -/
def TCtx.die (ctx : TCtx) : Nat := ctx.unit.getD (dieOfCore (coreOf ctx.slot))
/-- The caches of translations that serve an access, nearest first; a unit of a die has that die's TLB alone. -/
def TCtx.caches (ctx : TCtx) : List Nat :=
  let core := coreOf ctx.slot
  if ctx.unit.isSome then [tlbDie ctx.die]
  else if ctx.win then ctx.micro.toList ++ [tlbCore core, tlbCluster (clusterOf core), tlbDie (dieOfCore core)]
  else [tlbDie (dieOfCore core)]

/-- A cached leaf maps the address for the job (04 R99). -/
def TlbEnt.maps (e : TlbEnt) (job : Nat) (va : Word) : Bool :=
  e.upper == upperHalf va && (e.job == job || (e.upper && pteBit e.leaf 53))
    && decide (e.base.toNat ≤ va.toNat) && decide (va.toNat < e.base.toNat + e.size)
/-- The leaf that the nearest of some caches holds for an address. -/
def tlbHit (s : State) (caches : List Nat) (job : Nat) (va : Word) : Option TlbEnt :=
  caches.findSome? fun n => (s.tlb.find? fun e => e.1 == n && e.2.maps job va).map (·.2)
/-- Put a leaf into a cache; a full one gives up an entry, which one is free (log 8). -/
def tlbPut (e : TlbEnt) (s : State) (n : Nat) : State :=
  if s.tlb.contains (n, e) then s else
    let mine := s.tlb.filter fun x => x.1 == n
    if mine.length < tlbSize n then { s with tlb := s.tlb ++ [(n, e)] } else
      let (s, x) := anyOf s mine
      { s with tlb := (match x with | some x => s.tlb.erase x | none => s.tlb) ++ [(n, e)] }

/-- The address bits that a table of a level is reached by. -/
def ptrIndex (va : Word) (level : Nat) : Nat := va.toNat / pageSize (level + 1)
/-- The pointer entries on the way down from a table: the level and place of the table that each names, with the lines read so far. -/
def walkPtrs (s : State) (va : Nat) : Nat → Nat → List Nat → List (Nat × Nat × List Nat)
  | 0, _, _ => []
  | level + 1, table, lines =>
    let (e, el) := readEntry s (table + va / 4096 / 512 ^ (level + 1) % 512 * 8)
    if pteBit e 0 && !pteBit e 1 && pointerOk e then
      (level, ptePa e, el :: lines) :: walkPtrs s va level (ptePa e) (el :: lines)
    else []
/-- Put a pointer entry into a die's page-walk cache of 8,192; a full one gives up an entry, which one is free (log 8). -/
def ptrPut (die : Nat) (s : State) (p : PtrEnt) : State :=
  if s.ptrs.contains (die, p) then s else
    let mine := s.ptrs.filter fun x => x.1 == die
    if mine.length < 8192 then { s with ptrs := s.ptrs ++ [(die, p)] } else
      let (s, x) := anyOf s mine
      { s with ptrs := (match x with | some x => s.ptrs.erase x | none => s.ptrs) ++ [(die, p)] }
/-- Where a die's walker starts: at the lowest table that its cache names, else at the root: PTROOT for the lower half, SUPROOT for the
upper (04 R91, R98, R103). -/
def walkStart (s : State) (die job : Nat) (va : Word) : Nat × Nat × List Nat :=
  let mine := s.ptrs.filter fun e =>
    e.1 == die && e.2.job == job && e.2.upper == upperHalf va && e.2.index == ptrIndex va e.2.level
  match [0, 1, 2, 3].findSome? fun l => mine.find? fun e => e.2.level == l with
  | some e => (e.2.level, e.2.table, e.2.lines)
  | none => (4, if upperHalf va then ptePa (getDie s die).suproot else ptePa (getJob s job).ptroot, [])

/-- A whole walk for a job on a die. -/
def walk (s : State) (die job : Nat) (va : Word) : WalkRes :=
  let (level, table, lines) := walkStart s die job va
  walkFrom s (upperHalf va) va.toNat level table lines

/-- What a parked walk of a die for a job is known by: its page (04 R99). -/
def walkPage (va : Word) : Word := va &&& ~~~0xFFF#64
/-- The walks of a die that hold a walk slot: those parked (04 R111). -/
def walksHeld (s : State) (die : Nat) : Nat := (s.parked.filter fun p => p.2.1 / 1024 == die).length

/-- Walk and cache the leaf in the caches of the access, and the pointer entries read (04 R98). A leaf with MIG = 1 parks the walk instead,
in its walk slot (R111); with all 4,096 of the die busy no walk starts, and one under way for the same job and page serves this miss too
(R99): both stall. -/
def walkFill (s : State) (caches : List Nat) (die job : Nat) (va : Word) : State × WalkRes :=
  match s.parked.find? fun p => p.2 == (die * 1024 + job, walkPage va) with
  | some p => (s, .mig p.1)
  | none =>
    if 4096 ≤ walksHeld s die then (s, .mig 0) else
      let (level, table, lines) := walkStart s die job va
      let r := walkFrom s (upperHalf va) va.toNat level table lines
      let s := (walkPtrs s va.toNat level table lines).foldl
        (fun s p => ptrPut die s { job, upper := upperHalf va, level := p.1, index := ptrIndex va p.1, table := p.2.1, lines := p.2.2 }) s
      match r with
      | .leaf e base size lines =>
        (caches.foldl (tlbPut { job, upper := upperHalf va, base := BitVec.ofNat 64 base, size, leaf := e, entries := lines }) s, r)
      | .mig line => ({ s with parked := s.parked ++ [(line, die * 1024 + job, walkPage va)] }, r)
      | .fault _ => (s, r)

/-- The answer of a translation: a span, a fault at an address, or a stall on a migrating page. -/
inductive Tr where
  | ok (sp : Span)
  | fault (k : Kind) (va : Word)
  | stall
  deriving DecidableEq, Repr

/-- The scratchpad offset of a slot's allocation (05 R123). -/
def allocBase (slot need : Nat) : Nat := if slot % 2 = 0 then 0 else 2 ^ 21 - need * 65536

/-- The task's need in units; a slot of no task has none. -/
def Slot.need (x : Slot) : Nat :=
  match x.task with
  | some t => t.need
  | none => 0

/-- A gang member of the same gang in a slot. -/
def sameGang (a b : Slot) : Bool :=
  match a.task, b.task with
  | some t, some u =>
    (match t.gang, u.gang with
     | some g, some h => t.job == u.job && g.level == h.level
     | _, _ => false)
  | _, _ => false

/-- The slot a neighbour window reaches on a core: the gang's member there, else the lowest slot of the same job
(05 R123); and whether that lies outside the gang. -/
def neighbour (s : State) (slot k : Nat) : Option (Nat × Bool) :=
  let core := coreOf slot / 8 * 8 + k
  if core = coreOf slot then some (slot, false) else
    let me := getSlot s slot
    let a := getSlot s (2 * core)
    let b := getSlot s (2 * core + 1)
    if sameGang me a then some (2 * core, false)
    else if sameGang me b then some (2 * core + 1, false)
    else if a.task.isSome && a.job == me.job then some (2 * core, true)
    else if b.task.isSome && b.job == me.job then some (2 * core + 1, true)
    else none

/-- Translate a window address (04 R92, 05 R123). A neighbour allocation used outside the gang is marked in NBRMASK
(07 R194). -/
def trWindow (s : State) (ctx : TCtx) (va : Word) (len : Nat) : State × Tr :=
  let off := va.toNat % 2 ^ 32
  if off < 2 ^ 21 then
    let need := (getSlot s ctx.slot).need
    if off < need * 65536 then
      (s, .ok { va, loc := scratchBase (coreOf ctx.slot) + allocBase ctx.slot need + off, len,
                area := .scratch (coreOf ctx.slot), sw := 0, et := false, tt := false, cst := false })
    else (s, .fault kWindow va)
  else if 0x1000000 ≤ off ∧ off < 0x2000000 then
    let k := (off - 0x1000000) / 2 ^ 21
    let o := off % 2 ^ 21
    match neighbour s ctx.slot k with
    | some (n, outside) =>
      let need := (getSlot s n).need
      if o < need * 65536 then
        let s := if outside then
            updSlot s ctx.slot fun x => { x with nbrmask := x.nbrmask ||| (1#8 <<< k) }
          else s
        (s, .ok { va, loc := scratchBase (coreOf n) + allocBase n need + o, len, area := .scratch (coreOf n),
                  sw := 1, et := false, tt := false, cst := false })
      else (s, .fault kWindow va)
    | none => (s, .fault kWindow va)
  else (s, .fault kWindow va)

/-- The permission check of a leaf (04 R97, R474). -/
def checkLeaf (e : Word) (area : Area) (ctx : TCtx) (n : Need) : Option Kind :=
  if !ctx.sup && !pteBit e 5 then some kPermission
  else if (n.r && !pteBit e 2) || (n.w && !pteBit e 3) || (n.x && !pteBit e 4) then some kPermission
  else if area == .control && !n.ctl then some kPermission
  else if area == .sysRegion && !n.sys then some kPermission
  else if n.tt && !pteBit e 11 then some kAttr
  else none

/-- Translate `len` bytes that lie in one page (04 R91-R97). -/
def trPage (s : State) (ctx : TCtx) (va : Word) (len : Nat) (n : Need) : State × Tr :=
  if !canonical va then (s, .fault kNonCanonical va)
  else if inWindow va then (if n.x || !ctx.win then (s, .fault kWindow va) else trWindow s ctx va len)
  else if upperHalf va && !ctx.sup then (s, .fault kPermission va)
  else if upperHalf va && !(getDie s ctx.die).supen then (s, .fault kNotPresent va)
  else
    let die := ctx.die
    let (s, leaf) :=
      match tlbHit s ctx.caches ctx.job va with
      | some t => (ctx.caches.foldl (tlbPut t) s, WalkRes.leaf t.leaf t.base.toNat t.size t.entries)
      | none => walkFill s ctx.caches die ctx.job va
    match leaf with
    | .fault k => (s, .fault k va)
    | .mig _ => (s, .stall)
    | .leaf e base _ lines =>
      match leafArea (ptePa e + (va.toNat - base)) with
      | none => (s, .fault kBadEntry va)
      | some (loc, area) =>
        if area = .remote ∧ (farAddr s loc).isNone then (s, .fault kBadEntry va) else
        match checkLeaf e area ctx n with
        | some k => (s, .fault k va)
        | none => (s, .ok { va, loc, len, area, sw := pteSw e, et := pteBit e 9, tt := pteBit e 11,
                            cst := pteBit e 10, walk := lines })

/-- The answer of translating a run of bytes: its spans, the first fault, or a stall. -/
inductive Trs where
  | ok (sps : List Span)
  | fault (k : Kind) (va : Word)
  | stall
  deriving DecidableEq, Repr

/-- Translate a run of bytes page by page, 4 KiB at most a span, lowest address first; every page is checked before
any part of the access performs (04 R101). -/
def trRun (ctx : TCtx) (n : Need) : Nat → State → Word → Nat → State × Trs
  | 0, s, _, _ => (s, .ok [])
  | fuel + 1, s, va, len =>
    if len = 0 then (s, .ok []) else
      let k := min len (4096 - va.toNat % 4096)
      match trPage s ctx va k n with
      | (s, .fault kd a) => (s, .fault kd a)
      | (s, .stall) => (s, .stall)
      | (s, .ok sp) =>
        match trRun ctx n fuel s (va + BitVec.ofNat 64 k) (len - k) with
        | (s, .ok l) => (s, .ok (sp :: l))
        | r => r

/-- Translate the bytes of one access. -/
def translate (s : State) (ctx : TCtx) (va : Word) (len : Nat) (n : Need) : State × Trs :=
  trRun ctx n (len / 4096 + 2) s va len

/-- The translation context of a unit of a die, for a job. -/
def unitCtx (die job : Nat) (sup : Bool) : TCtx := { slot := die * 512, job, sup, win := false }
/-- The translation context of a slot's engines, or of a unit: the job's space, user mode (17 R420). -/
def engineCtx (s : State) (slot : Nat) : TCtx :=
  if isUnit slot then unitCtx ((slot - 2 ^ 20) % 4) (slotJob s slot) false
  else { slot, job := (getSlot s slot).job, sup := false }

/-- The translation context of a slot's words: supervisor mode stands on K only; K, L and S have a data micro-TLB each (04 R98). -/
def slotCtx (s : State) (slot : Nat) (q : Seq) : TCtx :=
  if isUnit slot then engineCtx s slot
  else
    let x := getSlot s slot
    { slot, job := x.job, sup := q == .K && x.supMode, micro := if q = .C then none else some (tlbData slot q) }
/-- The translation context of a slot's instruction fetches. -/
def fetchCtx (s : State) (slot : Nat) (q : Seq) : TCtx := { slotCtx s slot q with micro := some (tlbFetch slot q) }

/-! ## What a range of addresses maps (08 R208-R212) -/

/-- The part of a leaf's page that lies between two addresses, as a run of physical addresses. -/
def leafRun (e : Word) (upper : Bool) (level size lo hi : Nat) : List (Nat × Nat) :=
  if leafOk e upper level size && decide (lo < hi) then [(ptePa e + lo % size, hi - lo)] else []
/-- The physical addresses that the addresses from `lo` up to `hi` map to, from a table of a level down: a release or an acquire reaches
what its range maps as the tables stand, through whatever address it was cached (01 R18). -/
def mappedFrom (s : State) (upper : Bool) : Nat → Nat → Nat → Nat → List (Nat × Nat)
  | 0, table, lo, hi =>
    (List.range (if lo < hi then (hi - 1) / 4096 - lo / 4096 + 1 else 0)).flatMap fun i =>
      let p := (lo / 4096 + i) * 4096
      let g := (readEntry s (table + p / 65536 % 32 * 128)).1
      let e := (readEntry s (table + p / 4096 % 512 * 8)).1
      if pteBit g 0 && pteBit g 54 then (if pteBit g 1 then leafRun g upper 0 65536 (max lo p) (min hi (p + 4096)) else [])
      else if pteBit e 0 && pteBit e 1 && !pteBit e 54 then leafRun e upper 0 4096 (max lo p) (min hi (p + 4096)) else []
  | level + 1, table, lo, hi =>
    let size := pageSize (level + 1)
    (List.range (if lo < hi then (hi - 1) / size - lo / size + 1 else 0)).flatMap fun i =>
      let va := (lo / size + i) * size
      let e := (readEntry s (table + va / size % 512 * 8)).1
      if !pteBit e 0 then []
      else if pteBit e 1 then leafRun e upper (level + 1) size (max lo va) (min hi (va + size))
      else if pointerOk e then mappedFrom s upper level (ptePa e) (max lo va) (min hi (va + size)) else []
/-- Everything: the range of a whole history, and of the mark ALL (08 R212, 05 R126). -/
def wholeRange : Nat × Nat := (0, 2 ^ 64)
/-- The physical addresses that a job's ranges of addresses map to; a range of the whole space is every line there is (08 R212). -/
def mappedRuns (s : State) (die job : Nat) (rs : List (Nat × Nat)) : List (Nat × Nat) :=
  rs.flatMap fun r =>
    if 2 ^ 64 ≤ r.2 then [wholeRange] else
      mappedFrom s false 4 (ptePa (getJob s job).ptroot) r.1 (min (r.1 + r.2) (2 ^ 56))
        ++ (if (getDie s die).supen then
              mappedFrom s true 4 (ptePa (getDie s die).suproot) (max r.1 (2 ^ 64 - 2 ^ 56)) (min (r.1 + r.2) (2 ^ 64)) else [])

/-- The lowest die that is not fenced (05 R132 names the master this way). -/
def lowDie (s : State) : Nat := ([0, 1, 2, 3].find? fun d => !(getDie s d).fenced).getD 0

end Sys2Proof.Machine
end

