-- ==== Sys2Proof/Machine/Far.lean ====
section
/-! DEFINITION. Memory on another device, reached through an outbound fabric window: lines fetched into an L1, atomics and releases sent to
their home, and the posted writes of a slot (02 R37, R42, R43, 08 R200, R208, R216; log 16). -/

namespace Sys2Proof.Machine

/-- The lines that spans touch. -/
def spanLines (sps : List Span) : List Nat :=
  (sps.flatMap fun sp => (List.range ((sp.loc % 64 + sp.len + 63) / 64)).map fun i => sp.loc / 64 + i)
/-- The fabric tag of a slot's job. -/
def slotTag (s : State) (slot : Nat) : BitVec 12 := (getJob s (getSlot s slot).job).jobtag

/-! ## Lines in an L1 (02 R42, 08 R200) -/

/-- The device at which a span's memory is homed can be reached (02 R34). -/
def farUp (s : State) (loc : Nat) : Bool := (farAddr s loc).any fun d => !unreachable s d.1
/-- The lines of spans on another device that a cluster does not hold and that can be reached. -/
def farMissing (s : State) (cluster : Nat) (sps : List Span) : List Nat :=
  (spanLines (sps.filter fun sp => sp.area == .remote)).filter fun l => !farHeld s cluster l && farUp s (64 * l)
/-- A read of the 128 bytes at an address of another device (02 R37). -/
def readFlit (s : State) (dst tag jobtag : BitVec 12) (pa : Nat) : Flit :=
  { kind := 3, cls := 0, dst, src := s.devId, jobtag, tag, hops := 0, addr := BitVec.ofNat 45 (pa / 128), gmask := 0, meta0 := 0, meta1 := 0,
    rsvd := 0, codes := 0, data := 0, reject := false }
/-- Ask for the 128 bytes that hold a line for a slot's core, unless they are on their way. -/
def askFar (slot : Nat) (s : State) (line : Nat) : State :=
  let core := coreOf slot
  let first := line / 2 * 2
  if s.farReads.any fun r => r.core == core && r.line == first then s else
    match farAddr s (64 * first) with
    | none => s
    | some (dst, pa) =>
      let (n, s) := takeUid s
      let tag := BitVec.ofNat 12 n
      { sendFlit s (readFlit s dst tag (slotTag s slot) pa) with farReads := s.farReads ++ [{ tag, dst, core, line := first }] }
/-- An access of a slot waits for lines of another device that its L1 does not hold: they are asked for. None where it need not wait: where a
device cannot be reached, the access completes with poison (02 R34). -/
def needFar (s : State) (slot : Nat) (sps : List Span) : Option State :=
  match farMissing s (clusterOf (coreOf slot)) sps with
  | [] => none
  | l => some (l.foldl (askFar slot) s)
/-- The bytes of a line come into a core's L1, clean (02 R42). -/
def fillFar (s : State) (core line : Nat) (data : BitVec 512) (codes : Nat) (md : Byte) : State :=
  let s := roomL1 s core line
  let v := getView s (clusterOf core) line
  let gran (g : Nat) (x : Option CGran) : Option CGran :=
    x <|> some { data := granBits data g, syn := BitVec.ofNat 16 (codes / 2 ^ (16 * g)) ^^^ granuleCode (granBits data g), dirty := none }
  setView s (clusterOf core) line
    { v with gr := #v[gran 0 v.gr[0], gran 1 v.gr[1], gran 2 v.gr[2], gran 3 v.gr[3]], meta_ := if farHeld s (clusterOf core) line then v.meta_ else md,
             l1 := v.l1 ||| (1#8 <<< (core % 8)) }

/-! ## Atomics and releases at the home (02 R37, R43) -/

/-- An ATOM: the operation's code, operands, 4 bytes instead of 8, and a reduction (log 29). -/
def atomFlit (s : State) (dst tag jobtag : BitVec 12) (pa op : Nat) (a b : Word) (half red : Bool) : Flit :=
  let data : BitVec 1024 := BitVec.ofNat 1024 (a.toNat + b.toNat * 2 ^ 64 + pa % 128 * 2 ^ 128 + op * 2 ^ 135
    + (if half then 2 ^ 139 else 0) + (if red then 2 ^ 140 else 0))
  { readFlit s dst tag jobtag pa with kind := 5, data, codes := flitCodes data }
/-- The code of a reduction's operation in an ATOM, as RED numbers it. -/
def redCode : RedOp → Nat
  | .add => 0
  | .min => 1
  | .max => 2
  | .minu => 3
  | .maxu => 4
  | .and => 5
  | .or => 6
  | .xor => 7
/-- A flit of a slot that its home acknowledges: among the slot's posted writes until then. -/
def postFlit (s : State) (slot line : Nat) (f : Flit) : State :=
  let w : OutWr := { job := (getSlot s slot).job, dst := f.dst, tag := f.tag, slot := some slot, line, lost := unreachable s f.dst }
  { sendFlit s f with outWrs := s.outWrs ++ [w] }
/-- Post a reduction to its home. -/
def postRed (s : State) (slot : Nat) (sp : Span) (op : RedOp) (v : Word) : State :=
  match farAddr s sp.loc with
  | none => s
  | some (dst, pa) =>
    let (n, s) := takeUid s
    postFlit s slot (sp.loc / 64) (atomFlit s dst (BitVec.ofNat 12 n) (slotTag s slot) pa (redCode op) v 0 false true)
/-- A RELW to the home of a sync word (R43). -/
def relwFlit (s : State) (slot : Nat) (tag : BitVec 12) (sp : Span) (v : Word) : Option Flit :=
  (farAddr s sp.loc).map fun d => wordFlit s 0x07 0 d.1 tag (slotTag s slot) (BitVec.ofNat 52 d.2) v
/-- Post a release write to its home. -/
def postRelw (s : State) (slot : Nat) (sp : Span) (v : Word) : State :=
  let (n, s) := takeUid s
  match relwFlit s slot (BitVec.ofNat 12 n) sp v with
  | none => s
  | some f => postFlit s slot (sp.loc / 64) f

/-! ## A slot's posted writes (02 R42, R43) -/

/-- The posts that a write of a slot has just made are its own. -/
def claimWrs (s : State) (slot : Nat) : State :=
  { s with outWrs := s.outWrs.map fun w => if w.slot.isNone && w.line != 0 then { w with slot := some slot } else w }
/-- A slot that a new task takes has made no posts. -/
def disownWrs (s : State) (slot : Nat) : State :=
  { s with outWrs := s.outWrs.map fun w => if w.slot = some slot then { w with slot := none, line := 0 } else w }
/-- The posts of a slot to lines of ranges that are not acknowledged. -/
def coveredWrs (s : State) (slot : Nat) (rs : List (Nat × Nat)) : List OutWr :=
  let mine := s.outWrs.filter fun w => w.slot == some slot
  if mine.isEmpty then [] else
    let runs := mappedRuns s (dieOfCore (coreOf slot)) (getSlot s slot).job rs
    mine.filter fun w => lineIn runs w.line

end Sys2Proof.Machine
end

