-- ==== Sys2Proof/Machine/Image.lean ====
section
/-! DEFINITION. The snapshot image of a slot (07 R193-R197): its fields as bytes with codes, written and read back.
A region's entry area uses the same layout (11 R287). -/

namespace Sys2Proof.Machine

/-- The bytes, codes and metadata of n bytes of storage from a location, moved to location 0 (n a multiple of 64). -/
def extract (m : Store) (loc n : Nat) : Store :=
  { cells := (m.cells.filter fun e => decide (loc ≤ e.1) && decide (e.1 < loc + n)).map fun e => (e.1 - loc, e.2),
    syns := (m.syns.filter fun e => decide (loc / 16 ≤ e.1) && decide (e.1 < (loc + n) / 16)).map
      fun e => (e.1 - loc / 16, e.2),
    metas := (m.metas.filter fun e => decide (loc / 64 ≤ e.1) && decide (e.1 < (loc + n) / 64)).map
      fun e => (e.1 - loc / 64, e.2) }

/-- Replace n bytes of storage at a location by the n bytes at 0 of another store, with their codes and metadata. -/
def blit (m : Store) (img : Store) (loc n : Nat) : Store :=
  let img := extract img 0 n
  { cells := img.cells.foldl (fun l e => kvSet 0 l (e.1 + loc) e.2)
      (m.cells.filter fun e => !(decide (loc ≤ e.1) && decide (e.1 < loc + n))),
    syns := img.syns.foldl (fun l e => kvSet 0 l (e.1 + loc / 16) e.2)
      (m.syns.filter fun e => !(decide (loc / 16 ≤ e.1) && decide (e.1 < (loc + n) / 16))),
    metas := img.metas.foldl (fun l e => kvSet 0 l (e.1 + loc / 64) e.2)
      (m.metas.filter fun e => !(decide (loc / 64 ≤ e.1) && decide (e.1 < (loc + n) / 64))) }

/-- Put a control field: its granule's code is generated (07 R193). -/
def putField (m : Store) (off n : Nat) (v : Nat) : Store := writeNat m off n v
/-- Put a scalar entry. A mismatching entry leaves its granule mismatching (log 21). -/
def putScalar (m : Store) (off : Nat) (w : SWord) : Store :=
  let m := writeNat m off 8 w.val.toNat
  if w.syn = 0 then m else setGranSyn m (off / 16) 0xFFFF#16
/-- Put a vector entry with its carried codes. -/
def putVector (m : Store) (off : Nat) (w : VWord) : Store :=
  let m := writeNat m off 256 w.val.toNat
  (List.range 16).foldl (fun m g => setGranSyn m (off / 16 + g) (w.syn.extractLsb' (16 * g) 16)) m
/-- Put entries one after another. -/
def putAll {α : Type} (f : Store → Nat → α → Store) (size : Nat) : Store → Nat → List α → Store
  | m, _, [] => m
  | m, off, x :: t => putAll f size (f m off x) (off + size) t

/-- Read a scalar entry back. -/
def takeScalar (m : Store) (off : Nat) : SWord :=
  { val := BitVec.ofNat 64 (readNat m off 8), syn := granSyn m (off / 16), busy := 0 }
/-- Read a vector entry back. -/
def takeVector (m : Store) (off : Nat) : VWord :=
  { val := BitVec.ofNat 2048 (readNat m off 256),
    syn := BitVec.ofNat 256 ((List.range 16).foldl (fun a g => a + (granSyn m (off / 16 + g)).toNat * 2 ^ (16 * g)) 0) }
/-- Sixteen entries read back. -/
def take16 {α : Type} (f : Nat → α) (off size : Nat) : Vector α (2 ^ 4) :=
  let g (i : Nat) : α := f (off + i * size)
  #v[g 0, g 1, g 2, g 3, g 4, g 5, g 6, g 7, g 8, g 9, g 10, g 11, g 12, g 13, g 14, g 15]
/-- Thirty-two entries read back. -/
def take32 {α : Type} (f : Nat → α) (off size : Nat) : Vector α (2 ^ 5) :=
  let g (i : Nat) : α := f (off + i * size)
  #v[g 0, g 1, g 2, g 3, g 4, g 5, g 6, g 7, g 8, g 9, g 10, g 11, g 12, g 13, g 14, g 15,
     g 16, g 17, g 18, g 19, g 20, g 21, g 22, g 23, g 24, g 25, g 26, g 27, g 28, g 29, g 30, g 31]

/-- SEQFLAGS (07 R195). -/
def seqFlags (q : SeqSt) : Nat :=
  (if q.tend then 1 else 0) + (if q.predOn then 2 else 0) + q.predN.toNat * 4

/-- Put a sequencer block (07 R195). -/
def putSeq (m : Store) (off : Nat) (q : SeqSt) : Store :=
  let m := putField m off 8 q.pc.toNat
  let m := putField m (off + 0x08) 8 (seqFlags q)
  let m := putField m (off + 0x10) 8 q.lc.toNat
  let m := putField m (off + 0x18) 8 q.ec.toNat
  let m := putField m (off + 0x20) 8 q.rrb.toNat
  let m := putField m (off + 0x28) 8 q.stg.toNat
  let m := putField m (off + 0x30) 8 (q.segExp.toNat + if q.segOpen then 2 ^ 63 else 0)
  let m := putField m (off + 0x38) 8 q.segXsig.toNat
  let m := putField m (off + 0x40) 8 q.segCnt.toNat
  let m := putField m (off + 0x48) 8 q.segSig.toNat
  let m := putAll putScalar 8 m (off + 0x80) q.belt.toList
  let m := putAll putScalar 8 m (off + 0x100) q.short.toList
  putAll putScalar 8 m (off + 0x180) q.main.toList

/-- Read a sequencer block back; no word is outstanding. -/
def takeSeq (m : Store) (off : Nat) : SeqSt :=
  let f (o : Nat) : Nat := readNat m (off + o) 8
  let flags := f 0x08
  { pc := BitVec.ofNat 64 (f 0), belt := take16 (takeScalar m) (off + 0x80) 8,
    short := take16 (takeScalar m) (off + 0x100) 8, main := take32 (takeScalar m) (off + 0x180) 8,
    lc := BitVec.ofNat 64 (f 0x10), ec := BitVec.ofNat 64 (f 0x18), rrb := BitVec.ofNat 4 (f 0x20),
    stg := BitVec.ofNat 8 (f 0x28), tend := flags % 2 == 1, predOn := flags / 2 % 2 == 1,
    predN := BitVec.ofNat 3 (flags / 4), segOpen := f 0x30 / 2 ^ 63 == 1, segExp := BitVec.ofNat 20 (f 0x30),
    segXsig := BitVec.ofNat 32 (f 0x38), segCnt := BitVec.ofNat 20 (f 0x40), segSig := BitVec.ofNat 32 (f 0x48),
    outst := [], waiting := false }

/-- Put a ring handle (07 R190). -/
def putHandle (m : Store) (off : Nat) (h : Handle) : Store :=
  let m := putField m off 8 h.desc.toNat
  let m := putField m (off + 8) 4 h.first.toNat
  let m := putField m (off + 12) 2 h.count.toNat
  let m := putField m (off + 14) 2 h.done.toNat
  let m := putField m (off + 16) 1 (match h.role with | none => 0 | some .producer => 1 | some .consumer => 2)
  let m := putField m (off + 17) 1 h.flags.toNat
  let m := putField m (off + 18) 1 h.status.toNat
  putField m (off + 24) 4 h.seen.toNat
/-- Read a ring handle back. -/
def takeHandle (m : Store) (off : Nat) : Handle :=
  { desc := BitVec.ofNat 64 (readNat m off 8), first := BitVec.ofNat 32 (readNat m (off + 8) 4),
    count := BitVec.ofNat 16 (readNat m (off + 12) 2), done := BitVec.ofNat 16 (readNat m (off + 14) 2),
    role := match readNat m (off + 16) 1 with | 1 => some .producer | 2 => some .consumer | _ => none,
    flags := BitVec.ofNat 8 (readNat m (off + 17) 1), status := BitVec.ofNat 8 (readNat m (off + 18) 1),
    seen := BitVec.ofNat 32 (readNat m (off + 24) 4) }

/-- The image offset and entry size of each queue (07 R193). -/
def queueOff (k : Nat) : Nat × Nat :=
  match k with
  | 0 => (0x1200, 8) | 1 => (0x3000, 256) | 2 => (0x3800, 256) | 3 => (0x1280, 8) | 4 => (0x1300, 8)
  | 5 => (0x1380, 8) | 6 => (0x1400, 8) | _ => (0x1480, 8)

/-- Put a queue entry. -/
def putQEnt (m : Store) (off : Nat) (e : QEnt) : Store :=
  match e.val with
  | some (.s w) => putScalar m off w
  | some (.v w) => putVector m off w
  | none => m
/-- Put a queue, oldest entry first. -/
def putQueue (x : Slot) (m : Store) (k : Nat) : Store :=
  let o := queueOff k
  putAll putQEnt o.2 m o.1 (vget x.queues (BitVec.ofNat 3 k))
/-- Read a queue back: its count of entries. -/
def takeQueue (m : Store) (k : Nat) : List QEnt :=
  let o := queueOff k
  (List.range (readNat m 0x1108 8 / 32 ^ k % 32)).map fun i =>
    { tag := 0, val := some (if o.2 = 8 then .s (takeScalar m (o.1 + 8 * i)) else .v (takeVector m (o.1 + 256 * i))) }

/-- Put the slot state of 07 R196. -/
def putSlotState (m : Store) (x : Slot) : Store :=
  let f (m : Store) (off : Nat) (v : Word) : Store := putField m (0x1100 + off) 8 v.toNat
  let m := f m 0x00 (tokstat x)
  let m := f m 0x08 (qstat x)
  let m := f m 0x10 x.vtype
  let m := f m 0x18 x.fpstat
  let m := f m 0x20 x.mstat0
  let m := f m 0x28 x.mstat1
  let m := f m 0x30 x.crstat
  let m := f m 0x38 x.subcnt
  let m := f m 0x40 x.corrcnt
  let m := f m 0x48 x.fmtovr
  let m := putAll (fun m o (v : BitVec 32) => putField m o 4 v.toNat) 4 m 0x1150 x.chwp.toList
  let m := putField m 0x1160 4 x.deadlock
  let m := putAll (fun m o (b : Option Nat) => putField m o 1 (b.getD 0)) 1 m 0x1170 x.barmap.toList
  putField m 0x1180 2 ((List.range 16).foldl
    (fun a i => a + if (vget x.barmap (BitVec.ofNat 4 i)).isSome then 2 ^ i else 0) 0)

/-- The parts of the image that a region's entry state holds (11 R287): sequencer blocks, slot state, queues, vector
files, ring handles. `seqs` are the sequencers as they stand at their stop points. -/
def putEntry (m : Store) (x : Slot) : Store :=
  let m := putSeq m 0x100 x.k
  let m := putSeq m 0x500 x.l
  let m := putSeq m 0x900 x.c
  let m := putSeq m 0xD00 x.s
  let m := putSlotState m x
  let m := (List.range 8).foldl (putQueue x) m
  let m := putAll putHandle 32 m 0x1500 x.handles.toList
  let m := putAll putVector 256 m 0x4000 x.vbelt.toList
  let m := putAll putVector 256 m 0x5000 x.vshort.toList
  putAll putVector 256 m 0x6000 x.vmain.toList

/-- FPSTAT's RW fields (09 R250). -/
def fpstatMask : Word := 0x3F
/-- MSTAT's RW fields (09 R251). -/
def mstatMask : Word := 0xFFFF0035
/-- VTYPE's RW fields (16 R389). -/
def vtypeMask : Word := 0x1FFFFFF
/-- CRSTAT's RW fields (11 R291). -/
def crstatMask : Word := 0xFFFFFFFFFF4
/-- COUNT of SUBCNT and CORRCNT (11 R285, R296). -/
def countMask : Word := 0xFFFFFFFF
/-- FMTOVR's RW fields (10 R275). -/
def fmtovrMask : Word := 0x1FFFFFFFFFFFFF1
/-- The fields of CRSTAT, those that software cannot write included (11 R291). -/
def crstatFields : Word := 0xFFFFFFFFFFF

/-- The held signals of a restored slot: bit 32 + i of TOKSTAT names the counter, and through it the sequencer; the
layout holds no amount, which is a free value of 1 to 15 (log 10). -/
def heldOf (tokstat draw : Nat) (q : Seq) : List Outst :=
  let f (i : BitVec 3) : List Outst :=
    if tokstat / 2 ^ (32 + i.toNat) % 2 = 1 then
      [{ tag := 0, pc := 0, work := .none, done := true,
         sigs := [(i, 1 + (Config.freeWord (draw + i.toNat)).toNat % 15)] }]
    else []
  f (ctrSP q) ++ f (ctrSN q)

/-- Load the sequencers, queues, vector files, handles and the slot registers of an image into a slot. Registers
that a region's entry state leaves out are kept as they stand (`entry`; 11 R287); a reserved field of a register is zero whatever the image holds (00 R10). -/
def takeEntry (m : Store) (x : Slot) (entry : Bool) (draw : Nat) : Slot :=
  let g (off : Nat) : Word := BitVec.ofNat 64 (readNat m (0x1100 + off) 8)
  let ts := (g 0).toNat
  let seq (off : Nat) (q : Seq) : SeqSt := { takeSeq m off with outst := heldOf ts draw q }
  let tk (i : Nat) : BitVec 4 := BitVec.ofNat 4 (ts / 16 ^ i)
  let cw (i : Nat) : BitVec 32 := BitVec.ofNat 32 (readNat m (0x1150 + 4 * i) 4)
  let q (i : Nat) : List QEnt := takeQueue m i
  { x with
    k := seq 0x100 .K, l := seq 0x500 .L, c := seq 0x900 .C, s := seq 0xD00 .S
    tok := #v[tk 0, tk 1, tk 2, tk 3, tk 4, tk 5, tk 6, tk 7]
    queues := #v[q 0, q 1, q 2, q 3, q 4, q 5, q 6, q 7]
    vtype := g 0x10 &&& vtypeMask, fpstat := g 0x18 &&& fpstatMask
    mstat0 := if entry then x.mstat0 else g 0x20 &&& mstatMask, mstat1 := if entry then x.mstat1 else g 0x28 &&& mstatMask
    crstat := if entry then x.crstat else g 0x30 &&& crstatFields, subcnt := if entry then x.subcnt else g 0x38 &&& countMask
    corrcnt := if entry then x.corrcnt else g 0x40 &&& countMask, fmtovr := g 0x48 &&& fmtovrMask
    chwp := #v[cw 0, cw 1, cw 2, cw 3], deadlock := readNat m 0x1160 4
    handles := take32 (takeHandle m) 0x1500 32
    vbelt := take16 (takeVector m) 0x4000 256, vshort := take16 (takeVector m) 0x5000 256
    vmain := take32 (takeVector m) 0x6000 256 }

end Sys2Proof.Machine
end

