-- ==== Sys2Proof/Machine/Events.lean ====
section
/-! DEFINITION. Device accesses to memory on no core's path, and the posting of event records (03 R71-R74, R79, R80). -/

namespace Sys2Proof.Machine

/-- The value of n bytes at the homes of some spans as a consuming unit reads it, with the sectors substituted; none where a granule is
an uncorrectable error on a page that does not tolerate it (11 R284, R285). -/
def homeChecked (s : State) : List Span → Option (Nat × Nat)
  | [] => some (0, 0)
  | sp :: t =>
    match consume (getRun s .home sp.area sp.loc sp.len).2 sp.et, homeChecked s t with
    | .ok (gs, n), some (v, m) => some (runValue gs sp.loc sp.len + 2 ^ (8 * sp.len) * v, n + m)
    | _, _ => none

/-- Sectors that a unit substitutes for no slot count in SUBTOT of the job (11 R473). -/
def countUnit (s : State) (job n : Nat) : State :=
  if n = 0 then s else setJob s job { getJob s job with subtot := (getJob s job).subtot + BitVec.ofNat 64 n }

/-- Read n bytes at a virtual address at their homes, none when it does not translate with R or meets an uncorrectable error. -/
def unitRead (s : State) (ctx : TCtx) (va : Word) (n : Nat) : State × Option Nat :=
  match translate s ctx va n { r := true } with
  | (s, .ok sps) =>
    match homeChecked s sps with
    | some (v, k) => (countUnit s ctx.job k, some v)
    | none => (s, none)
  | (s, _) => (s, none)

/-- Write a value over spans as one accessor; false at a merge that fails (11 R473). -/
def putSpans (s : State) (w : Who) : List Span → Nat → Option State
  | [], _ => some s
  | sp :: t, v =>
    match putRun s w sp.area sp.et { loc := sp.loc, n := sp.len, v, syns := none, stamp := none } with
    | some (s, _) => putSpans s w t (v / 2 ^ (8 * sp.len))
    | none => none

/-- Write n bytes at a virtual address at their homes; the state as it was where that fails. -/
def unitWrite (s : State) (ctx : TCtx) (va : Word) (n v : Nat) : State × Bool :=
  match translate s ctx va n { w := true } with
  | (s, .ok sps) =>
    match putSpans s .home sps v with
    | some s' => (s', true)
    | none => (s, false)
  | (s, _) => (s, false)

/-- Read n bytes at a physical address at its home; none outside every range, and of a poisoned or mismatching granule. -/
def physRead (s : State) (pa n : Nat) : Option Nat :=
  match locate pa with
  | some (loc, area) => (homeChecked s [{ va := 0, loc, len := n, area, sw := 0, et := false, tt := false, cst := false }]).map (·.1)
  | none => none
/-- Write n bytes at a physical address at its home. -/
def physWrite (s : State) (pa n v : Nat) : State :=
  match locate pa with
  | some (loc, area) =>
    match putRun s .home area false { loc, n, v, syns := none, stamp := none } with
    | some (s, _) => s
    | none => s
  | none => s

/-- Bytes 0-55 of an event record (03 R79). -/
def eventBytes (e : Event) : Nat :=
  e.type.toNat + (if e.reply then 1 else 0) * 2 ^ 8 + e.job * 2 ^ 16 + e.source.toNat * 2 ^ 32
    + e.addr.toNat * 2 ^ 64 + (e.time % 2 ^ 64) * 2 ^ 128 + e.detail.toNat * 2 ^ 192

/-- An event queue's descriptor fields: BASE, LOG2N, WRIDX, RDIDX (03 R71). -/
structure QDesc where
  base  : Word
  log2n : Nat
  kind  : Nat
  stall : Nat
  job   : Nat
  flags : Byte
  wridx : Nat
  rdidx : Nat
  cbase : Word
  clog  : Nat
  target : BitVec 32
  cwr   : Nat
  crd   : Nat
  raw   : Nat
  deriving DecidableEq, Repr

/-- The fields of a queue descriptor (03 R71). -/
def qdescOf (v : Nat) : QDesc :=
  let f (o n : Nat) : Nat := v / 256 ^ o % 256 ^ n
  { base := BitVec.ofNat 64 (f 0 8), log2n := f 8 1, kind := f 9 1, stall := f 10 2, job := f 12 2,
    flags := BitVec.ofNat 8 (f 14 1), wridx := f 16 8, rdidx := f 24 8, cbase := BitVec.ofNat 64 (f 32 8),
    clog := f 40 1, target := BitVec.ofNat 32 (f 41 4), cwr := f 48 8, crd := f 56 8, raw := v }

/-- Publish one event in the slot of claim `i` of a queue: bytes 0-55, then the trailer (03 R73, R74, R79). -/
def publishAt (s : State) (ctx : TCtx) (q : QDesc) (i : Nat) (e : Event) : State :=
  let va := q.base + BitVec.ofNat 64 (i % 2 ^ q.log2n * 64)
  let (s, _) := unitWrite s ctx va 56 (eventBytes e)
  (unitWrite s ctx (va + 56) 8 (i % 2 ^ 56 + 2 ^ 56)).1

/-- Publish events while the queue has room, the claim counter through `setWr`: how many were published. -/
def publishAll (ctx : TCtx) (q : QDesc) (setWr : State → Nat → State) : State → Nat → List Event → State × Nat
  | s, _, [] => (s, 0)
  | s, i, e :: t =>
    if i < q.rdidx + 2 ^ q.log2n then
      let s := setWr (publishAt s ctx q i e) (i + 1)
      let (s, n) := publishAll ctx q setWr s (i + 1) t
      (s, n + 1)
    else (s, 0)

/-- An event of a unit of the device (03 R79); its number where the spec gives none, and a DETAIL without a meaning, are free (log
26). -/
def unitEvent (s : State) (type : Byte) (unit job : Nat) (addr : Word) (what : Nat) : Event :=
  { type, reply := false, job, source := 0xFF000000 ||| (Config.unitNumber unit).setWidth 32, addr, time := now s,
    detail := Config.eventDetail type what }
/-- The OVERFLOW event that reports dropped events (03 R79, R80). -/
def overflowEvent (s : State) (job n : Nat) : Event :=
  { unitEvent s 0x01 0 job 0 0 with detail := BitVec.ofNat 64 n }

/-- Post an event to a queue that has dropped `lost` events: an OVERFLOW event goes first where some were dropped, with the JOBID of the
event that follows it, which the spec leaves open in the supervisor's queue (03 R79; log 101). The answer is the events dropped now, this
one included where it finds no room, and whether the event itself was written. -/
def postTo (s : State) (ctx : TCtx) (q : QDesc) (setWr : State → Nat → State) (lost : Nat) (e : Event) :
    State × Nat × Bool :=
  let l := (if lost = 0 then [] else [overflowEvent s e.job lost]) ++ [e]
  let (s, n) := publishAll ctx q setWr s q.wridx l
  if n = l.length then (s, 0, true)
  else if n = 1 ∧ lost ≠ 0 then (s, 1, false)
  else (s, lost + 1, false)

/-- Post an event to a job's event queue; one that does not fit is dropped and counted. -/
def postJob (s : State) (job : Nat) (e : Event) : State :=
  let j := getJob s job
  let ctx := unitCtx (lowDie s) job false
  match unitRead s ctx j.evq 64 with
  | (s, some v) =>
    let setWr (s : State) (i : Nat) : State := (unitWrite s ctx (j.evq + 16) 8 i).1
    let (s, lost, _) := postTo s ctx (qdescOf v) setWr j.dropped e
    setJob s job { getJob s job with dropped := lost }
  | (s, none) => setJob s job { getJob s job with dropped := j.dropped + 1 }

/-- Post an event to the supervisor's event queue. One that needs a reply waits for room instead of being dropped, and counts as no drop. -/
def postSup (s : State) (e : Event) : State :=
  let ctx := unitCtx (lowDie s) 0 true
  let drop (s : State) (lost : Nat) : State :=
    if e.reply then { s with waitEv := s.waitEv ++ [e], supDrop := lost - 1 } else { s with supDrop := lost, sevovf := true }
  if s.sevq = 0 then drop s (s.supDrop + 1) else
    match physRead s s.sevq.toNat 64 with
    | none => drop s (s.supDrop + 1)
    | some v =>
      let setWr (s : State) (i : Nat) : State := physWrite s (s.sevq.toNat + 16) 8 i
      let (s, lost, ok) := postTo s ctx (qdescOf v) setWr s.supDrop e
      if ok then { s with supDrop := 0 } else drop s lost

/-- The events that wait for room are posted in their order as far as there is room (03 R79). -/
def postWaiting (s : State) : State := s.waitEv.foldl postSup { s with waitEv := [] }

/-- Post an UNCORRECTABLE event to both queues (03 R80, 11 R299). -/
def postUncorrectable (s : State) (job : Nat) (source : BitVec 32) (addr detail : Word) : State :=
  let e : Event := { type := 0x04, reply := false, job, source, addr, time := now s, detail }
  let s := postSup s e
  if job = 0 then s else postJob s job e

/-- A host port reports bad granules of a line by its physical address, for no job (11 R281, R299). -/
def portError (s : State) (line : Nat) (gmask : BitVec 4) (poison : Bool) : State :=
  postSup s { unitEvent s 0x04 96 0 (BitVec.ofNat 64 (physOf (64 * line))) 0 with
              detail := BitVec.ofNat 64 ((if poison then 2 else 1) + 10 * 16 + gmask.toNat * 256) }

/-- Count substituted sectors in a slot's SUBCNT, a unit's in SUBTOT of its job (11 R473); a SUBST event is posted where the count passes a multiple of 2^16
(11 R285, 03 R80). -/
def countSubst (s : State) (slot n : Nat) : State :=
  if n = 0 then s
  else if isUnit slot then
    let j := slotJob s slot
    setJob s j { getJob s j with subtot := (getJob s j).subtot + BitVec.ofNat 64 n }
  else
    let old := (getSlot s slot).subcnt.toNat
    let s := updSlot s slot fun x => addSubcnt x n
    let x := getSlot s slot
    if old / 65536 = x.subcnt.toNat / 65536 || x.job == 0 then s
    else postJob s x.job { type := 0x05, reply := false, job := x.job, source := BitVec.ofNat 32 (coreOf slot),
                           addr := 0, time := now s, detail := x.subcnt }

end Sys2Proof.Machine
end

