-- ==== Sys2Proof/Machine/Homes.lean ====
section
/-! DEFINITION. Words updated at their homes, and the errors that consuming lanes meet (11 R284, R299, R473; 08 R216,
R217). -/

namespace Sys2Proof.Machine

/-- An uncorrectable error a lane consumed (11 R284, R299): its cause code 1-4, the consuming unit, the address, the
bad granules of the line. -/
structure Bad where
  cause : BitVec 4
  src   : Nat
  addr  : Word
  gmask : BitVec 4 := 0
  deriving DecidableEq, Repr

/-- An operation that may consume an uncorrectable error. -/
abbrev Risk (α : Type) := Except Bad α

/-- The error of a code mismatch or of poison. -/
def Bad.of (poison : Bool) (src : Nat) (addr : Word) (g : Nat) : Bad :=
  { cause := if poison then 2 else 1, src, addr, gmask := 1#4 <<< (g % 4) }

/-- The error of the bad granules that a lane consumed in a run from a location (11 R299): the consumed address is that of the first. -/
def Bad.ofGrans (src : Nat) (va : Word) (loc : Loc) : List GRead → Bad
  | [] => { cause := 1, src, addr := va }
  | g :: l =>
    { cause := if g.poison then 2 else 1, src, addr := va + BitVec.ofNat 64 (16 * g.gran - loc)
      gmask := (g :: l).foldl (fun m e => if e.gran / 4 = g.gran / 4 then m ||| 1#4 <<< (e.gran % 4) else m) 0 }

/-- Read n bytes of a granule at its home (11 R280, R285): the issuing cluster's copies of the line are written back and dropped first, and
a bad granule on an ET page reads as zeros, the line unchanged. Answers the state, the value and the sectors substituted, or whether the
error was poison. -/
def homeRead (s : State) (cluster : Option Nat) (sp : Span) (n : Nat) : Except Bool (State × Nat × Nat) :=
  let line := sp.loc / 64
  let s :=
    match cluster with
    | some c => if sp.area.cached then purge s c line else s
    | none => s
  let old := homeGran s line (sp.loc / 16 % 4)
  let md := homeMeta s line
  if old.syn != 0 || poisoned md then
    if sp.et then .ok (s, 0, 1) else .error (poisoned md)
  else .ok (s, old.data.toNat / 2 ^ (8 * (sp.loc % 16)) % 2 ^ (8 * n), 0)

/-- Update a word of n bytes at its home (11 R473, 08 R216). `f` gives the new value, none to leave it. On an ET page a bad old granule
reads as zeros and its 32-byte sector is rewritten; on another page the location is unchanged. Answers as `homeRead` does. -/
def homeUpdate (s : State) (cluster : Option Nat) (sp : Span) (n : Nat) (f : Nat → Option Nat) :
    Except Bool (State × Nat × Nat) :=
  match homeRead s cluster sp n with
  | .error p => .error p
  | .ok (s, v, k) =>
    let line := sp.loc / 64
    let g := sp.loc / 16 % 4
    let sh := 8 * (sp.loc % 16)
    let base := if k = 0 then (homeGran s line g).data.toNat else 0
    let new := (f v).map fun v' => base - v * 2 ^ sh + v' % 2 ^ (8 * n) * 2 ^ sh
    let s :=
      match new, k with
      | none, 0 => s
      | _, _ =>
        let s := putHomeGran s line g (BitVec.ofNat 128 (new.getD base)) 0
        let s := if k = 0 then s else putHomeGran s line (if g % 2 = 0 then g + 1 else g - 1) 0 0
        lineWritten (clearRanges s sp.loc n) line
    .ok (s, v, k)

/-- Read spans as a consuming lane (11 R280, R284, R285): the value, lowest address least significant; substituted
sectors are counted in the slot's SUBCNT. -/
def loadSpans (src slot : Nat) (w : Who) : State → List Span → Risk (State × Nat)
  | s, [] => .ok (s, 0)
  | s, sp :: t =>
    let (s, gs) := getRun s w sp.area sp.loc sp.len
    match consume gs sp.et with
    | .error bad => .error (.ofGrans src sp.va sp.loc bad)
    | .ok (gs, n) =>
      match loadSpans src slot w (countSubst s slot n) t with
      | .error b => .error b
      | .ok (s, v) => .ok (s, runValue gs sp.loc sp.len + 2 ^ (8 * sp.len) * v)

/-- The UNCORRECTABLE event of a home unit that consumed an error for no slot (11 R284, R299): ADDR is physical. -/
def postHomeError (s : State) (job : Nat) (loc : Loc) (b : Bad) : State :=
  postSup s { unitEvent s 0x04 1 job (BitVec.ofNat 64 (physOf loc)) 0 with
              detail := BitVec.ofNat 64 (b.cause.toNat + 6 * 16 + b.gmask.toNat * 2 ^ 8) }

/-- Update a word at its home on the device's own account (11 R473): a bad old granule on an ET page is replaced and
counts in SUBTOT of the job; on another page nothing is written and an UNCORRECTABLE event is posted. Answers the state
and the old value, none where nothing was written. -/
def devUpdate (s : State) (job : Nat) (sp : Span) (n : Nat) (f : Nat → Option Nat) : State × Option Nat :=
  match homeUpdate s none sp n f with
  | .ok (s, v, k) =>
    (if k = 0 then s else setJob s job { getJob s job with subtot := (getJob s job).subtot + BitVec.ofNat 64 k }, some v)
  | .error p => (postHomeError s job sp.loc (.of p 6 sp.va (sp.loc / 16)), none)

/-- The part of a span that starts at an offset. -/
def Span.at (sp : Span) (off : Nat) : Span :=
  { sp with va := sp.va + BitVec.ofNat 64 off, loc := sp.loc + off, len := sp.len - off }

/-- Update a word at a virtual address on the device's own account; the Bool says whether it translated. -/
def unitUpdate (s : State) (ctx : TCtx) (va : Word) (n : Nat) (f : Nat → Option Nat) : State × Option Nat :=
  match translate s ctx va n { w := true } with
  | (s, .ok [sp]) => devUpdate s ctx.job sp n f
  | (s, _) => (s, none)

/-- The word of a release at the width of a core or cluster is read in a cluster's caches: what they hold of its line goes home first, so that
an acquire there sees the release (08 R208, R214). -/
def freeWord (s : State) (sp : Span) : State :=
  if sp.sw < 2 ∧ sp.area.cached then
    (s.clines.filter fun e => e.1 % 2 ^ 64 == sp.loc / 64).foldl (fun s e => purge s (e.1 / 2 ^ 64) (sp.loc / 64)) s
  else s
/-- A release by the device on a sync word (08 R212, 13 R321): the value is written and the range that the release
carries is recorded with the word; false where the update is not made. -/
def devReleased (s : State) (job : Nat) (sp : Span) (v : Nat) (range : RelRange) : State × Bool :=
  match devUpdate (freeWord s sp) job sp 8 fun _ => some v with
  | (s, some _) => ({ s with ranges := s.ranges ++ [(sp.loc, range)] }, true)
  | (s, none) => (s, false)
/-- A release by the device. -/
def devRelease (s : State) (job : Nat) (sp : Span) (v : Nat) (range : RelRange) : State := (devReleased s job sp v range).1

end Sys2Proof.Machine
end

