-- ==== Sys2Proof/Machine/Numbers.lean ====
section
/-! DEFINITION. Number formats: exact values, decoding, rounding, saturating conversion, block formats, and the arithmetic
of IEEE 754-2019 special values (09 R231-R249). -/

namespace Sys2Proof.Machine

/-- INV of FPSTAT (09 R250). -/
def fINV : Word := 1
/-- DZ. -/
def fDZ : Word := 2
/-- OVF. -/
def fOVF : Word := 4
/-- UNF. -/
def fUNF : Word := 8
/-- INX. -/
def fINX : Word := 16
/-- SAT. -/
def fSAT : Word := 32

/-- An exact value: a NaN with its sign and whether it signals; an infinity; or a sign and magnitude m * 2^e. -/
inductive XV where
  | nan (neg sig : Bool)
  | inf (neg : Bool)
  | fin (neg : Bool) (m : Nat) (e : Int)
  deriving DecidableEq, Repr

/-- The sign of a value. -/
def XV.neg : XV → Bool
  | .nan s _ => s
  | .inf s => s
  | .fin s _ _ => s
/-- The value is a NaN. -/
def XV.isNan : XV → Bool
  | .nan _ _ => true
  | _ => false
/-- The value is a signalling NaN. -/
def XV.signals : XV → Bool
  | .nan _ g => g
  | _ => false
/-- The value is an infinity. -/
def XV.isInf : XV → Bool
  | .inf _ => true
  | _ => false
/-- The value is a zero. -/
def XV.isZero : XV → Bool
  | .fin _ 0 _ => true
  | _ => false
/-- The value with its sign replaced. -/
def XV.setNeg (b : Bool) : XV → XV
  | .nan _ g => .nan b g
  | .inf _ => .inf b
  | .fin _ m e => .fin b m e
/-- The value times 2^s. -/
def XV.scale (s : Int) : XV → XV
  | .fin n m e => .fin n m (e + s)
  | x => x

/-- An exact real m * 2^e. -/
structure Dy where
  m : Int
  e : Int
  deriving DecidableEq, Repr

/-- A shift of an integer by a non-negative count. -/
def shlInt (m : Int) (k : Int) : Int := m * 2 ^ k.toNat
/-- The significand of a real at a smaller exponent. -/
def Dy.at (a : Dy) (e : Int) : Int := shlInt a.m (a.e - e)
/-- Sum. -/
def Dy.add (a b : Dy) : Dy := let e := min a.e b.e; { m := a.at e + b.at e, e }
/-- Negation. -/
def Dy.neg (a : Dy) : Dy := { a with m := -a.m }
/-- Difference. -/
def Dy.sub (a b : Dy) : Dy := a.add b.neg
/-- Product. -/
def Dy.mul (a b : Dy) : Dy := { m := a.m * b.m, e := a.e + b.e }
/-- Order. -/
def Dy.lt (a b : Dy) : Bool := let e := min a.e b.e; decide (a.at e < b.at e)
/-- Equality of values. -/
def Dy.eq (a b : Dy) : Bool := let e := min a.e b.e; a.at e == b.at e
/-- Magnitude. -/
def Dy.abs (a : Dy) : Dy := { a with m := a.m.natAbs }
/-- The real of a finite value; zero for the others. -/
def XV.dy : XV → Dy
  | .fin n m e => { m := if n then -(m : Int) else m, e }
  | _ => { m := 0, e := 0 }
/-- A finite value from a real, with the sign that a zero takes. -/
def xvOf (a : Dy) (zneg : Bool) : XV :=
  if a.m = 0 then .fin zneg 0 0 else .fin (decide (a.m < 0)) a.m.natAbs a.e
/-- floor(log2) of a nonzero magnitude. -/
def flog2 (m : Nat) (e : Int) : Int := e + (Nat.log2 m : Int)

/-! ## Float formats (09 R232, R233) -/

/-- A float format: exponent and mantissa widths, bias, largest finite code, infinity code if any, canonical NaN code if
any. -/
structure FF where
  ew   : Nat
  mw   : Nat
  bias : Int
  top  : Nat
  inf  : Option Nat
  nan  : Option Nat
  deriving DecidableEq, Repr

/-- The float formats by code. -/
def ffOf : Fmt → Option FF
  | .fp32 => some ⟨8, 23, 127, 0x7F7FFFFF, some 0x7F800000, some 0x7FC00000⟩
  | .bf16 => some ⟨8, 7, 127, 0x7F7F, some 0x7F80, some 0x7FC0⟩
  | .fp16 => some ⟨5, 10, 15, 0x7BFF, some 0x7C00, some 0x7E00⟩
  | .fp64 => some ⟨11, 52, 1023, 0x7FEFFFFFFFFFFFFF, some 0x7FF0000000000000, some 0x7FF8000000000000⟩
  | .e4m3 => some ⟨4, 3, 7, 0x7E, none, some 0x7F⟩
  | .e5m2 => some ⟨5, 2, 15, 0x7B, some 0x7C, some 0x7E⟩
  | .e2m1 => some ⟨2, 1, 1, 0x7, none, none⟩
  | _ => none

/-- FP32. -/
def ff32 : FF := ⟨8, 23, 127, 0x7F7FFFFF, some 0x7F800000, some 0x7FC00000⟩
/-- FP64. -/
def ff64 : FF := ⟨11, 52, 1023, 0x7FEFFFFFFFFFFFFF, some 0x7FF0000000000000, some 0x7FF8000000000000⟩

/-- The bit position of a format's sign. -/
def FF.signBit (f : FF) : Nat := f.ew + f.mw
/-- The exponent of a subnormal's last place. -/
def FF.emin (f : FF) : Int := 1 - f.bias - f.mw

/-- The value of a float code (09 R232, R233). -/
def FF.decode (f : FF) (c : Nat) : XV :=
  let neg := c / 2 ^ f.signBit % 2 == 1
  let mag := c % 2 ^ f.signBit
  let ex := mag / 2 ^ f.mw
  let man := mag % 2 ^ f.mw
  if mag ≤ f.top then
    (if ex = 0 then .fin neg man f.emin else .fin neg (2 ^ f.mw + man) (f.emin + ex - 1))
  else if f.inf = some mag then .inf neg
  else .nan neg (decide (7 < f.signBit) && man / 2 ^ (f.mw - 1) == 0)

/-- A code with a sign. -/
def FF.signed (f : FF) (neg : Bool) (c : Nat) : Nat := c + (if neg then 2 ^ f.signBit else 0)
/-- The canonical NaN with a sign. -/
def FF.nanCode (f : FF) (neg : Bool) : Nat := f.signed neg (f.nan.getD 0)

/-- Divide by 2^d, to nearest with ties to even; and whether it was inexact. -/
def rneShift (m d : Nat) : Nat × Bool :=
  let q := m / 2 ^ d
  let r := m % 2 ^ d
  let up := decide (2 ^ d < 2 * r) || (2 * r == 2 ^ d && d != 0 && q % 2 == 1)
  (if up then q + 1 else q, r != 0)

/-- Round a magnitude to a float format's precision: its code, which may pass the largest finite one; whether it was
inexact; whether it was tiny after rounding (09 R240). -/
def FF.round (f : FF) (m : Nat) (e : Int) : Nat × Bool × Bool :=
  if m = 0 then (0, false, false) else
    let l := flog2 m e
    let q := max (l - f.mw) f.emin
    if q ≤ e then (((q - f.emin).toNat * 2 ^ f.mw + m * 2 ^ (e - q).toNat), false, decide (l < f.emin + f.mw))
    else
      let (r, inx) := rneShift m (q - e).toNat
      let q' := l - f.mw
      let tiny :=
        if q' ≤ e then decide (l < f.emin + f.mw)
        else let (r', _) := rneShift m (q' - e).toNat
             decide (flog2 r' q' < f.emin + f.mw)
      ((q - f.emin).toNat * 2 ^ f.mw + r, inx, tiny)

/-- Flags of a rounding. -/
def roundFlags (inx tiny : Bool) : Word := if inx then (if tiny then fINX ||| fUNF else fINX) else 0

/-- The arithmetic result of an exact value in a format: overflow gives an infinity (09 R241). -/
def FF.arith (f : FF) : XV → Nat × Word
  | .nan n g => (f.nanCode n, if g then fINV else 0)
  | .inf n => (f.signed n (f.inf.getD f.top), 0)
  | .fin n m e =>
    let (c, inx, tiny) := f.round m e
    if f.top < c then (f.signed n (f.inf.getD f.top), fOVF ||| fINX) else (f.signed n c, roundFlags inx tiny)

/-- A converted result in a float format (09 R242): a widening conversion keeps infinities, any other saturates. -/
def FF.convert (f : FF) (widen : Bool) : XV → Nat × Word
  | .nan n g => (f.nanCode n, if g then fINV else 0)
  | .inf n =>
    match f.inf, widen with
    | some c, true => (f.signed n c, 0)
    | _, _ => (f.signed n f.top, fSAT)
  | .fin n m e =>
    let (c, inx, tiny) := f.round m e
    if f.top < c then (f.signed n f.top, fSAT ||| fINX) else (f.signed n c, roundFlags inx tiny)

/-! ## Integers and E8M0 (09 R234, R235, R243, R244) -/

/-- The range of an integer format. -/
def intRange : Fmt → Option (Int × Int)
  | .int8 => some (-128, 127)
  | .uint8 => some (0, 255)
  | .int16 => some (-32768, 32767)
  | .int32 => some (-2147483648, 2147483647)
  | .int64 => some (-9223372036854775808, 9223372036854775807)
  | _ => none

/-- A w-bit pattern as a signed number. -/
def toSigned (w n : Nat) : Int := if n < 2 ^ (w - 1) then n else (n : Int) - 2 ^ w
/-- The w-bit pattern of a number. -/
def ofSigned (w : Nat) (i : Int) : Nat := (i % 2 ^ w).toNat

/-- The value of an element code of a format other than a block format (09 R232-R235). -/
def decodeElem (f : Fmt) (c : Nat) : XV :=
  match ffOf f with
  | some g => g.decode c
  | none =>
    match f with
    | .e8m0 => if c = 255 then .nan false false else .fin false 1 ((c : Int) - 127)
    | .uint8 => .fin false c 0
    | _ => let i := toSigned (fmtWidth f) c; .fin (decide (i < 0)) i.natAbs 0

/-- Round a magnitude to an integer, to nearest even or toward zero. -/
def roundInt (rtz : Bool) (m : Nat) (e : Int) : Nat × Bool :=
  if 0 ≤ e then (m * 2 ^ e.toNat, false)
  else if rtz then (m / 2 ^ (-e).toNat, m % 2 ^ (-e).toNat != 0)
  else rneShift m (-e).toNat

/-- Conversion to an integer format (09 R243). -/
def toInt (f : Fmt) (rtz : Bool) (x : XV) : Nat × Word :=
  let (lo, hi) := (intRange f).getD (0, 0)
  let enc (i : Int) : Nat := ofSigned (fmtWidth f) i
  match x with
  | .nan _ _ => (0, fINV)
  | .inf n => (enc (if n then lo else hi), fSAT)
  | .fin n m e =>
    let (r, inx) := roundInt rtz m e
    let v : Int := if n then -(r : Int) else r
    if v < lo then (enc lo, fSAT ||| fINX) else if hi < v then (enc hi, fSAT ||| fINX)
    else (enc v, if inx then fINX else 0)

/-- Conversion to E8M0 (09 R244). -/
def toE8m0 (x : XV) : Nat × Word :=
  match x with
  | .nan _ g => (255, if g then fINV else 0)
  | .inf _ => (254, fSAT)
  | .fin _ 0 _ => (0, 0)
  | .fin _ m e =>
    let l := flog2 m e + 127
    let c := max 0 (min 254 l)
    (c.toNat, (if c = l then 0 else fSAT ||| fINX) ||| (if m = 2 ^ Nat.log2 m then 0 else fINX))

/-- A conversion between two formats is widening (09 R242). -/
def widening (a b : Fmt) : Bool :=
  a == b || match a, b with
    | _, .fp64 => (ffOf a).isSome
    | .bf16, .fp32 | .fp16, .fp32 | .e4m3, .fp32 | .e5m2, .fp32 | .e2m1, .fp32 => true
    | .e4m3, .fp16 | .e5m2, .fp16 | .e2m1, .fp16 | .e4m3, .bf16 | .e5m2, .bf16 | .e2m1, .bf16 => true
    | _, _ => false

/-- Convert an exact value, already scaled, to a format that is no block format. -/
def convertTo (f : Fmt) (rtz widen : Bool) (x : XV) : Nat × Word :=
  match ffOf f with
  | some g => g.convert widen x
  | none => if f = .e8m0 then toE8m0 x else toInt f rtz x

/-- convert_sat of an element code from one format to another with a scale (09 R249). -/
def convertSat (src dst : Fmt) (s : Int) (rtz : Bool) (c : Nat) : Nat × Word :=
  convertTo dst rtz (widening src dst) ((decodeElem src c).scale s)

/-! ## Block formats (09 R236-R239, R246-R248) -/

/-- The magnitudes of codes 0-7 of TQ4 types 1-3, doubled; type 1 is E2M1 (09 R239). -/
def tqMag (t c : Nat) : Nat :=
  match t with
  | 1 => [0, 1, 2, 3, 4, 6, 8, 12].getD c 0
  | 2 => [0, 2, 4, 8, 16, 32, 64, 128].getD c 0
  | _ => [0, 2, 4, 6, 8, 12, 16, 32].getD c 0
/-- Twice value_T(c) (09 R239). -/
def tqVal2 (t c : Nat) : Int :=
  if t = 0 then 2 * toSigned 4 c
  else if c < 8 then tqMag t c else -(tqMag t (c - 8) : Int)
/-- value_T(c) as a real. -/
def tqVal (t c : Nat) : Dy := { m := tqVal2 t c, e := -1 }
/-- M_T (09 R239). -/
def tqMax (t : Nat) : Nat := [7, 6, 64, 16].getD t 0

/-- nearest_code(T, y) among codes that agree with the sign: ties go to the code whose bit 0 is clear (09 R247). -/
def nearestCode (t : Nat) (neg : Bool) (y : Dy) : Nat :=
  let cs := if t = 0 then List.range 16 else if neg then (List.range 8).map (· + 8) else List.range 8
  let dist (c : Nat) : Dy := (y.sub (tqVal t c)).abs
  cs.foldl (fun b c =>
    if (dist c).lt (dist b) || ((dist c).eq (dist b) && c % 2 == 0 && b % 2 == 1) then c else b) (cs.headD 0)

/-- The largest finite FP32 for an infinite input (09 R249 finite). -/
def finite : XV → XV
  | .inf n => .fin n 0xFFFFFF 104
  | x => x

/-- A quantised block: scale byte, codes, flags, saturations. -/
structure QBlock where
  scale : Nat
  codes : List Nat
  flags : Word
  sats  : Nat
  deriving DecidableEq, Repr

/-- INV for a block with a signalling NaN. -/
def blockInv (v : List XV) : Word := if v.any XV.signals then fINV else 0
/-- The greatest magnitude of a list of finite values. -/
def maxMag (v : List XV) : Dy := v.foldl (fun a x => if a.lt x.dy.abs then x.dy.abs else a) { m := 0, e := 0 }

/-- quantise_mx of one block (09 R246). -/
def quantiseMx (v : List XV) (s : Int) (forced : Option Nat) : QBlock :=
  if v.any XV.isNan || forced == some 255 then
    { scale := 255, codes := v.map fun _ => 0, flags := blockInv v, sats := 0 }
  else
    let x := v.map fun e => ((finite e).scale s, e.isInf)
    let a := maxMag (x.map (·.1))
    let raw : Int := if a.m = 0 then 0 else flog2 a.m.natAbs a.e - 2 + 127
    let sc : Int := match forced with | some f => f | none => max 0 (min 254 raw)
    let clamped := forced.isNone && decide (254 < raw)
    let one (p : XV × Bool) : Nat × Bool × Bool :=
      let y := (p.1.scale (127 - sc)).dy
      let c := nearestCode 1 p.1.neg y
      let big (k : Nat) : Bool := !(y.abs.lt { m := k, e := 0 })
      (c, !(y.eq (tqVal 1 c)), big 8 || p.2 || (clamped && ({ m := 6, e := 0 : Dy }).lt y.abs))
    let r := x.map one
    { scale := sc.toNat, codes := r.map (·.1), sats := (r.filter (·.2.2)).length
      flags := (if r.any (·.2.1) then fINX else 0) ||| (if r.any (·.2.2) then fSAT else 0) }

/-- The least k of -32..30 with a ≤ M * 2^k; 30 if there is none (09 R247). -/
def tqExp (a : Dy) (t : Nat) : Int :=
  let i : Nat := ((List.range 63).find? fun (i : Nat) => !(({ m := tqMax t, e := (i : Int) - 32 } : Dy).lt a)).getD 62
  (i : Int) - 32

/-- One type's trial of a block: exponent, codes, squared error, inexact, saturations (09 R247). -/
def tqTrial (x : List (XV × Bool)) (a : Dy) (t : Nat) : Int × List Nat × Dy × Bool × Nat :=
  let k := tqExp a t
  let lo : Dy := { m := if t = 0 then -8 else -(tqMax t : Int), e := 0 }
  let one (p : XV × Bool) : Nat × Dy × Bool × Bool :=
    let y := (p.1.scale (-k)).dy
    let c := nearestCode t p.1.neg y
    let d := p.1.dy.sub ((tqVal t c).mul { m := 1, e := k })
    (c, d.mul d, d.m != 0, y.lt lo || ({ m := tqMax t, e := 0 : Dy }).lt y || p.2)
  let r := x.map one
  (k, r.map (·.1), r.foldl (fun a e => a.add e.2.1) { m := 0, e := 0 }, r.any (·.2.2.1), (r.filter (·.2.2.2)).length)

/-- quantise_tq4 of one block (09 R247). -/
def quantiseTq4 (v : List XV) (s : Int) : QBlock :=
  if v.any XV.isNan then { scale := 0x3F, codes := v.map fun _ => 0, flags := blockInv v, sats := 0 }
  else
    let x := v.map fun e => ((finite e).scale s, e.isInf)
    let a := maxMag (x.map (·.1))
    if a.m = 0 then { scale := 0, codes := v.map fun _ => 0, flags := 0, sats := 0 } else
      let tr := [0, 1, 2, 3].map fun t => (t, tqTrial x a t)
      let best := tr.foldl (fun b c => if c.2.2.2.1.lt b.2.2.2.1 then c else b) (0, tqTrial x a 0)
      let (t, k, cs, _, inx, n) := best
      { scale := t * 64 + (k + 32).toNat, codes := cs, sats := n
        flags := (if inx then fINX else 0) ||| (if n = 0 then 0 else fSAT) }

/-- Quantise a block to a block format. -/
def quantiseBlock (f : Fmt) (v : List XV) (s : Int) (forced : Option Nat) : QBlock :=
  if f = .tq4 then quantiseTq4 v s else quantiseMx v s forced

/-- The value of a block element under its scale byte, before the tensor scale (09 R237, R238). -/
def blockElem (f : Fmt) (scale c : Nat) : XV :=
  if f = .tq4 then
    if scale % 64 = 63 then .nan false false
    else
      let v := tqVal2 (scale / 64) c
      let neg := if scale / 64 = 0 then decide (v < 0) else decide (8 ≤ c)
      .fin neg v.natAbs (-1 + (scale % 64 : Nat) - 32)
  else if scale = 255 then .nan false false
  else .fin (decide (8 ≤ c)) (tqMag 1 (c % 8)) (-1 + (scale : Int) - 127)

/-! ## Arithmetic (09 R240, R241, 16 R393-R395) -/

/-- The NaN that a NaN operand gives: the sign of the first, INV for a signalling one (09 R241). -/
def nanOf (l : List XV) : Option (XV × Word) :=
  match l.find? XV.isNan with
  | some x => some (.nan x.neg false, if l.any XV.signals then fINV else 0)
  | none => none

/-- An invalid operation's NaN. -/
def invalid : XV × Word := (.nan false false, fINV)

/-- a + b, exact. -/
def xAdd (a b : XV) : XV × Word :=
  match nanOf [a, b], a, b with
  | some r, _, _ => r
  | none, .inf n, .inf m => if n = m then (.inf n, 0) else invalid
  | none, .inf n, _ => (.inf n, 0)
  | none, _, .inf m => (.inf m, 0)
  | none, _, _ => (xvOf (a.dy.add b.dy) (a.neg && b.neg), 0)
/-- a × b, exact. -/
def xMul (a b : XV) : XV × Word :=
  let n := a.neg != b.neg
  match nanOf [a, b], a.isInf || b.isInf with
  | some r, _ => r
  | none, true => if a.isZero || b.isZero then invalid else (.inf n, 0)
  | none, false => (xvOf (a.dy.mul b.dy) n, 0)
/-- Change a value's sign. -/
def XV.flip (x : XV) : XV := x.setNeg (!x.neg)
/-- ±a × b ± c, rounded once by the caller. A NaN operand decides before an invalid product. -/
def xFma (pneg cneg : Bool) (a b c : XV) : XV × Word :=
  match nanOf [a, b, c] with
  | some r => r
  | none =>
    let (p, f) := xMul a b
    if f ≠ 0 then (p, f) else xAdd (if pneg then p.flip else p) (if cneg then c.flip else c)
/-- a / b to enough places for one rounding. -/
def xDiv (a b : XV) : XV × Word :=
  let n := a.neg != b.neg
  match nanOf [a, b], a, b with
  | some r, _, _ => r
  | none, .inf _, .inf _ => invalid
  | none, .inf _, _ => (.inf n, 0)
  | none, _, .inf _ => (.fin n 0 0, 0)
  | none, .fin _ 0 _, .fin _ 0 _ => invalid
  | none, .fin _ _ _, .fin _ 0 _ => (.inf n, fDZ)
  | none, .fin _ m e, .fin _ k g =>
    let q := m * 2 ^ 192 / k
    (if m = 0 then .fin n 0 0 else .fin n (2 * q + if m * 2 ^ 192 % k = 0 then 0 else 1) (e - g - 193), 0)
  | none, _, _ => invalid

/-- The integer square root, bit by bit from 2^k down. -/
def isqrtFrom (n : Nat) : Nat → Nat → Nat
  | 0, r => r
  | k + 1, r => let r' := r + 2 ^ k; isqrtFrom n k (if r' * r' ≤ n then r' else r)
/-- The square root of a magnitude, rounded down with a sticky last bit: significand and exponent. -/
def sqrtMag (m : Nat) (e : Int) : Nat × Int :=
  let m := if e % 2 = 0 then m else 2 * m
  let e := if e % 2 = 0 then e else e - 1
  let n := m * 2 ^ 192
  let r := isqrtFrom n (Nat.log2 n / 2 + 1) 0
  (2 * r + (if r * r = n then 0 else 1), e / 2 - 97)
/-- √a. -/
def xSqrt (a : XV) : XV × Word :=
  match nanOf [a], a with
  | some r, _ => r
  | none, .inf false => (a, 0)
  | none, .fin _ 0 _ => (a, 0)
  | none, .fin false m e => let (r, g) := sqrtMag m e; (.fin false r g, 0)
  | none, _ => invalid
/-- 1/√a (16 R394). -/
def xRsq (a : XV) : XV × Word :=
  match nanOf [a], a with
  | some r, _ => r
  | none, .inf false => (.fin false 0 0, 0)
  | none, .fin n 0 _ => (.inf n, fDZ)
  | none, .fin false m e =>
    let m := if e % 2 = 0 then m else 2 * m
    let e := if e % 2 = 0 then e else e - 1
    let n := 2 ^ 512 / m
    let r := isqrtFrom n (Nat.log2 n / 2 + 1) 0
    (.fin false (2 * r + (if r * r * m = 2 ^ 512 then 0 else 1)) (-(e / 2) - 257), 0)
  | none, _ => invalid

/-- The least or greatest of two values (16 R394). -/
def xMin (max_ : Bool) (a b : XV) : XV × Word :=
  match nanOf [a, b], a, b with
  | some r, _, _ => r
  | none, .inf n, _ => (if n = max_ then b else a, 0)
  | none, _, .inf n => (if n = max_ then a else b, 0)
  | none, _, _ =>
    if a.isZero && b.isZero then (if a.neg != max_ then a else b, 0)
    else (if a.dy.lt b.dy == !max_ then a else if a.dy.eq b.dy then a else b, 0)

/-- a < b, a = b, for values that are no NaN. -/
def xLt (a b : XV) : Bool :=
  match a, b with
  | .inf n, .inf m => n && !m
  | .inf n, _ => n
  | _, .inf m => !m
  | _, _ => a.dy.lt b.dy
/-- Numeric equality; −0 = +0. -/
def xEq (a b : XV) : Bool :=
  match a, b with
  | .inf n, .inf m => n == m
  | .inf _, _ => false
  | _, .inf _ => false
  | _, _ => a.dy.eq b.dy

/-! ## 2^a and log2 a (log 19) -/

/-- Places of the fixed-point series. -/
def fxBits : Nat := 320
/-- The sum of z^(2i+1)/(2i+1) from term i on, z^(2i+1) given, in fixed point. -/
def atanhSum (zz : Nat) : Nat → Nat → Nat → Nat → Nat
  | 0, _, _, acc => acc
  | fuel + 1, i, p, acc => atanhSum zz fuel (i + 1) (p * zz / 2 ^ fxBits) (acc + p / (2 * i + 1))
/-- 2 atanh(a / b) in fixed point. -/
def atanh2 (a b : Nat) : Nat :=
  let z := a * 2 ^ fxBits / b
  2 * atanhSum (z * z / 2 ^ fxBits) 110 0 z 0
/-- ln 2 in fixed point. -/
def ln2Fx : Nat := atanh2 1 3
/-- The sum of y^i/i! from term i on, the term given, in fixed point. -/
def expSum (y : Nat) : Nat → Nat → Nat → Nat → Nat
  | 0, _, _, acc => acc
  | fuel + 1, i, t, acc => expSum y fuel (i + 1) (t * y / 2 ^ fxBits / i) (acc + t)

/-- 2^a (16 R394). A magnitude of 2^20 or more is beyond every format's range. -/
def xExp2 (a : XV) : XV × Word :=
  match nanOf [a], a with
  | some r, _ => r
  | none, .inf true => (.fin false 0 0, 0)
  | none, .fin n m e =>
    if m = 0 then (.fin false 1 0, 0)
    else if 20 ≤ flog2 m e then (.fin false 1 (if n then -(2 : Int) ^ 20 else 2 ^ 20), 0)
    else if 0 ≤ e then (.fin false 1 (a.dy.at 0), 0)
    else
      let x := a.dy
      let ip := x.m / 2 ^ (-e).toNat
      let fp := (x.m % 2 ^ (-e).toNat).toNat
      if fp = 0 then (.fin false 1 ip, 0)
      else
        let f := fp * 2 ^ fxBits / 2 ^ (-e).toNat
        let r := expSum (f * ln2Fx / 2 ^ fxBits) 90 1 (2 ^ fxBits) 0
        (.fin false (2 * r + 1) (ip - fxBits - 1), 0)
  | none, _ => (a, 0)

/-- log2 a (16 R394). -/
def xLog2 (a : XV) : XV × Word :=
  match nanOf [a], a with
  | some r, _ => r
  | none, .inf false => (a, 0)
  | none, .fin _ 0 _ => (.inf true, fDZ)
  | none, .fin false m e =>
    let k := Nat.log2 m
    let l := e + (k : Int)
    if m = 2 ^ k then (xvOf { m := l, e := 0 } false, 0)
    else
      let fr := atanh2 (m - 2 ^ k) (m + 2 ^ k) * 2 ^ fxBits / ln2Fx
      let v : Int := (l * 2 ^ fxBits + fr) * 2 + 1
      (xvOf { m := v, e := -(fxBits : Int) - 1 } false, 0)
  | none, _ => invalid

/-- Round an exact or sticky result to a float format as arithmetic, with its own flags. -/
def roundArith (f : FF) (r : XV × Word) : Nat × Word :=
  let (c, g) := f.arith r.1
  (c, g ||| r.2)

end Sys2Proof.Machine
end

