-- ==== Sys2Proof/Machine/Record.lean ====
section
/-! DEFINITION. Tensor records: fields, the check, policies, resolution, counters, and the Regulator's phase step
(10 R258-R276). -/

namespace Sys2Proof.Machine

/-- The n-byte field at an offset of a record's bytes. -/
def rf (r off n : Nat) : Nat := r / 256 ^ off % 256 ^ n
/-- A record with the n-byte field at an offset replaced. -/
def rset (r off n v : Nat) : Nat := r - rf r off n * 256 ^ off + v % 256 ^ n * 256 ^ off
/-- A byte as a signed number. -/
def sbyte (v : Nat) : Int := toSigned 8 (v % 256)

/-- CURVER. -/
def recVer (r : Nat) : Nat := rf r 6 1 % 16
/-- FMT(v). -/
def recFmt (r v : Nat) : Nat := rf r (17 + 2 * v) 1 % 16
/-- SCALE(v). -/
def recScale (r v : Nat) : Int := sbyte (rf r (16 + 2 * v) 1)
/-- HELD. -/
def recHeld (r : Nat) : Bool := rf r 5 1 / 4 % 2 == 1
/-- RANK. -/
def recRank (r : Nat) : Nat := rf r 64 1 % 8
/-- DIM(d). -/
def recDim (r d : Nat) : Nat := rf r (68 + 4 * d) 4
/-- STRIDE(d). -/
def recStride (r d : Nat) : Nat := rf r (84 + 4 * d) 4
/-- BASE. -/
def recBase (r : Nat) : Word := BitVec.ofNat 64 (rf r 104 8)
/-- SCALES. -/
def recScales (r : Nat) : Word := BitVec.ofNat 64 (rf r 112 8)
/-- OOBOK. -/
def recOobok (r : Nat) : Bool := rf r 66 1 % 2 == 1
/-- The flat extent DIM(0) * STRIDE(0) (15 R370). -/
def recExtent (r : Nat) : Nat := recDim r 0 * recStride r 0
/-- A format from its code; FP32 for codes that records do not hold. -/
def fmtOf (c : Nat) : Fmt := (Fmt.ofBits (BitVec.ofNat 4 c)).getD .fp32

/-! ## Policies (10 R263, R264) -/

/-- The ALLOW bits. -/
def polAllow (p : Nat) : Nat := rf p 2 2
/-- A format code is allowed. -/
def polAllows (p f : Nat) : Bool := polAllow p / 2 ^ f % 2 == 1
/-- The policy entry meets R264. -/
def polOk (p : Nat) : Bool :=
  decide (rf p 0 1 ≤ 20) && decide (rf p 1 1 ≤ 7) && polAllow p != 0 && polAllow p % 16 == 0 && decide (polAllow p < 256)
    && decide (rf p 4 1 ≤ rf p 5 1) && decide (1 ≤ rf p 6 1) && decide (rf p 6 1 ≤ 15) && decide (rf p 7 1 ≤ 1)
    && decide (sbyte (rf p 12 1) ≤ sbyte (rf p 13 1)) && rf p 14 18 == 0
/-- The policy entry that a record names, as its home reads it. -/
def policyOf (s : State) (job r : Nat) : State × Option Nat :=
  unitRead s (unitCtx (lowDie s) job false) ((getJob s job).policy + BitVec.ofNat 64 (32 * rf r 4 1)) 32

/-! ## The check (10 R260, R262) -/

/-- The header and shape have no reserved bit set. -/
def recReserved (r : Nat) : Bool :=
  rf r 5 1 / 16 == 0 && rf r 6 1 / 16 == 0 && ((List.range 16).all fun v => rf r (17 + 2 * v) 1 / 16 == 0)
    && rf r 56 1 / 16 % 8 == 0 && rf r 57 7 == 0 && rf r 64 1 / 8 == 0 && rf r 65 1 / 16 == 0 && decide (rf r 66 1 < 2)
    && rf r 67 1 == 0 && rf r 100 4 == 0 && rf r 120 8 == 0
/-- The shape meets R260 and the alignment rules of R262 under a policy. -/
def shapeOk (r p : Nat) : Bool :=
  let k := recRank r
  let allowed := [4, 5, 6, 7].filter fun f => polAllows p f
  let block := polAllows p 6 || polAllows p 7
  decide (1 ≤ k) && decide (k ≤ 4) && ((List.range 4).all fun d => decide (d < k) || recDim r d == 1)
    && recStride r (k - 1) == 1
    && (match Fmt.ofBits (BitVec.ofNat 4 (rf r 65 1)) with
        | none | some .tensor => false
        | some e => allowed.all fun f => decide (fmtWidth (fmtOf f) ≤ fmtWidth e))
    && (allowed.all fun f =>
          let w := fmtWidth (fmtOf f)
          recDim r (k - 1) * w % 512 == 0 && (List.range (k - 1)).all fun d => recStride r d * w % 512 == 0)
    && (!block || recDim r (k - 1) % 32 == 0) && (block || rf r 112 8 == 0)
/-- The record passes R262 under its policy entry. -/
def recordOk (r p : Nat) : Bool :=
  rf r 5 1 % 2 == 1 && recReserved r && rf r 4 1 != 0 && decide (4 ≤ recFmt r (recVer r))
    && decide (recFmt r (recVer r) ≤ 7) && polOk p && shapeOk r p
/-- Read a record at its home for a slot's consuming lane (11 R280, R284). -/
def readRecord (s : State) (src slot : Nat) (sp : Span) : Risk (State × Nat) := loadSpans src slot .home s [sp]
/-- Check a record (10 R262): its policy where it passes. -/
def checkRecord (s : State) (job r : Nat) : State × Option Nat :=
  match policyOf s job r with
  | (s, some p) => (s, if recordOk r p then some p else none)
  | (s, none) => (s, none)

/-! ## Resolution (10 R268, R275, R276) -/

/-- emax(f) (10 R264). -/
def emaxOf (f : Nat) : Int := if f = 4 then 8 else if f = 5 then 15 else 2
/-- A number held between two bounds. -/
def clampInt (lo hi x : Int) : Int := max lo (min hi x)
/-- A signed byte's pattern. -/
def byteOf (i : Int) : Nat := ofSigned 8 i

/-- Write n bytes of a record at its home, whole granules being the device's own (10 R267). -/
def putRecord (s : State) (sp : Span) (r : Nat) : State :=
  match putRun s .home sp.area sp.et { loc := sp.loc, n := 256, v := r, syns := none, stamp := none } with
  | some (s, _) => s
  | none => s

/-- A record resolves to: version, format code, scale (10 R268). -/
abbrev Resolution := Nat × Nat × Int

/-- The override of R276 on a record: none where the widths differ. -/
def overrideRecord (r p f : Nat) : Option Nat :=
  let cur := recFmt r (recVer r)
  if fmtWidth (fmtOf f) ≠ fmtWidth (fmtOf cur) then none
  else
    let r :=
      if f = cur then r
      else
        let v := (recVer r + 1) % 16
        let sc := clampInt (sbyte (rf p 12 1)) (sbyte (rf p 13 1)) (recScale r (recVer r) + emaxOf f - emaxOf cur)
        let r := rset r (16 + 2 * v) 1 (byteOf sc)
        let r := rset r (17 + 2 * v) 1 f
        rset r 6 1 v
    some (rset r 56 1 (f + 128))

/-- What resolving code 14 for a record answers. -/
inductive Resolve where
  | ok (s : State) (r : Nat) (v : Resolution)
  | held
  | skew
  | bad
  deriving DecidableEq, Repr

/-- Resolve a record for a writer of a slot, through FMTOVR where it names the record, or for a reader (10 R268, R276);
the record as read is checked first. -/
def resolveRecord (s : State) (job : Nat) (ovr : Word) (va : Word) (sp : Span) (r : Nat) : Resolve :=
  match checkRecord s job r with
  | (_, none) => .bad
  | (s, some p) =>
    if recHeld r then .held
    else if ovr.getLsbD 0 && ovr.extractLsb' 8 49 == va.extractLsb' 8 49 then
      match overrideRecord r p (ovr.extractLsb' 4 4).toNat with
      | none => .skew
      | some r => .ok (putRecord s sp r) r (recVer r, recFmt r (recVer r), recScale r (recVer r))
    else .ok s r (recVer r, recFmt r (recVer r), recScale r (recVer r))

/-! ## Counters (10 R265, R266, R273) -/

/-- No count. -/
def RecCounts.zero : RecCounts := { bins := [], zeros := 0, sats := 0 }
/-- The bin of a value, if it counts in one (10 R265). -/
def binOf : XV → Option Nat
  | .nan _ _ => none
  | .inf _ => some 63
  | .fin _ 0 _ => none
  | .fin _ m e => some (clampInt 0 63 (flog2 m e + 40)).toNat
/-- The counts of values stored, with their saturations. -/
def countValues (l : List XV) (sats : Nat) : RecCounts :=
  let bs := l.filterMap binOf
  { bins := (bs.eraseDups).map fun b => (b, bs.count b), zeros := (l.filter XV.isZero).length, sats }

/-- Merge counts at a record's home (10 R266): each counter saturates; the answer says whether the producer is marked,
its saturations taking SATCNT past OVFTH first in the phase (R273). -/
def mergeCounts (s : State) (job : Nat) (sp : Span) (c : RecCounts) : State × Bool :=
  let add (lim k old : Nat) : Option Nat := some (min lim (old + k))
  let s := c.bins.foldl (fun s b => (devUpdate s job (sp.at (128 + 2 * b.1)) 2 (add 0xFFFF b.2)).1) s
  let s := if c.zeros = 0 then s else (devUpdate s job (sp.at 8) 4 (add 0xFFFFFFFF c.zeros)).1
  if c.sats = 0 then (s, false) else
    match devUpdate s job (sp.at 12) 4 (add 0xFFFFFFFF c.sats) with
    | (s, none) => (s, false)
    | (s, some old) =>
      let r := readNat s.mem sp.loc 256
      match policyOf s job r with
      | (s, some p) =>
        let th := rf p 8 4
        if old ≤ th && decide (th < min 0xFFFFFFFF (old + c.sats)) && rf r 5 1 / 8 % 2 == 0 && th != 0xFFFFFFFF then
          ((devUpdate s job (sp.at 5) 1 fun b => some (b + 8)).1, true)
        else (s, false)
      | (s, none) => (s, false)

/-! ## The phase step (10 R271, R272) -/

/-- The histogram. -/
def recHist (r : Nat) : List Nat := (List.range 64).map fun i => rf r (128 + 2 * i) 2
/-- A sum. -/
def sumNat (l : List Nat) : Nat := l.foldl (· + ·) 0
/-- choose(h − l) (10 R272): the band of the range, then the nearest allowed band, wider first. -/
def chooseFmt (p : Nat) (range : Nat) : Nat :=
  let four : Option Nat :=
    if polAllows p 7 && (rf p 7 1 % 2 == 1 || !polAllows p 6) then some 7 else if polAllows p 6 then some 6 else none
  let e4 : Option Nat := if polAllows p 4 then some 4 else none
  let e5 : Option Nat := if polAllows p 5 then some 5 else none
  let pick (l : List (Option Nat)) : Nat := (l.findSome? id).getD 4
  if range ≤ rf p 4 1 then pick [four, e4, e5]
  else if range ≤ rf p 5 1 then pick [e4, e5, four]
  else pick [e5, e4, four]

/-- The format of the next phase, CAND and HYSTCNT (10 R272). -/
def nextFmt (r p range : Nat) : Nat × Nat × Nat :=
  let cur := recFmt r (recVer r)
  let cand := rf r 7 1 % 16
  let hyst := rf r 7 1 / 16
  if 128 ≤ rf r 56 1 then (rf r 56 1 % 16, rf r 56 1 % 16, 0)
  else
    let c := chooseFmt p range
    if c = cur then (cur, cand, 0)
    else
      let n := if c ≠ cand ∨ hyst = 0 then 1 else min (hyst + 1) 15
      if rf p 6 1 ≤ n then (c, c, 0) else (cur, c, n)

/-- t of R272: the tail's least count. -/
def recTail (r p : Nat) : Nat := (sumNat (recHist r) + 2 ^ rf p 0 1 - 1) / 2 ^ rf p 0 1
/-- h of R272. -/
def recTop (r p : Nat) : Nat :=
  ((List.range 64).reverse.find? fun i => decide (recTail r p ≤ sumNat ((recHist r).drop i))).getD 0
/-- l of R272. -/
def recLow (r p : Nat) : Nat :=
  ((List.range 64).find? fun i => decide (recTail r p ≤ sumNat ((recHist r).take (i + 1)))).getD 0
/-- s of R272 for a format. -/
def newScale (r p f : Nat) : Int :=
  clampInt (sbyte (rf p 12 1)) (sbyte (rf p 13 1)) (emaxOf f - ((recTop r p : Int) - 40) - (rf p 1 1 : Int))
/-- The record is PINNED or has counted nothing: its version does not step. -/
def recStill (r : Nat) : Bool := rf r 5 1 / 2 % 2 == 1 || sumNat (recHist r) == 0

/-- The version step of an unpinned record (10 R272). -/
def stepVersion (r p : Nat) : Nat :=
  if recStill r then r
  else
    let (f, cand, n) := nextFmt r p (recTop r p - recLow r p)
    let sc := newScale r p f
    let r := rset r 7 1 (cand + 16 * n)
    if sc ≠ recScale r (recVer r) ∨ f ≠ recFmt r (recVer r) then
      let v := (recVer r + 1) % 16
      let r := rset r (16 + 2 * v) 1 (byteOf sc)
      let r := rset r (17 + 2 * v) 1 f
      rset r 6 1 v
    else r

/-- The step of a record for a completed phase (10 R272). -/
def phaseStep (r p n : Nat) : Nat :=
  let r := stepVersion r p
  let r := (List.range 64).foldl (fun r i => rset r (128 + 2 * i) 2 (rf r (128 + 2 * i) 2 / 2)) r
  let r := rset r 8 8 0
  let r := rset r 5 1 (rf r 5 1 - rf r 5 1 / 8 % 2 * 8)
  let r := rset r 56 1 (rf r 56 1 % 128)
  rset r 48 8 n

/-- The Regulator on one record of a job's tensor list (10 R271): a record that fails its check is skipped and reported, as is one whose bytes
are an uncorrectable error (11 R284); one that is held is deferred. -/
def stepRecord (s : State) (job n : Nat) (va : Word) : State :=
  let ctx := unitCtx (lowDie s) job false
  let skipped (s : State) (die tid : Nat) : State :=
    postJob s job { type := 0x0E, reply := false, job, source := BitVec.ofNat 32 (0xFF030000 + die), addr := va,
                    time := now s, detail := BitVec.ofNat 64 (tid + n % 2 ^ 32 * 2 ^ 32) }
  match translate s ctx va 256 {} with
  | (s, .ok [sp]) =>
    let die := (dieOf sp.loc).getD 0
    match readRecord s 6 (unitSlot die job) sp with
    | .error b => skipped (postHomeError s job sp.loc b) die 0
    | .ok (s, r) =>
      match checkRecord s job r with
      | (s, none) => skipped s die (rf r 0 4)
      | (s, some p) =>
        if recHeld r then { s with deferred := s.deferred ++ [(job, va, n)] } else putRecord s sp (phaseStep r p n)
  | (s, _) => skipped s (lowDie s) 0

/-- The Regulator's step at a phase's completion (10 R271): every record of the job's tensor list, in list order. -/
def regulate (s : State) (job n : Nat) : State :=
  let ctx := unitCtx (lowDie s) job false
  match unitRead s ctx (getJob s job).policy 12 with
  | (s, some d) =>
    let list := BitVec.ofNat 64 (d % 2 ^ 64)
    (List.range (d / 2 ^ 64)).foldl (fun s i =>
      match unitRead s ctx (list + BitVec.ofNat 64 (8 * i)) 8 with
      | (s, some va) => stepRecord s job n (BitVec.ofNat 64 va)
      | (s, none) => s) s
  | (s, none) => s

/-- The steps that waited for a held record run once it is no longer held, in phase order (10 R271). -/
def runDeferred (s : State) (job : Nat) (va : Word) : State :=
  let mine := s.deferred.filter fun d => d.1 == job && d.2.1 == va
  let s := { s with deferred := s.deferred.filter fun d => !(d.1 == job && d.2.1 == va) }
  mine.foldl (fun s d => stepRecord s job d.2.2 va) s

end Sys2Proof.Machine
end

