-- ==== Sys2Proof/Machine/Region.lean ====
section
/-! DEFINITION. Stores as they perform, merges at homes, releases and acquires, containment regions and their unwind
(08 R207-R216, 11 R284-R294, R473). -/

namespace Sys2Proof.Machine

/-- How a slot's core reaches memory on the core path. -/
def coreWho (s : State) (slot : Nat) : Who := .core (coreOf slot) (getSlot s slot).job
/-- How an engine reaches memory: a slot's through its cluster's view, a unit's at the homes (08 R219). -/
def engineWho (s : State) (slot : Nat) : Who :=
  if isUnit slot then .home else .engine (coreOf slot) (getSlot s slot).job

/-! ## Reads by a consuming lane -/

/-- Read whole granules as a moving unit does: values and carried codes; granules of a poisoned line are inverted,
since the holder does not carry the line's metadata (11 R280). On an ET page the lane consumes instead (15 R367). -/
def moveSpans (src slot : Nat) (w : Who) : State → List Span → Risk (State × Nat × Nat)
  | s, [] => .ok (s, 0, 0)
  | s, sp :: t =>
    let (s, gs) := getRun s w sp.area sp.loc sp.len
    let fin (s : State) (gs : List GRead) (syn : GRead → BitVec 16) : Risk (State × Nat × Nat) :=
      match moveSpans src slot w s t with
      | .error b => .error b
      | .ok (s, v, y) =>
        let c := gs.foldr (fun g a => (syn g).toNat + 2 ^ 16 * a) 0
        .ok (s, runValue gs sp.loc sp.len + 2 ^ (8 * sp.len) * v, c + 2 ^ (16 * gs.length) * y)
    if sp.et then
      match consume gs true with
      | .error bad => .error (.ofGrans src sp.va sp.loc bad)
      | .ok (gs, n) => fin (countSubst s slot n) gs fun _ => 0
    else fin s gs fun g => if g.poison then g.syn ^^^ 0xFFFF#16 else g.syn

/-! ## Writes -/

/-- Write a value over spans on a slot's path; a merge into an uncorrectable granule is a consumption by the slot. -/
def storeSpans (src slot : Nat) (w : Who) (stamp : Option (BitVec 4)) : State → List Span → Nat → Option Nat →
    Risk State
  | s, [], _, _ => .ok s
  | s, sp :: t, v, y =>
    match putRun s w sp.area sp.et { loc := sp.loc, n := sp.len, v, syns := y, stamp } with
    | none =>
      let (_, gs) := getRun s w sp.area sp.loc sp.len
      .error (.ofGrans src sp.va sp.loc (gs.filter fun g =>
        g.bad && (decide (16 * g.gran < sp.loc) || decide (sp.loc + sp.len < 16 * g.gran + 16))))
    | some (s, n) =>
      storeSpans src slot w stamp (countSubst s slot n) t
        (v / 2 ^ (8 * sp.len)) (y.map fun y => y / 2 ^ (16 * (sp.len / 16)))

/-! ## Bindings, releases and acquires (08 R207-R212) -/

/-- The location of byte `off` of a slot's allocation. -/
def allocLoc (x : Slot) (slot off : Nat) : Loc := scratchBase (coreOf slot) + allocBase slot x.need + off
/-- The size of a slot's allocation. -/
def allocSize (x : Slot) : Nat := x.need * 65536

/-- A binding-table entry (08 R209), none when it is not valid. -/
def bindingAt (s : State) (slot i : Nat) : Option (Word × Nat × Nat) :=
  let x := getSlot s slot
  let a := allocLoc x slot (allocSize x - 512 + 32 * i)
  let sync := readNat s.mem a 8
  let ok := sync % 8 == 1 && sync / 2 ^ 57 == 0 && readNat s.mem (a + 24) 8 == 0
  if ok then some ((BitVec.ofNat 57 (sync - 1)).signExtend 64, readNat s.mem (a + 8) 8, readNat s.mem (a + 16) 8) else none

/-- The bound range of a sync word: the union of its entries, or its own line (08 R209). -/
def boundRange (s : State) (slot : Nat) (sync : Word) : List (Nat × Nat) :=
  let l := (List.range 16).filterMap fun i =>
    match bindingAt s slot i with
    | some (w, b, n) => if w = sync then some (b, n) else none
    | none => none
  if l.isEmpty then [(sync.toNat / 64 * 64, 64)] else l

/-- The lines of a cached view that lie in what a job's ranges of addresses map to on a die, through whatever address and job each came
(01 R18, 08 R210). -/
def viewLines (s : State) (l : List (Nat × CLine)) (owner die job : Nat) (rs : List (Nat × Nat)) : List Nat :=
  let mine := (l.filter fun e => e.1 / 2 ^ 64 == owner).map fun e => e.1 % 2 ^ 64
  if mine.isEmpty then [] else
    let runs := mappedRuns s die job rs
    mine.filter (lineIn runs)

/-- Write back the dirty granules of ranges that a core's L1 holds, and its cluster cache, at widths 2-5 (08 R208). -/
def writeBackRange (s : State) (core job width : Nat) (rs : List (Nat × Nat)) : State :=
  if width < 2 then s else
    (viewLines s s.clines (clusterOf core) (dieOfCore core) job rs).foldl
      (fun s line => writeBack s (clusterOf core) line fun o => o == 8 || o == BitVec.ofNat 4 (core % 8)) s

/-- Drop clean copies of ranges in a core's L1 and constant cache, and at widths 2-5 in its cluster cache (08 R208). -/
def dropRange (s : State) (core job width : Nat) (rs : List (Nat × Nat)) : State :=
  let s := (viewLines s s.clines (clusterOf core) (dieOfCore core) job rs).foldl
    (fun s line => dropClean s core line (decide (2 ≤ width))) s
  (viewLines s s.ccache core (dieOfCore core) job rs).foldl
    (fun s line => { s with ccache := kvErase s.ccache (viewKey core line) }) s

/-- The ranges a recorded release names for an acquirer (08 R212). -/
def recordedRanges (s : State) (loc : Loc) : List (Nat × Nat) :=
  s.ranges.filterMap fun e =>
    if e.1 = loc then some (match e.2 with | .range b n => (b.toNat, n) | .all => wholeRange) else none

/-- The acquire step on a sync word (08 R210, R212): clean copies of the bound range and of the recorded range go. -/
def acquireStep (s : State) (slot : Nat) (sp : Span) : State :=
  let job := (getSlot s slot).job
  dropRange s (coreOf slot) job sp.sw (boundRange s slot sp.va ++ recordedRanges s sp.loc)

/-- The release steps before the write (08 R210 steps 1 and 2). Earlier stores of the sequencer have performed. -/
def releaseSteps (s : State) (slot : Nat) (sp : Span) : State :=
  writeBackRange s (coreOf slot) (getSlot s slot).job sp.sw (boundRange s slot sp.va)

/-- A reduction or atomic operation on old value m and operand b (15 R371). -/
def redFun (op : RedOp) (m b : Word) : Word :=
  match op with
  | .add => m + b
  | .min => if m.slt b then m else b
  | .max => if m.slt b then b else m
  | .minu => if m.ult b then m else b
  | .maxu => if m.ult b then b else m
  | .and => m &&& b
  | .or => m ||| b
  | .xor => m ^^^ b

/-- The ordering has an acquire part. -/
def ordAcquires (o : MemOrd) : Bool := o == .acq || o == .acqrel
/-- The ordering has a release part. -/
def ordReleases (o : MemOrd) : Bool := o == .rel || o == .acqrel

/-- An atomic at its home for a slot: release steps, update, acquire step (08 R216, 15 R372, R373). -/
def atomicAt (s : State) (slot : Nat) (sp : Span) (n : Nat) (o : MemOrd) (f : Nat → Option Nat) : Risk (State × Nat) :=
  let s := if ordReleases o then releaseSteps s slot sp else s
  match homeUpdate s (some (clusterOf (coreOf slot))) sp n f with
  | .error p => .error (.of p 6 sp.va (sp.loc / 16))
  | .ok (s, v, k) =>
    let s := countSubst s slot k
    .ok (if ordAcquires o then acquireStep s slot sp else s, v)

/-- Write a sync word at the point its width names: the core's or cluster's view for widths 0 and 1, else the home
(08 R208). -/
def releaseWrite (s : State) (slot : Nat) (sp : Span) (v : Word) : Risk State :=
  if sp.sw < 2 ∧ sp.area.cached then
    storeSpans 6 slot (coreWho s slot) none s [sp] v.toNat none
  else
    match homeUpdate s (some (clusterOf (coreOf slot))) sp 8 fun _ => some v.toNat with
    | .error p => .error (.of p 6 sp.va (sp.loc / 16))
    | .ok (s, _, k) => .ok (countSubst s slot k)

/-! ## The journal and the buffer (11 R288-R290) -/

/-- The location lies in the slot's own allocation. -/
def inOwnAlloc (x : Slot) (slot : Nat) (loc : Loc) : Bool :=
  allocLoc x slot 0 ≤ loc && loc < allocLoc x slot (allocSize x)

/-- The region areas of an allocation: entry area, journal index, journal data (11 R288). -/
def inRegionAreas (x : Slot) (slot : Nat) (loc n : Nat) : Bool :=
  let lo := allocLoc x slot (allocSize x - 512 - 98304)
  let hi := allocLoc x slot (allocSize x - 512)
  decide (lo < loc + n) && decide (loc < hi)

/-- A region is open in the slot: words issued now belong to it. -/
def Slot.regionOpen (x : Slot) : Bool :=
  match x.region with
  | some r => r.phase == .opened
  | none => false

/-- The location of the journal's index. -/
def journalIndex (x : Slot) (slot : Nat) : Loc := allocLoc x slot (allocSize x - 512 - 65536)
/-- The journal's entry count. -/
def journalCount (s : State) (x : Slot) (slot : Nat) : Nat := readNat s.mem (journalIndex x slot + 1984) 2
/-- The line of the allocation is journalled. -/
def journalled (s : State) (x : Slot) (slot ln : Nat) : Bool :=
  (List.range (journalCount s x slot)).any fun i => readNat s.mem (journalIndex x slot + 2 * i) 2 == ln

/-- Journal a scratchpad line before its first write in the region; false when 992 lines are journalled already
(11 R289, R290). -/
def journalLine (s : State) (slot line : Nat) : State × Bool :=
  let x := getSlot s slot
  let ln := line - allocLoc x slot 0 / 64
  if journalled s x slot ln then (s, true) else
    let n := journalCount s x slot
    if 992 ≤ n then (s, false) else
      let m := blit s.mem (extract s.mem (64 * line) 64) (allocLoc x slot (allocSize x - 512 - 63488) + 64 * n) 64
      let m := writeNat m (journalIndex x slot + 2 * n) 2 ln
      ({ s with mem := writeNat m (journalIndex x slot + 1984) 2 (n + 1) }, true)

/-- The distinct lines a region's buffer holds. -/
def bufLines (l : List (StoreOp × Seq × Word)) : List Nat := (l.flatMap fun e => spanLines e.1.spans).eraseDups

/-- The writes of a tensor store, in order. -/
def performTensor (slot : Nat) (w : Who) : State → List TWrite → Risk State
  | s, [] => .ok s
  | s, t :: r =>
    match storeSpans 9 slot w t.stamp s [t.span] t.val none with
    | .ok s => performTensor slot w s r
    | .error b => .error b

/-- Perform an engine's writes at their homes, in order (08 R219, 17 R422). -/
def performEngine (slot : Nat) (w : Who) : State → List EWrite → Risk State
  | s, [] => .ok s
  | s, e :: r =>
    match storeSpans 5 slot w e.stamp s [e.span] e.val e.syns with
    | .ok s =>
      let s := match e.md with | some m => putHomeMeta s (e.span.loc / 64) m | none => s
      performEngine slot w s r
    | .error b => .error b

/-- The spans that a write merges in a cache, which holds their lines first where they lie on another device (02 R42). -/
def StoreOp.merges : StoreOp → List Span
  | .red _ => []
  | .rel sp _ => if sp.sw < 2 then [sp] else []
  | op => op.spans
/-- The spans that a region's buffered writes merge. -/
def bufMerges (x : Slot) : List Span := match x.region with | some r => r.buf.flatMap fun e => e.1.merges | none => []
/-- What a slot's write has posted to another device is the slot's (02 R42). -/
def claimed (slot : Nat) : Risk State → Risk State
  | .ok s => .ok (claimWrs s slot)
  | .error b => .error b

/-- Perform one store-class write for a slot (07 R174, 15 R364-R374). -/
def performOp (s : State) (slot : Nat) (op : StoreOp) : Risk State :=
  let w := coreWho s slot
  match op with
  | .plain sps v => claimed slot (storeSpans 9 slot w none s sps v none)
  | .vec sps v => claimed slot (storeSpans 9 slot w none s sps v.val.toNat (some v.syn.toNat))
  | .tensor ws => claimed slot (performTensor slot w s ws)
  | .engine ws => claimed slot (performEngine slot (engineWho s slot) s ws)
  | .rdone sp v r => .ok (devRelease s (slotJob s slot) sp v.toNat r)
  | .count sp c => .ok (mergeCounts s (slotJob s slot) sp c).1
  | .red r =>
    if r.span.area = .remote then
      let s := if ordReleases r.ord then releaseSteps s slot r.span else s
      .ok (postRed (purge s (clusterOf (coreOf slot)) (r.span.loc / 64)) slot r.span r.op r.val)
    else
    match atomicAt s slot r.span 8 r.ord fun m => some (redFun r.op (BitVec.ofNat 64 m) r.val).toNat with
    | .ok (s, _) => .ok s
    | .error b => .error b
  | .rel sp v =>
    let s := releaseSteps s slot sp
    if sp.area = .remote ∧ 2 ≤ sp.sw then .ok (postRelw (purge s (clusterOf (coreOf slot)) (sp.loc / 64)) slot sp v)
    else claimed slot (releaseWrite s slot sp v)

/-- The sync word that a write releases. -/
def StoreOp.releases : StoreOp → Option Span
  | .rel sp _ => some sp
  | .red r => if ordReleases r.ord then some r.span else none
  | _ => none
/-- The posted writes that a release of width 4 or 5 on a sync word waits for (02 R43). -/
def relWrs (s : State) (slot : Nat) (sp : Span) : List OutWr :=
  if sp.sw < 4 then [] else coveredWrs s slot (boundRange s slot sp.va)

/-- Perform buffered writes in order, at an escape: the first that fails stops the drain (11 R290, R473). -/
def performAll (slot : Nat) : State → List (StoreOp × Seq × Word) → Risk State
  | s, [] => .ok s
  | s, e :: t =>
    match performOp s slot e.1 with
    | .ok s => performAll slot s t
    | .error b => .error b

/-- What a slot's own reads see: memory with its buffered writes performed (11 R289). -/
def visible (s : State) (slot : Nat) : State :=
  match (getSlot s slot).region with
  | some r => r.buf.foldl (fun s e => match performOp s slot e.1 with | .ok s => s | .error _ => s) s
  | none => s

/-- The word or command numbered `uid` belongs to the slot's region: it is open, or it drains and the number lies
before its CRCLOSE, with no buffered write performing yet (11 R292, R294). -/
def inRegion (x : Slot) (uid : Nat) : Bool :=
  match x.region with
  | some r => r.phase == .opened || (r.phase == .draining && decide (uid < r.closeUid))
  | none => false

/-- Drain a region's buffer. -/
def drainBuffer (s : State) (slot : Nat) : Risk State :=
  match (getSlot s slot).region with
  | some r =>
    match performAll slot s r.buf with
    | .ok s => .ok (updSlot s slot fun x => { x with region := x.region.map fun r => { r with buf := [] } })
    | .error b => .error b
  | none => .ok s

/-- The escape classes by the low bit of their CRSTAT field (11 R291). -/
def escAtom : Nat := 16
/-- ESCRING. -/
def escRing : Nat := 20
/-- ESCSIG. -/
def escSig : Nat := 24
/-- ESCCOLL. -/
def escColl : Nat := 28
/-- ESCLAUNCH. -/
def escLaunch : Nat := 32
/-- ESCWBUF. -/
def escWbuf : Nat := 36
/-- ESCJRNL. -/
def escJrnl : Nat := 40

/-- Count an escape in CRSTAT, saturating at 15 (11 R290). -/
def countEscape (x : Slot) (cls : Nat) : Slot :=
  if x.crstat.extractLsb' cls 4 = 15#4 then x else { x with crstat := x.crstat + BitVec.ofNat 64 (2 ^ cls) }

/-- A task has escaped: its notice stands (05 R135). -/
def TaskInfo.escaped (t : TaskInfo) : Bool := t.escs != 0
/-- Count an escape of a task, saturating at 15 (05 R137). -/
def TaskInfo.countEscape (t : TaskInfo) (cls : Nat) : TaskInfo :=
  if t.escs.extractLsb' (cls - 16) 4 = 15#4 then t else { t with escs := t.escs + BitVec.ofNat 28 (2 ^ (cls - 16)) }
/-- An escaping operation, before it performs: the task's escape notice and count (05 R135, R137), and in an open region the drain
of the buffer and the count of its class in CRSTAT (11 R290). -/
def escape (s : State) (slot uid cls : Nat) : Risk State :=
  let s := updSlot s slot fun x => { x with task := x.task.map fun t => t.countEscape cls }
  if inRegion (getSlot s slot) uid then
    match drainBuffer s slot with
    | .ok s => .ok (updSlot s slot fun x => countEscape x cls)
    | .error b => .error b
  else .ok s

/-- Journal the lines a write to the own scratchpad touches; past 992 lines each first write is an escape. -/
def journalAll (slot uid : Nat) : State → List Nat → Risk State
  | s, [] => .ok s
  | s, l :: t =>
    match journalLine s slot l with
    | (s, true) => journalAll slot uid s t
    | (s, false) =>
      match escape s slot uid escJrnl with
      | .ok s => journalAll slot uid s t
      | .error b => .error b

/-- Make a write of a slot: a word of no region performs it; in a region a write to the own scratchpad is
journalled and performs, and every other write enters the buffer, draining it first when it would be the 513th
line (11 R289, R290). -/
def slotWrite (s : State) (slot : Nat) (q : Seq) (pc : Word) (uid : Nat) (op : StoreOp) : Risk State :=
  let x := getSlot s slot
  if inRegion x uid then
    if op.spans.all fun sp => inOwnAlloc x slot sp.loc then
      match journalAll slot uid s (spanLines op.spans) with
      | .ok s => performOp s slot op
      | .error b => .error b
    else
      let put (s : State) : State := updSlot s slot fun x =>
        { x with region := x.region.map fun r => { r with buf := r.buf ++ [(op, q, pc)] } }
      let held := match x.region with | some r => r.buf | none => []
      if 512 < (bufLines (held ++ [(op, q, pc)])).length then
        match escape s slot uid escWbuf with
        | .ok s => .ok (put s)
        | .error b => .error b
      else .ok (put s)
  else performOp s slot op

/-! ## Unwind and machine check (11 R284, R286, R293, R299) -/

/-- DETAIL of an UNCORRECTABLE event (11 R299): its escape counts are the task's outside any region (05 R137), the region's where a
replay has failed. -/
def badDetail (x : Slot) (b : Bad) (replay : Bool) : Word :=
  let escs : Word := match x.task with | some t => t.escs.setWidth 64 <<< 16 | none => 0
  BitVec.ofNat 64 (b.cause.toNat + b.src % 16 * 2 ^ 4 + b.gmask.toNat * 2 ^ 8 + (if replay then 2 ^ 12 else 0))
    ||| (if replay then x.crstat &&& 0x00000FFFFFFF0000#64 else escs)

/-- An uncorrectable error with no region to unwind: an UNCORRECTABLE event, and MACHINE_CHECK at the word. -/
def machineCheck (s : State) (slot : Nat) (q : Seq) (pc : Word) (b : Bad) (replay : Bool) : State :=
  let x := getSlot s slot
  let s := postUncorrectable s x.job (BitVec.ofNat 32 (coreOf slot)) b.addr (badDetail x b replay)
  takeTrap s slot q pc { cause := 8, mcc := b.cause, addr := b.addr }

/-- Restore the journal in reverse index order, each line with its codes (11 R293 step 4). -/
def restoreJournal (s : State) (slot : Nat) : State :=
  let x := getSlot s slot
  let n := journalCount s x slot
  let back (s : State) (i : Nat) : State :=
    let ln := readNat s.mem (journalIndex x slot + 2 * i) 2
    let img := extract s.mem (allocLoc x slot (allocSize x - 512 - 63488) + 64 * i) 64
    { s with mem := blit s.mem img (allocLoc x slot 0 + 64 * ln) 64 }
  (List.range n).reverse.foldl back s

/-- Clear the journal. -/
def clearJournal (s : State) (slot : Nat) : State :=
  { s with mem := writeNat s.mem (journalIndex (getSlot s slot) slot + 1984) 2 0 }

/-- Withdraw the commands of a slot that belong to the region (11 R293 step 2). -/
def withdrawRegion (x : Slot) : Slot :=
  let keep (l : List Cmd) : List Cmd := l.filter fun c => !c.inRegion
  { x with mq := keep x.mq, gq := keep x.gq, ctxs := x.ctxs.map keep }

/-- GMMA parts that leave their queues unfinished were aborted: their commands may be complete now (17 R417). -/
def abortParts (s : State) (l : List Cmd) : State :=
  let gids := l.filterMap fun c => match c.body with
    | .packet _ _ _ (some p) => if c.status.isNone then some p.gid else none
    | _ => none
  let s := { s with gcmds := s.gcmds.map fun (g : GCmd) => if gids.contains g.gid then { g with aborted := true } else g }
  (s.gcmds.filter fun g => gids.contains g.gid).foldl
    (fun s g => enqueue s (.event (.matrixCommandComplete g.owner))) s

/-- Unwind a slot's region (11 R293). An FFILL whose CAS has performed is an escape already made, and goes on to push. In supervisor mode the handler goes on, and K's resume address moves with the
unwind (log 23). -/
def unwind (s : State) (slot : Nat) (b : Bad) : State :=
  match (getSlot s slot).region with
  | none => s
  | some r =>
    let s := restoreJournal s slot
    let s := abortParts s ((getSlot s slot).mq.filter (·.inRegion))
    let (d, s) := draw s
    let x := getSlot s slot
    let fills := x.k.outst.filter fun o => o.work.isFill && !o.done
    let img := extract s.mem (allocLoc x slot (allocSize x - 512 - 98304)) 32768
    let x := takeEntry img (withdrawRegion x) true d
    let unwinds := min 15 ((x.crstat.extractLsb' 12 4).toNat + 1)
    let cr := (x.crstat &&& ~~~0xFFF3#64) ||| 1#64 ||| BitVec.ofNat 64 (b.cause.toNat * 2 ^ 4 + b.src % 16 * 2 ^ 8
      + unwinds * 2 ^ 12)
    let auto := cr.getLsbD 3
    let k := { x.k with pc := if auto then r.resume else r.handler, outst := fills }
    let x := { x with k, crstat := cr, fence := [], relAt := [], armed := none,
                      tpc := if x.supMode then k.pc else x.tpc,
                      region := some { r with buf := [], phase := .opened, failed := none } }
    if auto && (cr.extractLsb' 16 28 != 0 || 3 < unwinds) then
      let x := { x with region := none, crstat := cr &&& ~~~3#64 }
      machineCheck (setSlot s slot x) slot .K k.pc b true
    else clearJournal (setSlot s slot (settle x)) slot

/-- An uncorrectable error consumed by a word of a slot (11 R284): the region unwinds, or MACHINE_CHECK is taken at
the word. Supervisor words belong to no region (18 R437). -/
def wordError (s : State) (t : Thread) (pc : Word) (uid : Nat) (b : Bad) : State :=
  let x := getSlot s t.slot
  if inRegion x uid && !(t.seq == .K && x.supMode) then unwind s t.slot b else machineCheck s t.slot t.seq pc b false

end Sys2Proof.Machine
end

