-- ==== Sys2Proof/Machine/Issue.lean ====
section
/-! DEFINITION. How a word issues: readiness, stage predicates, decode traps, token and operand waits, the effect, and
completion (07 R168-R183, 12 R305, 14 R337, 18 R437). -/

namespace Sys2Proof.Machine

/-- What a word's effect answers. `done`: the effect is made and the word is complete locally. `jump`: a taken
transfer. `pend`: issued, with work still to do under a tag. `wait`: the word does not issue now; the Bool says that
this is a state of 07 R175. `trap` and `bad`: the word does not issue. `trapAfter`: the word issues and traps (SVC,
TRAP). `own`: the effect has moved the PC itself. -/
inductive Res where
  | done (s : State)
  | jump (s : State) (target : Word)
  | pend (s : State) (tag : Nat) (w : Work)
  | wait (s : State) (r175 : Bool)
  | trap (s : State) (t : Trap)
  | trapAfter (s : State) (t : Trap)
  | bad (s : State) (b : Bad)
  | own (s : State)
  deriving DecidableEq, Repr

/-- Where a word puts its result: a scalar or a vector destination. -/
inductive RDest where
  | scalar (d : Dest)
  | vector (d : Dest)
  deriving DecidableEq, Repr

/-- The thread may issue: the package runs, its die and core are not fenced, the slot holds a task that is not stopped,
waiting at a barrier or held, only K runs in supervisor mode, TEND has not issued, no signal is held, and no word gates the
sequencer (07 R171, R173, 05 R121, R140, 18 R437). -/
def ready (s : State) (t : Thread) : Bool :=
  let x := getSlot s t.slot
  let q := x.seq t.seq
  s.running && !(getDie s (dieOfCore (coreOf t.slot))).fenced && !s.deadCores.contains (coreOf t.slot)
    && (x.task.isSome || x.mode == .supTask) && x.mode != .frozen && !x.held
    && (if x.supMode then t.seq == .K else x.armed.isNone)
    && !q.tend && (holding x.tok q.outst).isEmpty && !q.outst.any fun o => o.work.gates && !o.done

/-- The word is squashed by its sequencer's stage predicate (07 R183): never a STAGE or LOOP (14 R343, R344). -/
def squashed (q : SeqSt) (i : Instr) : Bool :=
  q.predOn && !q.stg.getLsbD q.predN.toNat
    && (match i with
        | .stage _ => false
        | .loop _ _ => false
        | _ => true)

/-- The special registers of 12 R308. -/
def srKnown (n : BitVec 12) : Bool :=
  [0x000#12, 0x001#12, 0x002#12, 0x003#12, 0x010#12, 0x011#12, 0x012#12, 0x013#12, 0x020#12, 0x021#12, 0x030#12,
   0x031#12, 0x040#12, 0x041#12, 0x042#12, 0x050#12, 0x051#12, 0x052#12, 0x053#12, 0x060#12, 0x061#12, 0x070#12,
   0x071#12, 0x072#12, 0x080#12, 0x081#12, 0x090#12, 0x0A0#12].contains n
/-- The registers that are wholly RO (12 R308, R309). -/
def srReadOnly (n : BitVec 12) : Bool :=
  [0x000#12, 0x001#12, 0x002#12, 0x003#12, 0x050#12, 0x051#12, 0x052#12, 0x053#12, 0x060#12, 0x061#12, 0x080#12,
   0x081#12, 0x0A0#12].contains n
/-- The supervisor's registers TRAPCAUSE, TRAPADDR, TRAPPC (12 R308). -/
def srSupervisor (n : BitVec 12) : Bool := [0x070#12, 0x071#12, 0x072#12].contains n

/-- A special-register word that names no register, or writes one that is wholly RO (12 R308, R309). -/
def srIllegal : Instr → Bool
  | .rdsr _ _ n => !srKnown n
  | .wrsr _ n _ => !srKnown n || srReadOnly n
  | _ => false
/-- A special-register word that names a supervisor register. -/
def srPrivileged : Instr → Bool
  | .rdsr _ _ n => srSupervisor n
  | .wrsr _ n _ => srSupervisor n
  | _ => false

/-- The words of an instruction; an event row has none. -/
def wordsOf (i : Instr) : Enc := (encode i).getD (0, 0)

/-- The decoder's checks before issue, in the order of 12 R305. -/
def decodeTrap (i : Instr) (q : Seq) (sup : Bool) : Option Trap :=
  let w := (wordsOf i).1
  let op := opcodeOf w
  if !opcodePermits op q then some { cause := 2 }
  else if queueRoleFails q w then some { cause := 2 }
  else if !i.wellFormed || !queueKindOk q i || srIllegal i then some { cause := 1 }
  else if (opcodeSupervisor op || srPrivileged i) && !sup then some { cause := 3 }
  else none

/-- Count an issued word in its sequencer's open segment (11 R297): not SEG or SEGEND. -/
def segCount (q : SeqSt) (e : Enc) : SeqSt :=
  let op := opcodeOf e.1
  if q.segOpen && op != 0x14 && op != 0x15 then
    let sig := segSigNext q.segSig e.1
    { q with segCnt := BitVec.ofNat 20 (min 0xFFFFF (q.segCnt.toNat + opcodeCost op)),
             segSig := if opcodeLong op then segSigNext sig e.2 else sig }
  else q

/-- A word that has issued: waits taken, PC past it, segment counted, its completion and signals queued in program
order (07 R173, R174). -/
def retireWord (s : State) (t : Thread) (e : Enc) (ws sigs : List (BitVec 3 × Nat)) (o : Option (Nat × Work)) : State :=
  updSlot s t.slot fun x =>
    let q := segCount (x.seq t.seq) e
    let entry : List Outst :=
      match o with
      | some (tag, w) => [{ tag, pc := q.pc, work := w, done := false, sigs, at_ := s.time }]
      | none => if sigs.isEmpty then [] else [{ tag := 0, pc := q.pc, work := .none, done := true, sigs }]
    let q := { q with pc := q.pc + (if opcodeLong (opcodeOf e.1) then 8 else 4), outst := q.outst ++ entry,
                      waiting := false }
    settle { x.setSeq t.seq q with tok := takeWaits x.tok ws, deadlock := 0,
                                     fence := x.fence.filter (fun f => f.1 != t.seq),
                                     relAt := x.relAt.filter fun f => f.1 != t.seq }

/-- A sequencer that does not issue now, in a state of 07 R175 or not. -/
def stall (s : State) (t : Thread) (r175 : Bool) : State := updSeq s t fun q => { q with waiting := r175 }

/-- The void a squashed result-producing word pushes (07 R180): zero with a valid code. -/
def pushVoid (s : State) (t : Thread) : Option RDest → State
  | some (.scalar .push) => updSeq s t fun q => writeS q .push .zero
  | some (.vector .push) => updSlot s t.slot fun x => writeV x .push .zero
  | _ => s

/-- A word of the sequencer reads these operands; `checked` says that it computes with them, so that their codes are
checked (14 R337, R353). -/
structure Reads where
  scalars : List Opnd := []
  vectors : List Opnd := []
  checked : Bool := true
  deriving DecidableEq, Repr

/-- A scalar operand still waits for its load (21 R468). -/
def Reads.waits (r : Reads) (q : SeqSt) : Bool := r.scalars.any fun o => swWaits (readS q o)
/-- An operand's code mismatches (14 R337). -/
def Reads.bad (r : Reads) (x : Slot) (q : SeqSt) : Bool :=
  r.checked && (r.scalars.any (fun o => swBad (readS q o)) || r.vectors.any (fun o => vwBad (readV x o)))

/-- The effect's answer put into effect (07 R173, R183, 18 R437). -/
def finish (s0 : State) (t : Thread) (e : Enc) (ws sigs : List (BitVec 3 × Nat)) : Res → State
  | .done s => retireWord s t e ws sigs none
  | .jump s a => updSeq (retireWord s t e ws sigs none) t fun q => { q with pc := a &&& ~~~3#64, predOn := false }
  | .pend s tag w => retireWord s t e ws sigs (some (tag, w))
  | .wait s r => stall s t r
  | .trap s tr => takeTrap (stall s t false) t.slot t.seq (getSeq s0 t).pc tr
  | .trapAfter s tr => takeTrap (retireWord s t e ws sigs none) t.slot t.seq (getSeq s0 t).pc { tr with after := true }
  | .bad s b => wordError (stall s t false) t (getSeq s0 t).pc s.nextUid b
  | .own s => s

/-- Issue a word on the thread whose turn it is. A thread that is not ready changes nothing. A squashed word performs
its nibble and its void push. Otherwise the decoder's traps come first, then the token waits, all tested together,
then the operands, then the effect. `extraW` and `extraS` are TWAIT's and TSIG's own counts (14 R358). -/
def issueFull (i : Instr) (n : Nib) (extraW extraS : Option (Bool × Nat)) (d : Option RDest) (r : Reads)
    (eff : State → Thread → Res) (s : State) : State :=
  let t := s.turn
  let x := getSlot s t.slot
  let q := x.seq t.seq
  let e := wordsOf i
  if !ready s t then s
  else if squashed q i then
    let ws := waitsOf t.seq n none
    if waitsMet x.tok ws then retireWord (pushVoid s t d) t e ws (sigsOf t.seq n none) none else stall s t true
  else
    match decodeTrap i t.seq x.supMode with
    | some tr => takeTrap (stall s t false) t.slot t.seq q.pc tr
    | none =>
      let ws := waitsOf t.seq n extraW
      if !waitsMet x.tok ws then stall s t true
      else if r.waits q then stall s t false
      else if r.bad x q then
        wordError (stall s t false) t q.pc s.nextUid { cause := 1, src := seqNum t.seq, addr := 0 }
      else
        match needFar s t.slot (bufMerges x) with
        | some s => stall s t false
        | none => finish s t e ws (sigsOf t.seq n extraS) (eff s t)

/-- Issue a word without counts of its own. -/
def issueWord (i : Instr) (n : Nib) (d : Option RDest) (r : Reads) (eff : State → Thread → Res) (s : State) :
    Host.Outcome State Fault Refusal :=
  .next (issueFull i n none none d r eff s)

/-- The value of a scalar source of a thread. -/
def srcVal (s : State) (t : Thread) (o : Opnd) : Word := (readS (getSeq s t) o).val
/-- Write a scalar result with a fresh word code. -/
def putResult (s : State) (t : Thread) (d : Dest) (v : Word) : State := updSeq s t fun q => writeS q d (.fresh v)
/-- Mark a scalar destination as waiting for the load of a tag. It keeps what `unwait` puts back: the register's word,
or the belt's last one, which the push discards. -/
def putBusy (s : State) (t : Thread) (d : Dest) (tag : Nat) : State :=
  updSeq s t fun q =>
    let old : SWord := match d with
      | .push => vget q.belt 15
      | .short n => vget q.short n
      | .main m => vget q.main (physMain q.rrb m)
    writeS q d { old with busy := tag + 1 }

/-! ## Observing words (10 R274) -/

/-- What an observing word observes: a command's DONE word, a bank's MSTAT, the bytes of a copy context up to a
pointer value, a path, or the end of the sequencer. -/
inductive Observe where
  | done (va v : Word)
  | mstat (bank : Bool)
  | wp (ctx : BitVec 2) (upto : BitVec 32)
  | path (p : Path)
  | tend
  deriving DecidableEq, Repr

/-- An observing word of a sequencer sees a mark: a wait over some of a command's bytes names a pointer value past the
one before the command. A collective's mark is seen by an ACQ of its SYNC on any sequencer (20 R464). -/
def Observe.sees (o : Observe) (q : Seq) (m : OvfMark) : Bool :=
  (m.obs == q || m.path == .coll) &&
    match o with
    | .done va v => m.done == va && va != 0 && m.seq.ule v
    | .mstat b => m.bank == some b
    | .wp c v => m.ctx == some c && v != m.low && (v - m.low).ult 0x80000000#32
    | .path p => m.path == p && m.path != .coll
    | .tend => m.path != .coll

/-- An observing word that sees a mark traps TENSOR_OVERFLOW and consumes the mark; otherwise it has its effect. -/
def observe (s : State) (t : Thread) (o : Observe) (r : Res) : Res :=
  let x := getSlot s t.slot
  match x.marks.find? fun m => o.sees t.seq m with
  | some m => .trap (setSlot s t.slot { x with marks := x.marks.erase m }) { cause := 11, addr := m.record }
  | none => r

/-- The slot's words have all issued TEND, are complete, and its engines are idle (07 R171). -/
def Slot.finished (x : Slot) : Bool :=
  let q (v : SeqSt) : Bool := v.tend && v.outst.all fun o => o.done
  x.task.isSome && x.mode == .user && q x.k && q x.l && q x.c && q x.s && x.mq.isEmpty && x.gq.isEmpty
    && x.ctxs.toList.all List.isEmpty

/-- The slot's task has come to its end: subscriptions and collectives count too (07 R171, 17 R414, R426). -/
def taskFinished (s : State) (slot : Nat) : Bool :=
  (getSlot s slot).finished && !s.subs.any (fun b => b.slot == slot) && !s.gcmds.any (fun g => g.owner == slot)
    && !s.colls.any fun c => c.slot == slot && !c.ended

/-- The table writes of a slot whose accesses in flight have performed are complete (04 R100). -/
def finishAwaits (drops : List (Nat × Nat)) (x : Slot) : Slot :=
  let f (q : SeqSt) : SeqSt :=
    { q with outst := q.outst.map fun o => match o.work with
        | .await ds => if ds.any drops.contains then o else { o with done := true }
        | _ => o }
  settle { x with k := f x.k, ksup := f x.ksup, l := f x.l, c := f x.c, s := f x.s }
/-- A word has completed: table writes that waited for it may be complete (04 R100), and what was held comes about again. -/
def settleDrops (s : State) : State :=
  let drops := s.drops.filter fun d => accessing s d.2 fun sp => sp.walk.contains d.1
  let s' : State :=
    if s.drops.isEmpty then s else { s with drops, slots := s.slots.map fun e => (e.1, finishAwaits drops e.2) }
  let ended := if s.drops.isEmpty then [] else (s'.slots.map (·.1)).filter (taskFinished s')
  let s' := ended.foldl (fun s k => enqueue s (.event (.taskEnd k))) s'
  if s'.held.isEmpty then s' else unhold s'

/-- A slot of which something has completed: its task may have come to its end (TASK_END), or its region's drain may go on
(11 R294). -/
def checkEnd (s : State) (slot : Nat) : State :=
  let s := settleDrops s
  let draining : Bool := match (getSlot s slot).region with | some r => r.phase != .opened | none => false
  let s := if draining then enqueue s (.event (.regionDrainComplete slot)) else s
  if taskFinished s slot then enqueue s (.event (.taskEnd slot)) else s

end Sys2Proof.Machine
end

