-- ==== Sys2Proof/Machine/QueueWords.lean ====
section
/-! DEFINITION. Class 0x40, data queues and explicit tokens (14 R353, R354, R357, R358; 07 R176, R177). -/

namespace Sys2Proof.Machine

/-- Reserve the tail entry of a queue for a word's tag (07 R177). -/
def reserve (x : Slot) (k : BitVec 3) (tag : Nat) (v : Option QVal) : Slot :=
  { x with queues := vset x.queues k (vget x.queues k ++ [{ tag, val := v }]) }

/-- Every entry of the queue is full or reserved. -/
def queueFull (x : Slot) (k : BitVec 3) : Bool := decide (queueDepth k ≤ (vget x.queues k).length)

/-- QPUT's effect: the value and its code enter the reserved entry, once the sequencer's earlier stores have performed
(08 R205). -/
def qputEff (k : BitVec 3) (f : Opnd) (s : State) (t : Thread) : Res :=
  let x := getSlot s t.slot
  if queueFull x k then .wait s true else
    let v : QVal := if vectorQueue k then .v (readV x f) else .s (readS (x.seq t.seq) f)
    let (tag, s) := takeUid s
    .pend (updSlot s t.slot fun x => reserve x k tag none) tag (.qput k v)
/-- QPUT (14 R353). -/
def execQput (n : Nib) (k : BitVec 3) (f : Opnd) (s : State) : Host.Outcome State Fault Refusal :=
  let r : Reads := if vectorQueue k then { vectors := [f], checked := false } else { scalars := [f], checked := false }
  issueWord (.qput n k f) n none r (qputEff k f) s

/-- Where a queue's value goes. -/
def queueDest (k : BitVec 3) (f : Dest) : RDest := if vectorQueue k then .vector f else .scalar f
/-- Write a queue's value with the code it carries. -/
def putQVal (s : State) (t : Thread) (f : Dest) : QVal → State
  | .s w => updSeq s t fun q => writeS q f w
  | .v w => updSlot s t.slot fun x => writeV x f w

/-- QGET's effect: the oldest entry, when it is filled (14 R353). -/
def qgetEff (k : BitVec 3) (f : Dest) (s : State) (t : Thread) : Res :=
  match vget (getSlot s t.slot).queues k with
  | { tag := _, val := some v } :: l =>
    .done (putQVal (updSlot s t.slot fun x => { x with queues := vset x.queues k l }) t f v)
  | _ => .wait s true
/-- QGET (14 R353). -/
def execQget (n : Nib) (f : Dest) (k : BitVec 3) (s : State) : Host.Outcome State Fault Refusal :=
  issueWord (.qget n f k) n (some (queueDest k f)) {} (qgetEff k f) s

/-- QPEEK's effect: a copy of the oldest entry (14 R353). -/
def qpeekEff (k : BitVec 3) (f : Dest) (s : State) (t : Thread) : Res :=
  match vget (getSlot s t.slot).queues k with
  | { tag := _, val := some v } :: _ => .done (putQVal s t f v)
  | _ => .wait s true
/-- QPEEK (14 R353). -/
def execQpeek (n : Nib) (f : Dest) (k : BitVec 3) (s : State) : Host.Outcome State Fault Refusal :=
  issueWord (.qpeek n f k) n (some (queueDest k f)) {} (qpeekEff k f) s

/-- QCNT (14 R353). -/
def execQcnt (n : Nib) (f : Dest) (k : BitVec 3) (s : State) : Host.Outcome State Fault Refusal :=
  issueWord (.qcnt n f k) n (some (.scalar f)) {}
    (fun s t => .done (putResult s t f (BitVec.ofNat 64 (vget (getSlot s t.slot).queues k).length))) s

/-- TSIG: n is added to its counter whole, before the nibble's signals (14 R357, R358). -/
def execTsig (n : Nib) (cnt : BitVec 4) (pred : Bool) (s : State) : Host.Outcome State Fault Refusal :=
  .next (issueFull (.tsig n cnt pred) n none (some (pred, cnt.toNat)) none {} (fun s _ => .done s) s)
/-- TWAIT: it issues when its counter holds n beside what its nibble takes (14 R357, R358). -/
def execTwait (n : Nib) (cnt : BitVec 4) (pred : Bool) (s : State) : Host.Outcome State Fault Refusal :=
  .next (issueFull (.twait n cnt pred) n (some (pred, cnt.toNat)) none none {} (fun s _ => .done s) s)

end Sys2Proof.Machine
end

