-- ==== Sys2Proof/Machine/Regs.lean ====
section
/-! DEFINITION. Device control registers: the host-interface block, translation control, correction counters and trap
control (03 R66, 04 R103, 11 R283, 18 R439, 04 R474). -/

namespace Sys2Proof.Machine

/-- The first address of the device control registers (01 R16). -/
def ctlBase : Nat := 0x3000000000000

/-- A truth value as a bit at a place. -/
def bitAt (b : Bool) (i : Nat) : Nat := if b then 2 ^ i else 0

/-- The FENCED bits (03 R66). -/
def fencedBits (s : State) : Nat :=
  ([0, 1, 2, 3].map fun d => bitAt (getDie s d).fenced d).sum

/-- The status register at 0x008 (03 R66); frozen, it is held as latched (01 R31). -/
def statusReg (s : State) : Nat :=
  bitAt (s.running || s.boot.latched) 0 + bitAt s.warm 1 + fencedBits s * 4 + bitAt s.dbg 6 + bitAt s.ckbusy 7 + bitAt s.sevovf 8

/-- Read the register at an offset through a die's register path; correction counters clear on read (11 R283). An
offset that names no register reads zero (04 R474), as does a WO field (00 R9). -/
def ctlRead (s : State) (die off : Nat) : State × Word :=
  let d := getDie s die
  let w (n : Nat) : State × Word := (s, BitVec.ofNat 64 n)
  if off = 0x000 then w 0x10001
  else if off = 0x008 then w (statusReg s)
  else if off = 0x010 then (s, s.startrec)
  else if off = 0x018 then (s, s.srq)
  else if off = 0x020 then (s, s.sevq)
  else if off = 0x028 then w (s.time - s.startAt)
  else if off = 0x100000 then w (bitAt d.supen 0 + d.suproot.toNat)
  else if off = 0x100010 then w (bitAt d.btarget 1 + bitAt d.bbusy 2 + bitAt d.berr 3 + d.bregion.toNat * 65536)
  else if 0x200000 ≤ off ∧ off < 0x200020 ∧ off % 8 = 0 then
    let e := (off - 0x200000) / 8
    let c := getDie s e
    (updDie s e fun d => { d with sramcorr := 0, hbmcorr := 0 }, c.hbmcorr ++ c.sramcorr)
  else if off = 0x300000 then (s, d.svbase)
  else w 0

/-- The storage region that a bias register's REGION names, if it is one of HBM (04 R103). -/
def hbmRegion (r : BitVec 36) : Option Nat :=
  match locate (r.toNat * 65536) with
  | some (loc, .hbm) => some (loc / 65536)
  | _ => none

/-- Write the bias register (04 R103, R108): a GO while BUSY, or for a region that is not of HBM, is ignored but for
BIASERR. -/
def writeBias (s : State) (die : Nat) (v : Word) : State :=
  let d := getDie s die
  let region := v.extractLsb' 16 36
  let target := v.getLsbD 1
  if v.getLsbD 0 then
    match hbmRegion region, d.bbusy with
    | some r, false =>
      let s := updDie s die fun d => { d with btarget := target, bregion := region, bbusy := true,
                                              berr := d.berr && !v.getLsbD 3 }
      enqueue { s with flips := s.flips ++ [{ region := r, host := !target, by_ := some die }] }
        (.event (if target then .biasFlipToDevice region else .biasFlipToHost region))
    | _, _ => updDie s die fun d => { d with berr := true }
  else updDie s die fun d => { d with btarget := target, bregion := region, berr := d.berr && !v.getLsbD 3 }

/-- Write the reply register (04 R105). -/
def writeReply (s : State) (v : Word) : State :=
  let src := v.extractLsb' 0 32
  let eng := v.extractLsb' 32 8
  match (v.extractLsb' 40 2).toNat with
  | 0 => enqueue s (.event (.engineFaultResume src eng))
  | 1 => enqueue s (.event (.engineFaultAbort src eng))
  | _ => s

/-- A 52-bit physical address field. -/
def paField (v : Word) : Word := v &&& 0xFFFFFFFFFFFFF

/-- SRQ names the supervisor's request queue from now on (03 R66, R68). -/
def setSrq (s : State) (v : Word) : State :=
  let pa : Word := paField v
  let rest := s.hqueues.filter fun q => !(q.job == 0 && q.kind == 3)
  { s with srq := pa, hqueues := if pa = 0 then rest else rest ++ [{ desc := pa, job := 0, kind := 3, since := none, upto := none }] }
/-- SEVQ names the supervisor's event queue from now on (03 R66). -/
def setSevq (s : State) (v : Word) : State :=
  let s := { s with sevq := paField v }
  if s.waitEv.isEmpty then s else enqueue s .posting

/-- Write the register at an offset through a die's register path. RO fields and offsets that name no register ignore
it (00 R9, 04 R474). -/
def ctlWrite (s : State) (die off : Nat) (v : Word) : State :=
  if off = 0x008 then { s with sevovf := s.sevovf && !v.getLsbD 8 }
  else if off = 0x018 then setSrq s v
  else if off = 0x020 then setSevq s v
  else if off = 0x100000 then
    updDie s die fun d => { d with supen := v.getLsbD 0, suproot := v &&& 0xFFFFFFFFFF000 }
  else if off = 0x100008 then writeReply s v
  else if off = 0x100010 then writeBias s die v
  else if off = 0x300000 then updDie s die fun d => { d with svbase := v &&& ~~~0x3F#64 }
  else s

end Sys2Proof.Machine
end

