-- ==== Sys2Proof/Machine/Mem.lean ====
section
/-! DEFINITION. Class 0x60: scalar loads and stores, queue loads and stores, PREF; the delivery of loads and the
performance of stores (15 R360-R368, 07 R174, R177, 08 R205). -/

namespace Sys2Proof.Machine

/-- A base plus an offset scaled by the access size (12 R304). -/
def effAddr (base : Word) (off : BitVec 8) (size : Nat) : Word := base + off.signExtend 64 * BitVec.ofNat 64 size

/-- A misaligned address traps MISALIGNED before translation (15 R361). -/
def aligned (s : State) (va : Word) (n : Nat) (k : Res) : Res :=
  if va.toNat % n = 0 then k else .trap s { cause := 5, addr := va }

/-- A span lies in a region whose bias flips: its home serves it under the new bias (04 R108). -/
def flipping (s : State) (sps : List Span) : Bool :=
  sps.any fun sp => s.flips.any fun f => f.begun && decide (f.region * 65536 ≤ sp.loc) && decide (sp.loc < f.region * 65536 + 65536)
/-- Translate an access of a word, which issues only when every page of it passes (04 R101, R104), and waits while its region flips, or for
lines of another device to come into its L1 (02 R42). -/
def access (s : State) (t : Thread) (va : Word) (len : Nat) (n : Need) (k : State → List Span → Res) : Res :=
  match translate s (slotCtx s t.slot t.seq) va len n with
  | (s, .ok sps) =>
    if flipping s sps then .wait s false else
      match needFar s t.slot (sps.filter fun sp => !n.atHome || decide (sp.sw < 2)) with
      | some s => .wait s false
      | none => k s sps
  | (s, .fault kd a) => .trap s { cause := 4, kind := kd, wr := n.w, addr := a }
  | (s, .stall) => .wait s false

/-- The thread runs in the supervisor. -/
def isSup (s : State) (t : Thread) : Bool := t.seq == .K && (getSlot s t.slot).supMode

/-- A write into a region's own areas of the scratchpad traps REGION while the region is open (11 R288). -/
def outsideRegion (s : State) (t : Thread) (sps : List Span) (k : Res) : Res :=
  let x := getSlot s t.slot
  if !isSup s t && x.regionOpen && sps.any (fun sp => inRegionAreas x t.slot sp.loc sp.len) then
    .trap s { cause := 10 }
  else k

/-! ## Issued words and what a load brings -/

/-- The issued words of every bank of a sequencer; the Bool says whether the supervisor issued it. -/
def Slot.issued (x : Slot) (q : Seq) : List (Bool × Outst) :=
  match q with
  | .K => x.k.outst.map (false, ·) ++ x.ksup.outst.map (true, ·)
  | .L => x.l.outst.map (false, ·)
  | .C => x.c.outst.map (false, ·)
  | .S => x.s.outst.map (false, ·)
/-- The lines that an issued word's memory access touches. -/
def workLines (w : Work) : List Nat := spanLines w.spans
/-- An earlier undone word of the list that touches a line of this one (08 R204 program order). -/
def blockedBy (l : List (Bool × Outst)) (o : Outst) : Bool :=
  l.any fun e => !e.2.done && decide (e.2.tag < o.tag) && (workLines e.2.work).any (workLines o.work).contains

/-- Read for a slot as its own words see memory: with its region's buffered writes in place (11 R289), unless the
supervisor reads. -/
def readFor {α : Type} (s : State) (slot : Nat) (sup : Bool) (f : State → Risk (State × α)) : Risk (State × α) :=
  let plain := match (getSlot s slot).region with | some r => r.buf.isEmpty | none => true
  if plain || sup then f s
  else
    match f (visible s slot) with
    | .error b => .error b
    | .ok (s1, v) => .ok (countSubst s slot ((getSlot s1 slot).subcnt.toNat - (getSlot s slot).subcnt.toNat), v)

/-- Read through the constant cache of a core, of 16 KiB (08 R200; log 7): granules not held come from the core's view and, on a CONST page, stay
held (08 R224), but for storage that nothing caches (04 R474). -/
def constGrans (s : State) (slot : Nat) (sp : Span) : State × List GRead :=
  let core := coreOf slot
  let line := sp.loc / 64
  let key := viewKey core line
  let g := sp.loc / 16
  match kvFind s.ccache key with
  | some c =>
    match c.gr.toList.getD (g % 4) none with
    | some y => (s, [⟨g, y.data, y.syn, poisoned (c.meta_ ||| fencePoison s line)⟩])
    | none => getRun s (coreWho s slot) sp.area sp.loc sp.len
  | none =>
    let (s, gs) := getRun s (coreWho s slot) sp.area sp.loc sp.len
    if sp.cst && sp.area.cached then
      let w := coreWho s slot
      let f (i : Nat) : Option CGran := some { seeGran s w sp.area line i with dirty := none }
      let c : CLine := { gr := #v[f 0, f 1, f 2, f 3], meta_ := seeMeta s w sp.area line, metaDirty := false, l1 := 0,
                         cc := false }
      let (s, ccache) := cachePut s s.ccache 256 key c
      ({ s with ccache }, gs)
    else (s, gs)

/-- The value of an aligned load through the constant path (15 R365). -/
def constLoad (src slot : Nat) (s : State) : List Span → Risk (State × Nat)
  | [] => .ok (s, 0)
  | sp :: _ =>
    let (s, gs) := constGrans s slot sp
    match consume gs sp.et with
    | .error bad => .error (.ofGrans src sp.va sp.loc bad)
    | .ok (gs, n) => .ok (countSubst s slot n, runValue gs sp.loc sp.len)

/-- What a delivered load brings: a value, or a queue entry. -/
def loadValue (s : State) (slot : Nat) (q : Seq) (sup : Bool) (w : Work) : Risk (State × Option (BitVec 3) × QVal) :=
  let src := seqNum q
  let who := coreWho s slot
  let scalar (k : Option (BitVec 3)) (r : Risk (State × Nat)) : Risk (State × Option (BitVec 3) × QVal) :=
    match r with
    | .ok (s, v) => .ok (s, k, .s (.fresh (BitVec.ofNat 64 v)))
    | .error b => .error b
  match w with
  | .load sps _ => scalar none (readFor s slot sup fun s => loadSpans src slot who s sps)
  | .const sps _ => scalar none (constLoad src slot s sps)
  | .ldq k sps false _ => scalar (some k) (readFor s slot sup fun s => loadSpans src slot who s sps)
  | .ldq k sps true _ =>
    match readFor s slot sup fun s => moveSpans src slot who s sps with
    | .ok (s, v, y) => .ok (s, some k, .v { val := BitVec.ofNat 2048 v, syn := BitVec.ofNat 256 y })
    | .error b => .error b
  | _ => .ok (s, none, .s .zero)

/-- What a load answers whose bytes have turned bad since it issued: the value it found then (04 R104; log 9). -/
def seenValue : Work → Option (BitVec 3) × QVal
  | .load _ v => (none, v)
  | .const _ v => (none, v)
  | .ldq k _ _ v => (some k, v)
  | _ => (none, .s .zero)

/-- An earlier word of the sequencer has still to reach these spans' lines. -/
def ownPending (s : State) (t : Thread) (sps : List Span) : Bool :=
  ((getSlot s t.slot).issued t.seq).any fun e => !e.2.done && (workLines e.2.work).any (spanLines sps).contains

/-- Issue a load. Its bytes are read as it issues, after the sequencer's earlier words to its lines, so that an uncorrectable error traps
precisely and the word has not issued (15 R363, 04 R104; log 9); what it delivers is read again as it is delivered. -/
def issueLoad (s : State) (t : Thread) (sps : List Span) (mk : QVal → Work) (k : State → Nat → Work → Res) : Res :=
  if ownPending s t sps then .wait s false else
    match loadValue s t.slot t.seq (isSup s t) (mk (.s .zero)) with
    | .error b => .bad s b
    | .ok (_, _, v) =>
      let (tag, s) := takeUid s
      k s tag (mk v)

/-- Some issued word of the sequencer still has work to do. -/
def pending (s : State) (t : Thread) : Bool := (getSeq s t).outst.any fun o => !o.done

/-! ## Loads -/

/-- A load of `size` bytes (15 R362, R363): its destination waits for LOAD_DELIVERY. A device control register is read
at once (04 R474). -/
def loadEff (const : Bool) (size : Nat) (d : Dest) (a : Opnd) (off : BitVec 8) (s : State) (t : Thread) : Res :=
  let va := effAddr (srcVal s t a) off size
  let ctl := !const && size == 8 && va.toNat % 8 == 0
  access s t va size { r := true, ctl, sys := true } fun s sps =>
    match sps with
    | { area := .control, loc, .. } :: _ =>
      let (s, v) := ctlRead s (dieOfCore (coreOf t.slot)) (loc - ctlBase)
      .done (putResult s t d v)
    | _ =>
      issueLoad s t sps (fun v => if const then .const sps v else .load sps v) fun s tag w =>
        .pend (enqueue (putBusy s t d tag) (.event (.loadDelivery t.slot t.seq tag))) tag w

/-- LDB (15 R362). -/
def execLdb (n : Nib) (d : Dest) (a : Opnd) (off : BitVec 8) (s : State) : Host.Outcome State Fault Refusal :=
  issueWord (.ldb n d a off) n (some (.scalar d)) { scalars := [a] } (loadEff false 1 d a off) s
/-- LDH (15 R362). -/
def execLdh (n : Nib) (d : Dest) (a : Opnd) (off : BitVec 8) (s : State) : Host.Outcome State Fault Refusal :=
  issueWord (.ldh n d a off) n (some (.scalar d)) { scalars := [a] } (loadEff false 2 d a off) s
/-- LDW (15 R362). -/
def execLdw (n : Nib) (d : Dest) (a : Opnd) (off : BitVec 8) (s : State) : Host.Outcome State Fault Refusal :=
  issueWord (.ldw n d a off) n (some (.scalar d)) { scalars := [a] } (loadEff false 4 d a off) s
/-- LDD (15 R362). -/
def execLdd (n : Nib) (d : Dest) (a : Opnd) (off : BitVec 8) (s : State) : Host.Outcome State Fault Refusal :=
  issueWord (.ldd n d a off) n (some (.scalar d)) { scalars := [a] } (loadEff false 8 d a off) s
/-- LDC's effect: aligned to 8 bytes, through the constant path (15 R365). -/
def ldcEff (d : Dest) (a : Opnd) (off : BitVec 8) (s : State) (t : Thread) : Res :=
  aligned s (effAddr (srcVal s t a) off 8) 8 (loadEff true 8 d a off s t)
/-- LDC (15 R365). -/
def execLdc (n : Nib) (d : Dest) (a : Opnd) (off : BitVec 8) (s : State) : Host.Outcome State Fault Refusal :=
  issueWord (.ldc n d a off) n (some (.scalar d)) { scalars := [a] } (ldcEff d a off) s

/-- A queue load: its entry is reserved at issue and filled at LOAD_DELIVERY (15 R367). -/
def queueLoadEff (k : BitVec 3) (f : Opnd) (off : BitVec 8) (size align : Nat) (s : State) (t : Thread) : Res :=
  let va := effAddr (srcVal s t f) off size
  aligned s va align <| access s t va size { r := true, sys := true } fun s sps =>
    if queueFull (getSlot s t.slot) k then .wait s true else
      issueLoad s t sps (.ldq k sps (vectorQueue k)) fun s tag w =>
        .pend (enqueue (updSlot s t.slot fun x => reserve x k tag none) (.event (.loadDelivery t.slot t.seq tag))) tag w
/-- LDQ (15 R367). -/
def execLdq (n : Nib) (k : BitVec 3) (f : Opnd) (off : BitVec 8) (s : State) : Host.Outcome State Fault Refusal :=
  issueWord (.ldq n k f off) n none { scalars := [f] } (queueLoadEff k f off 8 8) s
/-- LDVQ (15 R367). -/
def execLdvq (n : Nib) (k : BitVec 3) (f : Opnd) (off : BitVec 8) (s : State) : Host.Outcome State Fault Refusal :=
  issueWord (.ldvq n k f off) n none { scalars := [f] } (queueLoadEff k f off 256 16) s

/-- PREF: the line comes into the core's L1 where the page translates with R; nothing else (15 R366). -/
def prefEff (a : Opnd) (off : BitVec 8) (s : State) (t : Thread) : Res :=
  let va := effAddr (srcVal s t a) off 8
  aligned s va 8 <|
    match trPage s (slotCtx s t.slot t.seq) va 8 { r := true } with
    | (s, .ok sp) => .done (touchLine s (coreWho s t.slot) sp.area (sp.loc / 64))
    | (s, _) => .done s
/-- PREF (15 R366). -/
def execPref (n : Nib) (a : Opnd) (off : BitVec 8) (s : State) : Host.Outcome State Fault Refusal :=
  issueWord (.pref n a off) n none { scalars := [a] } (prefEff a off) s

/-! ## Stores -/

/-- A write issued after CRCLOSE to a line that the buffer still holds waits (11 R294). -/
def heldByDrain (x : Slot) (uid : Nat) (op : StoreOp) : Bool :=
  match x.region with
  | some r => !inRegion x uid && (spanLines op.spans).any (bufLines r.buf).contains
  | none => false

/-- Queue a store-class write: STORE_PERFORMED performs it in program order (07 R174, 08 R205). A write but a RED's is tried as it issues,
after the sequencer's earlier words to its lines, so that an uncorrectable error traps precisely and the word has not issued (15 R364, 04
R104; log 9). -/
def pendStore (s : State) (t : Thread) (op : StoreOp) : Res :=
  let go : Res :=
    let (tag, s) := takeUid s
    .pend (enqueue s (.event (.storePerformed t.slot t.seq))) tag (.store op)
  match op with
  | .red _ => go
  | _ =>
    if ownPending s t op.spans || heldByDrain (getSlot s t.slot) s.nextUid op then .wait s false else
      match if isSup s t then performOp s t.slot op else slotWrite s t.slot t.seq 0 s.nextUid op with
      | .error b => .bad s b
      | .ok _ => go

/-- A store of `size` bytes (15 R362, R364). A device control register is written at once (04 R474). -/
def storeEff (size : Nat) (b a : Opnd) (off : BitVec 8) (s : State) (t : Thread) : Res :=
  let va := effAddr (srcVal s t a) off size
  let v := (srcVal s t b).toNat % 2 ^ (8 * size)
  access s t va size { w := true, ctl := size == 8 && va.toNat % 8 == 0 } fun s sps =>
    match sps with
    | { area := .control, loc, .. } :: _ =>
      if pending s t then .wait s false
      else .done (ctlWrite s (dieOfCore (coreOf t.slot)) (loc - ctlBase) (BitVec.ofNat 64 v))
    | _ => outsideRegion s t sps (pendStore s t (.plain sps v))
/-- STB (15 R362). -/
def execStb (n : Nib) (b a : Opnd) (off : BitVec 8) (s : State) : Host.Outcome State Fault Refusal :=
  issueWord (.stb n b a off) n none { scalars := [b, a] } (storeEff 1 b a off) s
/-- STH (15 R362). -/
def execSth (n : Nib) (b a : Opnd) (off : BitVec 8) (s : State) : Host.Outcome State Fault Refusal :=
  issueWord (.sth n b a off) n none { scalars := [b, a] } (storeEff 2 b a off) s
/-- STW (15 R362). -/
def execStw (n : Nib) (b a : Opnd) (off : BitVec 8) (s : State) : Host.Outcome State Fault Refusal :=
  issueWord (.stw n b a off) n none { scalars := [b, a] } (storeEff 4 b a off) s
/-- STD (15 R362). -/
def execStd (n : Nib) (b a : Opnd) (off : BitVec 8) (s : State) : Host.Outcome State Fault Refusal :=
  issueWord (.std n b a off) n none { scalars := [b, a] } (storeEff 8 b a off) s

/-- STVQ's effect: the oldest entry, whole granules with their codes (15 R368). -/
def stvqEff (k : BitVec 3) (f : Opnd) (off : BitVec 8) (s : State) (t : Thread) : Res :=
  let va := effAddr (srcVal s t f) off 256
  aligned s va 16 <| access s t va 256 { w := true } fun s sps => outsideRegion s t sps <|
    match vget (getSlot s t.slot).queues k with
    | { tag := _, val := some (.v w) } :: l =>
      match pendStore (updSlot s t.slot fun x => { x with queues := vset x.queues k l }) t (.vec sps w) with
      | .bad _ b => .bad s b
      | .wait _ r => .wait s r
      | r => r
    | _ => .wait s true
/-- STVQ (15 R368). -/
def execStvq (n : Nib) (k : BitVec 3) (f : Opnd) (off : BitVec 8) (s : State) : Host.Outcome State Fault Refusal :=
  issueWord (.stvq n k f off) n none { scalars := [f] } (stvqEff k f off) s

/-! ## Delivery and performance -/

/-- Change every bank of a sequencer: K has its user and its supervisor bank. -/
def Slot.onBanks (x : Slot) (q : Seq) (f : SeqSt → SeqSt) : Slot :=
  match q with
  | .K => { x with k := f x.k, ksup := f x.ksup }
  | .L => { x with l := f x.l }
  | .C => { x with c := f x.c }
  | .S => { x with s := f x.s }
/-- Mark an issued word done. -/
def markDone (x : Slot) (q : Seq) (tag : Nat) : Slot :=
  x.onBanks q fun v => { v with outst := v.outst.map fun o => if o.tag = tag then { o with done := true } else o }
/-- An issued table write has performed and waits for the accesses in flight under what it dropped (04 R100). -/
def markAwait (x : Slot) (q : Seq) (tag : Nat) (ds : List (Nat × Nat)) : Slot :=
  x.onBanks q fun v => { v with outst := v.outst.map fun o => if o.tag = tag then { o with work := .await ds } else o }
/-- The table lines that a change has written while accesses derived from them are in flight (04 R100). -/
def freshDrops (s t : State) : List (Nat × Nat) := t.drops.filter fun d => !s.drops.contains d
/-- Abandon an issued word: its destination stays unwritten, and its reserved queue entry goes (15 R363). -/
def dropIssued (x : Slot) (q : Seq) (tag : Nat) : Slot :=
  let x := { x with queues := x.queues.map fun (l : List QEnt) => l.filter fun e => !(e.tag == tag && e.val.isNone) }
  x.onBanks q fun v => { unwait v tag with outst := v.outst.filter fun o => o.tag != tag }

/-- A queue entry is filled no earlier than every earlier store-class word of its sequencer is complete (08 R205). -/
def queueHeld (l : List (Bool × Outst)) (o : Outst) : Bool :=
  match o.work with
  | .ldq _ _ _ _ => l.any fun e => !e.2.done && decide (e.2.tag < o.tag) && e.2.work.covers
  | _ => false

/-- LOAD_DELIVERY's change: the load's data goes to its destination or reserved entry, and the word is complete (15 R363, R367, 07 R174).
It comes about only when earlier accesses of the sequencer to its lines have performed. -/
def deliverLoad (s : State) (slot : Nat) (q : Seq) (tag : Nat) : State :=
  let l := (getSlot s slot).issued q
  match l.find? fun e => e.2.tag == tag && !e.2.done && e.2.work.isLoad with
  | none => s
  | some (sup, o) =>
    if o.work.spans.isEmpty then s
    else if blockedBy l o || queueHeld l o then hold s (.event (.loadDelivery slot q tag))
    else
      let (s, k, v) := match loadValue s slot q sup o.work with
        | .error _ => (s, seenValue o.work)
        | .ok r => r
      let s := updSlot s slot fun x =>
        let x :=
          match k, v with
          | some k, v => fillQueue x k tag v
          | none, .s w => x.onBanks q fun r => deliver r tag w.val
          | none, _ => x
        settle (markDone x q tag)
      checkEnd s slot
/-- LOAD_DELIVERY (15 R363). -/
def execLoadDelivery (slot : Nat) (q : Seq) (tag : Nat) (s : State) : Host.Outcome State Fault Refusal :=
  .next (deliverLoad s slot q tag)

/-- MACHINE_CHECK, or an unwind, for an error that no word is stopped at (11 R286, 15 R373): TRAPPC is K's stop
point. -/
def slotError (s : State) (slot : Nat) (uid : Nat) (b : Bad) : State :=
  let x := getSlot s slot
  if inRegion x uid then unwind s slot b else machineCheck s slot .K x.k.pc b false

/-- A release waits for posted writes of its task in its bound range (02 R43); in a region it performs as the region drains. -/
def farRelHeld (s : State) (slot tag : Nat) (op : StoreOp) : Bool :=
  !inRegion (getSlot s slot) tag && op.releases.any fun sp => !(relWrs s slot sp).isEmpty
/-- A release's destination is out of reach: a write that it waits for is lost, or its sync word's device is (02 R43). -/
def farRelLost (s : State) (slot : Nat) (op : StoreOp) : Bool :=
  op.releases.any fun sp =>
    decide (4 ≤ sp.sw) && ((relWrs s slot sp).any (·.lost) || (sp.area == .remote && !farUp s sp.loc))
/-- A REL whose sync word's home is on another device. -/
def farRelease (x : Slot) (tag : Nat) (op : StoreOp) : Bool :=
  match op with
  | .rel sp _ => !inRegion x tag && sp.area == .remote && decide (2 ≤ sp.sw)
  | _ => false
/-- Send the RELW of a REL, which is complete when its WRACK returns; one whose destination is out of reach ends (02 R43). -/
def sendRelease (s : State) (slot : Nat) (q : Seq) (tag : Nat) (op : StoreOp) : State :=
  match op with
  | .rel sp v =>
    let s := purge (releaseSteps s slot sp) (clusterOf (coreOf slot)) (sp.loc / 64)
    let (n, s) := takeUid s
    let ftag := BitVec.ofNat 12 n
    match if farUp s sp.loc then relwFlit s slot ftag sp v else none with
    | some f =>
      updSlot (sendFlit s f) slot fun x => x.onBanks q fun b =>
        { b with outst := b.outst.map fun o => if o.tag = tag then { o with work := .relw sp ftag } else o }
    | none =>
      if 4 ≤ sp.sw then enqueue (hold s (.event (.storePerformed slot q))) (.event (.relFabricTimeout slot q))
      else checkEnd (updSlot s slot fun x => settle (markDone x q tag)) slot
  | _ => s

/-- STORE_PERFORMED's change: the oldest unperformed store-class word of the sequencer performs and is complete
(15 R364, 08 R205). -/
def performStore (s : State) (slot : Nat) (q : Seq) : State :=
  let l := (getSlot s slot).issued q
  let stores := l.filter fun e => !e.2.done && e.2.work.isStore
  match stores with
  | [] => s
  | e0 :: r =>
    let e := r.foldl (fun m e => if e.2.tag < m.2.tag then e else m) e0
    match e.2.work with
    | .relw _ _ => hold s (.event (.storePerformed slot q))
    | .store op =>
      let wait (s : State) : State := hold s (.event (.storePerformed slot q))
      if blockedBy l e.2 || heldByDrain (getSlot s slot) e.2.tag op then wait s
      else if (needFar s slot (op.merges ++ bufMerges (getSlot s slot))).isSome then
        wait ((needFar s slot (op.merges ++ bufMerges (getSlot s slot))).getD s)
      else if farRelHeld s slot e.2.tag op then
        let s := wait s
        if farRelLost s slot op then enqueue s (.event (.relFabricTimeout slot q)) else s
      else if farRelease (getSlot s slot) e.2.tag op then sendRelease s slot q e.2.tag op
      else
        match if e.1 then performOp s slot op else slotWrite s slot q e.2.pc e.2.tag op with
        | .ok t =>
          let x (x : Slot) : Slot :=
            match freshDrops s t with
            | [] => settle (markDone x q e.2.tag)
            | ds => markAwait x q e.2.tag ds
          checkEnd (updSlot t slot x) slot
        | .error b =>
          let s := updSlot s slot fun x => dropIssued x q e.2.tag
          match op with
          | .red _ => slotError s slot e.2.tag b
          | _ => wordError s ⟨slot, q⟩ e.2.pc e.2.tag b
    | _ => s
/-- STORE_PERFORMED (15 R364). -/
def execStorePerformed (slot : Nat) (q : Seq) (s : State) : Host.Outcome State Fault Refusal :=
  .next (performStore s slot q)

end Sys2Proof.Machine
end

