-- ==== Sys2Proof/Machine/Atomic.lean ====
section
/-! DEFINITION. Class 0x60: atomics and RED (15 R371-R373, 08 R216). -/

namespace Sys2Proof.Machine

/-- Perform an operation of a word at its issue that leaves the core, or writes the own scratchpad (11 R289, R290): an
own-scratchpad write is journalled in a region; every other escape drains the buffer and is counted. -/
def escaping (s : State) (t : Thread) (cls : Nat) (sps : List Span) : Risk State :=
  let x := getSlot s t.slot
  if isSup s t then .ok s
  else if sps.all fun sp => inOwnAlloc x t.slot sp.loc then
    if inRegion x s.nextUid then journalAll t.slot s.nextUid s (spanLines sps) else .ok s
  else escape s t.slot s.nextUid cls

/-- A word that a home on another device performs: its flit goes there, the core's own copy of the line goes, and the word is complete with the
answer (08 R208, R216, 02 R37). A home that cannot be reached answers with poison (02 R34). -/
def farPend (s : State) (t : Thread) (d : Dest) (sp : Span) (o : MemOrd) (f : State → BitVec 12 → BitVec 12 → Nat → Flit) : Res :=
  match farAddr s sp.loc with
  | none => .bad s (.of true 6 sp.va (sp.loc / 16))
  | some (dst, pa) =>
    if unreachable s dst then .bad s (.of true 6 sp.va (sp.loc / 16)) else
      let (tag, s) := takeUid (purge s (clusterOf (coreOf t.slot)) (sp.loc / 64))
      let ftag := BitVec.ofNat 12 tag
      .pend (putBusy (sendFlit s (f s dst ftag pa)) t d tag) tag (.far sp ftag o)
/-- An atomic that releases at width 4 or 5 waits for the posted writes of its bound range, at most 100 µs and no longer than their
destination is in reach (02 R43). None where it need not wait. -/
def relGate (s : State) (t : Thread) (sp : Span) (o : MemOrd) : Option Res :=
  let ws := if ordReleases o then relWrs s t.slot sp else []
  if ws.isEmpty then none else
    let x := getSlot s t.slot
    let since := ((x.relAt.find? fun e => e.1 == t.seq).map (·.2)).getD s.time
    if ws.any (·.lost) || decide (since + 100000 ≤ s.time) then
      some (.trap (setSlot s t.slot { x with relAt := x.relAt.filter fun e => e.1 != t.seq }) { cause := 27, addr := sp.va })
    else some (.wait (setSlot s t.slot { x with relAt := (x.relAt.filter fun e => e.1 != t.seq) ++ [(t.seq, since)] }) false)

/-- A value-returning atomic of n bytes at u(a) (15 R371-R373): it performs at issue, once the sequencer's earlier
accesses have performed; on a line of a table it is complete once the accesses in flight under it are (04 R100). `op` is its code in an
ATOM, `b` and `c` its operands there. -/
def atomEff (op n : Nat) (o : MemOrd) (d : Dest) (a b c : Opnd) (f : State → Thread → Nat → Option Nat) (s : State)
    (t : Thread) : Res :=
  let va := srcVal s t a
  aligned s va n <| access s t va n { r := true, w := true, atHome := true } fun s sps => outsideRegion s t sps <|
    if pending s t then .wait s false else
      match sps with
      | [sp] => (relGate s t sp o).getD <|
        match escaping s t escAtom sps with
        | .error b => .bad s b
        | .ok s1 =>
          if sp.area = .remote then
            farPend (if ordReleases o then releaseSteps s1 t.slot sp else s1) t d sp o fun s' dst tag pa =>
              atomFlit s' dst tag (slotTag s t.slot) pa op (srcVal s t b) (srcVal s t c) (n == 4) false
          else
          match atomicAt s1 t.slot sp n o (f s t) with
          | .error b => .bad s1 b
          | .ok (s1, v) =>
            let s1 := putResult s1 t d (BitVec.ofNat 64 v)
            match freshDrops s s1 with
            | [] => .done s1
            | ds => let (tag, s1) := takeUid s1; .pend s1 tag (.await ds)
      | _ => .wait s false

/-- An atomic of one operand that always stores. -/
def rmw (b : Opnd) (g : Word → Word → Word) (s : State) (t : Thread) (m : Nat) : Option Nat :=
  some (g (BitVec.ofNat 64 m) (srcVal s t b)).toNat

/-- AADD (15 R371). -/
def execAadd (n : Nib) (o : MemOrd) (d : Dest) (a b : Opnd) (s : State) : Host.Outcome State Fault Refusal :=
  issueWord (.aadd n o d a b) n (some (.scalar d)) { scalars := [a, b] } (atomEff 0 8 o d a b b (rmw b (redFun .add))) s
/-- AMIN (15 R371). -/
def execAmin (n : Nib) (o : MemOrd) (d : Dest) (a b : Opnd) (s : State) : Host.Outcome State Fault Refusal :=
  issueWord (.amin n o d a b) n (some (.scalar d)) { scalars := [a, b] } (atomEff 1 8 o d a b b (rmw b (redFun .min))) s
/-- AMAX (15 R371). -/
def execAmax (n : Nib) (o : MemOrd) (d : Dest) (a b : Opnd) (s : State) : Host.Outcome State Fault Refusal :=
  issueWord (.amax n o d a b) n (some (.scalar d)) { scalars := [a, b] } (atomEff 2 8 o d a b b (rmw b (redFun .max))) s
/-- AMINU (15 R371). -/
def execAminu (n : Nib) (o : MemOrd) (d : Dest) (a b : Opnd) (s : State) : Host.Outcome State Fault Refusal :=
  issueWord (.aminu n o d a b) n (some (.scalar d)) { scalars := [a, b] } (atomEff 3 8 o d a b b (rmw b (redFun .minu))) s
/-- AMAXU (15 R371). -/
def execAmaxu (n : Nib) (o : MemOrd) (d : Dest) (a b : Opnd) (s : State) : Host.Outcome State Fault Refusal :=
  issueWord (.amaxu n o d a b) n (some (.scalar d)) { scalars := [a, b] } (atomEff 4 8 o d a b b (rmw b (redFun .maxu))) s
/-- AAND (15 R371). -/
def execAand (n : Nib) (o : MemOrd) (d : Dest) (a b : Opnd) (s : State) : Host.Outcome State Fault Refusal :=
  issueWord (.aand n o d a b) n (some (.scalar d)) { scalars := [a, b] } (atomEff 5 8 o d a b b (rmw b (redFun .and))) s
/-- AOR (15 R371). -/
def execAor (n : Nib) (o : MemOrd) (d : Dest) (a b : Opnd) (s : State) : Host.Outcome State Fault Refusal :=
  issueWord (.aor n o d a b) n (some (.scalar d)) { scalars := [a, b] } (atomEff 6 8 o d a b b (rmw b (redFun .or))) s
/-- AXOR (15 R371). -/
def execAxor (n : Nib) (o : MemOrd) (d : Dest) (a b : Opnd) (s : State) : Host.Outcome State Fault Refusal :=
  issueWord (.axor n o d a b) n (some (.scalar d)) { scalars := [a, b] } (atomEff 7 8 o d a b b (rmw b (redFun .xor))) s
/-- ASWAP (15 R371). -/
def execAswap (n : Nib) (o : MemOrd) (d : Dest) (a b : Opnd) (s : State) : Host.Outcome State Fault Refusal :=
  issueWord (.aswap n o d a b) n (some (.scalar d)) { scalars := [a, b] } (atomEff 8 8 o d a b b (rmw b fun _ y => y)) s

/-- The new value of a compare-and-swap of n bytes; none where the comparison fails (15 R371). -/
def swapIf (n : Nat) (b c : Opnd) (s : State) (t : Thread) (m : Nat) : Option Nat :=
  if m = (srcVal s t b).toNat % 2 ^ (8 * n) then some ((srcVal s t c).toNat % 2 ^ (8 * n)) else none
/-- CAS (15 R371). -/
def execCas (n : Nib) (o : MemOrd) (a b c : Opnd) (s : State) : Host.Outcome State Fault Refusal :=
  issueWord (.cas n o a b c) n (some (.scalar .push)) { scalars := [a, b, c] } (atomEff 9 8 o .push a b c (swapIf 8 b c)) s
/-- CASW (15 R371). -/
def execCasw (n : Nib) (o : MemOrd) (a b c : Opnd) (s : State) : Host.Outcome State Fault Refusal :=
  issueWord (.casw n o a b c) n (some (.scalar .push)) { scalars := [a, b, c] } (atomEff 9 4 o .push a b c (swapIf 4 b c)) s

/-- RED's effect: a store-class word that its home performs (15 R371, R372). -/
def redEff (op : RedOp) (o : MemOrd) (a b : Opnd) (s : State) (t : Thread) : Res :=
  let va := srcVal s t a
  aligned s va 8 <| access s t va 8 { r := true, w := true, atHome := true } fun s sps => outsideRegion s t sps <|
    match sps with
    | [sp] => pendStore s t (.red { span := sp, op, ord := o, val := srcVal s t b })
    | _ => .wait s false
/-- RED (15 R371). -/
def execRed (n : Nib) (op : RedOp) (o : MemOrd) (a b : Opnd) (s : State) : Host.Outcome State Fault Refusal :=
  issueWord (.red n op o a b) n none { scalars := [a, b] } (redEff op o a b) s

end Sys2Proof.Machine
end

