-- ==== Sys2Proof/Machine/Barrier.lean ====
section
/-! DEFINITION. Barriers: BARARR, BARWAIT, BARSYNC and BARRIER_FORWARD (05 R138-R141, 15 R386; 02 R60). -/

namespace Sys2Proof.Machine

/-- The key of a barrier of a die. -/
def barKey (die i : Nat) : Nat := die * 256 + i
/-- A barrier. -/
def getBar (s : State) (k : Nat) : Bar := kvGet .free s.bars k
/-- Write a barrier. -/
def setBar (s : State) (k : Nat) (b : Bar) : State := { s with bars := kvSet .free s.bars k b }

/-- The modular arming rule (05 R139): a phase value as far ahead as behind. -/
def armRange (ph t : BitVec 32) : Bool := t - ph == 0x80000000#32
/-- A wait for phase t fires. -/
def barFires (ph t : BitVec 32) : Bool := (ph - t).ult 0x80000000#32

/-- The result of a wait: 0 OK, 1 PARTNER_LOST (15 R386). -/
def barStatus (b : Bar) : Word := if b.lost then 1 else 0

/-- The barrier of a slot's bn, if it is mapped (05 R138). -/
def barOf (x : Slot) (bn : BitVec 4) : Option Nat := vget x.barmap bn

/-- Reinsert a slot's task when its armed wait fires: its word is complete and K goes on (05 R140). -/
def wakeSlot (s : State) (slot : Nat) : State :=
  let x := getSlot s slot
  match x.armed with
  | none => s
  | some (bn, t) =>
    match barOf x bn with
    | none => s
    | some i =>
      let b := getBar s (barKey (dieOfCore (coreOf slot)) i)
      if barFires b.ph t || b.lost then
        let k := x.k
        let k := match k.outst.find? fun o => !o.done && o.work == .none with
          | some o => { k with belt := pushBelt k.belt (.fresh (barStatus b)),
                               outst := k.outst.map fun p => if p.tag = o.tag then { p with done := true } else p }
          | none => k
        checkEnd (setSlot (if b.lost then touchLost s slot else s) slot (settle { x with k, armed := none })) slot
      else s

/-- Look at every armed wait of a die. -/
def wakeDie (s : State) (die : Nat) : State :=
  s.slots.foldl (fun s' e => if dieOfCore (coreOf e.1) = die ∧ e.2.armed.isSome then wakeSlot s' e.1 else s') s

/-- An arrival at a barrier: the one that makes A = P advances the phase (05 R139). -/
def arrive (s : State) (die i : Nat) : State :=
  let b := getBar s (barKey die i)
  let a := b.a + 1
  if b.p ≤ a then wakeDie (setBar s (barKey die i) { b with a := 0, ph := b.ph + 1 }) die
  else setBar s (barKey die i) { b with a }

/-- A local arrival at a barrier of a linked gang: when the local arrivals reach the local count, their completion is forwarded to every
other device (05 R141). The spec gives the control flit no kind, so that it stands in `fwds` as a notice of its own (log 40). -/
def forwardLocal (s : State) (k : Nat) : State :=
  let b := getBar s k
  match b.lgid with
  | none => s
  | some lgid =>
    if b.la + 1 < b.loc_ then setBar s k { b with la := b.la + 1 }
    else
      let devs := (s.lgangs.filter fun g => g.lgid == lgid).flatMap fun g => g.devs.filter fun d => d.1 != s.devId
      { setBar s k { b with la := 0 } with fwds := s.fwds ++ devs.map fun d => (d.1, lgid, k) }
/-- A local arrival, by a word of a slot. -/
def arriveLocal (s : State) (slot i : Nat) : State :=
  let die := dieOfCore (coreOf slot)
  let s := if (getBar s (barKey die i)).lost then touchLost s slot else s
  arrive (forwardLocal s (barKey die i)) die i

/-- BARRIER_FORWARD: another device's local completion counts as one arrival; a lost partner completes the barrier
(05 R141, 02 R60). -/
def execBarrierForward (die bar : Nat) (lost : Bool) (s : State) : Host.Outcome State Fault Refusal :=
  .next <|
    let b := getBar s (barKey die bar)
    if b.p = 0 ∨ b.lgid = none then s
    else if lost then wakeDie (setBar s (barKey die bar) { b with a := 0, ph := b.ph + 1, lost := true }) die
    else arrive s die bar

/-- Reach the barrier of a bn. -/
def withBar (bn : BitVec 4) (s : State) (t : Thread) (k : Nat → Res) : Res :=
  match barOf (getSlot s t.slot) bn with
  | none => .trap s { cause := 17 }
  | some i => k i

/-- An arrival by a word is an escape (ESCSIG) with release: earlier accesses have performed (15 R386, 11 R290). -/
def arriveWord (s : State) (t : Thread) (i : Nat) (k : State → Res) : Res :=
  if pending s t then .wait s false else
    match if isSup s t then .ok s else escape s t.slot s.nextUid escSig with
    | .error b => .bad s b
    | .ok s => k (arriveLocal s t.slot i)

/-- Wait for phase t: at once where it fires, else the task leaves the ready set with its word outstanding; the supervisor
looks again (05 R139, R140). -/
def barWait (bn : BitVec 4) (i : Nat) (t0 : BitVec 32) (s : State) (t : Thread) : Res :=
  let b := getBar s (barKey (dieOfCore (coreOf t.slot)) i)
  if armRange b.ph t0 then .trap s { cause := 18 }
  else if barFires b.ph t0 || b.lost then
    .done (putResult (if b.lost then touchLost s t.slot else s) t .push (barStatus b))
  else if isSup s t then .wait s false
  else
    let (tag, s) := takeUid s
    .pend (updSlot s t.slot fun x => { x with armed := some (bn, t0) }) tag .none

/-- BARARR (15 R386): the value pushed is the phase that this arrival's phase leads to. -/
def execBararr (n : Nib) (bn : BitVec 4) (s : State) : Host.Outcome State Fault Refusal :=
  issueWord (.bararr n bn) n (some (.scalar .push)) {}
    (fun s t => withBar bn s t fun i => arriveWord s t i fun s' =>
      let ph := (getBar s (barKey (dieOfCore (coreOf t.slot)) i)).ph
      .done (putResult s' t .push ((ph + 1).setWidth 64))) s
/-- BARWAIT (15 R386). -/
def execBarwait (n : Nib) (f : Opnd) (bn : BitVec 4) (s : State) : Host.Outcome State Fault Refusal :=
  issueWord (.barwait n f bn) n (some (.scalar .push)) { scalars := [f] }
    (fun s t => withBar bn s t fun i => barWait bn i ((srcVal s t f).setWidth 32) s t) s
/-- BARSYNC's effect (15 R386): an arrival, then the wait for its own phase. The supervisor, which looks again at a phase
that has not come, notes the phase at its arrival. -/
def barsyncEff (bn : BitVec 4) (s : State) (t : Thread) : Res :=
  withBar bn s t fun i =>
    match (getSlot s t.slot).fence.find? fun f => f.1 == t.seq && isSup s t with
    | some f => barWait bn i (BitVec.ofNat 32 f.2) s t
    | none =>
      let ph := (getBar s (barKey (dieOfCore (coreOf t.slot)) i)).ph + 1
      arriveWord s t i fun s' =>
        barWait bn i ph (if isSup s' t then updSlot s' t.slot fun x => { x with fence := x.fence ++ [(t.seq, ph.toNat)] }
          else s') t
/-- BARSYNC (15 R386). -/
def execBarsync (n : Nib) (bn : BitVec 4) (s : State) : Host.Outcome State Fault Refusal :=
  issueWord (.barsync n bn) n (some (.scalar .push)) {}
    (barsyncEff bn) s

end Sys2Proof.Machine
end

