-- ==== Sys2Proof/Machine/Alu.lean ====
section
/-! DEFINITION. Computing words without a memory access: their operands, their result and flags, and how they issue. The
words that VOTE may precede are all of this form (11 R296). -/

namespace Sys2Proof.Machine

/-- A computed result: a scalar, a vector, or a new VTYPE (16 R390). -/
inductive AVal where
  | s (v : Word)
  | v (v : Vec)
  | vtype (v : Word)
  deriving DecidableEq, Repr

/-- What computing answers: a value with the FPSTAT flags it raises, or a trap by its cause code. -/
inductive AluRes where
  | ok (v : AVal) (flags : Word)
  | trap (cause : Nat)
  deriving DecidableEq, Repr

/-- A computing word: its destination, sources, and its function of VTYPE and the source values. -/
structure Alu where
  dst     : Option RDest
  scalars : List Opnd
  vectors : List Opnd
  run     : Word → List Word → List Vec → AluRes

/-- The source values of a computing word. -/
def Alu.eval (a : Alu) (s : State) (t : Thread) : AluRes :=
  let x := getSlot s t.slot
  a.run x.vtype (a.scalars.map fun o => srcVal s t o) (a.vectors.map fun o => (readV x o).val)

/-- Write a result to a destination with fresh codes, and OR the flags into FPSTAT (14 R337, 16 R392, 09 R250). -/
def writeAlu (s : State) (t : Thread) (d : Option RDest) (v : AVal) (flags : Word) : State :=
  let s :=
    match v, d with
    | .s w, some (.scalar d) => putResult s t d w
    | .v w, some (.vector d) => updSlot s t.slot fun x => writeV x d (.fresh w)
    | .vtype w, _ => updSlot s t.slot fun x => { x with vtype := w }
    | _, _ => s
  if flags = 0 then s else updSlot s t.slot fun x => { x with fpstat := x.fpstat ||| flags }

/-- The effect of a computing word. -/
def aluEff (a : Alu) (s : State) (t : Thread) : Res :=
  match a.eval s t with
  | .ok v f => .done (writeAlu s t a.dst v f)
  | .trap c => .trap s { cause := c }

/-- Issue a computing word. -/
def issueAlu (i : Instr) (n : Nib) (a : Alu) (s : State) : Host.Outcome State Fault Refusal :=
  issueWord i n a.dst { scalars := a.scalars, vectors := a.vectors } (aluEff a) s

/-- A scalar word of two sources (14 R348). -/
def alu2 (d : Dest) (a b : Opnd) (f : Word → Word → Word) : Alu :=
  { dst := some (.scalar d), scalars := [a, b], vectors := []
    run := fun _ l _ => match l with | [x, y] => .ok (.s (f x y)) 0 | _ => .trap 1 }
/-- A scalar word of one source (14 R348). -/
def alu1 (d : Dest) (a : Opnd) (f : Word → Word) : Alu :=
  { dst := some (.scalar d), scalars := [a], vectors := []
    run := fun _ l _ => match l with | [x] => .ok (.s (f x)) 0 | _ => .trap 1 }
/-- A scalar word of three sources, pushed (14 R348). -/
def alu3 (a b c : Opnd) (f : Word → Word → Word → Word) : Alu :=
  { dst := some (.scalar .push), scalars := [a, b, c], vectors := []
    run := fun _ l _ => match l with | [x, y, z] => .ok (.s (f x y z)) 0 | _ => .trap 1 }
/-- A scalar constant (14 R350). -/
def alu0 (d : Dest) (v : Word) : Alu :=
  { dst := some (.scalar d), scalars := [], vectors := [], run := fun _ _ _ => .ok (.s v) 0 }

end Sys2Proof.Machine
end

