-- ==== Sys2Proof/Machine/Vector.lean ====
section
/-! DEFINITION. Class 0xA0, vector arithmetic and lane movement (16 R388-R399). -/

namespace Sys2Proof.Machine

/-- FMT of VTYPE (16 R389). -/
def vtFmt (vt : Word) : Fmt := (Fmt.ofBits (vt.extractLsb' 0 4)).getD .fp32
/-- The elements of a vector, element 0 first (16 R388). -/
def elems (w : Nat) (x : Vec) : List Nat := (List.range (2048 / w)).map fun e => x.toNat / 2 ^ (w * e) % 2 ^ w
/-- A vector from elements, element 0 first; absent elements are zero. -/
def packElems (w : Nat) (l : List Nat) : Vec := BitVec.ofNat 2048 (l.foldr (fun v a => v % 2 ^ w + 2 ^ w * a) 0)
/-- The OR of the flags that elements raise. -/
def orFlags (l : List (Nat × Word)) : Word := l.foldl (fun a e => a ||| e.2) 0
/-- A vector result from elements and their flags. -/
def vout (w : Nat) (l : List (Nat × Word)) : AluRes := .ok (.v (packElems w (l.map (·.1)))) (orFlags l)

/-- A word of one vector source, element by element; ELEMTYPE on a FMT it does not take (16 R391). -/
def vec1 (ok : Fmt → Bool) (d : Dest) (a : Opnd) (g : Fmt → Nat → Nat × Word) : Alu :=
  { dst := some (.vector d), scalars := [], vectors := [a]
    run := fun vt _ l =>
      let f := vtFmt vt
      match l with
      | [x] => if ok f then vout (fmtWidth f) ((elems (fmtWidth f) x).map (g f)) else .trap 15
      | _ => .trap 1 }
/-- A word of two vector sources. -/
def vec2 (ok : Fmt → Bool) (d : Dest) (a b : Opnd) (g : Fmt → Nat → Nat → Nat × Word) : Alu :=
  { dst := some (.vector d), scalars := [], vectors := [a, b]
    run := fun vt _ l =>
      let f := vtFmt vt
      let w := fmtWidth f
      match l with
      | [x, y] => if ok f then vout w (List.zipWith (g f) (elems w x) (elems w y)) else .trap 15
      | _ => .trap 1 }
/-- A word of three vector sources, pushed. -/
def vec3 (ok : Fmt → Bool) (a b c : Opnd) (g : Fmt → Nat → Nat → Nat → Nat × Word) : Alu :=
  { dst := some (.vector .push), scalars := [], vectors := [a, b, c]
    run := fun vt _ l =>
      let f := vtFmt vt
      let w := fmtWidth f
      match l with
      | [x, y, z] =>
        if ok f then vout w (List.zipWith (fun p e => g f p.1 p.2 e) (List.zip (elems w x) (elems w y)) (elems w z))
        else .trap 15
      | _ => .trap 1 }
/-- A reduction of one vector source to a scalar. -/
def vecRed (ok : Fmt → Bool) (d : Dest) (a : Opnd) (g : Fmt → List Nat → Nat × Word) : Alu :=
  { dst := some (.scalar d), scalars := [], vectors := [a]
    run := fun vt _ l =>
      let f := vtFmt vt
      match l with
      | [x] =>
        if ok f then (let r := g f (elems (fmtWidth f) x); .ok (.s (BitVec.ofNat 64 r.1)) r.2) else .trap 15
      | _ => .trap 1 }

/-- FMT 0-2. -/
def fmtShort : Fmt → Bool
  | .fp32 | .bf16 | .fp16 => true
  | _ => false
/-- FMT 0-5. -/
def fmtFloat (f : Fmt) : Bool := fmtWide f || f == .e4m3 || f == .e5m2
/-- FMT 0-3 and 8-12. -/
def fmtNum (f : Fmt) : Bool := fmtWide f || fmtInt f
/-- Any FMT. -/
def fmtAny (_ : Fmt) : Bool := true

/-! ## Floating point (16 R393-R395) -/

/-- A float element operation, rounded once. -/
def onFloat (f : Fmt) (g : FF → XV × Word) : Nat × Word :=
  match ffOf f with
  | some ff => roundArith ff (g ff)
  | none => (0, 0)
/-- a − b, exact: a NaN keeps its own sign. -/
def xSub (a b : XV) : XV × Word := xAdd a (if b.isNan then b else b.flip)

/-- A float operation of one source. -/
def float1 (ok : Fmt → Bool) (d : Dest) (a : Opnd) (g : XV → XV × Word) : Alu :=
  vec1 ok d a fun f x => onFloat f fun ff => g (ff.decode x)
/-- A float operation of two sources. -/
def float2 (d : Dest) (a b : Opnd) (g : XV → XV → XV × Word) : Alu :=
  vec2 fmtWide d a b fun f x y => onFloat f fun ff => g (ff.decode x) (ff.decode y)

/-- a + b (16 R393). -/
def aluVadd (d : Dest) (a b : Opnd) : Alu := float2 d a b xAdd
/-- VADD (16 R393). -/
def execVadd (n : Nib) (d : Dest) (a b : Opnd) (s : State) : Host.Outcome State Fault Refusal :=
  issueAlu (.vadd n d a b) n (aluVadd d a b) s
/-- a − b (16 R393). -/
def aluVsub (d : Dest) (a b : Opnd) : Alu := float2 d a b xSub
/-- VSUB (16 R393). -/
def execVsub (n : Nib) (d : Dest) (a b : Opnd) (s : State) : Host.Outcome State Fault Refusal :=
  issueAlu (.vsub n d a b) n (aluVsub d a b) s
/-- a × b (16 R393). -/
def aluVmul (d : Dest) (a b : Opnd) : Alu := float2 d a b xMul
/-- VMUL (16 R393). -/
def execVmul (n : Nib) (d : Dest) (a b : Opnd) (s : State) : Host.Outcome State Fault Refusal :=
  issueAlu (.vmul n d a b) n (aluVmul d a b) s
/-- a / b (16 R393). -/
def aluVdiv (d : Dest) (a b : Opnd) : Alu := float2 d a b xDiv
/-- VDIV (16 R393). -/
def execVdiv (n : Nib) (d : Dest) (a b : Opnd) (s : State) : Host.Outcome State Fault Refusal :=
  issueAlu (.vdiv n d a b) n (aluVdiv d a b) s
/-- ±(a × b) ± c, rounded once (16 R393). -/
def aluVfma (m : FmaMod) (a b c : Opnd) : Alu :=
  vec3 fmtWide a b c fun f x y z => onFloat f fun ff =>
    let g (p q : Bool) : XV × Word := xFma p q (ff.decode x) (ff.decode y) (ff.decode z)
    match m with
    | .fma => g false false
    | .fms => g false true
    | .fnma => g true false
    | .fnms => g true true
/-- VFMA (16 R393). -/
def execVfma (n : Nib) (m : FmaMod) (a b c : Opnd) (s : State) : Host.Outcome State Fault Refusal :=
  issueAlu (.vfma n m a b c) n (aluVfma m a b c) s
/-- The lesser of a and b (16 R394). -/
def aluVmin (d : Dest) (a b : Opnd) : Alu := float2 d a b (xMin false)
/-- VMIN (16 R393). -/
def execVmin (n : Nib) (d : Dest) (a b : Opnd) (s : State) : Host.Outcome State Fault Refusal :=
  issueAlu (.vmin n d a b) n (aluVmin d a b) s
/-- The greater of a and b (16 R394). -/
def aluVmax (d : Dest) (a b : Opnd) : Alu := float2 d a b (xMin true)
/-- VMAX (16 R393). -/
def execVmax (n : Nib) (d : Dest) (a b : Opnd) (s : State) : Host.Outcome State Fault Refusal :=
  issueAlu (.vmax n d a b) n (aluVmax d a b) s
/-- √a (16 R393). -/
def aluVsqrt (d : Dest) (a : Opnd) : Alu := float1 fmtWide d a xSqrt
/-- VSQRT (16 R393). -/
def execVsqrt (n : Nib) (d : Dest) (a : Opnd) (s : State) : Host.Outcome State Fault Refusal :=
  issueAlu (.vsqrt n d a) n (aluVsqrt d a) s
/-- 1 / a (16 R393). -/
def aluVrcp (d : Dest) (a : Opnd) : Alu := float1 fmtWide d a (xDiv (.fin false 1 0))
/-- VRCP (16 R393). -/
def execVrcp (n : Nib) (d : Dest) (a : Opnd) (s : State) : Host.Outcome State Fault Refusal :=
  issueAlu (.vrcp n d a) n (aluVrcp d a) s
/-- 1 / √a (16 R393). -/
def aluVrsq (d : Dest) (a : Opnd) : Alu := float1 fmtWide d a xRsq
/-- VRSQ (16 R393). -/
def execVrsq (n : Nib) (d : Dest) (a : Opnd) (s : State) : Host.Outcome State Fault Refusal :=
  issueAlu (.vrsq n d a) n (aluVrsq d a) s
/-- 2^a (16 R393). -/
def aluVexp2 (d : Dest) (a : Opnd) : Alu := float1 fmtShort d a xExp2
/-- VEXP2 (16 R393). -/
def execVexp2 (n : Nib) (d : Dest) (a : Opnd) (s : State) : Host.Outcome State Fault Refusal :=
  issueAlu (.vexp2 n d a) n (aluVexp2 d a) s
/-- log2 a (16 R393). -/
def aluVlog2 (d : Dest) (a : Opnd) : Alu := float1 fmtShort d a xLog2
/-- VLOG2 (16 R393). -/
def execVlog2 (n : Nib) (d : Dest) (a : Opnd) (s : State) : Host.Outcome State Fault Refusal :=
  issueAlu (.vlog2 n d a) n (aluVlog2 d a) s

/-- |a|, −a, or a with the sign of b; no flag (16 R393, R394). -/
def aluVabs (m : AbsMod) (d : Dest) (a b : Opnd) : Alu :=
  let top (f : Fmt) : Nat := 2 ^ (fmtWidth f - 1)
  match m with
  | .abs => vec1 fmtFloat d a fun f x => (x % top f, 0)
  | .neg => vec1 fmtFloat d a fun f x => (if x < top f then x + top f else x - top f, 0)
  | .csgn => vec2 fmtFloat d a b fun f x y => (x % top f + y / top f * top f, 0)
/-- VABS (16 R393). -/
def execVabs (n : Nib) (m : AbsMod) (d : Dest) (a b : Opnd) (s : State) : Host.Outcome State Fault Refusal :=
  issueAlu (.vabs n m d a b) n (aluVabs m d a b) s

/-- A float comparison and its flags (16 R395). -/
def cmpFloat (m : VCond) (x y : XV) : Bool × Word :=
  let nan := x.isNan || y.isNan
  let sig := if x.signals || y.signals then fINV else 0
  match m with
  | .eq => (!nan && xEq x y, sig)
  | .ne => (nan || !xEq x y, sig)
  | .lt => (!nan && xLt x y, if nan then fINV else 0)
  | .le => (!nan && (xLt x y || xEq x y), if nan then fINV else 0)
/-- The number that an integer element is (09 R235). -/
def intOf (f : Fmt) (x : Nat) : Int := if f = .uint8 then x else toSigned (fmtWidth f) x
/-- An element comparison's mask (16 R395). -/
def cmpElem (m : VCond) (f : Fmt) (x y : Nat) : Nat × Word :=
  let (b, g) :=
    match ffOf f with
    | some ff => cmpFloat m (ff.decode x) (ff.decode y)
    | none =>
      (match m with
       | .eq => intOf f x == intOf f y
       | .ne => intOf f x != intOf f y
       | .lt => decide (intOf f x < intOf f y)
       | .le => decide (intOf f x ≤ intOf f y), 0)
  (if b then 2 ^ fmtWidth f - 1 else 0, g)
/-- A mask of all ones where the condition holds (16 R395). -/
def aluVcmp (m : VCond) (d : Dest) (a b : Opnd) : Alu := vec2 fmtNum d a b (cmpElem m)
/-- VCMP (16 R395). -/
def execVcmp (n : Nib) (m : VCond) (d : Dest) (a b : Opnd) (s : State) : Host.Outcome State Fault Refusal :=
  issueAlu (.vcmp n m d a b) n (aluVcmp m d a b) s
/-- b where a is nonzero, else c (16 R395). -/
def aluVsel (a b c : Opnd) : Alu := vec3 fmtAny a b c fun _ x y z => (if x = 0 then z else y, 0)
/-- VSEL (16 R395). -/
def execVsel (n : Nib) (a b c : Opnd) (s : State) : Host.Outcome State Fault Refusal :=
  issueAlu (.vsel n a b c) n (aluVsel a b c) s

/-! ## Integers (16 R396) -/

/-- An operation wrapped, or clamped to the signed or unsigned range (16 R396). -/
def satOp (m : SatMod) (w : Nat) (op : Int → Int → Int) (x y : Nat) : Nat :=
  match m with
  | .wrap => ofSigned w (op x y)
  | .ss => ofSigned w (max (-2 ^ (w - 1)) (min (2 ^ (w - 1) - 1) (op (toSigned w x) (toSigned w y))))
  | .us => (max 0 (min (2 ^ w - 1) (op x y))).toNat
/-- a + b (16 R396). -/
def aluViadd (m : SatMod) (d : Dest) (a b : Opnd) : Alu :=
  vec2 fmtInt d a b fun f x y => (satOp m (fmtWidth f) (· + ·) x y, 0)
/-- VIADD (16 R396). -/
def execViadd (n : Nib) (m : SatMod) (d : Dest) (a b : Opnd) (s : State) : Host.Outcome State Fault Refusal :=
  issueAlu (.viadd n m d a b) n (aluViadd m d a b) s
/-- a − b (16 R396). -/
def aluVisub (m : SatMod) (d : Dest) (a b : Opnd) : Alu :=
  vec2 fmtInt d a b fun f x y => (satOp m (fmtWidth f) (· - ·) x y, 0)
/-- VISUB (16 R396). -/
def execVisub (n : Nib) (m : SatMod) (d : Dest) (a b : Opnd) (s : State) : Host.Outcome State Fault Refusal :=
  issueAlu (.visub n m d a b) n (aluVisub m d a b) s
/-- a × b (16 R396). -/
def aluVimul (m : SatMod) (d : Dest) (a b : Opnd) : Alu :=
  vec2 fmtInt d a b fun f x y => (satOp m (fmtWidth f) (· * ·) x y, 0)
/-- VIMUL (16 R396). -/
def execVimul (n : Nib) (m : SatMod) (d : Dest) (a b : Opnd) (s : State) : Host.Outcome State Fault Refusal :=
  issueAlu (.vimul n m d a b) n (aluVimul m d a b) s

/-- Bitwise over all 2,048 bits (16 R396). -/
def aluVlogic (m : LogicOp) (d : Dest) (a b : Opnd) : Alu :=
  { dst := some (.vector d), scalars := [], vectors := [a, b]
    run := fun _ _ l =>
      match l, m with
      | [x, y], .and => .ok (.v (x &&& y)) 0
      | [x, y], .or => .ok (.v (x ||| y)) 0
      | [x, y], .xor => .ok (.v (x ^^^ y)) 0
      | [x, y], .andn => .ok (.v (x &&& ~~~y)) 0
      | _, _ => .trap 1 }
/-- VLOGIC (16 R396). -/
def execVlogic (n : Nib) (m : LogicOp) (d : Dest) (a b : Opnd) (s : State) : Host.Outcome State Fault Refusal :=
  issueAlu (.vlogic n m d a b) n (aluVlogic m d a b) s

/-- A shift of a w-bit element by a count below w (16 R396). -/
def shiftElem (m : ShiftOp) (w x k : Nat) : Nat :=
  match m with
  | .shl => x * 2 ^ k % 2 ^ w
  | .shr => x / 2 ^ k
  | .sra => ofSigned w (toSigned w x / 2 ^ k)
  | .rot => (x * 2 ^ k + x / 2 ^ (w - k)) % 2 ^ w
/-- a shifted by b mod w (16 R396). -/
def aluVshift (m : ShiftOp) (d : Dest) (a b : Opnd) : Alu :=
  vec2 fmtInt d a b fun f x y => (shiftElem m (fmtWidth f) x (y % fmtWidth f), 0)
/-- VSHIFT (16 R396). -/
def execVshift (n : Nib) (m : ShiftOp) (d : Dest) (a b : Opnd) (s : State) : Host.Outcome State Fault Refusal :=
  issueAlu (.vshift n m d a b) n (aluVshift m d a b) s

/-- Signed or unsigned minimum or maximum (16 R396). -/
def minMaxElem (m : MinMaxOp) (w x y : Nat) : Nat :=
  match m with
  | .mins => if toSigned w y < toSigned w x then y else x
  | .maxs => if toSigned w x < toSigned w y then y else x
  | .minu => min x y
  | .maxu => max x y
/-- Minimum or maximum of elements (16 R396). -/
def aluViminmax (m : MinMaxOp) (d : Dest) (a b : Opnd) : Alu :=
  vec2 fmtInt d a b fun f x y => (minMaxElem m (fmtWidth f) x y, 0)
/-- VIMINMAX (16 R396). -/
def execViminmax (n : Nib) (m : MinMaxOp) (d : Dest) (a b : Opnd) (s : State) : Host.Outcome State Fault Refusal :=
  issueAlu (.viminmax n m d a b) n (aluViminmax m d a b) s

/-! ## VTYPE and lanes (16 R390, R397) -/

/-- FMT := fmt (16 R390). -/
def aluVsett (fmt : BitVec 4) : Alu :=
  { dst := none, scalars := [], vectors := []
    run := fun vt _ _ => .ok (.vtype ((vt &&& ~~~0xF#64) ||| fmt.setWidth 64)) 0 }
/-- VSETT (16 R390). -/
def execVsett (n : Nib) (fmt : BitVec 4) (s : State) : Host.Outcome State Fault Refusal :=
  issueAlu (.vsett n fmt) n (aluVsett fmt) s

/-- Every element the low bits of a scalar (16 R397). -/
def aluVbcast (d : Dest) (a : Opnd) : Alu :=
  { dst := some (.vector d), scalars := [a], vectors := []
    run := fun vt l _ =>
      let w := fmtWidth (vtFmt vt)
      match l with
      | [x] => .ok (.v (packElems w (List.replicate (2048 / w) x.toNat))) 0
      | _ => .trap 1 }
/-- VBCAST (16 R397). -/
def execVbcast (n : Nib) (d : Dest) (a : Opnd) (s : State) : Host.Outcome State Fault Refusal :=
  issueAlu (.vbcast n d a) n (aluVbcast d a) s
/-- Element u(b) mod N of a, zero-extended (16 R397). -/
def aluVextr (d : Dest) (a b : Opnd) : Alu :=
  { dst := some (.scalar d), scalars := [b], vectors := [a]
    run := fun vt l v =>
      let w := fmtWidth (vtFmt vt)
      match l, v with
      | [i], [x] => .ok (.s (BitVec.ofNat 64 (x.toNat / 2 ^ (w * (i.toNat % (2048 / w))) % 2 ^ w))) 0
      | _, _ => .trap 1 }
/-- VEXTR (16 R397). -/
def execVextr (n : Nib) (d : Dest) (a b : Opnd) (s : State) : Host.Outcome State Fault Refusal :=
  issueAlu (.vextr n d a b) n (aluVextr d a b) s
/-- a with element u(b) mod N replaced by c's low bits (16 R397). -/
def aluVins (a b c : Opnd) : Alu :=
  { dst := some (.vector .push), scalars := [b, c], vectors := [a]
    run := fun vt l v =>
      let w := fmtWidth (vtFmt vt)
      match l, v with
      | [i, y], [x] => .ok (.v (packElems w ((elems w x).set (i.toNat % (2048 / w)) y.toNat))) 0
      | _, _ => .trap 1 }
/-- VINS (16 R397). -/
def execVins (n : Nib) (a b c : Opnd) (s : State) : Host.Outcome State Fault Refusal :=
  issueAlu (.vins n a b c) n (aluVins a b c) s
/-- Element e := a[b[e] mod N] (16 R397). -/
def aluVperm (d : Dest) (a b : Opnd) : Alu :=
  { dst := some (.vector d), scalars := [], vectors := [a, b]
    run := fun vt _ l =>
      let w := fmtWidth (vtFmt vt)
      match l with
      | [x, y] => .ok (.v (packElems w ((elems w y).map fun i => x.toNat / 2 ^ (w * (i % (2048 / w))) % 2 ^ w))) 0
      | _ => .trap 1 }
/-- VPERM (16 R397). -/
def execVperm (n : Nib) (d : Dest) (a b : Opnd) (s : State) : Host.Outcome State Fault Refusal :=
  issueAlu (.vperm n d a b) n (aluVperm d a b) s
/-- Element e := (start + e) mod 2^w (16 R397). -/
def aluViota (d : Dest) (imm : BitVec 14) : Alu :=
  { dst := some (.vector d), scalars := [], vectors := []
    run := fun vt _ _ =>
      let f := vtFmt vt
      let w := fmtWidth f
      if fmtInt f then
        .ok (.v (packElems w ((List.range (2048 / w)).map fun (e : Nat) => ofSigned w (imm.toInt + (e : Int))))) 0
      else .trap 15 }
/-- VIOTA (16 R397). -/
def execViota (n : Nib) (d : Dest) (imm : BitVec 14) (s : State) : Host.Outcome State Fault Refusal :=
  issueAlu (.viota n d imm) n (aluViota d imm) s

/-! ## Reductions (16 R398, R399, 09 R255) -/

/-- One level of the summation tree (09 R255). -/
def treeLevel (f : FF) : List Nat → List Nat × Word
  | x :: y :: t =>
    let (c, g) := roundArith f (xAdd (f.decode x) (f.decode y))
    let (l, h) := treeLevel f t
    (c :: l, g ||| h)
  | l => (l, 0)
/-- The tree of a number of levels (09 R255). -/
def treeSum (f : FF) : Nat → List Nat → Nat × Word
  | 0, l => (l.headD 0, 0)
  | k + 1, l =>
    let (l, g) := treeLevel f l
    let (v, h) := treeSum f k l
    (v, g ||| h)
/-- VREDS of elements (16 R398). -/
def redSum (f : Fmt) (l : List Nat) : Nat × Word :=
  if fmtWide f then
    let w : Fmt := if f = .fp64 then .fp64 else .fp32
    let (v, g) := treeSum (if f = .fp64 then ff64 else ff32) (Nat.log2 l.length) (l.map fun x => (convertSat f w 0 false x).1)
    (v, g ||| (if l.any fun x => (decodeElem f x).signals then fINV else 0))
  else (ofSigned 64 ((l.map (intOf f)).foldl (· + ·) 0), 0)
/-- The sum of the elements (16 R398). -/
def aluVreds (d : Dest) (a : Opnd) : Alu := vecRed fmtNum d a redSum
/-- VREDS (16 R398). -/
def execVreds (n : Nib) (d : Dest) (a : Opnd) (s : State) : Host.Outcome State Fault Refusal :=
  issueAlu (.vreds n d a) n (aluVreds d a) s

/-- The extreme of float values and its flags (09 R255). -/
def xExtreme (max_ : Bool) : List XV → XV × Word
  | [] => (.fin false 0 0, 0)
  | x :: t => t.foldl (fun a y => let r := xMin max_ a.1 y; (r.1, a.2 ||| r.2)) (x, if x.signals then fINV else 0)
/-- VREDM of elements (16 R399). -/
def redExtreme (m : RedmOp) (f : Fmt) (l : List Nat) : Nat × Word :=
  let mag := m == .amax || m == .amin
  let max_ := m == .max || m == .amax
  match ffOf f with
  | some ff =>
    let (x, g) := xExtreme max_ (l.map fun c => let x := ff.decode c; if mag then x.setNeg false else x)
    ((ff.arith (match x with | .nan s _ => .nan s false | y => y)).1, g)
  | none =>
    let v := l.map fun c => let i := intOf f c; if mag then (i.natAbs : Int) else i
    (ofSigned 64 (v.foldl (fun a i => if max_ then max a i else min a i) (v.headD 0)), 0)
/-- The extreme of the elements (16 R399). -/
def aluVredm (m : RedmOp) (d : Dest) (a : Opnd) : Alu := vecRed fmtNum d a (redExtreme m)
/-- VREDM (16 R399). -/
def execVredm (n : Nib) (m : RedmOp) (d : Dest) (a : Opnd) (s : State) : Host.Outcome State Fault Refusal :=
  issueAlu (.vredm n m d a) n (aluVredm m d a) s

end Sys2Proof.Machine
end

