-- ==== Sys2Proof/Machine/VecConv.lean ====
section
/-! DEFINITION. Class 0xC0 words on registers: conversion, quantisation, thinning, residuals, packing (16 R403-R411). -/

namespace Sys2Proof.Machine

/-- QFMT of VTYPE (16 R389). -/
def vtQfmt (vt : Word) : Option Fmt := Fmt.ofBits (vt.extractLsb' 4 4)
/-- QSCALE of VTYPE, signed. -/
def vtQscale (vt : Word) : Int := (vt.extractLsb' 8 8).toInt
/-- QFORCE of VTYPE where QFEN is set. -/
def vtQforce (vt : Word) : Option Nat := if vt.getLsbD 24 then some (vt.extractLsb' 16 8).toNat else none

/-- A conversion word: one vector source, pushed on the vector belt (16 R403). -/
def cvtAlu (a : Opnd) (g : Word → Vec → AluRes) : Alu :=
  { dst := some (.vector .push), scalars := [], vectors := [a]
    run := fun vt _ l => match l with | [x] => g vt x | _ => .trap 1 }

/-- Element-format conversion with its placement (16 R403): the elements taken and the place of the results. -/
def placed (dst src : Fmt) (hi : Bool) (x : Vec) (g : Nat → Nat × Word) : AluRes :=
  let ws := fmtWidth src
  let wd := fmtWidth dst
  let m := 2048 / max ws wd
  let j0 := if hi && decide (ws < wd) then m else 0
  let k0 := if hi && decide (wd < ws) then m else 0
  let r := (((elems ws x).drop j0).take m).map g
  vout wd (List.replicate k0 (0, 0) ++ r)

/-- VCVT's function (16 R404). -/
def vcvtFun (dst src : Fmt) (rtz hi : Bool) (x : Vec) : AluRes := placed dst src hi x (convertSat src dst 0 rtz)
/-- Each element converted and saturated (16 R404). -/
def aluVcvt (a : Opnd) (dst src : Fmt) (rtz hi : Bool) : Alu := cvtAlu a fun _ x => vcvtFun dst src rtz hi x
/-- VCVT (16 R404). -/
def execVcvt (n : Nib) (a : Opnd) (dst src : Fmt) (rtz hi : Bool) (s : State) : Host.Outcome State Fault Refusal :=
  issueAlu (.vcvt n a dst src rtz hi) n (aluVcvt a dst src rtz hi) s

/-- A list in blocks of 32. -/
def blocks32 {α : Type} : Nat → List α → List (List α)
  | 0, _ => []
  | k + 1, l => l.take 32 :: blocks32 k (l.drop 32)

/-- VQUANT to a block format: codes in the low half, scale bytes from byte 128 (16 R405). -/
def quantBlocks (dst src : Fmt) (s : Int) (forced : Option Nat) (x : Vec) : AluRes :=
  let l := (elems (fmtWidth src) x).map (decodeElem src)
  let bs := (blocks32 (l.length / 32) l).map fun b => quantiseBlock dst b s forced
  let codes := packElems 4 (bs.flatMap (·.codes))
  let scales := packElems 8 (bs.map (·.scale))
  .ok (.v (codes ||| scales <<< 1024)) (bs.foldl (fun a b => a ||| b.flags) 0)
/-- VQUANT's function (16 R405). -/
def vquantFun (dst src : Fmt) (rtz hi : Bool) (vt : Word) (x : Vec) : AluRes :=
  if fmtBlock dst then quantBlocks dst src (vtQscale vt) (if dst = .e2m1 then vtQforce vt else none) x
  else placed dst src hi x (convertSat src dst (vtQscale vt) rtz)
/-- Quantised elements (16 R405). -/
def aluVquant (a : Opnd) (dst src : Fmt) (rtz hi : Bool) : Alu := cvtAlu a (vquantFun dst src rtz hi)
/-- VQUANT (16 R405). -/
def execVquant (n : Nib) (a : Opnd) (dst src : Fmt) (rtz hi : Bool) (s : State) : Host.Outcome State Fault Refusal :=
  issueAlu (.vquant n a dst src rtz hi) n (aluVquant a dst src rtz hi) s

/-- The first m values of a vector in the layout that VQUANT writes, without the tensor scale (16 R405, R406). -/
def quantValues (src : Fmt) (m j0 : Nat) (x : Vec) : List XV :=
  if fmtBlock src then
    let codes := (elems 4 x).take m
    let scales := (elems 8 x).drop 128
    codes.zipIdx.map fun p => blockElem src (scales.getD (p.2 / 32) 0) p.1
  else (((elems (fmtWidth src) x).drop j0).take m).map (decodeElem src)
/-- VDEQ's function (16 R406). -/
def vdeqFun (dst src : Fmt) (hi : Bool) (vt : Word) (x : Vec) : AluRes :=
  let s := vtQscale vt
  if fmtBlock src then
    vout (fmtWidth dst) ((quantValues src (2048 / fmtWidth dst) 0 x).map fun v =>
      convertTo dst false (widening src dst) (v.scale (-s)))
  else placed dst src hi x (convertSat src dst (-s) false)
/-- Decoded elements (16 R406). -/
def aluVdeq (a : Opnd) (dst src : Fmt) (hi : Bool) : Alu := cvtAlu a (vdeqFun dst src hi)
/-- VDEQ (16 R406). -/
def execVdeq (n : Nib) (a : Opnd) (dst src : Fmt) (rtz hi : Bool) (s : State) : Host.Outcome State Fault Refusal :=
  issueAlu (.vdeq n a dst src rtz hi) n (aluVdeq a dst src hi) s

/-- The rank of an element by magnitude: a NaN above every number (16 R407). -/
def magKey (f : FF) (c : Nat) : Nat := if (f.decode c).isNan then 2 ^ 64 else c % 2 ^ f.signBit
/-- Which k elements of a block are kept: the largest, ties to the lower index (16 R407). -/
def topK (k : Nat) (keys : List Nat) : List Bool :=
  let l := keys.zipIdx
  l.map fun p => decide ((l.filter fun q => decide (p.1 < q.1) || (q.1 == p.1 && decide (q.2 < p.2))).length < k)
/-- The mask of the k largest of every block (16 R407). -/
def aluVtopk (f : Opnd) (k : BitVec 5) : Alu :=
  { dst := some (.vector .push), scalars := [], vectors := [f]
    run := fun vt _ l =>
      let fm := vtFmt vt
      let w := fmtWidth fm
      match l, ffOf fm, fmtWide fm with
      | [x], some ff, true =>
        let keys := (elems w x).map (magKey ff)
        let keep := (blocks32 (keys.length / 32) keys).flatMap (topK k.toNat)
        .ok (.v (packElems w (keep.map fun b => if b then 2 ^ w - 1 else 0))) 0
      | _, _, _ => .trap 15 }
/-- VTOPK (16 R407). -/
def execVtopk (n : Nib) (f : Opnd) (k : BitVec 5) (s : State) : Host.Outcome State Fault Refusal :=
  issueAlu (.vtopk n f k) n (aluVtopk f k) s

/-- The residual of kept elements (16 R408). -/
def aluVresid (a b c : Opnd) : Alu :=
  { dst := some (.vector .push), scalars := [], vectors := [a, b, c]
    run := fun vt _ l =>
      let fm := vtFmt vt
      let w := fmtWidth fm
      match l, ffOf fm, vtQfmt vt with
      | [x, y, z], some ff, some q =>
        if fmtWide fm && fmtQuant q then
          let d := (quantValues q (2048 / w) 0 y).map fun v => v.scale (-vtQscale vt)
          let one (p : (Nat × XV) × Nat) : Nat × Word :=
            if p.2 = 0 then (p.1.1, 0) else roundArith ff (xSub (ff.decode p.1.1) p.1.2)
          vout w ((List.zip (List.zip (elems w x) d) (elems w z)).map one)
        else .trap 15
      | _, _, _ => .trap 15 }
/-- VRESID (16 R408). -/
def execVresid (n : Nib) (a b c : Opnd) (s : State) : Host.Outcome State Fault Refusal :=
  issueAlu (.vresid n a b c) n (aluVresid a b c) s

/-- The greatest magnitude of each block of 32 (16 R409). -/
def aluVamax (d : Dest) (a : Opnd) : Alu :=
  { dst := some (.vector d), scalars := [], vectors := [a]
    run := fun vt _ l =>
      let fm := vtFmt vt
      let w := fmtWidth fm
      match l, fmtWide fm with
      | [x], true =>
        let e := elems w x
        vout w ((blocks32 (e.length / 32) e).map (redExtreme .amax fm))
      | _, _ => .trap 15 }
/-- VAMAX (16 R409). -/
def execVamax (n : Nib) (d : Dest) (a : Opnd) (s : State) : Host.Outcome State Fault Refusal :=
  issueAlu (.vamax n d a) n (aluVamax d a) s

/-- The narrow width of VPACK and VUNPK (16 R411). -/
def packWidth : PackT → Nat
  | .h => 16
  | .b => 8
  | .n => 4
/-- The low halves of two vectors' elements (16 R411). -/
def aluVpack (t : PackT) (d : Dest) (a b : Opnd) : Alu :=
  { dst := some (.vector d), scalars := [], vectors := [a, b]
    run := fun _ _ l =>
      let w := packWidth t
      match l with
      | [x, y] => .ok (.v (packElems w (elems (2 * w) x ++ elems (2 * w) y))) 0
      | _ => .trap 1 }
/-- VPACK (16 R411). -/
def execVpack (n : Nib) (t : PackT) (d : Dest) (a b : Opnd) (s : State) : Host.Outcome State Fault Refusal :=
  issueAlu (.vpack n t d a b) n (aluVpack t d a b) s
/-- The low half of a vector's narrow elements, widened (16 R411). -/
def aluVunpk (t : PackT) (d : Dest) (a : Opnd) : Alu :=
  { dst := some (.vector d), scalars := [], vectors := [a]
    run := fun vt _ l =>
      let w := packWidth t
      let f := vtFmt vt
      let wide (c : Nat) : Nat := if fmtInt f && f != .uint8 then ofSigned (2 * w) (toSigned w c) else c
      match l with
      | [x] => .ok (.v (packElems (2 * w) (((elems w x).take (1024 / w)).map wide))) 0
      | _ => .trap 1 }
/-- VUNPK (16 R411). -/
def execVunpk (n : Nib) (t : PackT) (d : Dest) (a : Opnd) (s : State) : Host.Outcome State Fault Refusal :=
  issueAlu (.vunpk n t d a) n (aluVunpk t d a) s

end Sys2Proof.Machine
end

