-- ==== Sys2Proof/Machine/TensorOut.lean ====
section
/-! DEFINITION. What every writer through a tensor record shares: encoding elements, the bytes and scales written, and
their translation (10 R260, R265, R268; 09 R236, R246, R247, R249). -/

namespace Sys2Proof.Machine

/-- Encoded elements: codes, block scale bytes, flags, saturations. -/
structure TOut where
  codes  : List Nat
  scales : List Nat
  flags  : Word
  sats   : Nat
  deriving DecidableEq, Repr

/-- Encode elements in a format with a tensor scale: block formats over blocks of 32, the others one by one, rounding
as `rtz` and saturating as `widen` say (09 R246, R247, R249). -/
def encodeElems (f : Fmt) (sc : Int) (rtz widen : Bool) (xs : List XV) : TOut :=
  if fmtBlock f then
    let bs := (blocks32 ((xs.length + 31) / 32) xs).map fun b => quantiseBlock f b sc none
    { codes := bs.flatMap (·.codes), scales := bs.map (·.scale), flags := bs.foldl (fun a b => a ||| b.flags) 0,
      sats := sumNat (bs.map (·.sats)) }
  else
    let l := xs.map fun x => convertTo f rtz widen (x.scale sc)
    { codes := l.map (·.1), scales := [], flags := orFlags l,
      sats := (l.filter fun e => e.2 &&& fSAT != 0).length }

/-- Codes as bytes, element 0 in the lowest bits (09 R236). -/
def packCodes (w : Nat) (l : List Nat) : Nat := l.foldr (fun c a => c % 2 ^ w + 2 ^ w * a) 0

/-- A run of bytes to write at a virtual address, with the version stamped on its lines if it is tagged. -/
structure TRun where
  va    : Word
  n     : Nat
  val   : Nat
  stamp : Option (BitVec 4)
  deriving DecidableEq, Repr

/-- The runs that write encoded elements from element offset o of a tensor: its data, and its block scales
(10 R260), every line of them stamped (04 R97, 10 R265). -/
def tensorRuns (f : Fmt) (base scales : Word) (v : Option (BitVec 4)) (o : Nat) (t : TOut) : List TRun :=
  let w := fmtWidth f
  { va := base + BitVec.ofNat 64 (o * w / 8), n := (t.codes.length * w + 7) / 8, val := packCodes w t.codes, stamp := v }
    :: (if t.scales.isEmpty then [] else
          [{ va := scales + BitVec.ofNat 64 (o / 32), n := t.scales.length, val := packCodes 8 t.scales, stamp := v }])

/-- One write a span, lowest address first. -/
def cutWrite (stamp : Option (BitVec 4)) : List Span → Nat → List TWrite
  | [], _ => []
  | sp :: t, v => { span := sp, val := v % 2 ^ (8 * sp.len), stamp } :: cutWrite stamp t (v / 2 ^ (8 * sp.len))

/-- What translating runs answers. -/
inductive TrRuns where
  | ok (ws : List TWrite)
  | fault (k : Kind) (va : Word)
  | stall
  deriving DecidableEq, Repr

/-- Translate every run for writing; a stamped one needs a page with TT (04 R97). The lowest faulting byte of all is the one reported
(R101). -/
def transRuns (ctx : TCtx) : State → List TRun → State × TrRuns
  | s, [] => (s, .ok [])
  | s, r :: t =>
    match translate s ctx r.va r.n { w := true, tt := r.stamp.isSome } with
    | (s, .fault k a) =>
      match transRuns ctx s t with
      | (s, .fault j b) => (s, if b.ult a then .fault j b else .fault k a)
      | (s, _) => (s, .fault k a)
    | (s, .stall) => (s, .stall)
    | (s, .ok sps) =>
      match transRuns ctx s t with
      | (s, .ok ws) => (s, .ok (cutWrite r.stamp sps r.val ++ ws))
      | x => x

end Sys2Proof.Machine
end

