-- ==== Sys2Proof/Machine/VecMem.lean ====
section
/-! DEFINITION. Class 0xC0: the scratchpad words of C (16 R400-R402). -/

namespace Sys2Proof.Machine

/-- A run of bytes inside one window of a slot and the allocation it reaches, or the lowest byte outside (16 R400): the
allocation that a window reaches is one run of units from the window's first byte (04 R92). -/
def windowRun (s : State) (slot : Nat) (va : Word) (n : Nat) : State × Except Word Span :=
  if !inWindow va then (s, .error va)
  else
    match trWindow s { slot, job := (getSlot s slot).job, sup := false } va n with
    | (s, .ok sp) =>
      let off := va.toNat % 2 ^ 32
      let need := if off < 2 ^ 21 then (getSlot s slot).need else
        match neighbour s slot ((off - 0x1000000) / 2 ^ 21) with
        | some (m, _) => (getSlot s m).need
        | none => 0
      let room := need * 65536 - va.toNat % 2 ^ 21
      if n ≤ room then (s, .ok sp) else (s, .error (va + BitVec.ofNat 64 room))
    | (s, _) => (s, .error va)

/-- Reach a run in a window for a word of C: it faults WINDOW outside, and waits for the sequencer's earlier
accesses. -/
def windowAccess (s : State) (t : Thread) (wr : Bool) (va : Word) (n : Nat) (k : State → Span → Res) : Res :=
  match windowRun s t.slot va n with
  | (s, .error a) => .trap s { cause := 4, kind := kWindow, wr, addr := a }
  | (s, .ok sp) =>
    if wr then outsideRegion s t [sp] (if pending s t then .wait s false else k s sp)
    else if pending s t then .wait s false else k s sp

/-- Write a vector destination of C with the codes it carries. -/
def putVec (s : State) (t : Thread) (d : Dest) (w : VWord) : State := updSlot s t.slot fun x => writeV x d w

/-- VLD's effect: granules move with their codes (16 R400). -/
def vldEff (d : Dest) (a : Opnd) (off : BitVec 8) (s : State) (t : Thread) : Res :=
  let va := effAddr (srcVal s t a) off 256
  aligned s va 16 <| windowAccess s t false va 256 fun s sp =>
    match readFor s t.slot false fun s => moveSpans (seqNum t.seq) t.slot (coreWho s t.slot) s [sp] with
    | .ok (s, v, y) => .done (putVec s t d { val := BitVec.ofNat 2048 v, syn := BitVec.ofNat 256 y })
    | .error b => .bad s b
/-- VLD (16 R400). -/
def execVld (n : Nib) (d : Dest) (a : Opnd) (off : BitVec 8) (s : State) : Host.Outcome State Fault Refusal :=
  issueWord (.vld n d a off) n (some (.vector d)) { scalars := [a] } (vldEff d a off) s

/-- Make a write of C. -/
def vecWrite (s : State) (t : Thread) (op : StoreOp) : Risk State :=
  slotWrite s t.slot t.seq (getSeq s t).pc s.nextUid op

/-- VST's effect: granules move with their codes (16 R400). -/
def vstEff (b a : Opnd) (off : BitVec 8) (s : State) (t : Thread) : Res :=
  let va := effAddr (srcVal s t a) off 256
  aligned s va 16 <| windowAccess s t true va 256 fun s sp =>
    match vecWrite s t (.vec [sp] (readV (getSlot s t.slot) b)) with
    | .ok s => .done s
    | .error e => .bad s e
/-- VST (16 R400). The base's word code is checked; the value's codes move. -/
def execVst (n : Nib) (b a : Opnd) (off : BitVec 8) (s : State) : Host.Outcome State Fault Refusal :=
  issueWord (.vst n b a off) n none { scalars := [a] } (vstEff b a off) s

/-- The size of an element in bytes (16 R401). -/
def esize : ESize → Nat
  | .b => 1
  | .h => 2
  | .w => 4
  | .d => 8

/-- Reach every element in ascending order; the first failing address faults (16 R401). -/
def elemSpans (slot n : Nat) : State → List Word → State × Except Word (List Span)
  | s, [] => (s, .ok [])
  | s, va :: t =>
    match windowRun s slot va n with
    | (s, .error a) => (s, .error a)
    | (s, .ok sp) =>
      match elemSpans slot n s t with
      | (s, .ok l) => (s, .ok (sp :: l))
      | r => r

/-- The element addresses of an indexed word. -/
def elemAddrs (n : Nat) (base : Word) (ix : Vec) : List Word :=
  (elems (8 * n) ix).map fun i => base + BitVec.ofNat 64 (i * n)

/-- Reach the elements of an indexed word of C (16 R401). -/
def indexAccess (s : State) (t : Thread) (wr : Bool) (n : Nat) (base : Word) (ix : Vec)
    (k : State → List Span → Res) : Res :=
  aligned s base n <|
    match elemSpans t.slot n s (elemAddrs n base ix) with
    | (s, .error a) => .trap s { cause := 4, kind := kWindow, wr, addr := a }
    | (s, .ok sps) =>
      if wr then outsideRegion s t sps (if pending s t then .wait s false else k s sps)
      else if pending s t then .wait s false else k s sps

/-- VLDX's effect (16 R401). -/
def vldxEff (z : ESize) (d : Dest) (a b : Opnd) (s : State) (t : Thread) : Res :=
  indexAccess s t false (esize z) (srcVal s t a) (readV (getSlot s t.slot) b).val fun s sps =>
    match readFor s t.slot false fun s => loadSpans (seqNum t.seq) t.slot (coreWho s t.slot) s sps with
    | .ok (s, v) => .done (putVec s t d (.fresh (BitVec.ofNat 2048 v)))
    | .error e => .bad s e
/-- VLDX (16 R401). -/
def execVldx (n : Nib) (z : ESize) (d : Dest) (a b : Opnd) (s : State) : Host.Outcome State Fault Refusal :=
  issueWord (.vldx n z d a b) n (some (.vector d)) { scalars := [a], vectors := [b] } (vldxEff z d a b) s

/-- The element writes of VSTX, in ascending order. -/
def writeElems (t : Thread) : State → List (Span × Nat) → Risk State
  | s, [] => .ok s
  | s, e :: r =>
    match vecWrite s t (.plain [e.1] e.2) with
    | .ok s => writeElems t s r
    | .error b => .error b

/-- VSTX's effect (16 R401): a bad granule leaves everything unwritten. -/
def vstxEff (z : ESize) (a b c : Opnd) (s : State) (t : Thread) : Res :=
  let x := getSlot s t.slot
  indexAccess s t true (esize z) (srcVal s t a) (readV x b).val fun s sps =>
    match writeElems t s (sps.zip (elems (8 * esize z) (readV x c).val)) with
    | .ok s => .done s
    | .error e => .bad s e
/-- VSTX (16 R401). -/
def execVstx (n : Nib) (z : ESize) (a b c : Opnd) (s : State) : Host.Outcome State Fault Refusal :=
  issueWord (.vstx n z a b c) n none { scalars := [a], vectors := [b, c] } (vstxEff z a b c) s

end Sys2Proof.Machine
end

