-- ==== Sys2Proof/Machine/Engine.lean ====
section
/-! DEFINITION. What every engine of a slot shares: its accesses, its queues, packets and their checks, acceptance,
pauses and completion (04 R105, 07 R184, 13 R317-R322, 17 R414). -/

namespace Sys2Proof.Machine

/-! ## Accesses -/

/-- What an engine's access answers: a value; a translation fault; a migrating page; a consumed error; a status with its
fault code that ends the command. -/
inductive EngR (α : Type) where
  | ok (s : State) (a : α)
  | fault (s : State) (k : Kind) (va : Word) (wr : Bool)
  | stall (s : State)
  | bad (s : State) (b : Bad)
  | stop (s : State) (status fcode : Nat)
  deriving DecidableEq, Repr

/-- Go on with a value. -/
def EngR.bind {α β : Type} (r : EngR α) (f : State → α → EngR β) : EngR β :=
  match r with
  | .ok s a => f s a
  | .fault s k va wr => .fault s k va wr
  | .stall s => .stall s
  | .bad s b => .bad s b
  | .stop s st fc => .stop s st fc

/-- Which engine accesses: the slot that owns the command, the consuming unit (11 R299), the command's number, the
sequencer that queued it, and a streamer's die. -/
structure Eng where
  slot : Nat
  src  : Nat
  uid  : Nat
  by_  : Seq
  die  : Option Nat := none
  deriving DecidableEq, Repr

/-- How an engine translates; a streamer through its die's TLB (04 R98). -/
def Eng.ctx (e : Eng) (s : State) : TCtx := { engineCtx s e.slot with unit := e.die }

/-- An engine's way to memory: through its cluster's view (08 R219). -/
def Eng.who (e : Eng) (s : State) : Who := engineWho s e.slot

/-- The answer of an operation that may consume an error. -/
def engRisk {α : Type} (s : State) : Risk (State × α) → EngR α
  | .ok (s, a) => .ok s a
  | .error b => .bad s b

/-- An access of an engine that has been translated: one to a region whose bias flips waits at the home (04 R108), and one to lines of another
device until the core's L1 holds them (02 R42). -/
def engReach {α : Type} (e : Eng) (l : List Span) (s : State) (k : EngR α) : EngR α :=
  if flipping s l then .stall s else
    match if isUnit e.slot then none else needFar s e.slot l with
    | some s => .stall s
    | none => k
/-- Translate an engine's access (04 R101, R105). -/
def engSpans (e : Eng) (wr tt : Bool) (va : Word) (n : Nat) (s : State) : EngR (List Span) :=
  match translate s (e.ctx s) va n { r := !wr, w := wr, tt } with
  | (s, .ok l) => engReach e l s (.ok s l)
  | (s, .fault k a) => .fault s k a wr
  | (s, .stall) => .stall s
/-- Reach a run inside one window (13 R325, 17 R416). -/
def engWindow (e : Eng) (wr : Bool) (va : Word) (n : Nat) (s : State) : EngR (List Span) :=
  match windowRun s e.slot va n with
  | (s, .ok sp) => .ok s [sp]
  | (s, .error a) => .fault s kWindow a wr

/-- Read spans as a consuming lane; a slot's engines see its buffered writes (11 R289). -/
def engRead (e : Eng) (sps : List Span) (s : State) : EngR Nat :=
  engRisk s (readFor s e.slot false fun s => loadSpans e.src e.slot (e.who s) s sps)
/-- Read bytes at an address. -/
def engReadAt (e : Eng) (va : Word) (n : Nat) (s : State) : EngR Nat :=
  (engSpans e false false va n s).bind fun s sps => engRead e sps s
/-- Make an engine's writes; those to a line that a draining region still holds wait (11 R294). -/
def engWrite (e : Eng) (ws : List EWrite) (s : State) : EngR Unit :=
  if heldByDrain (getSlot s e.slot) e.uid (.engine ws) then .stall s else
  match slotWrite s e.slot e.by_ 0 e.uid (.engine ws) with
  | .ok s => .ok s ()
  | .error b => .bad s b
/-- One write a span of a value that the engine generates. -/
def spanWrites (sps : List Span) (v : Nat) : List EWrite :=
  (cutWrite none sps v).map fun w => { span := w.span, val := w.val, syns := none, stamp := w.stamp, md := none }
/-- Translate every run, then make the writes. -/
def engWriteRuns (e : Eng) (runs : List TRun) (s : State) : EngR Unit :=
  match transRuns (e.ctx s) s runs with
  | (s, .fault k a) => .fault s k a true
  | (s, .stall) => .stall s
  | (s, .ok ws) => engReach e (ws.map (·.span)) s
      (engWrite e (ws.map fun w => { span := w.span, val := w.val, syns := none, stamp := w.stamp, md := none }) s)

/-! ## Queues (07 R184) -/

/-- The commands of an engine of a slot: 0-3 copy contexts, 4 gather unit, 5 matrix engine (04 R105). -/
def engQueue (x : Slot) (eng : Nat) : List Cmd :=
  if eng < 4 then vget x.ctxs (BitVec.ofNat 2 eng) else if eng = 4 then x.gq else x.mq
/-- Write the commands of an engine. -/
def setQueue (x : Slot) (eng : Nat) (l : List Cmd) : Slot :=
  if eng < 4 then { x with ctxs := vset x.ctxs (BitVec.ofNat 2 eng) l }
  else if eng = 4 then { x with gq := l } else { x with mq := l }
/-- The most commands a queue holds. -/
def engDepth (eng : Nat) : Nat := if eng < 4 then 16 else 8
/-- Change a command. -/
def updCmd (s : State) (slot eng uid : Nat) (f : Cmd → Cmd) : State :=
  updSlot s slot fun x => setQueue x eng ((engQueue x eng).map fun c => if c.uid = uid then f c else c)
/-- Drop a command. -/
def dropCmd (s : State) (slot eng uid : Nat) : State :=
  updSlot s slot fun x => setQueue x eng ((engQueue x eng).filter fun c => c.uid != uid)

/-- The packet of a command, 0 for a bank word. -/
def Cmd.pkt (c : Cmd) : Nat :=
  match c.body with
  | .packet p _ _ _ => p.toNat
  | _ => 0
/-- What the command resolved. -/
def Cmd.res (c : Cmd) : Option Resolved :=
  match c.body with
  | .packet _ _ r _ => some r
  | _ => none
/-- The command is a GMMA part. -/
def Cmd.part (c : Cmd) : Option GPart :=
  match c.body with
  | .packet _ _ _ p => p
  | _ => none

/-- Where a command executes: its slot's engine, or the sibling that pulled it (06 R165), as core * 8 + engine. -/
def Cmd.place (c : Cmd) (slot eng : Nat) : Nat := c.pulled.getD (coreOf slot * 8 + eng)

/-- A command of the package stands paused at an engine: then nothing else runs there (04 R105, 06 R166). -/
def placePaused (s : State) (place : Nat) : Bool :=
  s.slots.any fun e => (List.range 6).any fun eng =>
    (engQueue e.2 eng).any fun c => c.paused.isSome && c.place e.1 eng == place

/-- The first command, or for commands that came by shared queues the first for each channel that a TARGET names. -/
def queueHeads (seen : List (Option Nat)) : List Cmd → List Cmd
  | [] => []
  | c :: l =>
    let key := if c.queue.isSome then c.pulled else none
    if seen.contains key then queueHeads seen l else c :: queueHeads (key :: seen) l

/-- The command whose completion record is to be written next: one that was rejected, or one that ended at the head of
its queue. -/
def finishing (x : Slot) (eng : Nat) : Option Cmd :=
  let q := engQueue x eng
  match q.find? fun c => c.status == some 2 && c.paused.isNone && c.queue.isNone with
  | some c => some c
  | none => (queueHeads [] q).find? fun c => c.status.isSome && c.paused.isNone

/-- A command that a sibling pulled (06 R165). -/
def Cmd.relocated (c : Cmd) (slot : Nat) : Bool := c.pulled.isSome && !isUnit slot
/-- An engine has a pulled command that has not ended: its own later ones wait behind it (06 R166). -/
def placeTaken (s : State) (place : Nat) : Bool :=
  s.slots.any fun e => (List.range 6).any fun eng =>
    (engQueue e.2 eng).any fun c => c.relocated e.1 && c.pulled == some place && c.status.isNone

/-- The commands that may run now: the first without a status, once its copy has performed (17 R421), and those a
sibling pulled. -/
def runnable (s : State) (slot eng : Nat) : List Cmd :=
  let q := engQueue (getSlot s slot) eng
  let go (c : Cmd) : Bool := c.status.isNone && c.paused.isNone && c.after.isNone && !placePaused s (c.place slot eng)
      && !(getDie s (dieOfCore (c.place slot eng / 8))).fenced
  let own := (queueHeads [] (q.filter fun c => c.status.isNone && !c.relocated slot)).filter fun c =>
    !placeTaken s (c.place slot eng) && go c
  own ++ q.filter fun c => c.relocated slot && go c

/-- The slots, with their engines, that have a command to run at a place. -/
def engSources (s : State) (place : Nat) : List (Nat × Nat) :=
  s.slots.flatMap fun e => (List.range 6).filterMap fun eng =>
    if (runnable s e.1 eng).any fun c => c.place e.1 eng == place then some (e.1, eng) else none
/-- It is the turn of a slot at an engine: slots that have work there alternate, by the matrix command and by 256 bytes of a copy (07 R184,
R186). -/
def engTurn (s : State) (place slot : Nat) : Bool :=
  kvGet 0 s.served place != slot + 1 || (engSources s place).all fun e => e.1 == slot
/-- An engine serves a slot. -/
def serve (s : State) (place slot : Nat) : State := { s with served := kvSet 0 s.served place (slot + 1) }

/-- The event of an engine's completion. -/
def completeEvent (slot eng : Nat) : Instr :=
  if eng < 4 then .copyPacketComplete slot eng else if eng = 4 then .gatherComplete slot else .matrixCommandComplete slot

/-- Have an engine look at its queue. -/
def kick (s : State) (slot eng : Nat) : State :=
  let s := if (finishing (getSlot s slot) eng).isSome then enqueue s (.event (completeEvent slot eng)) else s
  (runnable s slot eng).foldl (fun s c =>
    if eng = 5 then enqueue s (.event (.matrixCommandComplete slot)) else enqueue s (.work slot eng c.uid)) s
/-- Have every engine of a slot look. -/
def kickSlot (s : State) (slot : Nat) : State := (List.range 6).foldl (fun s eng => kick s slot eng) s
/-- Have an engine of a core look, for both slots and for what it pulled. -/
def kickPlace (s : State) (place : Nat) : State :=
  let k := place / 8 * 2
  s.slots.foldl (fun s' e =>
    (List.range 6).foldl (fun s' eng =>
      if ((e.1 == k || e.1 == k + 1) && eng == place % 8) || (engQueue e.2 eng).any (fun c => c.pulled == some place)
      then kick s' e.1 eng else s') s') s

/-- The command of a number in a queue. -/
def findCmd (s : State) (slot eng uid : Nat) : Option Cmd := (engQueue (getSlot s slot) eng).find? fun c => c.uid == uid
/-- A command's end: its status and fault code; its completion comes about next, its engine goes on, and a stop of its slot that waited for
a pulled command is tried again (06 R166). -/
def endCmd (s : State) (slot eng uid status fcode : Nat) : State :=
  let c := findCmd s slot eng uid
  let s := kick (updCmd s slot eng uid fun c => { c with status := some status, fcode }) slot eng
  match c with
  | some c => let s := kickPlace s (c.place slot eng); if c.relocated slot then unhold s else s
  | none => s

/-! ## MSTAT (09 R251) -/

/-- BANK of a matrix packet. -/
def mxBank (p : Nat) : Bool := rf p 45 1 / 32 % 2 == 1
/-- OR events into a bank's MSTAT and add saturations to SATCNT (09 R251). -/
def addMstat (x : Slot) (b : Bool) (flags : Word) (sats : Nat) : Slot :=
  let f (v : Word) : Word :=
    let n := min 0xFFFF ((v.extractLsb' 16 16).toNat + sats)
    ((v ||| flags) &&& ~~~0xFFFF0000#64) ||| BitVec.ofNat 64 (n * 65536)
  if b then { x with mstat1 := f x.mstat1 } else { x with mstat0 := f x.mstat0 }
/-- A closed matrix command completes: its events reach the MSTAT that its packet names (06 R164). -/
def settleEvents (x : Slot) (c : Cmd) : Slot := addMstat x (mxBank c.pkt) c.events c.satn

/-! ## Packets (13 R317-R322) -/

/-- KIND. -/
def pkKind (p : Nat) : Nat := rf p 0 1
/-- RELOC. -/
def pkReloc (p : Nat) : Bool := rf p 1 1 % 2 == 1
/-- RTZ. -/
def pkRtz (p : Nat) : Bool := rf p 1 1 / 2 % 2 == 1
/-- SKIP. -/
def pkSkip (p : Nat) : Bool := rf p 1 1 / 4 % 2 == 1
/-- TAG. -/
def pkTag (p : Nat) : Nat := rf p 4 4
/-- CREC. -/
def pkCrec (p : Nat) : Word := BitVec.ofNat 64 (rf p 8 8)

/-- FCODE of KIND. -/
def fcKind : Nat := 16
/-- FCODE of RESERVED. -/
def fcReserved : Nat := 17
/-- FCODE of RANGE. -/
def fcRange : Nat := 18
/-- FCODE of ALIGN. -/
def fcAlign : Nat := 19
/-- FCODE of RELOC. -/
def fcReloc : Nat := 20
/-- FCODE of GANG. -/
def fcGang : Nat := 21
/-- FCODE of TABLE. -/
def fcTable : Nat := 22

/-- Reserved bits of the common header are set: SKIP on another kind, XARG on a kind other than GMMA (13 R320). -/
def hdrReserved (p : Nat) : Bool :=
  decide (7 < rf p 1 1) || (pkSkip p && pkKind p != 3) || rf p 2 1 / 16 != 0
    || (if pkKind p = 6 then rf p 3 1 / 16 % 8 != 0 else rf p 3 1 != 0)

/-- The first failing check of a list. -/
def firstCheck : List (Bool × Nat) → Option Nat
  | [] => none
  | (b, c) :: t => if b then some c else firstCheck t

/-- What checking a packet answers: its resolution, the fault code of a check, a wait, a trap of the issuing word, an error it consumed. -/
inductive Chk where
  | ok (s : State) (r : Resolved)
  | reject (s : State) (fcode : Nat)
  | wait (s : State)
  | trap (s : State) (t : Trap)
  | bad (s : State) (b : Bad)
  deriving DecidableEq, Repr

/-- Nothing named. -/
def Resolved.plain (df sf : Fmt) : Resolved := { rver := 0, drec := none, dfmt := df, dscale := 0, srec := none, sfmt := sf }

/-- Reach and read a named record at issue, a precise fault (17 R415). -/
def namedRecord (s : State) (t : Thread) (va : Word) (k : State → NamedRec → Chk) : Chk :=
  match translate s (slotCtx s t.slot t.seq) va 256 { r := true } with
  | (s, .ok [sp]) =>
    match readRecord s (seqNum t.seq) t.slot sp with
    | .ok (s, val) => k s { va, span := sp, val }
    | .error b => .bad s b
  | (s, .ok _) => .reject s fcAlign
  | (s, .fault kd a) => .trap s { cause := 4, kind := kd, addr := a }
  | (s, .stall) => .wait s
/-- The word's own check of a shape, before acceptance (17 R415): a destination element past the tensor's flat extent traps OOB where OOBOK is
0. `past` gives the element after the last from the record; a shape of no rank is left to the checks of R262. -/
def shapeCheck (s : State) (t : Thread) (va : Word) (past : Nat → Nat) (k : State → NamedRec → Chk) : Chk :=
  namedRecord s t va fun s n =>
    if 1 ≤ recRank n.val ∧ recRank n.val ≤ 4 ∧ recExtent n.val < past n.val ∧ !recOobok n.val then .trap s { cause := 14, addr := va }
    else k s n

/-- The trap of a resolving word whose override skews (10 R276). -/
def skewTrap (va : Word) : Trap := { cause := 13, addr := va }

/-- Resolve a destination record: under code 14 through FMTOVR (10 R268, R276), else its current version with the
packet's own format and scale 0. -/
def resolveDst (s : State) (t : Thread) (n : NamedRec) (f : Fmt) (k : State → NamedRec → BitVec 4 → Fmt → Int → Chk) : Chk :=
  match resolveRecord s (slotJob s t.slot) (if f = .tensor then (getSlot s t.slot).fmtovr else 0) n.va n.span n.val with
  | .bad => .reject s 8
  | .held => .wait s
  | .skew => .trap s (skewTrap n.va)
  | .ok s r v =>
    let (g, sc) := if f = .tensor then (fmtOf v.2.1, v.2.2) else (f, 0)
    k s { n with val := r } (BitVec.ofNat 4 v.1) g sc

/-- Resolve a source record: readers do not use FMTOVR (10 R276). -/
def resolveSrc (s : State) (t : Thread) (va : Word) (f : Fmt) (k : State → NamedRec → Fmt → Chk) : Chk :=
  namedRecord s t va fun s n =>
    match resolveRecord s (slotJob s t.slot) 0 va n.span n.val with
    | .ok s r v => k s { n with val := r } (if f = .tensor then fmtOf v.2.1 else f)
    | .held => .wait s
    | _ => .reject s 8

/-! ## Acceptance (13 R317, 17 R414) -/

/-- Read a packet at its issuing word: aligned, through a window from C and translated from the others, and once the
sequencer's earlier stores have performed (13 R317, 17 R414). `room` is tested before the packet is read. -/
def readPacket (size align : Nat) (room : State → Bool) (f : Opnd) (s : State) (t : Thread)
    (k : State → Word → Nat → Res) : Res :=
  let va := srcVal s t f
  let rd (s : State) (sps : List Span) : Res :=
    if !room s || pending s t then .wait s false else
      match readFor s t.slot (isSup s t) fun s => loadSpans (seqNum t.seq) t.slot (coreWho s t.slot) s sps with
      | .ok (s, v) => k s va v
      | .error b => .bad s b
  aligned s va align <|
    if t.seq = .C then
      match windowRun s t.slot va size with
      | (s, .ok sp) => rd s [sp]
      | (s, .error a) => .trap s { cause := 4, kind := kWindow, addr := a }
    else access s t va size { r := true } rd

/-- A new command of a slot, at the end of its queue. -/
def addCmd (s : State) (slot eng : Nat) (by_ : Seq) (body : CmdBody) (after : Option Nat) (reject : Option Nat) :
    State × Nat :=
  let (uid, s) := takeUid s
  let c : Cmd := { uid, body, progress := 0, sats := 0, started := false, paused := none,
                   status := reject.map fun _ => 2, fcode := reject.getD 0, inRegion := (getSlot s slot).regionOpen,
                   after := if reject.isSome then none else after, by_, pulled := none, marked := false }
  let s := updSlot s slot fun x => setQueue x eng (engQueue x eng ++ [c])
  (kick s slot eng, uid)

/-- A packet command with nothing resolved, for a packet that is rejected. -/
def packetBody (p : Nat) : CmdBody := .packet (BitVec.ofNat 512 p) 0 (.plain .fp32 .fp32) none

/-! ## Pauses (04 R105) -/

/-- SOURCE of a command's engine: its owner's core, or the core that a queue's TARGET names (06 R166). -/
def Cmd.source (c : Cmd) (slot : Nat) : BitVec 32 :=
  BitVec.ofNat 32 (if isUnit slot then c.pulled.getD 0 / 8 else coreOf slot)
/-- Post the ENGINE_FAULT event of a paused command. -/
def postEngineFault (s : State) (job : Nat) (source : BitVec 32) (eng tag : Nat) (k : Kind) (va : Word) (wr : Bool) :
    State :=
  postSup s { type := 0x02, reply := true, job, source, addr := va, time := now s,
              detail := BitVec.ofNat 64 (k.toNat + (if wr then 8 else 0) + eng * 2 ^ 8 + job * 2 ^ 16 + tag * 2 ^ 32) }

/-! ## Completion (13 R321, 10 R274, 17 R421) -/

/-- Bytes 0-23 of a completion record. -/
def recordBytes (status fcode kind rver tag bytes sats : Nat) : Nat :=
  status + fcode * 2 ^ 8 + kind * 2 ^ 16 + rver * 2 ^ 24 + tag * 2 ^ 32 + bytes % 2 ^ 64 * 2 ^ 64
    + min sats 0xFFFFFFFF * 2 ^ 128
/-- Write a completion record, then the release on its DONE word with the range it carries; nothing where CREC is 0 or
no record's address. -/
def engRecord (e : Eng) (crec : Word) (bytes tag : Nat) (range : RelRange) (s : State) : EngR Unit :=
  if crec = 0 ∨ crec.toNat % 32 ≠ 0 then .ok s () else
    (engWriteRuns e [{ va := crec, n := 24, val := bytes, stamp := none }] s).bind fun s _ =>
      (engSpans e true false (crec + 24) 8 s).bind fun s sps =>
        match sps with
        | [sp] =>
          match slotWrite s e.slot e.by_ 0 e.uid (.rdone sp (BitVec.ofNat 64 (2 ^ 63 + tag)) range) with
          | .ok s => .ok s ()
          | .error b => .bad s b
        | _ => .ok s ()

/-- The path of an engine (08 R218). -/
def engPath (eng : Nat) : Path := if eng < 4 then .copy else if eng = 4 then .gather else .matrix
/-- The consuming unit of an engine (11 R299). -/
def engSrc (eng : Nat) : Nat := if eng = 5 then 4 else 5
/-- A command as an accessor. -/
def Cmd.eng (c : Cmd) (slot eng : Nat) : Eng := { slot, src := engSrc eng, uid := c.uid, by_ := c.by_ }

/-- Let a COPYM follow-on start after its copy, or end it ABORTED (17 R421). -/
def freeFollowers (s : State) (slot uid : Nat) (ok : Bool) : State :=
  (List.range 6).foldl (fun s eng =>
    if (engQueue (getSlot s slot) eng).any fun c => c.after == some uid then
      kick (updSlot s slot fun x => setQueue x eng ((engQueue x eng).map fun c =>
        if c.after = some uid then
          (if ok then { c with after := none } else { c with after := none, status := some 4, fcode := 0 })
        else c)) slot eng
    else s) s

/-- A command leaves its queue once its record stands: its mark is left for an observing word (10 R274), a pulled copy's
bytes pass its pointer (06 R166), and what waited for it goes on. -/
def retireCmd (s : State) (slot eng : Nat) (c : Cmd) (dstBytes : Nat) : State :=
  let x := if eng = 5 then settleEvents (getSlot s slot) c else getSlot s slot
  let x :=
    if eng < 4 ∧ c.relocated slot then
      { x with chwp := vset x.chwp (BitVec.ofNat 2 eng)
                 (vget x.chwp (BitVec.ofNat 2 eng) + BitVec.ofNat 32 c.progress) }
    else x
  let mark : List OvfMark :=
    match c.marked, c.res with
    | true, some r =>
      [{ path := engPath eng, done := if pkCrec c.pkt = 0 then 0 else pkCrec c.pkt + 24,
         bank := if eng = 5 then some (rf c.pkt 45 1 / 32 % 2 == 1) else none,
         ctx := if eng < 4 then some (BitVec.ofNat 2 eng) else none,
         low := if eng < 4 then vget x.chwp (BitVec.ofNat 2 eng) - BitVec.ofNat 32 dstBytes else 0,
         obs := c.by_, record := match r.drec with | some d => d.va | none => 0 }]
    | _, _ => []
  let s := dropCmd (setSlot s slot { x with marks := x.marks ++ mark }) slot eng c.uid
  let s := freeFollowers s slot c.uid (c.status == some 0)
  checkEnd (kickPlace (kick s slot eng) (c.place slot eng)) slot

/-- FCODE of a command that ended: TENSOR_OVERFLOW beside STATUS OK where it is marked (13 R322). -/
def Cmd.finalCode (c : Cmd) : Nat := if c.status = some 0 ∧ c.marked then 10 else c.fcode

end Sys2Proof.Machine
end

