-- ==== Sys2Proof/Machine/Copy.lean ====
section
/-! DEFINITION. Copy channels: packets of KIND 1-4, their checks and their portions (13 R323, R324, 17 R420, R422, 07 R186,
11 R280). -/

namespace Sys2Proof.Machine

/-- SRC. -/
def cpSrc (p : Nat) : Word := BitVec.ofNat 64 (rf p 16 8)
/-- DST. -/
def cpDst (p : Nat) : Word := BitVec.ofNat 64 (rf p 24 8)
/-- LEN. -/
def cpLen (p : Nat) : Nat := rf p 32 6
/-- The source format code. -/
def cpSfmt (p : Nat) : Nat := rf p 38 1 % 16
/-- The destination format code. -/
def cpDfmt (p : Nat) : Nat := rf p 38 1 / 16
/-- TREC. -/
def cpTrec (p : Nat) : Word := BitVec.ofNat 64 (rf p 40 8)
/-- SREC. -/
def cpSrec (p : Nat) : Word := BitVec.ofNat 64 (rf p 48 8)

/-- A format code is a float or integer format of its own: no block format, no code 14 (09 R231). -/
def fmtElem (c : Nat) : Bool := decide (c < 14) && c != 6 && c != 7
/-- A format of kind 2 is permitted: blocks are reached through code 14 only, and code 14 needs its record. -/
def cvtFmt (c : Nat) (rec : Word) : Bool := fmtElem c || (c == 14 && rec != 0)
/-- Destination bytes of an FP-reduce packet. -/
def redBytes (p : Nat) : Nat := cpLen p * fmtWidth (fmtOf (cpDfmt p)) / 8

/-- Checks 1 to 4 of 13 R318 for a copy packet; every one is closed, so RELOC passes. -/
def checkCopy (p : Nat) : Option Nat :=
  let k := pkKind p
  let cvt := k == 2 || k == 3
  let lenOk := if k = 3 ∧ pkSkip p then cpLen p == 0 else decide (1 ≤ cpLen p) && decide (cpLen p ≤ 2 ^ 40)
  let fmtsOk := if k = 2 then cvtFmt (cpSfmt p) (cpSrec p) && cvtFmt (cpDfmt p) (cpTrec p)
    else if k = 3 then decide (cpSfmt p ≤ 5) && decide (cpDfmt p ≤ 5)
      && (cpLen p == 0 || (cpDst p).toNat / 65536 == ((cpDst p).toNat + redBytes p - 1) / 65536)
    else true
  let unaligned (w : Word) (n : Nat) : Bool := w.toNat % n != 0
  firstCheck [
    (!(decide (1 ≤ k) && decide (k ≤ 4)), fcKind),
    (hdrReserved p || (if cvt then rf p 39 1 != 0 || cpSfmt p == 15 || cpDfmt p == 15 else rf p 38 18 != 0)
      || (k == 3 && rf p 50 6 != 0), fcReserved),
    (!lenOk || !fmtsOk, fcRange),
    (unaligned (pkCrec p) 32 || (k == 1 && unaligned (cpSrc p) 16)
      || (!cvt && (unaligned (cpDst p) 16 || cpLen p % 16 != 0))
      || (k == 2 && (unaligned (cpTrec p) 256 || unaligned (cpSrec p) 256 || (cpTrec p != 0 && unaligned (cpDst p) 64)))
      || (k == 3 && unaligned (cpTrec p) 64), fcAlign)]

/-- The element offset of an address in a tensor (10 R260). -/
def elemOff (va : Word) (rec : Nat) (f : Fmt) : Nat := (va - recBase rec).toNat * 8 / fmtWidth f

/-- Block operands lie on block bounds (13 R324). -/
def blockAligned (va : Word) (len : Nat) (rec : Option NamedRec) (f : Fmt) : Bool :=
  match rec with
  | some r => !fmtBlock f || (len % 32 == 0 && (va - recBase r.val).toNat % 16 == 0)
  | none => true

/-- The valid entries of an admission table, none where the table breaks 08 R225. -/
def tableEntries (v : Nat) : Option (List Nat) :=
  let l := (List.range 64).map fun i => rf v (8 * i) 8
  let good := l.takeWhile fun e => rf e 6 1 % 2 == 1
  if good.isEmpty || !(good.all fun e => decide (rf e 6 1 < 2) && rf e 7 1 == 0) then none else some good

/-- The element after the last of a copy-convert's destination range, in a record's elements (17 R415). -/
def copyPast (p rec : Nat) : Nat :=
  elemOff (cpDst p) rec (if cpDfmt p = 14 then fmtOf (recFmt rec (recVer rec)) else fmtOf (cpDfmt p)) + cpLen p
/-- The word's own check of a copy packet's destination record, where it names one (17 R415). -/
def copyShape (s : State) (t : Thread) (p : Nat) (k : State → Option NamedRec → Chk) : Chk :=
  if pkKind p = 2 ∧ cpTrec p ≠ 0 ∧ (cpTrec p).toNat % 256 = 0 ∧ cpDfmt p ≠ 15 then
    shapeCheck s t (cpTrec p) (copyPast p) fun s n => k s (some n)
  else k s none
/-- The acceptance of a copy packet (13 R318, 17 R414, R415). -/
def acceptCopy (s : State) (t : Thread) (p : Nat) : Chk :=
  copyShape s t p fun s named =>
    match checkCopy p with
    | some c => .reject s c
    | none =>
      if pkKind p = 2 then
        let fin (s : State) (r : Resolved) : Chk :=
          if !blockAligned (cpSrc p) (cpLen p) r.srec r.sfmt || !blockAligned (cpDst p) (cpLen p) r.drec r.dfmt then .reject s fcAlign
          else .ok s r
        let withSrc (s : State) (r : Resolved) : Chk :=
          if cpSrec p = 0 then fin s r
          else resolveSrc s t (cpSrec p) (fmtOf (cpSfmt p)) fun s n f => fin s { r with srec := some n, sfmt := f }
        match named with
        | none => withSrc s (.plain (fmtOf (cpDfmt p)) (fmtOf (cpSfmt p)))
        | some n => resolveDst s t n (fmtOf (cpDfmt p)) fun s n v f sc =>
          withSrc s { rver := v, drec := some n, dfmt := f, dscale := sc, srec := none, sfmt := fmtOf (cpSfmt p) }
      else if pkKind p = 3 then
        let r := Resolved.plain (fmtOf (cpDfmt p)) (fmtOf (cpSfmt p))
        match translate s (engineCtx s t.slot) (cpTrec p) 512 { r := true } with
        | (s, .ok sps) =>
          (match loadSpans (seqNum t.seq) t.slot .home s sps with
           | .error b => .bad s b
           | .ok (s, v) => if (tableEntries v).isNone then .reject s fcTable else .ok s r)
        | (s, _) => .ok s r
      else .ok s (.plain .fp32 .fp32)

/-! ## Portions -/

/-- What a portion of work did: progress, saturations, the command's mark, and its status and fault code if it ended. -/
structure Adv where
  done   : Nat
  sats   : Nat := 0
  marked : Bool := false
  status : Option (Nat × Nat) := none
  deriving DecidableEq, Repr

/-- A whole line as a moving unit reads it: value, carried codes, metadata (11 R280, 17 R422). -/
def wholeLine (e : Eng) (sp : Span) (s : State) : Risk (State × Nat × Nat × Byte) :=
  let (s, gs) := getRun s (e.who s) sp.area sp.loc 64
  .ok (s, runValue gs sp.loc 64, gs.foldr (fun (g : GRead) (a : Nat) => g.syn.toNat + 2 ^ 16 * a) 0,
    seeMeta s (e.who s) sp.area (sp.loc / 64))

/-- The write that moves one piece, inside one destination line (17 R422). A streamer moves codes and metadata unchanged whatever the page's
ET bit (R424). -/
def movePiece (e : Eng) (src dst : Word) (n : Nat) (s : State) : EngR EWrite :=
  (engSpans e false false src n s).bind fun s sps => (engSpans e true false dst n s).bind fun s dps =>
    let sps := if e.die.isSome then sps.map fun sp => { sp with et := false } else sps
    let dp := dps.headD (homeSpan0 dst n)
    match sps with
    | [sp] =>
      if n = 64 ∧ sp.loc % 64 = 0 ∧ dp.loc % 64 = 0 ∧ !sp.et then
        (engRisk s (readFor s e.slot false (wholeLine e sp))).bind fun s r =>
          .ok s { span := dp, val := r.1, syns := some r.2.1, stamp := none, md := some r.2.2 }
      else move s dp sps
    | _ => move s dp sps
where
  /-- A span that names nothing. -/
  homeSpan0 (va : Word) (n : Nat) : Span :=
    { va, loc := 0, len := n, area := .hbm, sw := 0, et := false, tt := false, cst := false }
  /-- Granules with their codes. -/
  move (s : State) (dp : Span) (sps : List Span) : EngR EWrite :=
    (engRisk s (readFor s e.slot false fun s => moveSpans e.src e.slot (e.who s) s sps)).bind fun s r =>
      .ok s { span := dp, val := r.1, syns := some r.2, stamp := none, md := none }

/-- The writes that move n bytes, line by line of the destination. -/
def movePieces (e : Eng) : Nat → Word → Word → Nat → State → EngR (List EWrite)
  | 0, _, _, _, s => .ok s []
  | fuel + 1, src, dst, n, s =>
    if n = 0 then .ok s [] else
      let k := min n (64 - dst.toNat % 64)
      let b := BitVec.ofNat 64 k
      (movePiece e src dst k s).bind fun s w => (movePieces e fuel (src + b) (dst + b) (n - k) s).bind fun s l => .ok s (w :: l)

/-- The status of a command whose progress reaches its end. -/
def endAt (done total : Nat) : Option (Nat × Nat) := if total ≤ done then some (0, 0) else none

/-- A portion of a plain copy: up to the next 256-byte bound of the destination (07 R186, R192). -/
def plainPortion (e : Eng) (c : Cmd) (s : State) : EngR Adv :=
  let p := c.pkt
  let o := BitVec.ofNat 64 c.progress
  let src := cpSrc p + o
  let dst := cpDst p + o
  let n := min (cpLen p - c.progress) (256 - dst.toNat % 256)
  (movePieces e 6 src dst n s).bind fun s ws => (engWrite e ws s).bind fun s _ =>
    .ok s { done := n, status := endAt (c.progress + n) (cpLen p) }

/-- The 8-byte pattern repeated over n bytes. -/
def fillValue (pat n : Nat) : Nat := (List.range (n / 8 + 1)).foldl (fun a _ => a * 2 ^ 64 + pat) 0 % 2 ^ (8 * n)
/-- A portion of a fill: up to the next 256-byte bound of the destination (07 R186). -/
def fillPortion (e : Eng) (c : Cmd) (s : State) : EngR Adv :=
  let p := c.pkt
  let dst := cpDst p + BitVec.ofNat 64 c.progress
  let n := min (cpLen p - c.progress) (256 - dst.toNat % 256)
  (engSpans e true false dst n s).bind fun s sps =>
    (engWrite e (spanWrites sps (fillValue (cpSrc p).toNat n)) s).bind fun s _ =>
      .ok s { done := n, status := endAt (c.progress + n) (cpLen p) }

/-- The location of a byte offset of a run of spans. -/
def spanLoc : List Span → Nat → Nat × Area
  | [], _ => (0, .hbm)
  | sp :: t, o => if o < sp.len then (sp.loc + o, sp.area) else spanLoc t (o - sp.len)

/-- The versions stamped on the lines of elements (10 R269): one an element of w bits. -/
def stampsOf (s : State) (w : Who) (sps : List Span) (bits n : Nat) : List Nat :=
  (List.range n).map fun j =>
    let (loc, area) := spanLoc sps (j * bits / 8)
    (seeMeta s w area (loc / 64)).toNat / 16

/-- k source elements from element i of a copy-convert packet, decoded exactly (10 R269, 09 R248): through a source record
each with the slot of the version stamped on its line. -/
def convSource (e : Eng) (p : Nat) (r : Resolved) (i k : Nat) (s : State) : EngR (List XV) :=
  let w := fmtWidth r.sfmt
  let va := cpSrc p + BitVec.ofNat 64 (i * w / 8)
  let n := (k * w + 7) / 8
  (engSpans e false false va n s).bind fun s sps =>
    (engRisk s (readFor s e.slot false fun s =>
      match loadSpans e.src e.slot (e.who s) s sps with
      | .ok (s, v) => .ok (s, v, stampsOf s (e.who s) sps w k)
      | .error b => .error b)).bind fun s d =>
      let codes := (List.range k).map fun j => d.1 / 2 ^ (w * j) % 2 ^ w
      match r.srec with
      | none => .ok s (codes.map (decodeElem r.sfmt))
      | some rec =>
        (engRisk s (readRecord s e.src e.slot rec.span)).bind fun s now =>
          let fmts := d.2.map fun v => recFmt now v
          if fmts.any fun f => fmtWidth (fmtOf f) != w then .stop s 3 9 else
            let o := elemOff va rec.val r.sfmt
            let one (scales : Nat) (x : Nat × Nat) (j : Nat) : XV :=
              let f := fmtOf (recFmt now x.2)
              let y := if fmtBlock f then blockElem f (scales / 256 ^ (j / 32) % 256) x.1 else decodeElem f x.1
              y.scale (-(recScale now x.2))
            let fin (s : State) (scales : Nat) : EngR (List XV) :=
              .ok s ((codes.zip d.2).zipIdx.map fun y => one scales y.1 y.2)
            if fmts.any fun f => fmtBlock (fmtOf f) then
              (engReadAt e (recScales now + BitVec.ofNat 64 (o / 32)) ((k + 31) / 32) s).bind fin
            else fin s 0

/-- A portion of a copy-convert: up to the next 256-byte bound of the destination (07 R186, 09 R249, 10 R265). -/
def convPortion (e : Eng) (c : Cmd) (r : Resolved) (s : State) : EngR Adv :=
  let p := c.pkt
  let w := fmtWidth r.dfmt
  let dst := cpDst p + BitVec.ofNat 64 c.progress
  let i := c.progress * 8 / w
  let k := min (cpLen p - i) (max 1 (((256 - dst.toNat % 256) * 8 + w - 1) / w))
  let done := k * w / 8
  (convSource e p r i k s).bind fun s xs =>
    let adv (sats : Nat) (marked : Bool) : Adv := { done, sats, marked, status := endAt (i + k) (cpLen p) }
    let enc (xs : List XV) : TOut := encodeElems r.dfmt r.dscale (pkRtz p) (widening r.sfmt r.dfmt || r.sfmt == r.dfmt) xs
    match r.drec with
    | none =>
      let t := enc xs
      (engWriteRuns e [{ va := dst, n := done, val := packCodes w t.codes, stamp := none }] s).bind fun s _ =>
        .ok s (adv t.sats false)
    | some d =>
      let o := elemOff dst d.val r.dfmt
      let xs := xs.take (recExtent d.val - o)
      if xs.isEmpty then .ok s (adv 0 false) else
        let t := enc xs
        (engWriteRuns e (tensorRuns r.dfmt (recBase d.val) (recScales d.val) (some r.rver) o t) s).bind fun s _ =>
          let (s, m) := mergeCounts s (slotJob s e.slot) d.span (countValues xs t.sats)
          .ok s (adv t.sats m)

/-- The reduction packet of an FP-reduce command (08 R226). -/
def redPacket (slot : Nat) (c : Cmd) : RedPacket :=
  let p := c.pkt
  { slot, uid := c.uid, seqno := BitVec.ofNat 16 (rf p 48 2), table := cpTrec p, tag := BitVec.ofNat 32 (pkTag p),
    crec := pkCrec p, skip := pkSkip p, sfmt := fmtOf (cpSfmt p), dfmt := fmtOf (cpDfmt p), src := cpSrc p,
    dst := cpDst p, len := cpLen p }

/-- A portion of a copy command other than an FP reduction. -/
def copyPortion (e : Eng) (c : Cmd) (r : Resolved) (s : State) : EngR Adv :=
  if pkKind c.pkt = 1 then plainPortion e c s
  else if pkKind c.pkt = 4 then fillPortion e c s
  else convPortion e c r s

/-- The destination range of a copy command (13 R321). -/
def copyRange (c : Cmd) : RelRange :=
  let p := c.pkt
  let n := if pkKind p = 1 ∨ pkKind p = 4 then cpLen p else
    match c.res with
    | some r => cpLen p * fmtWidth r.dfmt / 8
    | none => 0
  .range (cpDst p) n

end Sys2Proof.Machine
end

