-- ==== Sys2Proof/Machine/Gather.lean ====
section
/-! DEFINITION. The gather unit: packets of KIND 8, their checks and their portions (13 R329, 17 R422, R423). -/

namespace Sys2Proof.Machine

/-- COUNT. -/
def gaCount (p : Nat) : Nat := rf p 40 4
/-- ROWB. -/
def gaRow (p : Nat) : Nat := rf p 44 4

/-- The checks of 13 R318 for a gather packet. -/
def checkGather (p : Nat) : Option Nat :=
  firstCheck [
    (pkKind p != 8, fcKind),
    (hdrReserved p, fcReserved),
    (gaCount p == 0, fcRange),
    (rf p 16 8 % 16 != 0 || rf p 32 8 % 16 != 0 || gaRow p % 16 != 0 || rf p 48 4 % 16 != 0
      || (pkCrec p).toNat % 32 != 0, fcAlign)]

/-- The acceptance of a gather packet. -/
def acceptGather (s : State) (p : Nat) : Chk :=
  match checkGather p with
  | some c => .reject s c
  | none => .ok s (.plain .fp32 .fp32)

/-- The index of row j of a gather; one at or above LIMIT stops the packet. -/
def gatherIndex (e : Eng) (p j : Nat) (s : State) : EngR Nat :=
  (engReadAt e (BitVec.ofNat 64 (rf p 24 8) + BitVec.ofNat 64 (4 * j)) 4 s).bind fun s i =>
    if rf p 52 4 ≤ i then .stop s 3 12 else .ok s i
/-- The indices of the last n rows of a gather, whose rows hold no byte. -/
def gatherIndices (e : Eng) (p : Nat) : Nat → State → EngR Adv
  | 0, s => .ok s { done := 0, status := some (0, 0) }
  | n + 1, s => (gatherIndex e p (gaCount p - (n + 1)) s).bind fun s _ => gatherIndices e p n s
/-- A portion of a gather: up to the next 256-byte bound of the destination, within one row (07 R192). -/
def gatherPortion (e : Eng) (c : Cmd) (s : State) : EngR Adv :=
  let p := c.pkt
  let row := gaRow p
  if row = 0 then gatherIndices e p (gaCount p) s else
    let off := c.progress % row
    (gatherIndex e p (c.progress / row) s).bind fun s i =>
      let src := BitVec.ofNat 64 (rf p 16 8) + BitVec.ofNat 64 (i * rf p 48 4 + off)
      let dst := BitVec.ofNat 64 (rf p 32 8) + BitVec.ofNat 64 c.progress
      let n := min (row - off) (256 - dst.toNat % 256)
      (movePieces e 6 src dst n s).bind fun s ws => (engWrite e ws s).bind fun s _ =>
        .ok s { done := n, status := endAt (c.progress + n) (gaCount p * row) }

/-- The destination range of a gather. -/
def gatherRange (c : Cmd) : RelRange := .range (BitVec.ofNat 64 (rf c.pkt 32 8)) (gaCount c.pkt * gaRow c.pkt)

end Sys2Proof.Machine
end

