-- ==== Sys2Proof/Machine/Sync.lean ====
section
/-! DEFINITION. Class 0x80: ACQ, REL, bindings, fences, cache operations, and the wait on a copy pointer
(15 R374-R377, R387; 08 R206-R210, R220, R221, R223). -/

namespace Sys2Proof.Machine

/-- The value of a sync word at the point its width names (08 R208). -/
def syncRead (slot : Nat) (sp : Span) (s : State) : Risk (State × Nat) :=
  if sp.sw < 2 ∧ sp.area.cached then loadSpans 6 slot (coreWho s slot) s [sp]
  else
    match homeRead s (some (clusterOf (coreOf slot))) sp 8 with
    | .error p => .error (.of p 6 sp.va (sp.loc / 16))
    | .ok (s, v, k) => .ok (countSubst s slot k, v)

/-- An acquire on a sync word by a slot: its value, and the acquire step (08 R210). -/
def acquireRead (s : State) (slot : Nat) (sup : Bool) (sp : Span) : Risk (State × Word) :=
  match readFor s slot sup (syncRead slot sp) with
  | .error b => .error b
  | .ok (s, v) => .ok (acquireStep s slot sp, BitVec.ofNat 64 v)

/-- Translate a sync word of a word that acquires it, once the sequencer's earlier accesses have performed. -/
def syncAccess (a : Opnd) (n : Need) (k : State → Thread → Span → Res) (s : State) (t : Thread) : Res :=
  let va := srcVal s t a
  aligned s va 8 <| access s t va 8 n fun s sps =>
    match sps with
    | [sp] => if pending s t then .wait s false else k s t sp
    | _ => .wait s false

/-- ACQ's effect (15 R374): the acquire performs, a mark on a command's DONE word traps, and d is written. A sync word homed on another
device is read there (08 R208). -/
def acqEff (d : Dest) (s : State) (t : Thread) (sp : Span) : Res :=
  if sp.area = .remote ∧ 2 ≤ sp.sw then
    farPend s t d sp .acq fun s dst tag pa => readFlit s dst tag (slotTag s t.slot) pa
  else
  match acquireRead s t.slot (isSup s t) sp with
  | .error b => .bad s b
  | .ok (s, v) => observe s t (.done sp.va v) (.done (putResult s t d v))
/-- ACQ (15 R374). -/
def execAcq (n : Nib) (d : Dest) (a : Opnd) (s : State) : Host.Outcome State Fault Refusal :=
  issueWord (.acq n d a) n (some (.scalar d)) { scalars := [a] } (syncAccess a { r := true, sys := true, atHome := true } (acqEff d)) s

/-- REL's effect: the release performs in its place among the sequencer's stores (15 R374, 08 R210). -/
def relEff (a b : Opnd) (s : State) (t : Thread) : Res :=
  let va := srcVal s t a
  aligned s va 8 <| access s t va 8 { w := true, atHome := true } fun s sps => outsideRegion s t sps <|
    match sps with
    | [sp] => if sp.cst then .trap s { cause := 4, kind := kPermission, wr := true, addr := va }
      else pendStore s t (.rel sp (srcVal s t b))
    | _ => .wait s false
/-- REL (15 R374). -/
def execRel (n : Nib) (a b : Opnd) (s : State) : Host.Outcome State Fault Refusal :=
  issueWord (.rel n a b) n none { scalars := [a, b] } (relEff a b) s

/-- The oldest unperformed word of a sequencer is a release of width 4 or 5 that has waited 100 µs, or whose destination is out of reach (02
R43). -/
def relTimedOut (s : State) (slot : Nat) (q : Seq) : Option Outst :=
  match (((getSlot s slot).issued q).filter fun e => !e.2.done && e.2.work.isStore).map (·.2) with
  | o :: _ =>
    let sp? : Option Span := match o.work with | .store op => op.releases | .relw sp _ => some sp | _ => none
    match sp? with
    | some sp =>
      if 4 ≤ sp.sw ∧ (o.at_ + 100000 ≤ s.time ∨ farRelLost s slot (.rel sp 0)) then some o else none
    | none => none
  | [] => none
/-- REL_FABRIC_TIMEOUT: the release ends with PARTNER_LOST and its sync word is unchanged (02 R43). -/
def execRelFabricTimeout (slot : Nat) (q : Seq) (s : State) : Host.Outcome State Fault Refusal :=
  .next <|
    match relTimedOut s slot q with
    | some o =>
      let va := match o.work.spans with | sp :: _ => sp.va | [] => 0
      takeTrap (updSlot s slot fun x => dropIssued x q o.tag) slot q o.pc { cause := 27, addr := va }
    | none => s

/-! ## Bindings (08 R209, 15 R375) -/

/-- The SYNC field of a binding to a word, without its valid bit. -/
def syncField (va : Word) : Nat := va.toNat % 2 ^ 57
/-- Write part of the binding table of a slot, as a scratchpad write of the word (11 R289). -/
def tableWrite (s : State) (t : Thread) (off n v : Nat) : Risk State :=
  let x := getSlot s t.slot
  let base := allocSize x - 512 + off
  let sp : Span := { va := BitVec.ofNat 64 (0xFFFFFF0000000000 + base), loc := allocLoc x t.slot base, len := n,
                     area := .scratch (coreOf t.slot), sw := 0, et := false, tt := false, cst := false }
  if isSup s t then performOp s t.slot (.plain [sp] v)
  else slotWrite s t.slot t.seq (getSeq s t).pc s.nextUid (.plain [sp] v)

/-- The entries of a slot's binding table, by number. -/
def bindings (s : State) (slot : Nat) : List (Nat × Option (Word × Nat × Nat)) :=
  (List.range 16).map fun i => (i, bindingAt s slot i)

/-- BIND's effect (15 R375). A slot without an allocation has no binding table (log 111). -/
def bindEff (a b c : Opnd) (s : State) (t : Thread) : Res :=
  let sync := srcVal s t a
  let ub := (srcVal s t b).toNat
  let base := ub / 64 * 64
  let len := (ub + (srcVal s t c).toNat + 63) / 64 * 64 - base
  let bad : Res := .trap s { cause := 19, addr := sync }
  let key := (BitVec.ofNat 57 (syncField sync)).signExtend 64
  let fin (r : Risk State) : Res := match r with | .ok s => .done s | .error b => .bad s b
  aligned s sync 8 <|
    if srcVal s t c = 0 ∨ 2 ^ 48 < len ∨ (getSlot s t.slot).need = 0 then bad
    else if pending s t then .wait s false
    else
      let l := bindings s t.slot
      match l.find? fun e => e.2.any fun v => v.1 == key && v.2.1 == base with
      | some (i, _) => fin (tableWrite s t (32 * i + 16) 8 len)
      | none =>
        match l.find? fun e => e.2.isNone with
        | some (i, _) =>
          fin (tableWrite s t (32 * i) 32 (syncField sync + 1 + base * 2 ^ 64 + len * 2 ^ 128))
        | none => bad
/-- BIND (15 R375). -/
def execBind (n : Nib) (a b c : Opnd) (s : State) : Host.Outcome State Fault Refusal :=
  issueWord (.bind n a b c) n none { scalars := [a, b, c] } (bindEff a b c) s

/-- Invalidate entries of the binding table: their SYNC fields become zero. -/
def invalidate (t : Thread) : State → List Nat → Risk State
  | s, [] => .ok s
  | s, i :: l =>
    match tableWrite s t (32 * i) 8 0 with
    | .ok s => invalidate t s l
    | .error b => .error b
/-- UNBIND's effect (15 R375). -/
def unbindEff (a b : Opnd) (s : State) (t : Thread) : Res :=
  let sync := srcVal s t a
  let key := (BitVec.ofNat 57 (syncField sync)).signExtend 64
  let ub := srcVal s t b
  aligned s sync 8 <|
    if pending s t then .wait s false else
      let l := if (getSlot s t.slot).need = 0 then [] else bindings s t.slot
      let hit := l.filter fun e => e.2.any fun v =>
        v.1 == key && (ub == BitVec.allOnes 64 || v.2.1 == ub.toNat / 64 * 64)
      match invalidate t s (hit.map (·.1)) with
      | .ok s => .done s
      | .error b => .bad s b
/-- UNBIND (15 R375). -/
def execUnbind (n : Nib) (a b : Opnd) (s : State) : Host.Outcome State Fault Refusal :=
  issueWord (.unbind n a b) n none { scalars := [a, b] } (unbindEff a b) s

/-! ## Fences (08 R206, R220) -/

/-- FENCE (08 R206). -/
def execFence (n : Nib) (s : State) : Host.Outcome State Fault Refusal :=
  issueWord (.fence n) n none {} (fun s t => if pending s t then .wait s false else .done s) s

/-- The commands of a slot on an engine path that were accepted before a number; a GMMA is one until its parts have ended. -/
def pathBusy (s : State) (slot : Nat) (p : Path) (uid : Nat) : Bool :=
  let x := getSlot s slot
  let old (l : List Cmd) : Bool := l.any fun c => c.uid < uid
  match p with
  | .core => false
  | .copy => x.ctxs.toList.any old || s.subs.any fun b => b.slot == slot && decide (b.uid < uid) && b.status.isNone
  | .matrix => old x.mq || s.gcmds.any fun g => g.owner == slot && decide (g.gid < uid)
  | .gather => old x.gq
  | .coll => s.colls.any fun c => c.slot == slot && decide (c.uid < uid) && c.status.isNone

/-- XFENCE's effect (08 R220): at its first attempt it notes which commands came before it. A mark on the from path
traps once those have completed (10 R274). -/
def xfenceEff (src : Path) (s : State) (t : Thread) : Res :=
  let x := getSlot s t.slot
  let (uid, s) :=
    match x.fence.find? fun f => f.1 == t.seq with
    | some f => (f.2, s)
    | none => (s.nextUid, setSlot s t.slot { x with fence := x.fence ++ [(t.seq, s.nextUid)] })
  if pending s t || pathBusy s t.slot src uid then .wait s false
  else observe s t (.path src) (.done s)
/-- XFENCE (08 R220). -/
def execXfence (n : Nib) (src dst : Path) (s : State) : Host.Outcome State Fault Refusal :=
  issueWord (.xfence n src dst) n none {} (xfenceEff src) s

/-! ## Cache operations (08 R223, 15 R377) -/

/-- The first byte of a range from `va` that lies outside one half of the address space, if any (15 R377). -/
def leavesHalf (va : Word) (len : Nat) : Option Word :=
  if !canonical va then some va
  else
    let room := 2 ^ 56 - va.toNat % 2 ^ 56
    if room < len then some (va + BitVec.ofNat 64 room) else none

/-- The width of the page that holds an address; 0 where it has no valid leaf. -/
def pageWidth (s : State) (t : Thread) (va : Word) : State × Nat :=
  match trPage s { slotCtx s t.slot t.seq with sup := true } va 1 {} with
  | (s, .ok sp) => (s, sp.sw)
  | (s, _) => (s, 0)

/-- The buffered writes of a region inside a range of addresses. -/
def bufInRange (va len : Nat) (e : StoreOp × Seq × Word) : Bool :=
  e.1.spans.any fun sp => decide (sp.va.toNat < va + len) && decide (va < sp.va.toNat + sp.len)

/-- CFLUSH first performs the region's buffered writes of the range, in order (15 R377). -/
def drainRange (s : State) (t : Thread) (va len : Nat) : Risk State :=
  match (getSlot s t.slot).region with
  | some r =>
    match performAll t.slot s (r.buf.filter (bufInRange va len)) with
    | .ok s => .ok (updSlot s t.slot fun x =>
        { x with region := x.region.map fun r => { r with buf := r.buf.filter fun e => !bufInRange va len e } })
    | .error b => .error b
  | none => .ok s

/-- CFLUSH's effect (08 R223). -/
def cflushEff (a b : Opnd) (s : State) (t : Thread) : Res :=
  let va := srcVal s t a
  let len := (srcVal s t b).toNat
  if len = 0 then .done s else
    match leavesHalf va len with
    | some bad => .trap s { cause := 4, kind := kNonCanonical, addr := bad }
    | none =>
      if pending s t then .wait s false else
        let (s, w) := pageWidth s t va
        if 4 ≤ w ∧ (coveredWrs s t.slot [(va.toNat, len)]).any (!·.lost) then .wait s false else
        let rs := [(va.toNat, len)]
        let job := (getSlot s t.slot).job
        match if isSup s t then .ok s else drainRange s t va.toNat len with
        | .error b => .bad s b
        | .ok s =>
          let core := coreOf t.slot
          let mine := (viewLines s s.clines (clusterOf core) (dieOfCore core) job rs).foldl
            (fun s line => writeBack s (clusterOf core) line fun o =>
              o == BitVec.ofNat 4 (core % 8) || (decide (2 ≤ w) && o == 8)) s
          .done mine
/-- CFLUSH (15 R377). -/
def execCflush (n : Nib) (a b : Opnd) (s : State) : Host.Outcome State Fault Refusal :=
  issueWord (.cflush n a b) n none { scalars := [a, b] } (cflushEff a b) s

/-- CINV's effect (08 R223). -/
def cinvEff (a b : Opnd) (s : State) (t : Thread) : Res :=
  let va := srcVal s t a
  let len := (srcVal s t b).toNat
  if len = 0 then .done s else
    match leavesHalf va len with
    | some bad => .trap s { cause := 4, kind := kNonCanonical, addr := bad }
    | none =>
      let (s, w) := pageWidth s t va
      .done (dropRange s (coreOf t.slot) (getSlot s t.slot).job w [(va.toNat, len)])
/-- CINV (15 R377). -/
def execCinv (n : Nib) (a b : Opnd) (s : State) : Host.Outcome State Fault Refusal :=
  issueWord (.cinv n a b) n none { scalars := [a, b] } (cinvEff a b) s

/-! ## Waiting on a copy pointer (08 R221, 15 R387) -/

/-- A modular counter has reached a value: (p - v) mod 2^32 < 2^31 (05 R139). -/
def fires (p v : BitVec 32) : Bool := (p - v).ult 0x80000000#32

/-- WPWAIT's effect (15 R387). -/
def wpwaitEff (f : Opnd) (ctx : BitVec 2) (s : State) (t : Thread) : Res :=
  let v : BitVec 32 := (srcVal s t f).setWidth 32
  let p := vget (getSlot s t.slot).chwp ctx
  if v - p = 0x80000000#32 then .trap s { cause := 18 }
  else if fires p v then observe s t (.wp ctx v) (.done s) else .wait s false
/-- WPWAIT (15 R387). -/
def execWpwait (n : Nib) (f : Opnd) (ctx : BitVec 2) (s : State) : Host.Outcome State Fault Refusal :=
  issueWord (.wpwait n f ctx) n none { scalars := [f] } (wpwaitEff f ctx) s

end Sys2Proof.Machine
end

