-- ==== Sys2Proof/Machine/Rings.lean ====
section
/-! DEFINITION. Rings: descriptors, the ring unit's marks, the handles and the ring words (07 R189-R191, 15 R379-R383,
06 R153, 02 R45, R46). -/

namespace Sys2Proof.Machine

/-- A ring descriptor's fields (13 R335); `raw` is the whole of it. -/
structure RDesc where
  base  : Word
  fill  : BitVec 32
  free  : BitVec 32
  take  : BitVec 32
  claim : BitVec 32
  n     : Nat
  size  : Nat
  rfl_  : Byte
  pdev  : BitVec 12
  raw   : Nat
  deriving DecidableEq, Repr

/-- The fields of a descriptor's 32 bytes. -/
def rdescOf (v : Nat) : RDesc :=
  let f (o n : Nat) : Nat := v / 256 ^ o % 256 ^ n
  { base := BitVec.ofNat 64 (f 0 8), fill := BitVec.ofNat 32 (f 8 4), free := BitVec.ofNat 32 (f 12 4),
    take := BitVec.ofNat 32 (f 16 4), claim := BitVec.ofNat 32 (f 20 4), n := f 24 2 + 1, size := f 26 2 * 64,
    rfl_ := BitVec.ofNat 8 (f 28 1), pdev := BitVec.ofNat 12 (f 30 2), raw := v }

/-- The descriptor meets 13 R335. -/
def RDesc.ok (r : RDesc) : Bool :=
  r.base.toNat % 64 == 0 && 64 ≤ r.size && r.size ≤ 16384 * 64 && r.rfl_ &&& 0xF8#8 == 0
    && r.raw / 256 ^ 29 % 256 == 0 && r.raw / 256 ^ 31 / 16 == 0 && (r.rfl_.getLsbD 1 || r.pdev == 0)
/-- RFL bit 0. -/
def RDesc.closed (r : RDesc) : Bool := r.rfl_.getLsbD 0
/-- RFL bit 1. -/
def RDesc.remote (r : RDesc) : Bool := r.rfl_.getLsbD 1
/-- RFL bit 2. -/
def RDesc.graph (r : RDesc) : Bool := r.rfl_.getLsbD 2
/-- Slots a consumer may take, a producer may claim. -/
def RDesc.avail (r : RDesc) : Role → Nat
  | .producer => (r.free - r.claim).toNat
  | .consumer => (r.fill - r.take).toNat

/-- The partner of a remote ring is lost (02 R60, R61): the producer for a consumer, the far device for a producer. -/
def ringLost (s : State) (loc : Loc) (r : RDesc) : Role → Bool
  | .consumer => r.remote && devMissing s r.pdev
  | .producer => r.remote && devMissing s (Config.ringDevice loc)

/-- Read a descriptor at its home: two granules consumed by the home's atomic unit (07 R189). -/
def readDesc (s : State) (slot : Nat) (sp : Span) : Risk (State × RDesc) :=
  let cl := some (clusterOf (coreOf slot))
  match homeRead s cl sp 16 with
  | .error p => .error (.of p 6 sp.va (sp.loc / 16))
  | .ok (s, lo, k) =>
    match homeRead s cl { sp with loc := sp.loc + 16, va := sp.va + 16 } 16 with
    | .error p => .error (.of p 6 sp.va (sp.loc / 16 + 1))
    | .ok (s, hi, j) => .ok (countSubst s slot (k + j), rdescOf (lo + 2 ^ 128 * hi))

/-- Write n bytes of a descriptor at its home, whose granule has been read without error. -/
def setDescField (s : State) (cluster : Option Nat) (sp : Span) (off n v : Nat) : State :=
  match homeUpdate s cluster { sp with loc := sp.loc + off, va := sp.va + BitVec.ofNat 64 off } n fun _ => some v with
  | .ok (s, _, _) => s
  | .error _ => s

/-- The descriptor at a location as its home holds it, no code checked: the ring unit's and arbiter's own reading. -/
def descAt (s : State) (loc : Loc) : RDesc := rdescOf (readNat s.mem loc 32)

/-- A span of the home's own accesses. -/
def homeSpan (va : Word) (loc : Loc) (n : Nat) : Span :=
  { va, loc, len := n, area := .vault, sw := 2, et := false, tt := false, cst := false }

/-- Write a descriptor field at its home, by the ring unit. -/
def putDesc (s : State) (loc off n v : Nat) : State := setDescField s none (homeSpan 0 loc n) off n v

/-- A ring's marks. -/
def marksOf (s : State) (loc : Loc) : RingMarks := kvGet .none s.rings loc
/-- Write a ring's marks. -/
def setMarks (s : State) (loc : Loc) (m : RingMarks) : State := { s with rings := kvSet .none s.rings loc m }

/-- Advance a counter over the contiguous marks that begin at it: its new value and the marks left (06 R153). -/
def advance : Nat → BitVec 32 → List Nat → BitVec 32 × List Nat
  | 0, v, l => (v, l)
  | fuel + 1, v, l => if l.contains v.toNat then advance fuel (v + 1) (l.filter fun e => e != v.toNat) else (v, l)

/-- The flit of a ring notice that carries an absolute counter value (02 R46; log 25). -/
def ringNotice (s : State) (kind : BitVec 6) (cls : BitVec 2) (dst : BitVec 12) (tag : BitVec 12) (loc : Loc)
    (v : BitVec 32) : Flit := wordFlit s kind cls dst 0 tag (Config.ringAddr loc) (v.setWidth 64)

/-- The addresses of `n` slots from absolute slot `i`, slot by slot (07 R189). -/
def slotRanges (r : RDesc) (i : BitVec 32) (n : Nat) : List (Nat × Nat) :=
  (List.range n).map fun k => ((r.base + BitVec.ofNat 64 ((i + BitVec.ofNat 32 k).toNat % r.n * r.size)).toNat, r.size)
/-- The ring unit publishes and releases in slot order (06 R153), closes a ring whose close waits for FILL to reach
CLAIM (15 R382), sends notices for a remote ring (02 R46), and has waiting slots look again (06 R158). Each advance of FILL records the slots that it covers (08 R212). -/
def ringAdvance (s : State) (loc : Loc) (tag : BitVec 12) : State :=
  let r := descAt s loc
  let m := marksOf s loc
  let (fill, fs) := advance r.n r.fill m.filled
  let (rel, rs) := advance r.n (r.free - BitVec.ofNat 32 r.n) m.released
  let free := rel + BitVec.ofNat 32 r.n
  let s := if fill = r.fill then s else putDesc s loc 8 4 fill.toNat
  let s := if free = r.free then s else putDesc s loc 12 4 free.toNat
  let cover := (slotRanges r r.fill (fill - r.fill).toNat).map fun e =>
    (loc + 8, RelRange.range (BitVec.ofNat 64 e.1) e.2)
  let s := { s with ranges := s.ranges ++ cover }
  let close := m.closing && fill == r.claim
  let s := if close then putDesc s loc 28 1 (r.rfl_ ||| 1#8).toNat else s
  let s := setMarks s loc { filled := fs, released := rs, closing := m.closing && !close }
  let mine := r.pdev == s.devId
  let s := if r.remote && mine && fill != r.fill then
      sendFlit s (ringNotice s 0x08 0 (Config.ringDevice loc) tag loc fill) else s
  let s := if r.remote && !mine && free != r.free then sendFlit s (ringNotice s 0x09 2 r.pdev tag loc free) else s
  if fill = r.fill ∧ free = r.free ∧ !close then s
  else (s.subs.filter fun b => b.ring == loc).foldl (fun s b => enqueue s (.event (.streamTile b.uid))) (enqueue s .schedule)

/-! ## Handles -/

/-- A slot's handle. -/
def getHandle (s : State) (slot : Nat) (rg : BitVec 5) : Handle := vget (getSlot s slot).handles rg
/-- Write a slot's handle. -/
def setHandle (s : State) (slot : Nat) (rg : BitVec 5) (h : Handle) : State :=
  updSlot s slot fun x => { x with handles := vset x.handles rg h }
/-- The local-window address of offset 0 (04 R92). -/
def windowBase : Word := 0xFFFFFF0000000000
/-- The descriptor's virtual address (07 R190). -/
def Handle.va (h : Handle) : Word :=
  if h.desc.msb then windowBase + (h.desc &&& 0x1FFFFF) else h.desc
/-- What a handle remembers of a descriptor that it read: SEEN and the closed flag. -/
def Handle.saw (h : Handle) (r : RDesc) : Handle :=
  { h with seen := match h.role with | some .producer => r.free | _ => r.fill,
           flags := if r.closed then h.flags ||| 4#8 else h.flags }

/-- A RING trap at a word, with the descriptor's address. -/
def ringTrap (s : State) (va : Word) : Res := .trap s { cause := 16, addr := va }

/-- Reach the descriptor of a handle: read for a waiting word, read and written for an updating one. -/
def withDesc (update : Bool) (rg : BitVec 5) (s : State) (t : Thread) (k : State → Handle → Span → RDesc → Res) : Res :=
  let h := getHandle s t.slot rg
  access s t h.va 32 { r := true, w := update } fun s sps =>
    match sps with
    | [sp] =>
      match (if update then readDesc s t.slot sp else readFor s t.slot (isSup s t) fun s => readDesc s t.slot sp) with
      | .ok (s, r) => k s h sp r
      | .error b => .bad s b
    | _ => ringTrap s h.va

/-- The checks of R379 on a ring word: its role, a count of 1 to 65,535 within the ring's slots (0 too for RFILL), and
no graph ring for a word that claims or takes. -/
def ringWord (role : Role) (zero graphOk update : Bool) (rg : BitVec 5) (f : Opnd) (s : State) (t : Thread)
    (k : State → Handle → Span → RDesc → Nat → Res) : Res :=
  let h := getHandle s t.slot rg
  let n := (srcVal s t f).toNat
  if h.role ≠ some role then ringTrap s (if h.role.isNone then 0 else h.va)
  else if 65535 < n || (n == 0 && !zero) || (h.flags.getLsbD 0 && !graphOk) then ringTrap s h.va
  else withDesc update rg s t fun s h sp r => if r.n < n then ringTrap s h.va else k s h sp r n

/-- Update a ring whose home lies outside the task's scratchpad: an escape (15 R379). -/
def ringEscape (s : State) (t : Thread) (sp : Span) : Risk State := escaping s t escRing [sp]

/-- A ring word's result: a count, and the status (15 R381). -/
def ringResult (n : BitVec 32) (status : Nat) : Word := BitVec.ofNat 64 (n.toNat + status * 2 ^ 32)

/-! ## Claiming and taking (15 R381) -/

/-- The status with which a claim or a take ends, none while it waits. A closed ring is never claimed; a take from a
closed ring with too few filled slots answers CLOSED. -/
def claimStatus (role : Role) (r : RDesc) (lost : Bool) (n : Nat) : Option Nat :=
  if role = .producer ∧ r.closed then some 1
  else if n ≤ r.avail role then some 0
  else if r.closed then some 1
  else if lost then some 2 else none

/-- RCLAIM's and RTAKE's effect. -/
def claimEff (role : Role) (rg : BitVec 5) (f : Opnd) (s : State) (t : Thread) : Res :=
  ringWord role false false true rg f s t fun s h sp r n =>
    if h.done ≠ h.count then ringTrap s h.va else
      match claimStatus role r (ringLost s sp.loc r role) n with
      | none => .wait (setHandle s t.slot rg (h.saw r)) false
      | some 0 =>
        if pending s t then .wait s false else
          match ringEscape s t sp with
          | .error b => .bad s b
          | .ok s =>
            let first := match role with | .producer => r.claim | .consumer => r.take
            let off := match role with | .producer => 20 | .consumer => 16
            let s := setDescField s (some (clusterOf (coreOf t.slot))) sp off 4 (first + BitVec.ofNat 32 n).toNat
            let s :=
              match role with
              | .producer => acquireStep s t.slot { sp with va := sp.va + 12, loc := sp.loc + 12 }
              | .consumer => dropRange s (coreOf t.slot) (getSlot s t.slot).job sp.sw (slotRanges r first n)
            let s := setHandle s t.slot rg
              { h.saw r with first, count := BitVec.ofNat 16 n, done := 0, status := 0 }
            .done (putResult s t .push (ringResult first 0))
      | some st =>
        let s := if st = 2 then touchLost s t.slot else s
        .done (putResult (setHandle s t.slot rg { h.saw r with status := BitVec.ofNat 8 st }) t .push
          (ringResult h.first st))

/-- RCLAIM (15 R381). -/
def execRclaim (n : Nib) (rg : BitVec 5) (f : Opnd) (s : State) : Host.Outcome State Fault Refusal :=
  issueWord (.rclaim n rg f) n (some (.scalar .push)) { scalars := [f] } (claimEff .producer rg f) s
/-- RTAKE (15 R381). -/
def execRtake (n : Nib) (rg : BitVec 5) (f : Opnd) (s : State) : Host.Outcome State Fault Refusal :=
  issueWord (.rtake n rg f) n (some (.scalar .push)) { scalars := [f] } (claimEff .consumer rg f) s

/-! ## Publishing and releasing (15 R382) -/

/-- The absolute slot numbers of a handle's next n slots. -/
def Handle.next (h : Handle) (n : Nat) : List Nat :=
  (List.range n).map fun k => (h.first + BitVec.ofNat 32 (h.done.toNat + k)).toNat

/-- Mark slots filled or released at the ring unit. -/
def markSlots (s : State) (loc : Loc) (role : Role) (l : List Nat) : State :=
  let m := marksOf s loc
  setMarks s loc (match role with
    | .producer => { m with filled := m.filled ++ l }
    | .consumer => { m with released := m.released ++ l })

/-- RFILL's and RFREE's effect. -/
def publishEff (role : Role) (rg : BitVec 5) (f : Opnd) (s : State) (t : Thread) : Res :=
  ringWord role (role == .producer) true true rg f s t fun s h sp r n =>
    if h.count.toNat - h.done.toNat < n then ringTrap s h.va
    else if pending s t then .wait s false
    else
      match ringEscape s t sp with
      | .error b => .bad s b
      | .ok s =>
        if n = 0 then .done (ringAdvance (setMarks s sp.loc { marksOf s sp.loc with closing := true }) sp.loc
          (slotTag s t.slot))
        else
          let first := h.first + h.done.setWidth 32
          let s :=
            match role with
            | .producer => writeBackRange s (coreOf t.slot) (getSlot s t.slot).job sp.sw (slotRanges r first n)
            | .consumer => s
          let s := markSlots s sp.loc role (h.next n)
          let s := setHandle s t.slot rg { h.saw r with done := h.done + BitVec.ofNat 16 n }
          .done (ringAdvance s sp.loc (slotTag s t.slot))

/-- RFILL (15 R382). -/
def execRfill (n : Nib) (rg : BitVec 5) (f : Opnd) (s : State) : Host.Outcome State Fault Refusal :=
  issueWord (.rfill n rg f) n none { scalars := [f] } (publishEff .producer rg f) s
/-- RFREE (15 R382). -/
def execRfree (n : Nib) (rg : BitVec 5) (f : Opnd) (s : State) : Host.Outcome State Fault Refusal :=
  issueWord (.rfree n rg f) n none { scalars := [f] } (publishEff .consumer rg f) s

/-! ## Waiting (15 R383) -/

/-- The status with which RWAITF or RWAITE ends, none while it waits: only RWAITF ends at a closed ring. -/
def waitStatus (role : Role) (r : RDesc) (lost : Bool) (n : Nat) : Option Nat :=
  if n ≤ r.avail role then some 0
  else if role = .consumer ∧ r.closed then some 1
  else if lost then some 2 else none

/-- RWAITF's and RWAITE's effect. -/
def ringWaitEff (role : Role) (rg : BitVec 5) (f : Opnd) (s : State) (t : Thread) : Res :=
  ringWord role false true false rg f s t fun s h sp r n =>
    match waitStatus role r (ringLost s sp.loc r role) n with
    | none => .wait (setHandle s t.slot rg (h.saw r)) false
    | some st =>
      let s := if st = 2 then touchLost s t.slot else s
      .done (putResult (setHandle s t.slot rg { h.saw r with status := BitVec.ofNat 8 st }) t .push
        (ringResult (BitVec.ofNat 32 (r.avail role)) st))
/-- RWAITF (15 R383). -/
def execRwaitf (n : Nib) (rg : BitVec 5) (f : Opnd) (s : State) : Host.Outcome State Fault Refusal :=
  issueWord (.rwaitf n rg f) n (some (.scalar .push)) { scalars := [f] } (ringWaitEff .consumer rg f) s
/-- RWAITE (15 R383). -/
def execRwaite (n : Nib) (rg : BitVec 5) (f : Opnd) (s : State) : Host.Outcome State Fault Refusal :=
  issueWord (.rwaite n rg f) n (some (.scalar .push)) { scalars := [f] } (ringWaitEff .producer rg f) s

/-- RSTAT's word for a bound handle (15 R383). -/
def rstatWord (h : Handle) (role : Role) (r : RDesc) : Word :=
  BitVec.ofNat 64 (r.avail role + (h.count - h.done).toNat * 2 ^ 32 + h.status.toNat % 4 * 2 ^ 48
    + (if h.flags.getLsbD 2 then 2 ^ 50 else 0) + (if h.flags.getLsbD 0 then 2 ^ 51 else 0)
    + (if h.flags.getLsbD 1 then 2 ^ 52 else 0) + (match role with | .producer => 2 ^ 53 | .consumer => 2 ^ 54))
/-- RSTAT's effect: it never waits (15 R383). -/
def rstatEff (f : Dest) (rg : BitVec 5) (s : State) (t : Thread) : Res :=
  match (getHandle s t.slot rg).role with
  | none => .done (putResult s t f 0)
  | some role => withDesc false rg s t fun s h _ r =>
      .done (putResult (setHandle s t.slot rg (h.saw r)) t f (rstatWord (h.saw r) role r))
/-- RSTAT (15 R383). -/
def execRstat (n : Nib) (f : Dest) (rg : BitVec 5) (s : State) : Host.Outcome State Fault Refusal :=
  issueWord (.rstat n f rg) n (some (.scalar f)) {} (rstatEff f rg) s

/-! ## RBIND (15 R380) -/

/-- The first two handles of a stage instance whose bindings are not both done (15 R380). -/
def stageBound (x : Slot) (rg : BitVec 5) : Bool :=
  rg.toNat < 2 && (match x.task with | some t => t.graph.isSome | none => false)
    && (let a := vget x.handles 0; let b := vget x.handles 1; a.done != a.count || b.done != b.count)

/-- The handle that a descriptor at an address gives. -/
def boundHandle (va : Word) (role : Role) (r : RDesc) : Handle :=
  let local_ := inWindow va && decide (va.toNat % 2 ^ 32 < 2 ^ 21)
  Handle.saw { desc := if local_ then 0x8000000000000000 ||| (va &&& 0x1FFFFF) else va, first := 0, count := 0, done := 0,
               role := some role, flags := if r.remote then 2 else 0, status := 0, seen := 0 } r

/-- RBIND's effect. -/
def rbindEff (rg : BitVec 5) (f : Opnd) (role : Role) (s : State) (t : Thread) : Res :=
  let h := getHandle s t.slot rg
  let va := srcVal s t f
  if h.done ≠ h.count ∨ stageBound (getSlot s t.slot) rg then ringTrap s h.va
  else if va = 0 then .done (setHandle s t.slot rg .unbound)
  else aligned s va 32 <| access s t va 32 { r := true } fun s sps =>
    match sps with
    | [sp] =>
      match readFor s t.slot (isSup s t) fun s => readDesc s t.slot sp with
      | .error b => .bad s b
      | .ok (s, r) =>
        if !r.ok || r.graph then ringTrap s va else .done (setHandle s t.slot rg (boundHandle va role r))
    | _ => ringTrap s va
/-- RBIND (15 R380). -/
def execRbind (n : Nib) (rg : BitVec 5) (f : Opnd) (role : Role) (s : State) : Host.Outcome State Fault Refusal :=
  issueWord (.rbind n rg f role) n none { scalars := [f] } (rbindEff rg f role) s

end Sys2Proof.Machine
end

