-- ==== Sys2Proof/Machine/Matrix.lean ====
section
/-! DEFINITION. The matrix engine: packets of KIND 5, 6, 7 and 11, their checks, accumulation and epilogue (13 R325-R328, 09
R251, R253, 17 R416-R418). -/

namespace Sys2Proof.Machine

/-! ## Fields -/

/-- M. -/
def mxM (p : Nat) : Nat := rf p 40 1 % 128 + 1
/-- N. -/
def mxN (p : Nat) : Nat := rf p 41 1 % 128 + 1
/-- K. -/
def mxK (p : Nat) : Nat := rf p 42 2 + 1
/-- A's format code. -/
def mxA (p : Nat) : Nat := rf p 44 1 % 16
/-- B's format code. -/
def mxB (p : Nat) : Nat := rf p 44 1 / 16
/-- DFMT. -/
def mxD (p : Nat) : Nat := rf p 45 1 % 16
/-- ZERO. -/
def mxZero (p : Nat) : Bool := rf p 45 1 / 16 % 2 == 1
/-- The command runs an epilogue: EPI, or KIND 11. -/
def mxEpi (p : Nat) : Bool := rf p 45 1 / 64 % 2 == 1 || pkKind p == 11
/-- DADDR. -/
def mxDaddr (p : Nat) : Word := BitVec.ofNat 64 (rf p 24 8)
/-- DLOC under DFMT 14. -/
def mxDloc (p : Nat) : Nat := rf p 52 4
/-- DSTR. -/
def mxDstr (p : Nat) : Nat := rf p 52 2
/-- A closed command (06 R163, 13 R326). -/
def mxClosed (p : Nat) : Bool := pkKind p != 11 && mxZero p && mxEpi p
/-- The window address of an offset in the core window region. -/
def windowVa (off : Nat) : Word := windowBase + BitVec.ofNat 64 off
/-- The address lies in the local window (04 R92). -/
def inLocal (va : Word) : Bool := inWindow va && decide (va.toNat % 2 ^ 32 < 2 ^ 21)

/-- The geometry of an MCONV (13 R328). -/
structure Geom where
  ih : Nat
  iw : Nat
  ic : Nat
  fh : Nat
  fw : Nat
  sh : Nat
  sw : Nat
  ph : Nat
  pw : Nat
  dh : Nat
  dw : Nat
  ow : Nat
  pix : Nat
  ips : Nat
  deriving DecidableEq, Repr

/-- The fields of the geometry extension. -/
def geomOf (g : Nat) : Geom :=
  { ih := rf g 0 2, iw := rf g 2 2, ic := rf g 4 2, fh := rf g 6 1, fw := rf g 7 1, sh := rf g 8 1, sw := rf g 9 1,
    ph := rf g 10 1, pw := rf g 11 1, dh := rf g 12 1, dw := rf g 13 1, ow := rf g 14 2, pix := rf g 16 4, ips := rf g 20 2 }

/-- An output extent (13 R328), 0 where it is not positive. -/
def outExtent (i p d f st : Nat) : Nat :=
  let x : Int := (i : Int) + 2 * p - d * ((f : Int) - 1) - 1
  if x < 0 then 0 else x.toNat / st + 1

/-- The geometry's ranges hold. -/
def geomOk (p : Nat) (g : Geom) : Bool :=
  let pos := [g.ih, g.iw, g.ic, g.fh, g.fw, g.sh, g.sw, g.dh, g.dw].all fun x => x != 0
  pos && g.ow == outExtent g.iw g.pw g.dw g.fw g.sw && mxK p == g.fh * g.fw * g.ic
    && decide (g.pix + mxM p ≤ outExtent g.ih g.ph g.dh g.fh g.sh * g.ow)
    && decide (g.ic * fmtWidth (fmtOf (mxA p)) ≤ g.ips * 128)

/-! ## Checks (13 R318, R325) -/

/-- The operand formats are a permitted pair. -/
def mxPair (a b : Nat) : Bool :=
  [[1, 2], [4, 5], [6, 7]].any fun l => l.contains a && l.contains b

/-- Checks 1 to 6 of 13 R318 for a matrix packet of one of some kinds, from a slot. -/
def checkMatrix (kinds : List Nat) (p ext : Nat) (x : Slot) : Option Nat :=
  let k := pkKind p
  let epi := k == 11
  let block := decide (6 ≤ mxA p)
  let d14 := mxD p == 14
  let gang := match x.task with | some t => t.gang.isSome | none => false
  firstCheck [
    (!kinds.contains k, fcKind),
    (hdrReserved p || rf p 45 1 / 128 != 0 || mxA p == 15 || mxB p == 15 || mxD p == 15 || (!d14 && rf p 55 1 != 0)
      || (epi && (rf p 16 8 != 0 || rf p 32 8 != 0 || rf p 42 3 != 0 || rf p 46 4 != 0))
      || (!block && rf p 32 8 != 0) || (k == 7 && rf ext 22 42 != 0), fcReserved),
    ((!epi && (!mxPair (mxA p) (mxB p) || rf p 46 2 == 0 || rf p 48 2 == 0 || (block && mxK p % 32 != 0)))
      || rf p 40 1 / 128 != 0 || rf p 41 1 / 128 != 0 || !([0, 1, 2, 4, 5].contains (mxD p) || (decide (8 ≤ mxD p) && decide (mxD p ≤ 14)))
      || (k == 7 && !geomOk p (geomOf ext)), fcRange),
    (rf p 16 4 % 16 != 0 || rf p 20 4 % 16 != 0 || (mxDaddr p).toNat % (if d14 then 256 else 16) != 0
      || (pkCrec p).toNat % 32 != 0, fcAlign),
    (pkReloc p && !(mxClosed p && (k == 5 || k == 6)), fcReloc),
    (k == 6 && (!gang || (rf p 3 1 / 128 == 1 && (barOf x (BitVec.ofNat 4 (rf p 3 1))).isNone)), fcGang)]

/-- The row stride of D in elements under DFMT 14. -/
def recRowStride (r : Nat) : Nat := if recRank r < 2 then 0 else recStride r (recRank r - 2)

/-- The element after the last of a destination tile of `rows` rows, in a record's elements (17 R415). -/
def mxPast (p rows rec : Nat) : Nat := mxDloc p + (rows - 1) * recRowStride rec + mxN p
/-- The word's own check of a matrix packet's destination record, where it names one (17 R415). -/
def mxShape (s : State) (t : Thread) (kinds : List Nat) (p rows : Nat) (k : State → Option NamedRec → Chk) : Chk :=
  if kinds.contains (pkKind p) ∧ mxEpi p ∧ mxD p = 14 ∧ (mxDaddr p).toNat % 256 = 0 then
    shapeCheck s t (mxDaddr p) (mxPast p rows) fun s n => k s (some n)
  else k s none
/-- The acceptance of a matrix packet: its checks, the last with a record named by DFMT 14, for `rows` rows of D in all (13 R325, 17
R415). -/
def acceptMatrix (s : State) (t : Thread) (kinds : List Nat) (p ext rows : Nat) : Chk :=
  mxShape s t kinds p rows fun s named =>
    match checkMatrix kinds p ext (getSlot s t.slot), named with
    | some c, _ => .reject s c
    | none, none => .ok s { Resolved.plain (fmtOf (mxD p)) .fp32 with dscale := sbyte (rf p 54 1) }
    | none, some n =>
      resolveDst s t n .tensor fun s n v f sc =>
        let o := mxDloc p
        if (fmtBlock f && (mxN p % 32 != 0 || o % 32 != 0)) || (decide (recRank n.val < 2) && mxM p != 1) then
          .reject s fcRange
        else if o * fmtWidth f % 512 ≠ 0 then .reject s fcAlign
        else .ok s { rver := v, drec := some n, dfmt := f, dscale := sc, srec := none, sfmt := .fp32 }

/-! ## Operands -/

/-- Read a run of a tile inside the window of the tile's origin; a tile that leaves it faults WINDOW (17 R416). -/
def tileRead (e : Eng) (origin va : Word) (n : Nat) (s : State) : EngR Nat :=
  if va.toNat / 2 ^ 21 ≠ origin.toNat / 2 ^ 21 then .fault s kWindow va false
  else (engWindow e false va n s).bind fun s sps => engRead e sps s

/-- Read the rows of a tile in ascending order. -/
def tileRows (e : Eng) (origin : Word) (stride n : Nat) : Nat → Nat → State → EngR (List Nat)
  | 0, _, s => .ok s []
  | k + 1, i, s =>
    (tileRead e origin (origin + BitVec.ofNat 64 (i * stride)) n s).bind fun s v =>
      (tileRows e origin stride n k (i + 1) s).bind fun s l => .ok s (v :: l)

/-- Element k of a packed row of codes. -/
def codeAt (w row k : Nat) : Nat := row / 2 ^ (w * k) % 2 ^ w

/-- An operand element before accumulation, under its block's scale byte (09 R253). -/
def opElem (f : Fmt) (code scale : Nat) : XV := if fmtBlock f then blockElem f scale code else decodeElem f code

/-- The codes of one row of A of an MCONV, element by element: zero where the tap falls in the padding (13 R328). -/
def convRow (e : Eng) (p : Nat) (g : Geom) (i : Nat) : Nat → Nat → State → EngR (List (Option Nat))
  | 0, _, s => .ok s []
  | fuel + 1, k, s =>
    let w := fmtWidth (fmtOf (mxA p))
    let pix := g.pix + i
    let tap := k / g.ic
    let y : Int := (pix / g.ow * g.sh : Nat) - (g.ph : Int) + (tap / g.fw * g.dh : Nat)
    let x : Int := (pix % g.ow * g.sw : Nat) - (g.pw : Int) + (tap % g.fw * g.dw : Nat)
    let go (s : State) (c : Option Nat) : EngR (List (Option Nat)) :=
      (convRow e p g i fuel (k + 1) s).bind fun s l => .ok s (c :: l)
    if y < 0 ∨ x < 0 ∨ (g.ih : Int) ≤ y ∨ (g.iw : Int) ≤ x then go s none
    else
      let origin := windowVa (rf p 16 4)
      let bits := k % g.ic * w
      let va := origin + BitVec.ofNat 64 ((y.toNat * g.iw + x.toNat) * g.ips * 16 + bits / 8)
      (tileRead e origin va ((w + 7) / 8) s).bind fun s v => go s (some (v / 2 ^ (bits % 8) % 2 ^ w))

/-- The rows of A of an MCONV. -/
def convRows (e : Eng) (p : Nat) (g : Geom) : Nat → Nat → State → EngR (List (List (Option Nat)))
  | 0, _, s => .ok s []
  | n + 1, i, s =>
    (convRow e p g i (mxK p) 0 s).bind fun s r => (convRows e p g n (i + 1) s).bind fun s l => .ok s (r :: l)

/-- The operands of a product: A as rows of values, B as columns of values. -/
structure Operands where
  a : List (List XV)
  b : List (List XV)
  deriving DecidableEq, Repr

/-- Block scale byte g of row i of a packed array (13 R325). -/
def scaleAt (v k i g : Nat) : Nat := v / 256 ^ (i * (k / 32) + g) % 256

/-- Read every operand of a command: A's rows, B's, then the block scales (17 R416). -/
def mxOperands (e : Eng) (p ext : Nat) (s : State) : EngR Operands :=
  let fa := fmtOf (mxA p)
  let fb := fmtOf (mxB p)
  let (m, n, k) := (mxM p, mxN p, mxK p)
  let block := fmtBlock fa
  let oa := windowVa (rf p 16 4)
  let ob := windowVa (rf p 20 4)
  let arows (s : State) : EngR (List (List (Option Nat))) :=
    if pkKind p = 7 then convRows e p (geomOf ext) m 0 s
    else (tileRows e oa (rf p 46 2 * 16) ((k * fmtWidth fa + 7) / 8) m 0 s).bind fun s l =>
      .ok s (l.map fun r => (List.range k).map fun j => some (codeAt (fmtWidth fa) r j))
  let scales (off rows : Nat) (s : State) : EngR Nat :=
    if block then tileRead e (windowVa off) (windowVa off) (rows * (k / 32)) s else .ok s 0
  (arows s).bind fun s ra =>
    (if block then tileRows e ob (rf p 48 2 * 16) ((k * fmtWidth fb + 7) / 8) n 0 s
     else tileRows e ob (rf p 48 2 * 16) ((n * fmtWidth fb + 7) / 8) k 0 s).bind fun s rb =>
      (scales (rf p 32 4) m s).bind fun s sa => (scales (rf p 36 4) n s).bind fun s sb =>
        let a := ra.zipIdx.map fun r => r.1.zipIdx.map fun c =>
          match c.1 with
          | some v => opElem fa v (scaleAt sa k r.2 (c.2 / 32))
          | none => .fin false 0 0
        let b := if block then
            rb.zipIdx.map fun r => (List.range k).map fun j =>
              opElem fb (codeAt (fmtWidth fb) r.1 j) (scaleAt sb k r.2 (j / 32))
          else (List.range n).map fun j => rb.map fun r => opElem fb (codeAt (fmtWidth fb) r j) 0
        .ok s { a, b }

/-! ## Accumulation (09 R253) -/

/-- The exact sum of a group's products, with its flags. -/
def groupSum : List (XV × XV) → XV × Word
  | [] => (.fin false 0 0, 0)
  | l =>
    let ps := l.map fun q => xMul q.1 q.2
    match ps with
    | [] => (.fin false 0 0, 0)
    | h :: t => t.foldl (fun a q => let r := xAdd a.1 q.1; (r.1, a.2 ||| q.2 ||| r.2)) h

/-- Lists in groups of n. -/
def groupsOf {α : Type} (n : Nat) : Nat → List α → List (List α)
  | 0, _ => []
  | k + 1, l => if l.isEmpty then [] else l.take n :: groupsOf n k (l.drop n)

/-- One element's accumulation: its new FP32 code and its flags. -/
def accumulate (g : Nat) (c : Nat) (a b : List XV) : Nat × Word :=
  (groupsOf g (a.length + 1) (a.zip b)).foldl (fun acc l =>
    let t := groupSum l
    let u := xAdd (ff32.decode acc.1) t.1
    let r := roundArith ff32 u
    (r.1, acc.2 ||| t.2 ||| r.2)) (c, 0)

/-- An element of a bank. -/
def accGet (b : Acc) (i j : Nat) : Nat := (kvGet 0 b.elems (128 * i + j)).toNat
/-- Some run of the elements i < m, j < n mismatches, among those that `pick` names by their last column (11 R279). -/
def accBad (b : Acc) (m n : Nat) (pick : Nat → Bool) : Bool :=
  b.syns.any fun e => decide (e.1 / 32 < m) && decide (e.1 % 32 * 4 < n) && pick (e.1 % 32 * 4 + 3)
/-- Write elements i < m, j < n of a bank, row by row, with valid codes. -/
def accPut (b : Acc) (m n : Nat) (v : List (List Nat)) : Acc :=
  let keep := b.elems.filter fun e => !(decide (e.1 / 128 < m) && decide (e.1 % 128 < n))
  let elems := v.zipIdx.foldl (fun l r => r.1.zipIdx.foldl (fun l c =>
    kvSet 0 l (128 * r.2 + c.2) (BitVec.ofNat 32 c.1)) l) keep
  { elems, syns := b.syns.filter fun e => !(decide (e.1 / 32 < m) && decide (e.1 % 32 * 4 < n)) }

/-- A slot's bank. -/
def getBank (x : Slot) (b : Bool) : Acc := if b then x.acc1 else x.acc0
/-- Write a slot's bank. -/
def setBank (x : Slot) (b : Bool) (a : Acc) : Slot := if b then { x with acc1 := a } else { x with acc0 := a }
/-- The events an accumulation raises. -/
def accEvents : Word := fINV ||| fOVF ||| fINX
/-- The events an epilogue raises. -/
def epiEvents : Word := fINX ||| fSAT

/-- The group size of a product. -/
def groupSize (p : Nat) : Nat := if mxA p ≤ 2 then 16 else 32

/-- The bad accumulator run of a command. -/
def accError : Bad := { cause := 1, src := 4, addr := 0 }

/-- Accumulate: into the hidden command bank for a closed command, else into the bank it names (13 R326). -/
def mxAccumulate (e : Eng) (p ext : Nat) (s : State) : EngR Unit :=
  (mxOperands e p ext s).bind fun s o =>
    let x := getSlot s e.slot
    let zero := mxZero p
    let old := if mxClosed p then Acc.zero else getBank x (mxBank p)
    if accBad old (mxM p) (mxN p) (fun last => !zero || decide (mxN p ≤ last)) then .bad s accError else
      let r := o.a.zipIdx.map fun a => o.b.zipIdx.map fun b =>
        accumulate (groupSize p) (if zero then 0 else accGet old a.2 b.2) a.1 b.1
      let flags := r.foldl (fun f l => l.foldl (fun f c => f ||| c.2) f) 0 &&& accEvents
      let bank := accPut old (mxM p) (mxN p) (r.map fun l => l.map (·.1))
      if mxClosed p then .ok (updCmd s e.slot 5 e.uid fun c => { c with bank, events := c.events ||| flags }) ()
      else .ok (setSlot s e.slot (addMstat (setBank x (mxBank p) bank) (mxBank p) flags 0)) ()

/-! ## Epilogue (13 R326, 09 R253) -/

/-- The member offset of a part: nothing where D is local (13 R327). -/
def partRows (p : Nat) (part : Option GPart) : Nat :=
  match part with
  | some g => if inLocal (mxDaddr p) then 0 else g.member * mxM p
  | none => 0

/-- One row of the epilogue: encoded, written, counted. -/
def mxRow (e : Eng) (p : Nat) (r : Resolved) (part : Option GPart) (i : Nat) (s : State) : EngR (Nat × Bool) :=
  let x := getSlot s e.slot
  let bank := if mxClosed p then ((findCmd s e.slot 5 e.uid).map (·.bank)).getD .zero else getBank x (mxBank p)
  let shift : Int := -(sbyte (rf p 50 1)) - sbyte (rf p 51 1)
  let xs := (List.range (mxN p)).map fun j => (ff32.decode (accGet bank i j)).scale shift
  let enc (xs : List XV) : TOut := encodeElems r.dfmt r.dscale (pkRtz p) (r.dfmt == .fp32) xs
  let w := fmtWidth r.dfmt
  let note (s : State) (t : TOut) : State :=
    if mxClosed p then
      updCmd s e.slot 5 e.uid fun c => { c with events := c.events ||| (t.flags &&& epiEvents), satn := c.satn + t.sats }
    else updSlot s e.slot fun x => addMstat x (mxBank p) (t.flags &&& epiEvents) t.sats
  if !mxClosed p && bank.syns.any (fun q => q.1 / 32 == i && decide (q.1 % 32 * 4 < mxN p)) then .bad s accError else
    match r.drec with
    | some d =>
      let o := mxDloc p + (partRows p part + i) * recRowStride d.val
      let xs := xs.take (recExtent d.val - o)
      if xs.isEmpty then .ok s (0, false) else
        let t := enc xs
        (engWriteRuns e (tensorRuns r.dfmt (recBase d.val) (recScales d.val) (some r.rver) o t) s).bind fun s _ =>
          let (s, m) := mergeCounts s (getSlot s e.slot).job d.span (countValues xs t.sats)
          .ok (note s t) (t.sats, m)
    | none =>
      let t := enc xs
      let va := mxDaddr p + BitVec.ofNat 64 ((partRows p part + i) * mxDstr p * 16)
      let n := (mxN p * w + 7) / 8
      let v := packCodes w t.codes
      let fin (s : State) (sps : List Span) : EngR (Nat × Bool) :=
        (engWrite e (spanWrites sps v) s).bind fun s _ => .ok (note s t) (t.sats, false)
      if inWindow (mxDaddr p) then
        if va.toNat / 2 ^ 21 ≠ (mxDaddr p).toNat / 2 ^ 21 then .fault s kWindow va true
        else (engWindow e true va n s).bind fin
      else (engSpans e true false va n s).bind fin

/-- What a matrix command's run has come to: its state, with the command's progress in it, and how it stopped. -/
inductive MRun where
  | done (s : State)
  | fault (s : State) (k : Kind) (va : Word) (wr : Bool)
  | stall (s : State)
  | bad (s : State) (b : Bad)
  deriving DecidableEq, Repr

/-- The rows of an epilogue from a command's progress on. -/
def mxRows (slot uid : Nat) (e : Eng) (p : Nat) (r : Resolved) (part : Option GPart) : Nat → Nat → State → MRun
  | 0, _, s => .done s
  | fuel + 1, i, s =>
    match mxRow e p r part i s with
    | .ok s (n, m) =>
      mxRows slot uid e p r part fuel (i + 1)
        (updCmd s slot 5 uid fun c => { c with progress := i + 1, sats := c.sats + n, marked := c.marked || m })
    | .fault s k va wr => .fault s k va wr
    | .stall s => .stall s
    | .bad s b => .bad s b
    | .stop s _ _ => .done s

/-- Run a packet command of the matrix engine from where it stands. -/
def mxRun (slot : Nat) (c : Cmd) (p ext : Nat) (r : Resolved) (part : Option GPart) (s : State) : MRun :=
  let e := c.eng slot 5
  let epi (s : State) : MRun :=
    if mxEpi p then mxRows slot c.uid e p r part (mxM p - c.progress) c.progress s else .done s
  let begun (s : State) : State := updCmd s slot 5 c.uid fun c => { c with started := true }
  if c.started then epi s
  else if pkKind p = 11 then epi (begun s)
  else
    match mxAccumulate e p ext s with
    | .ok s _ => epi (begun s)
    | .fault s k va wr => .fault s k va wr
    | .stall s => .stall s
    | .bad s b => .bad s b
    | .stop s _ _ => .done s

/-- MZERO and MSWAP (17 R418, 07 R185). -/
def bankWord (x : Slot) : CmdBody → Slot
  | .mzero b clr =>
    let x := setBank x b .zero
    if !clr then x else if b then { x with mstat1 := 0 } else { x with mstat0 := 0 }
  | .mswap => { x with acc0 := x.acc1, acc1 := x.acc0, mstat0 := x.mstat1, mstat1 := x.mstat0 }
  | .packet _ _ _ _ => x

/-- Destination bytes that a matrix command has performed (13 R321). -/
def mxBytes (c : Cmd) : Nat :=
  match c.res with
  | some r => c.progress * (mxN c.pkt * fmtWidth r.dfmt) / 8
  | none => 0

/-- The destination range of a matrix packet, for `rows` rows of D from row `from_` (13 R321). -/
def mxRange (p : Nat) (r : Resolved) (rows : Nat) : RelRange :=
  if !mxEpi p then .range 0 0 else
    let w := fmtWidth r.dfmt
    match r.drec with
    | some d =>
      .range (recBase d.val + BitVec.ofNat 64 (mxDloc p * w / 8))
        ((((rows - 1) * recRowStride d.val + mxN p) * w + 7) / 8)
    | none => .range (mxDaddr p) ((rows - 1) * mxDstr p * 16 + (mxN p * w + 7) / 8)

end Sys2Proof.Machine
end

