-- ==== Sys2Proof/Machine/Queues.lean ====
section
/-! DEFINITION. Shared queues as their consumers see them: descriptors, indices and completion rings (03 R71-R77, 13 R336,
R475). Job 0 is the supervisor, whose descriptors stand at physical addresses. -/

namespace Sys2Proof.Machine

/-- The translation context of a queue's consumer. -/
def queueCtx (s : State) (job : Nat) : TCtx := unitCtx (lowDie s) job (job == 0)

/-- The span of a queue descriptor's field. -/
def queueSpan (s : State) (job : Nat) (desc : Word) (off n : Nat) : State × Option Span :=
  if job = 0 then
    match locate (desc.toNat + off) with
    | some (loc, area) =>
      (s, some { va := desc + BitVec.ofNat 64 off, loc, len := n, area, sw := 5, et := false, tt := false, cst := false })
    | none => (s, none)
  else
    match translate s (queueCtx s job) (desc + BitVec.ofNat 64 off) n { r := true } with
    | (s, .ok [sp]) => (s, some sp)
    | (s, _) => (s, none)

/-- A queue's descriptor, none where it does not translate or is an uncorrectable error. -/
def queueDesc (s : State) (job : Nat) (desc : Word) : State × Option QDesc :=
  match queueSpan s job desc 0 64 with
  | (s, some sp) =>
    match homeChecked s [sp] with
    | some (v, k) => (countUnit s job k, some (qdescOf v))
    | none => (s, none)
  | (s, none) => (s, none)

/-- Release a value on an index of a queue (03 R71, R75, R77). -/
def queueRelease (s : State) (job : Nat) (desc : Word) (off v : Nat) (range : RelRange) : State :=
  match queueSpan s job desc off 8 with
  | (s, some sp) => devRelease s job sp v range
  | (s, none) => s

/-- Write a field of a queue's descriptor. -/
def queueSet (s : State) (job : Nat) (desc : Word) (off n v : Nat) : State :=
  match queueSpan s job desc off n with
  | (s, some sp) => (devUpdate s job sp n fun _ => some v).1
  | (s, none) => s

/-- Write a completion record in a queue's completion ring, then release CWR + 1 on CWR (03 R77). -/
def queueDone (s : State) (job : Nat) (desc : Word) (v : Nat) : State :=
  match queueDesc s job desc with
  | (s, some q) =>
    let va := q.cbase + BitVec.ofNat 64 (q.cwr % 2 ^ q.clog * 32)
    let (s, _) := unitWrite s (queueCtx s job) va 32 v
    queueRelease s job desc 48 (q.cwr + 1) (.range va 32)
  | (s, none) => s

/-- The bytes of a ring record: STATUS, FCODE, KIND, RVER, TAG, BYTES, SATCNT, byte 20, and the DONE word (13 R321, R475). -/
def queueRecord (status fcode kind rver tag bytes sats extra : Nat) : Nat :=
  status + fcode * 2 ^ 8 + kind * 2 ^ 16 + rver * 2 ^ 24 + tag * 2 ^ 32 + bytes % 2 ^ 64 * 2 ^ 64
    + min sats 0xFFFFFFFF * 2 ^ 128 + extra * 2 ^ 160 + (2 ^ 63 + tag) * 2 ^ 192

end Sys2Proof.Machine
end

