-- ==== Sys2Proof/Machine/EngineRun.lean ====
section
/-! DEFINITION. The engines of a slot at work: portions, ends and completion records, GMMA parts, floating-point reductions
at memory, and the three completion events (13 R321, R327, 17 R416-R423, 08 R225-R227). -/

namespace Sys2Proof.Machine

/-- What a step of an engine answers: the next state, or a translation fault of a command, its engine and state before. -/
inductive EStep where
  | next (s : State)
  | fault (s : State) (c : Cmd) (k : Kind) (va : Word) (wr : Bool)
  deriving DecidableEq, Repr

/-- A command as it stands in its queue now. -/
def curCmd (s : State) (slot eng : Nat) (c : Cmd) : Cmd :=
  ((engQueue (getSlot s slot) eng).find? fun d => d.uid == c.uid).getD c

/-! ## GMMA (13 R327, 17 R417) -/

/-- Some part of a GMMA is still in a queue, of a slot or of a saved task. -/
def partsLeft (s : State) (gid : Nat) : Bool :=
  let mine (x : Slot) : Bool := x.mq.any fun c => match c.part with | some g => g.gid == gid | none => false
  s.slots.any (fun e => mine e.2)
    || (savedTasks s).any fun t => mine t.slot

/-- The completion record of a GMMA once no part is left; its status comes from its parts (17 R417). -/
def finishGmma (s : State) (gid : Nat) : EStep :=
  match s.gcmds.find? fun g => g.gid == gid with
  | none => .next s
  | some g =>
    if partsLeft s gid || g.paused.isSome then .next s else
      let p := g.pkt.toNat
      let low := g.fails.foldl (fun (m : Nat × Nat) f => if f.1 < m.1 then f else m) (256, 0)
      let ok := g.fails.isEmpty && !g.aborted
      let st := if !g.fails.isEmpty then 3 else if g.aborted then 4 else 0
      let fc := if !g.fails.isEmpty then low.2 else if ok && g.marked.isSome then 10 else 0
      let e : Eng := { slot := g.owner, src := 4, uid := gid, by_ := .C }
      let rec_ := recordBytes st fc 6 g.rver.toNat (pkTag p) g.bytes g.sats
      let c : Cmd := { uid := gid, body := .packet g.pkt 0 (.plain .fp32 .fp32) none, progress := 0, sats := 0, started := true,
                       paused := none, status := some st, fcode := fc, inRegion := false, after := none, by_ := .C,
                       pulled := none, marked := false }
      let fin (s : State) : State :=
        let mark : List OvfMark := match g.marked with
          | some r => [{ path := .matrix, done := if pkCrec p = 0 then 0 else pkCrec p + 24, bank := some (mxBank p),
                         ctx := none, low := 0, obs := .C, record := r }]
          | none => []
        let s := updSlot { s with gcmds := s.gcmds.filter fun g => g.gid != gid } g.owner fun x =>
          { x with marks := x.marks ++ mark }
        checkEnd s g.owner
      match engRecord e (pkCrec p) rec_ (pkTag p) g.range s with
      | .ok s _ => .next (fin s)
      | .fault s k va wr => .fault s c k va wr
      | .stall s => .next s
      | .bad s b => .next (slotError (fin s) g.owner gid b)
      | .stop s _ _ => .next (fin s)

/-- A part that has its status leaves its queue: what it wrote is counted and it arrives at its barrier (17 R417). -/
def endPart (s : State) (slot : Nat) (c : Cmd) (g : GPart) : EStep :=
  let c := curCmd s slot 5 c
  let status := c.status.getD 0
  let upd (q : GCmd) : GCmd :=
    if q.gid ≠ g.gid then q
    else if status = 0 then
      { q with bytes := q.bytes + mxBytes c, sats := q.sats + c.sats,
               marked := if c.marked then (c.res.bind (·.drec)).map (·.va) else q.marked }
    else if status = 3 then { q with fails := q.fails ++ [(g.member, c.fcode)] } else { q with aborted := true }
  let s := { s with gcmds := s.gcmds.map upd }
  let p := c.pkt
  let s :=
    if status = 0 ∧ rf p 3 1 / 128 = 1 then
      match barOf (getSlot s slot) (BitVec.ofNat 4 (rf p 3 1)) with
      | some i => arriveLocal s slot i
      | none => s
    else s
  let s := updSlot s slot fun x => settleEvents x c
  finishGmma (checkEnd (kickPlace (kick (dropCmd s slot 5 c.uid) slot 5) (c.place slot 5)) slot) g.gid

/-! ## Ends -/

/-- Destination bytes that a command has performed (13 R321). -/
def doneBytes (eng : Nat) (c : Cmd) : Nat :=
  if eng < 5 then c.progress else mxBytes c

/-- The destination range of a command. -/
def cmdRange (eng : Nat) (c : Cmd) : RelRange :=
  if eng < 4 then copyRange c
  else if eng = 4 then gatherRange c
  else match c.res with
    | some r => mxRange c.pkt r (mxM c.pkt)
    | none => .range 0 0

/-! ## What a false RELOC leaves undefined (06 R163) -/

/-- The storage of ranges of addresses as a slot's engines translate them now (log 10). -/
def storageOf (s : State) (slot : Nat) (l : List (Word × Nat)) : List Span :=
  l.flatMap fun r => match (translate s (engineCtx s slot) r.1 r.2 {}).2 with | .ok sps => sps | _ => []
/-- n runs of len bytes, a stride apart. -/
def rowRanges (va : Word) (stride len n : Nat) : List (Word × Nat) :=
  (List.range n).map fun i => (va + BitVec.ofNat 64 (i * stride), len)
/-- The elements of a tensor from offset o on, with their block scales. -/
def tensorRange (rec : Nat) (f : Fmt) (o n : Nat) : List (Word × Nat) :=
  (recBase rec + BitVec.ofNat 64 (o * fmtWidth f / 8), (n * fmtWidth f + 7) / 8)
    :: (if fmtBlock f then [(recScales rec + BitVec.ofNat 64 (o / 32), (n + 31) / 32)] else [])
/-- What a matrix packet writes: the rows of its destination. -/
def mxWrites (p : Nat) (r : Resolved) (part : Option GPart) : List (Word × Nat) :=
  if !mxEpi p then [] else
    let row := partRows p part
    match r.drec with
    | some d => (d.va, 256) :: (List.range (mxM p)).flatMap fun i =>
        tensorRange d.val r.dfmt (mxDloc p + (row + i) * recRowStride d.val) (mxN p)
    | none => rowRanges (mxDaddr p + BitVec.ofNat 64 (row * mxDstr p * 16)) (mxDstr p * 16) ((mxN p * fmtWidth r.dfmt + 7) / 8) (mxM p)
/-- What a matrix packet reads: its operands with their block scales; of an MCONV the whole image. -/
def mxReads (p ext : Nat) : List (Word × Nat) :=
  if pkKind p = 11 then [] else
    let fa := fmtOf (mxA p)
    let fb := fmtOf (mxB p)
    let (m, n, k) := (mxM p, mxN p, mxK p)
    let g := geomOf ext
    let oa := windowVa (rf p 16 4)
    let ob := windowVa (rf p 20 4)
    (if pkKind p = 7 then [(oa, g.ih * g.iw * g.ips * 16)] else rowRanges oa (rf p 46 2 * 16) ((k * fmtWidth fa + 7) / 8) m)
      ++ (if fmtBlock fa then rowRanges ob (rf p 48 2 * 16) ((k * fmtWidth fb + 7) / 8) n
          else rowRanges ob (rf p 48 2 * 16) ((n * fmtWidth fb + 7) / 8) k)
      ++ (if fmtBlock fa then [(windowVa (rf p 32 4), m * (k / 32)), (windowVa (rf p 36 4), n * (k / 32))] else [])
/-- The ranges that a command reads. -/
def cmdReads (eng : Nat) (c : Cmd) : List (Word × Nat) :=
  let p := c.pkt
  match c.body with
  | .packet _ ext r _ =>
    if eng = 5 then mxReads p ext.toNat
    else if eng = 4 then
      (BitVec.ofNat 64 (rf p 24 8), 4 * gaCount p) :: rowRanges (BitVec.ofNat 64 (rf p 16 8)) (rf p 48 4) (gaRow p) (rf p 52 4)
    else if pkKind p = 1 then [(cpSrc p, cpLen p)]
    else if pkKind p = 4 then []
    else
      (cpSrc p, (cpLen p * fmtWidth r.sfmt + 7) / 8)
        :: (match r.srec with
            | some n => tensorRange n.val r.sfmt (elemOff (cpSrc p) n.val r.sfmt) (cpLen p)
            | none => [])
        ++ (if pkKind p = 3 then [(cpTrec p, 512), (cpDst p, redBytes p)] else [])
  | _ => []
/-- The ranges that a command writes, its completion record among them. -/
def cmdWrites (eng : Nat) (c : Cmd) : List (Word × Nat) :=
  let p := c.pkt
  match c.body with
  | .packet _ _ r part =>
    (if pkCrec p = 0 ∨ part.isSome then [] else [(pkCrec p, 32)])
      ++ (if eng = 5 then mxWrites p r part
          else
            match (if eng = 4 then gatherRange c else copyRange c) with
            | .range va n => [(va, n)]
            | .all => [])
      ++ (match r.drec with
          | some d => if eng < 4 then tensorRange d.val r.dfmt (elemOff (cpDst p) d.val r.dfmt) (cpLen p) ++ [(d.va, 256)] else []
          | none => [])
  | _ => []
/-- The storage that two lists of spans share. -/
def sharedSpans (a b : List Span) : List Span :=
  a.flatMap fun x => b.filterMap fun y =>
    let lo := max x.loc y.loc
    let hi := min (x.loc + x.len) (y.loc + y.len)
    if lo < hi then some { x with va := x.va + BitVec.ofNat 64 (lo - x.loc), loc := lo, len := hi - lo } else none
/-- Give storage contents that nothing constrains (log 10). -/
def freeSpan (e : Eng) (s : State) (sp : Span) : State :=
  let (d, s) := draw s
  let v := natOf ((List.range sp.len).map fun i => Config.freeByte d i)
  match engWrite e [{ span := sp, val := v, syns := none, stamp := none, md := none }] s with
  | .ok s _ => s
  | _ => s
/-- After a step of a command whose RELOC, or a later command's, was false, the shared storage holds anything. -/
def churn (slot eng : Nat) (c : Cmd) (s : State) : State := c.scram.foldl (freeSpan (c.eng slot eng)) s
/-- A command with RELOC asserts that it reads nothing that earlier commands of its engine write, and writes nothing that they read or write.
Where that is false the shared storage is undefined from now until both have ended (06 R163). -/
def checkAssertion (s : State) (slot eng uid : Nat) : State :=
  match findCmd s slot eng uid with
  | none => s
  | some c =>
    if !pkReloc c.pkt || c.status.isSome then s else
      let place := c.place slot eng
      let earlier := s.slots.flatMap fun e => (engQueue e.2 eng).filterMap fun d =>
        if d.status.isNone && decide (d.uid < uid) && d.place e.1 eng == place then some (e.1, d) else none
      let (cr, cw) := (storageOf s slot (cmdReads eng c), storageOf s slot (cmdWrites eng c))
      earlier.foldl (fun s e =>
        let er := storageOf s e.1 (cmdReads eng e.2)
        let ew := storageOf s e.1 (cmdWrites eng e.2)
        let l := sharedSpans ew cr ++ sharedSpans (er ++ ew) cw
        let note (c : Cmd) : Cmd := { c with scram := c.scram ++ l }
        l.foldl (freeSpan (c.eng slot eng)) (updCmd (updCmd s slot eng uid note) e.1 eng e.2.uid note)) s

/-! ## Completion and errors -/

/-- Write a command's completion record, in memory or in its queue's completion ring, and retire it (13 R321, 03 R77); a GMMA part leaves
its queue. -/
def finishStep (s : State) (slot eng : Nat) (c : Cmd) : EStep :=
  let p := c.pkt
  let rver := match c.res with | some r => r.rver.toNat | none => 0
  let st := c.status.getD 0
  match c.part, c.queue with
  | some g, _ => endPart s slot c g
  | none, some desc =>
    .next (retireCmd (queueDone s (slotJob s slot) desc
      (queueRecord st c.finalCode (pkKind p) rver (pkTag p) (doneBytes eng c) c.sats 0)) slot eng c 0)
  | none, none =>
    match engRecord (c.eng slot eng) (pkCrec p)
        (recordBytes st c.finalCode (pkKind p) rver (pkTag p) (doneBytes eng c) c.sats) (pkTag p) (cmdRange eng c) s with
    | .ok s _ => .next (retireCmd s slot eng c c.progress)
    | .fault s k va wr => .fault s c k va wr
    | .stall s => .next s
    | .bad s b => .next (slotError (retireCmd s slot eng c c.progress) slot c.uid b)
    | .stop s _ _ => .next (retireCmd s slot eng c c.progress)

/-- An error that a command consumed: in a region it unwinds with the command; otherwise the command ends FAULT,
UNCORRECTABLE and the slot takes MACHINE_CHECK; a unit's command posts the event alone (11 R284, R286). -/
def cmdError (s : State) (slot eng : Nat) (c : Cmd) (b : Bad) : EStep :=
  if isUnit slot then
    .next (postUncorrectable (endCmd s slot eng c.uid 3 11) (slotJob s slot) (c.source slot) b.addr
      (badDetail (getSlot s slot) b false))
  else
    let s := if inRegion (getSlot s slot) c.uid then s else endCmd s slot eng c.uid 3 11
    .next (slotError s slot c.uid b)

/-- Run a matrix command, and complete it in its turn: a pulled command's status and record stand in the order of the owner's queue (06
R166). -/
def matrixStep (s : State) (slot : Nat) (c : Cmd) : EStep :=
  match c.body with
  | .packet p ext r part =>
    match mxRun slot c p.toNat ext.toNat r part s with
    | .done s =>
      let s := endCmd s slot 5 c.uid 0 0
      let c := curCmd s slot 5 c
      if (finishing (getSlot s slot) 5).any fun d => d.uid == c.uid then finishStep s slot 5 c else .next s
    | .fault s k va wr => .fault s c k va wr
    | .stall s => .next s
    | .bad s b => cmdError s slot 5 c b
  | b =>
    let s := dropCmd (updSlot s slot fun x => bankWord x b) slot 5 c.uid
    .next (checkEnd (kickPlace (kick s slot 5) (c.place slot 5)) slot)

/-! ## Portions -/

/-- A copy context's pointer moves by the bytes delivered (07 R186); a pulled command's bytes wait for its turn (06 R166). -/
def advancePointer (s : State) (slot eng : Nat) (c : Cmd) (n : Nat) : State :=
  if eng < 4 ∧ !c.relocated slot then
    updSlot s slot fun x => { x with chwp := vset x.chwp (BitVec.ofNat 2 eng)
                                       (vget x.chwp (BitVec.ofNat 2 eng) + BitVec.ofNat 32 n) }
  else s

/-- One portion of a copy or gather command; an FP reduction sends its contribution to the home once. -/
def portionStep (s : State) (slot eng : Nat) (c : Cmd) : EStep :=
  if eng < 4 ∧ pkKind c.pkt = 3 then
    if c.started then .next s
    else .next (enqueue (updCmd s slot eng c.uid fun c => { c with started := true })
      (.event (.fpReduceContribution (redPacket slot c))))
  else
    let e := c.eng slot eng
    let r := if eng < 4 then copyPortion e c (c.res.getD (.plain .fp32 .fp32)) s else gatherPortion e c s
    match r with
    | .ok s a =>
      let s := updCmd s slot eng c.uid fun c =>
        { c with progress := c.progress + a.done, sats := c.sats + a.sats, marked := c.marked || a.marked, started := true }
      let s := advancePointer s slot eng c a.done
      (match a.status with
       | some (st, fc) => .next (endCmd s slot eng c.uid st fc)
       | none => .next (enqueue s (.work slot eng c.uid)))
    | .fault s k va wr => .fault s c k va wr
    | .stall s => .next s
    | .bad s b => cmdError s slot eng c b
    | .stop s st fc => .next (endCmd s slot eng c.uid st fc)

/-- A fault of a command comes about as ENGINE_FAULT next (04 R105). -/
def raise (slot eng : Nat) : EStep → State
  | .next s => s
  | .fault s _ _ _ _ => enqueue s (.event (.engineFault slot eng))

/-- An engine of a slot works in a package that runs, on a die that is not fenced. -/
def engineUp (s : State) (slot : Nat) : Bool :=
  s.running && (isUnit slot || !(getDie s (dieOfCore (coreOf slot))).fenced)

/-- Run a command in its slot's turn at its engine; out of turn, the others that have work there go first (07 R184, R186). -/
def byTurn (s : State) (slot eng : Nat) (c : Cmd) (f : State → State) : State :=
  let place := c.place slot eng
  if engTurn s place slot then churn slot eng c (f (serve s place slot))
  else
    (engSources s place).foldl (fun s' e =>
      if e.1 = slot then s'
      else
        ((runnable s e.1 e.2).filter fun c => c.place e.1 e.2 == place).foldl (fun s' c =>
          enqueue s' (if e.2 = 5 then .event (.matrixCommandComplete e.1) else .work e.1 e.2 c.uid)) s') s

/-- A portion of work of a queue's command (log 3); it waits while a table write is not complete (04 R100). -/
def workStep (s : State) (slot eng uid : Nat) : State :=
  if !engineUp s slot then s
  else if !s.drops.isEmpty then hold s (.work slot eng uid)
  else
    match (runnable s slot eng).find? fun c => c.uid == uid with
    | some c => byTurn s slot eng c fun s => raise slot eng (if eng = 5 then matrixStep s slot c else portionStep s slot eng c)
    | none => s

/-- The completion record that an engine of a slot writes next, its command's or a GMMA's; none where there is none to write. -/
def recordStep (s : State) (slot eng : Nat) : Option EStep :=
  match finishing (getSlot s slot) eng with
  | some c => some (match finishStep s slot eng c with | .next s => .next (churn slot eng c s) | r => r)
  | none =>
    if eng ≠ 5 then none
    else (s.gcmds.find? fun g => g.owner == slot && g.paused.isNone && !partsLeft s g.gid).map fun g => finishGmma s g.gid

/-- What an engine of a slot does next at its completion event: a completion record, or else, for the matrix engine, a
command. -/
def completeStep (s : State) (slot eng : Nat) : State :=
  if !engineUp s slot then s else
    match recordStep s slot eng with
    | some r => raise slot eng r
    | none =>
      if eng ≠ 5 then s else
        match runnable s slot 5 with
        | c :: _ => byTurn s slot 5 c fun s => raise slot 5 (matrixStep s slot c)
        | [] => s

/-- COPY_PACKET_COMPLETE (17 R420, 13 R321). -/
def execCopyPacketComplete (slot ctx : Nat) (s : State) : Host.Outcome State Fault Refusal :=
  .next (if 4 ≤ ctx then s else completeStep s slot ctx)
/-- GATHER_COMPLETE (17 R423). -/
def execGatherComplete (slot : Nat) (s : State) : Host.Outcome State Fault Refusal := .next (completeStep s slot 4)
/-- MATRIX_COMMAND_COMPLETE (17 R416-R418). -/
def execMatrixCommandComplete (slot : Nat) (s : State) : Host.Outcome State Fault Refusal := .next (completeStep s slot 5)

/-- The first step of an engine of a slot that faults now. -/
def faultNow (s : State) (slot eng : Nat) : Option (State × Cmd × Kind × Word × Bool) :=
  if !engineUp s slot then none else
    let tries := (recordStep s slot eng).toList
      ++ (runnable s slot eng).map fun c => if eng = 5 then matrixStep s slot c else portionStep s slot eng c
    tries.findSome? fun r => match r with
      | .fault s c k va wr => some (s, c, k, va, wr)
      | .next _ => none

/-- ENGINE_FAULT of an engine of a slot: the command is paused, and the event is posted (04 R105). -/
def pauseEngine (s : State) (slot eng : Nat) : State :=
  match faultNow s slot eng with
  | some (s, c, k, va, wr) =>
    let s := updCmd s slot eng c.uid fun c => { c with paused := some (k, va, wr) }
    let s := { s with gcmds := s.gcmds.map fun (g : GCmd) => if g.gid = c.uid then { g with paused := some (k, va, wr) } else g }
    postEngineFault s (slotJob s slot) (c.source slot) eng (pkTag c.pkt) k va wr
  | none => kick s slot eng

/-! ## Floating-point reductions (08 R225-R227) -/

/-- The most passes a home holds in progress. -/
def maxPasses : Nat := 8

/-- The command of a reduction packet. -/
def redCmd (s : State) (p : RedPacket) : Option (Nat × Cmd) :=
  (List.range 4).findSome? fun eng =>
    ((engQueue (getSlot s p.slot) eng).find? fun c => c.uid == p.uid && c.status.isNone).map fun c => (eng, c)

/-- The identity of a contribution's source as a table entry gives it, without its flags (08 R225; log 41). -/
def redIdent (c : Cmd) (p : RedPacket) : Nat :=
  let core := if isUnit p.slot then c.pulled.getD 0 / 8 else coreOf p.slot
  core / 256 + core / 8 % 32 * 2 ^ 8 + core % 8 * 2 ^ 16 + (if isUnit p.slot then 0 else p.slot % 2) * 2 ^ 24
    + p.seqno.toNat * 2 ^ 32

/-- One element of a reduction: the new code and whether it saturated (08 R226). -/
def redElem (f : Fmt) (d c : XV) : Nat × Bool :=
  if f = .fp64 then ((roundArith ff64 (xAdd d c)).1, false)
  else
    let to32 (x : XV) : XV := ff32.decode (ff32.convert true x).1
    let t := ff32.decode (roundArith ff32 (xAdd (to32 d) (to32 c))).1
    let r := convertTo f false (f == .fp32) t
    (r.1, r.2 &&& fSAT != 0)

/-- Add a contribution at its destination: the source is read, the destination read and written at the home. -/
def redAdd (e : Eng) (p : RedPacket) (s : State) : EngR (Except Bad Nat) :=
  let ws := fmtWidth p.sfmt
  let wd := fmtWidth p.dfmt
  (engReadAt e p.src (p.len * ws / 8) s).bind fun s c =>
    (engSpans e true false p.dst (p.len * wd / 8) s).bind fun s sps =>
      match engRead { e with src := 6 } sps s with
      | .bad s b => .ok s (.error b)
      | .ok s d =>
        let l := (List.range p.len).map fun i =>
          redElem p.dfmt (decodeElem p.dfmt (codeAt wd d i)) (decodeElem p.sfmt (codeAt ws c i))
        (engWrite e (spanWrites sps (packCodes wd (l.map (·.1)))) s).bind fun s _ =>
          .ok s (.ok (l.filter (·.2)).length)
      | .fault s k va wr => .fault s k va wr
      | .stall s => .stall s
      | .stop s st fc => .stop s st fc

/-- Write a pass. -/
def setPass (s : State) (q : RedPass) : State :=
  { s with passes := s.passes.map fun o => if o.table = q.table ∧ o.home = q.home then q else o }

/-- A pass ends: what it holds arrives anew, and a table that waited for room takes its place (08 R227). -/
def endPass (s : State) (q : RedPass) : State :=
  let s := { s with passes := s.passes.filter fun o => !(o.table == q.table && o.home == q.home) }
  let next := s.passes.find? fun o => o.home == q.home && !o.active
  let s := q.held.foldl (fun s p => enqueue s (.event (.fpReduceContribution p))) s
  match next with
  | some o =>
    let s := { s with passes := s.passes.filter fun r => !(r.table == o.table && r.home == o.home) }
    o.held.foldl (fun s p => enqueue s (.event (.fpReduceContribution p))) s
  | none => s

/-- Admit contributions in table order (08 R226). -/
def runPass : Nat → State → RedPass → State
  | 0, s, q => setPass s q
  | fuel + 1, s, q =>
    match q.entries[q.pos]? with
    | none => endPass s q
    | some ent =>
      let hit := q.held.find? fun p => match redCmd s p with
        | some (_, c) => redIdent c p == ent % 2 ^ 48
        | none => false
      match hit with
      | none => setPass s q
      | some p =>
        match redCmd s p with
        | none => setPass s q
        | some (eng, c) =>
          let next (s : State) : State :=
            runPass fuel s { q with pos := q.pos + 1, since := s.time, held := q.held.filter fun o => o.uid != p.uid }
          if p.skip then next (endCmd s p.slot eng c.uid 0 0)
          else
            match redAdd (c.eng p.slot eng) p s with
            | .ok s (.ok n) =>
              let b := p.len * fmtWidth p.dfmt / 8
              let s := updCmd s p.slot eng c.uid fun c => { c with progress := b, sats := n }
              next (endCmd (churn p.slot eng c (advancePointer s p.slot eng c b)) p.slot eng c.uid 0 0)
            | .ok s (.error b) =>
              next (postUncorrectable (endCmd s p.slot eng c.uid 3 11) (slotJob s p.slot) (c.source p.slot) b.addr
                (badDetail (getSlot s p.slot) b false))
            | .fault s k va wr =>
              let s := updCmd s p.slot eng c.uid fun c => { c with paused := some (k, va, wr), started := false }
              let q := { q with held := q.held.filter fun o => o.uid != p.uid }
              setPass (postEngineFault s (slotJob s p.slot) (c.source p.slot) eng (pkTag c.pkt) k va wr) q
            | .stall s => setPass (updCmd s p.slot eng c.uid fun c => { c with started := false })
                { q with held := q.held.filter fun o => o.uid != p.uid }
            | .bad s b => (match cmdError s p.slot eng c b with | .next s => next s | .fault s _ _ _ _ => next s)
            | .stop s st fc => next (endCmd s p.slot eng c.uid st fc)

/-- A contribution or a skip notice reaches its home: it joins the pass of its table, or begins one (08 R226, R227). -/
def contribute (s : State) (p : RedPacket) : State :=
  match redCmd s p with
  | none => s
  | some (eng, c) =>
    let e := c.eng p.slot eng
    let pause (s : State) (k : Kind) (va : Word) (wr : Bool) : State :=
      postEngineFault (updCmd s p.slot eng c.uid fun c => { c with paused := some (k, va, wr), started := false })
        (slotJob s p.slot) (c.source p.slot) eng (pkTag c.pkt) k va wr
    match engSpans e false false p.table 512 s with
    | .ok s sps =>
      match engSpans e true false p.dst 1 s with
      | .ok s dps =>
        let table := (sps.headD (movePiece.homeSpan0 0 0)).loc
        let home := (dps.headD (movePiece.homeSpan0 0 0)).loc / 2 ^ 36
        let join (s : State) (q : RedPass) : State :=
          if !(q.entries.any fun ent => redIdent c p == ent % 2 ^ 48) then setPass (endCmd s p.slot eng c.uid 2 fcTable) q
          else
            let q := { q with held := q.held ++ [p] }
            if q.active then runPass 65 s q else setPass s q
        (match s.passes.find? fun q => q.table == table && q.home == home with
         | some q => join s q
         | none =>
           match loadSpans 6 p.slot .home s sps with
           | .error b => (match cmdError s p.slot eng c b with | .next s => s | .fault s _ _ _ _ => s)
           | .ok (s, v) =>
             match tableEntries v with
             | none => endCmd s p.slot eng c.uid 2 fcTable
             | some entries =>
               if !(entries.any fun ent => redIdent c p == ent % 2 ^ 48) then endCmd s p.slot eng c.uid 2 fcTable else
                 let active := decide ((s.passes.filter fun q => q.home == home && q.active).length < maxPasses)
                 let q : RedPass := { table, home, entries, pos := 0, since := s.time, held := [], active }
                 join { s with passes := s.passes ++ [q] } q)
      | .fault s k va wr => pause s k va wr
      | .stall s => updCmd s p.slot eng c.uid fun c => { c with started := false }
      | _ => s
    | .fault s k va wr => pause s k va wr
    | .stall s => updCmd s p.slot eng c.uid fun c => { c with started := false }
    | _ => s

/-- FP_REDUCE_CONTRIBUTION (08 R226). -/
def execFpReduceContribution (p : RedPacket) (s : State) : Host.Outcome State Fault Refusal := .next (contribute s p)

/-- FP_REDUCE_TIMEOUT: a pass that has waited 100 µs for its entry ends, and every contribution that names its table and is
not complete ends with TIMEOUT (08 R226). -/
def execFpReduceTimeout (table : Loc) (s : State) : Host.Outcome State Fault Refusal :=
  .next <|
    match s.passes.find? fun q => q.table == table && q.active && decide (q.since + 100000 ≤ s.time) with
    | none => s
    | some q =>
      let s := q.held.foldl (fun s p =>
        match redCmd s p with
        | some (eng, c) => endCmd s p.slot eng c.uid 5 23
        | none => s) s
      endPass s { q with held := [] }

end Sys2Proof.Machine
end

