-- ==== Sys2Proof/Machine/CollPlan.lean ====
section
/-! DEFINITION. Collectives as their descriptors give them: fields and checks, meshes, layouts, the steps of an exchange, and
which elements go where (02 R50-R53, 13 R331, 17 R426, 20 R463). -/

namespace Sys2Proof.Machine

/-! ## The descriptor (13 R331) -/

/-- SRC. -/
def cdSrc (d : Nat) : Word := BitVec.ofNat 64 (rf d 16 8)
/-- DST. -/
def cdDst (d : Nat) : Word := BitVec.ofNat 64 (rf d 24 8)
/-- TREC. -/
def cdTrec (d : Nat) : Word := BitVec.ofNat 64 (rf d 32 8)
/-- RESID. -/
def cdResid (d : Nat) : Word := BitVec.ofNat 64 (rf d 40 8)
/-- SYNC. -/
def cdSync (d : Nat) : Word := BitVec.ofNat 64 (rf d 48 8)
/-- SHFLAGS. -/
def cdFlags (d : Nat) : Word := BitVec.ofNat 64 (rf d 56 8)
/-- OP 1, a maximum. -/
def cdMax (d : Nat) : Bool := rf d 64 1 == 1
/-- The element format's code. -/
def cdFmt (d : Nat) : Nat := rf d 65 1 % 16
/-- The source format's code. -/
def cdSfmt (d : Nat) : Nat := rf d 65 1 / 16
/-- THIN. -/
def cdThin (d : Nat) : Nat := rf d 66 1
/-- AGREE. -/
def cdAgree (d : Nat) : Nat := rf d 67 1
/-- Residual carry. -/
def cdCarry (d : Nat) : Bool := rf d 68 1 % 2 == 1
/-- RANK. -/
def cdRank (d : Nat) : Nat := rf d 69 1
/-- NAXES. -/
def cdAxes (d : Nat) : Nat := rf d 70 1
/-- The timeout in ns. -/
def cdTmo (d : Nat) : Nat := (if rf d 72 4 = 0 then 100 else rf d 72 4) * 1000
/-- ME. -/
def cdMe (d : Nat) : Nat := rf d 76 2
/-- SEQ. -/
def cdSeq (d : Nat) : Nat := rf d 80 8
/-- The global extents. -/
def cdDims (d : Nat) : List Nat := (List.range (cdRank d)).map fun i => rf d (88 + 4 * i) 4
/-- The axis sizes. -/
def cdNa (d : Nat) : List Nat := (List.range 4).map fun i => rf d (104 + 2 * i) 2
/-- The source roles. -/
def cdSrole (d : Nat) : List Nat := (List.range 4).map fun i => rf d (112 + i) 1
/-- The destination roles. -/
def cdDrole (d : Nat) : List Nat := (List.range 4).map fun i => rf d (116 + i) 1
/-- MEMBERS. -/
def cdMembers (d : Nat) : Word := BitVec.ofNat 64 (rf d 120 8)
/-- RXRINGS. -/
def cdRings (d : Nat) : Word := BitVec.ofNat 64 (rf d 128 8)
/-- A product. -/
def prodNat (l : List Nat) : Nat := l.foldl (· * ·) 1
/-- The member count. -/
def cdCount (d : Nat) : Nat := prodNat (cdNa d)

/-- A role byte of a tensor of some rank. -/
def roleOk (rank r : Nat) : Bool := decide (r ≤ 1) || (decide (16 ≤ r) && decide (r < 16 + rank))

/-- The checks of 13 R318 on a collective's descriptor, but for its record. -/
def checkColl (d : Nat) : Option Nat :=
  let f := cdFmt d
  firstCheck [
    (pkKind d != 10, fcKind),
    (hdrReserved d || rf d 71 1 != 0 || rf d 78 2 != 0 || rf d 136 120 != 0 || decide (1 < rf d 68 1) || f == 15
      || cdSfmt d == 15, fcReserved),
    (decide (1 < rf d 64 1) || decide (31 < cdThin d) || (cdThin d != 0 && cdMax d) || decide (2 < cdAgree d)
      || (cdAgree d == 1 && f != 6) || cdRank d == 0 || decide (4 < cdRank d) || cdAxes d == 0 || decide (4 < cdAxes d)
      || (rf d 72 4 != 0 && (decide (rf d 72 4 < 10) || decide (10000 < rf d 72 4)))
      || !(cdSrole d ++ cdDrole d).all (roleOk (cdRank d))
      || (cdNa d).any (fun n => n == 0 || decide (4096 < n)) || decide (4096 < cdCount d)
      || ((List.range 4).drop (cdAxes d)).any (fun a => (cdNa d).getD a 1 != 1 || (cdSrole d).getD a 0 != 0
          || (cdDrole d).getD a 0 != 0)
      || (cdDims d).any (· == 0) || decide (cdCount d ≤ cdMe d)
      || (cdTrec d == 0 && (f == 6 || f == 7 || f == 14 || cdSfmt d == 14 || cdAgree d != 0)), fcRange),
    ((pkCrec d).toNat % 32 != 0 || (cdMembers d).toNat % 64 != 0 || (cdRings d).toNat % 32 != 0
      || (cdSync d).toNat % 8 != 0 || (cdFlags d).toNat % 8 != 0 || (cdTrec d).toNat % 256 != 0, fcAlign),
    (pkReloc d, fcReloc)]

/-! ## Meshes and layouts (02 R50-R52) -/

/-- The coordinates of a rank (R51). -/
def coordsOf (na : List Nat) (r : Nat) : List Nat :=
  let n (a : Nat) : Nat := na.getD a 1
  [r / (n 1 * n 2 * n 3), r / (n 2 * n 3) % n 1, r / n 3 % n 2, r % n 3]
/-- The rank of coordinates (R51). -/
def rankOf (na c : List Nat) : Nat :=
  (List.range 4).foldl (fun r a => r * na.getD a 1 + c.getD a 0) 0
/-- The axes that shard a dimension, the most significant first (R52). -/
def dimAxes (roles : List Nat) (dim : Nat) : List Nat := (List.range 4).filter fun a => roles.getD a 0 == 16 + dim
/-- The all-reducing axes (R53). -/
def allReduce (d : Nat) : List Nat :=
  (List.range 4).filter fun a => (cdSrole d).getD a 0 == 1 && (cdDrole d).getD a 0 == 0
/-- The dimension that an all-reduce scatters: the lowest that no axis of either layout shards (R53). -/
def scatterDim (d : Nat) : Option Nat :=
  (List.range (cdRank d)).find? fun x => (dimAxes (cdSrole d) x).isEmpty && (dimAxes (cdDrole d) x).isEmpty
/-- The layout that the scatters, exchanges and slices bring about: the destination's, with the all-reducing axes sharding
the scattered dimension (R53). -/
def targetRoles (d : Nat) : List Nat :=
  (List.range 4).map fun a => if (allReduce d).contains a then 16 + (scatterDim d).getD 0 else (cdDrole d).getD a 0

/-- The parts into which the axes of a layout up to one of them split a dimension (R52). -/
def splitUpTo (d : Nat) (roles : List Nat) (dim a : Nat) : Nat :=
  prodNat ((dimAxes roles dim).map fun b => if b ≤ a then (cdNa d).getD b 1 else 1)
/-- An index's digit on an axis that shards its dimension in a layout: the mixed radix of R52. -/
def digitOf (d : Nat) (roles : List Nat) (dim a i : Nat) : Nat :=
  i / ((cdDims d).getD dim 1 / splitUpTo d roles dim a) % (cdNa d).getD a 1

/-- What members hold between steps, as one mark for each axis: 0 replicated, 1 partial, 16 + x split on dimension x as in
the source layout, 32 + x split as in the target layout. -/
abbrev Marks := List Nat
/-- The marks of the destination. -/
def destMarks (d : Nat) : Marks := (cdDrole d).map fun r => if 16 ≤ r then r + 16 else r
/-- A member's part: for every dimension the indices that it holds, ascending. -/
def partsOf (d : Nat) (m : Marks) (c : List Nat) : List (List Nat) :=
  (cdDims d).zipIdx.map fun e => (List.range e.1).filter fun i => (List.range 4).all fun a =>
    if m.getD a 0 = 16 + e.2 then digitOf d (cdSrole d) e.2 a i == c.getD a 0
    else if m.getD a 0 = 32 + e.2 then digitOf d (targetRoles d) e.2 a i == c.getD a 0
    else true
/-- The global indices of parts, ascending. -/
def partElems (d : Nat) (ps : List (List Nat)) : List Nat :=
  (ps.zip (cdDims d)).foldl (fun l e => l.flatMap fun i => e.1.map fun j => i * e.2 + j) [0]
/-- The parts that two sets share. -/
def partMeet (a b : List (List Nat)) : List (List Nat) := (a.zip b).map fun e => e.1.filter e.2.contains
/-- The number of elements of parts. -/
def partSize (ps : List (List Nat)) : Nat := prodNat (ps.map (·.length))
/-- A global index lies in parts. -/
def inParts (d : Nat) (ps : List (List Nat)) (g : Nat) : Bool :=
  ((ps.zip (cdDims d)).foldr (fun e (a : Bool × Nat) => (a.1 && e.1.contains (a.2 % e.2), a.2 / e.2)) (true, g)).1
/-- The local position of a global index in parts. -/
def posIn (d : Nat) (ps : List (List Nat)) (g : Nat) : Nat :=
  ((ps.zip (cdDims d)).foldr (fun e (a : Nat × Nat × Nat) =>
    (a.1 + e.1.idxOf (a.2.2 % e.2) * a.2.1, a.2.1 * e.1.length, a.2.2 / e.2)) (0, 1, g)).1

/-! ## Steps (02 R53) -/

/-- The kinds of step. -/
inductive StepKind where | scatter | exchange | gather
  deriving DecidableEq, Repr
/-- A step on an axis, with what members hold before and after it. -/
structure CStep where
  kind   : StepKind
  axis   : Nat
  before : Marks
  after  : Marks
  deriving DecidableEq, Repr

/-- The marks after the local slices, which come first (log 48). -/
def slicedMarks (d : Nat) : Marks :=
  (List.range 4).map fun a =>
    let s := (cdSrole d).getD a 0
    let t := (cdDrole d).getD a 0
    if s = 0 ∧ 16 ≤ t then t + 16 else s
/-- The steps with traffic, in their three groups, ascending in each. -/
def collSteps (d : Nat) : List CStep :=
  let s (a : Nat) : Nat := (cdSrole d).getD a 0
  let t (a : Nat) : Nat := (cdDrole d).getD a 0
  let goal (a : Nat) : Nat := 16 + (targetRoles d).getD a 0
  let plan : List (StepKind × Nat × Nat) :=
    ((List.range 4).filter fun a => s a == 1 && t a != 1).map (fun a => (.scatter, a, goal a))
      ++ ((List.range 4).filter fun a => decide (16 ≤ s a) && decide (16 ≤ t a) && s a != t a).map (fun a => (.exchange, a, goal a))
      ++ ((List.range 4).filter fun a => t a == 0 && (decide (16 ≤ s a) || (s a == 1))).map (fun a => (.gather, a, 0))
  (plan.foldl (fun (x : Marks × List CStep) p =>
    let after := x.1.set p.2.1 p.2.2
    (after, x.2 ++ [{ kind := p.1, axis := p.2.1, before := x.1, after }])) (slicedMarks d, [])).2

/-- The members that differ from coordinates on one axis only, by that axis, themselves among them. -/
def axisPeers (d axis : Nat) (c : List Nat) : List (List Nat) :=
  (List.range ((cdNa d).getD axis 1)).map fun i => c.set axis i

/-- The layouts keep R52, R53 and, for a block format, R463: every sharded extent divides, no axis makes a partial layout, and blocks stay
whole. -/
def layoutOk (d : Nat) (block : Bool) : Bool :=
  let layouts := [cdSrole d, targetRoles d]
  let whole (roles : List Nat) (x : Nat) : Nat := splitUpTo d roles x 3
  (List.range 4).all (fun a =>
      let s := (cdSrole d).getD a 0
      let t := (cdDrole d).getD a 0
      t != 1 || s == 1)
    && ((allReduce d).isEmpty || (match scatterDim d with
      | some e => !block || e + 1 == cdRank d
      | none => false))
    && layouts.all (fun r => (cdDims d).zipIdx.all fun e => e.1 % whole r e.2 == 0)
    && (!block || layouts.all fun r =>
        (cdDims d).getD (cdRank d - 1) 1 / whole r (cdRank d - 1) % 32 == 0)

/-! ## Which elements go where -/

/-- What a member sends to another in a step: the parts it holds before that the other holds after. -/
def sendParts (d : Nat) (st : CStep) (frm dst : List Nat) : List (List Nat) :=
  partMeet (partsOf d st.before frm) (partsOf d st.after dst)
/-- The steps in which a member sends to another that differs from it. -/
def stepsBetween (d : Nat) (frm dst : Nat) : List Nat :=
  let na := cdNa d
  let cf := coordsOf na frm
  let ct := coordsOf na dst
  ((collSteps d).zipIdx.filter fun e => frm != dst && cf.set e.1.axis 0 == ct.set e.1.axis 0
    && partSize (sendParts d e.1 cf ct) != 0).map (·.2)
/-- The number of a receive ring of a member: by ascending sender, then step. -/
def ringIndex (d : Nat) (me frm step : Nat) : Nat :=
  sumNat ((List.range frm).map fun r => (stepsBetween d r me).length) + ((stepsBetween d frm me).filter (· < step)).length
/-- The receive rings of a member. -/
def ringCount (d : Nat) (me : Nat) : Nat := sumNat ((List.range (cdCount d)).map fun r => (stepsBetween d r me).length)

/-! ## Shards of the destination (02 R57) -/

/-- The gathering axes. -/
def gatherAxes (d : Nat) : List Nat := ((collSteps d).filter fun st => st.kind == .gather).map (·.axis)
/-- What members hold after the last step. Where an axis keeps its dimension and so has no step, but its place in that dimension's mixed radix
changes, that is not all of the destination (R53; log 48). -/
def lastMarks (d : Nat) : Marks :=
  match (collSteps d).getLast? with | some st => st.after | none => slicedMarks d
/-- What members hold before the third group. -/
def heldMarks (d : Nat) : Marks :=
  match (collSteps d).find? fun st => st.kind == .gather with | some st => st.before | none => lastMarks d
/-- The number of shards. -/
def shardCount (d : Nat) : Nat := prodNat ((gatherAxes d).map fun a => (cdNa d).getD a 1)
/-- The coordinates of the member that held a shard before the third group. -/
def shardCoords (d : Nat) (c : List Nat) (j : Nat) : List Nat :=
  ((gatherAxes d).foldr (fun a (x : List Nat × Nat) =>
    let n := (cdNa d).getD a 1
    (x.1.set a (x.2 % n), x.2 / n)) (c, j)).1
/-- The parts of a shard. -/
def shardParts (d : Nat) (c : List Nat) (j : Nat) : List (List Nat) := partsOf d (heldMarks d) (shardCoords d c j)

end Sys2Proof.Machine
end

