-- ==== Sys2Proof/Machine/Stream.lean ====
section
/-! DEFINITION. Stack streamers: subscriptions, their tiles and their completion (13 R330, 17 R424, R425). -/

namespace Sys2Proof.Machine

/-- MEM. -/
def stMem (p : Nat) : Word := BitVec.ofNat 64 (rf p 16 8)
/-- RING. -/
def stRing (p : Nat) : Word := BitVec.ofNat 64 (rf p 24 8)
/-- TILES. -/
def stTiles (p : Nat) : Nat := rf p 32 4
/-- ROWS. -/
def stRows (p : Nat) : Nat := rf p 36 2
/-- DIR 1, a drain. -/
def stDrain (p : Nat) : Bool := rf p 38 1 == 1
/-- ROWB. -/
def stRowb (p : Nat) : Nat := rf p 40 4
/-- ROWSTR. -/
def stRowstr (p : Nat) : Nat := rf p 44 8
/-- The part that the streamer plays at the ring. -/
def stRole (p : Nat) : Role := if stDrain p then .consumer else .producer

/-- The checks of 13 R318 for a subscription, with the ring's descriptor where it can be read. -/
def checkStream (p : Nat) (q : Seq) (ring : Option RDesc) : Option Nat :=
  let big := match ring with | some r => decide (r.size < stRows p * stRowb p) | none => false
  let graph := match ring with | some r => r.graph | none => false
  firstCheck [
    (pkKind p != 9, fcKind),
    (hdrReserved p || rf p 39 1 != 0 || rf p 52 4 != 0, fcReserved),
    (stTiles p == 0 || stRows p == 0 || decide (1 < rf p 38 1) || big || graph || (q == .S && !stDrain p), fcRange),
    ((stMem p).toNat % 16 != 0 || (stRing p).toNat % 32 != 0 || stRowb p % 16 != 0 || stRowstr p % 16 != 0
      || (pkCrec p).toNat % 32 != 0, fcAlign),
    (pkReloc p, fcReloc)]

/-- A subscription as an accessor of the copy path. -/
def Sub.eng (b : Sub) : Eng := { slot := b.slot, src := 5, uid := b.uid, by_ := b.by_, die := some (b.stack / 3) }
/-- SOURCE of a stack streamer (04 R105). -/
def Sub.source (b : Sub) : BitVec 32 := BitVec.ofNat 32 (0xFF010000 + b.stack * 0x100 + (Config.streamer b.uid).toNat)
/-- Write a subscription. -/
def setSub (s : State) (b : Sub) : State := { s with subs := s.subs.map fun o => if o.uid = b.uid then b else o }

/-- Accept a subscription: the streamer is that of the stack which holds MEM's first byte, or the first byte at `home` for one that
came by a shared queue (03 R72), where that translates. A rejected one only has its record to write. -/
def addSub (s : State) (slot job : Nat) (by_ : Seq) (addr : Word) (p : Nat) (origin : Origin) (home : Option Word := none) : State :=
  let (s, stack) :=
    match translate s (engineCtx s slot) (home.getD (stMem p)) 1 {} with
    | (s, .ok [sp]) => (s, if sp.loc < 12 * 2 ^ 36 then sp.loc / 2 ^ 36 else (dieOf sp.loc).getD 0 * 3)
    | (s, _) => (s, 0)
  let (s, ring) :=
    match translate s (engineCtx s slot) (stRing p) 32 { r := true, w := true } with
    | (s, .ok [sp]) => (s, some sp.loc)
    | (s, _) => (s, none)
  let bad := checkStream p by_ (ring.map fun l => descAt s l)
  let (uid, s) := takeUid s
  let b : Sub := { uid, slot, job, stack, addr, pkt := BitVec.ofNat 512 p, origin, ring := ring.getD 0, tiles := 0, held := none,
                   drop := false, paused := none, status := bad.map fun _ => 2, fcode := bad.getD 0, by_ }
  enqueue { s with subs := s.subs ++ [b] } (.event (if bad.isSome then .streamComplete uid else .streamTile uid))

/-- The rows of a tile, from row r on: between memory and a slot of the ring, codes and metadata unchanged. -/
def tileCopy (e : Eng) (p : Nat) (t : Nat) (slotVa : Word) : Nat → Nat → State → EngR Unit
  | 0, _, s => .ok s ()
  | n + 1, r, s =>
    let mem := stMem p + BitVec.ofNat 64 ((t * stRows p + r) * stRowstr p)
    let at_ := slotVa + BitVec.ofNat 64 (r * stRowb p)
    let (src, dst) := if stDrain p then (at_, mem) else (mem, at_)
    (movePieces e (stRowb p / 64 + 2) src dst (stRowb p) s).bind fun s ws => (engWrite e ws s).bind fun s _ =>
      tileCopy e p t slotVa n (r + 1) s

/-- A subscription ends; its record comes about next. -/
def endSub (s : State) (b : Sub) (status fcode : Nat) : State :=
  enqueue (setSub s { b with status := some status, fcode }) (.event (.streamComplete b.uid))

/-- What a streamer's step answers. -/
inductive SStep where
  | next (s : State)
  | fault (s : State) (k : Kind) (va : Word) (wr : Bool)
  deriving DecidableEq, Repr

/-- An error that a subscription consumed. -/
def subError (s : State) (b : Sub) (e : Bad) : State :=
  let s := endSub s b 3 11
  if isUnit b.slot then postUncorrectable s b.job b.source e.addr (badDetail (getSlot s b.slot) e false)
  else slotError s b.slot b.uid e

/-- Move the tile under way and publish or release its slot (13 R330). -/
def tileStep (s : State) (b : Sub) (loc : Loc) (i : BitVec 32) : SStep :=
  let p := b.pkt.toNat
  let r := descAt s loc
  let slotVa := r.base + BitVec.ofNat 64 (i.toNat % r.n * r.size)
  match tileCopy b.eng p b.tiles slotVa (stRows p) 0 s with
  | .ok s _ =>
    let b := { b with tiles := b.tiles + 1, held := none }
    let s := ringAdvance (markSlots (setSub s b) loc (stRole p) [i.toNat]) loc (getJob s b.job).jobtag
    if stTiles p ≤ b.tiles then .next (endSub s b 0 0)
    else if b.drop then .next (endSub s b 4 0)
    else .next (enqueue s (.event (.streamTile b.uid)))
  | .fault s k va wr => .fault s k va wr
  | .stall s => .next s
  | .bad s e => .next (subError s b e)
  | .stop s st fc => .next (endSub s b st fc)

/-- A streamer's next step for a subscription: claim or take one slot, as RCLAIM and RTAKE do, then its tile (13 R330, 17
R424). A ring that closes, or whose partner is lost, ends it (log 42). -/
def subStep (s : State) (b : Sub) : SStep :=
  let p := b.pkt.toNat
  match engSpans b.eng true false (stRing p) 32 s with
  | .fault s k va wr => .fault s k va wr
  | .ok s sps =>
    match sps with
    | [sp] =>
      let loc := sp.loc
      let b := { b with ring := loc }
      let s := setSub s b
      let r := descAt s loc
      match b.held with
      | some i => tileStep s b loc i
      | none =>
        if b.drop then .next (endSub s b 4 0)
        else
          match claimStatus (stRole p) r (ringLost s loc r (stRole p)) 1 with
          | none => .next s
          | some 0 =>
            let (off, first) := if stDrain p then (16, r.take) else (20, r.claim)
            let s := putDesc s loc off 4 (first + 1).toNat
            let s := if stDrain p ∧ !isUnit b.slot then
                dropRange s (coreOf b.slot) b.job sp.sw (slotRanges r first 1) else s
            let b := { b with held := some first }
            tileStep (setSub s b) b loc first
          | some _ => .next (endSub s b 4 0)
    | _ => .next (endSub s b 2 fcAlign)
  | .stall s => .next s
  | .bad s e => .next (subError s b e)
  | .stop s st fc => .next (endSub s b st fc)

/-- The bytes a subscription has done: whole tiles. -/
def subBytes (b : Sub) : Nat := b.tiles * (stRows b.pkt.toNat * stRowb b.pkt.toNat)
/-- The destination range of a subscription. -/
def subRange (s : State) (b : Sub) : RelRange :=
  let p := b.pkt.toNat
  if stDrain p then .range (stMem p) (stTiles p * stRows p * stRowstr p)
  else let r := descAt s b.ring; .range r.base (r.n * r.size)

/-- Write a subscription's completion record and end it (13 R321, 03 R77). -/
def subFinish (s : State) (b : Sub) : SStep :=
  let p := b.pkt.toNat
  let st := b.status.getD 0
  let fin (s : State) : State :=
    let s := { s with subs := s.subs.filter fun o => o.uid != b.uid }
    if isUnit b.slot then s else checkEnd s b.slot
  match b.origin with
  | .queue desc =>
    -- records stand in claim order (03 R77)
    let mine := s.subs.filter fun o => o.job == b.job && o.origin == b.origin && o.uid != b.uid
    if mine.any fun o => decide (o.uid < b.uid) then .next s
    else
      let s := fin (queueDone s b.job desc (queueRecord st b.fcode (pkKind p) 0 (pkTag p) (subBytes b) 0 0))
      .next ((mine.filter fun o => o.status.isSome).foldl (fun s o => enqueue s (.event (.streamComplete o.uid))) s)
  | .record crec =>
    match engRecord b.eng crec (recordBytes st b.fcode (pkKind p) 0 (pkTag p) (subBytes b) 0) (pkTag p) (subRange s b) s with
    | .ok s _ => .next (fin s)
    | .fault s k va wr => .fault s k va wr
    | .stall s => .next s
    | .bad s e => .next (if isUnit b.slot then fin s else slotError (fin s) b.slot b.uid e)
    | .stop s _ _ => .next (fin s)

/-- A subscription's streamer works: the package runs and its die is not fenced. -/
def subUp (s : State) (b : Sub) : Bool := s.running && !(getDie s (b.stack / 3)).fenced && b.paused.isNone

/-- A fault of a streamer comes about as ENGINE_FAULT next. -/
def raiseSub (uid : Nat) : SStep → State
  | .next s => s
  | .fault s _ _ _ => enqueue s (.event (.engineFault uid 7))

/-- STREAM_TILE (13 R330). -/
def execStreamTile (sub : Nat) (s : State) : Host.Outcome State Fault Refusal :=
  .next <|
    match s.subs.find? fun b => b.uid == sub && b.status.isNone with
    | some b => if subUp s b then raiseSub sub (subStep s b) else s
    | none => s
/-- STREAM_COMPLETE (17 R424, R425). -/
def execStreamComplete (sub : Nat) (s : State) : Host.Outcome State Fault Refusal :=
  .next <|
    match s.subs.find? fun b => b.uid == sub && b.status.isSome with
    | some b => if subUp s b then raiseSub sub (subFinish s b) else s
    | none => s

/-- ENGINE_FAULT of a streamer: it pauses and the event is posted (04 R105). -/
def pauseSub (s : State) (uid : Nat) : State :=
  match s.subs.find? fun b => b.uid == uid && b.paused.isNone with
  | none => s
  | some b =>
    match if b.status.isSome then subFinish s b else subStep s b with
    | .fault s k va wr =>
      let b := (s.subs.find? fun o => o.uid == uid).getD b
      postEngineFault (setSub s { b with paused := some (k, va, wr) }) b.job b.source 7 (pkTag b.pkt.toNat) k va wr
    | .next s => s

end Sys2Proof.Machine
end

