-- ==== Sys2Proof/Machine/EngineWords.lean ====
section
/-! DEFINITION. Class 0xE0: the words that queue work on the engines, and the bank words (17 R413-R425). -/

namespace Sys2Proof.Machine

/-- The engine's queue has room for n more commands; a rejected command takes none (07 R184). -/
def roomFor (s : State) (slot eng n : Nat) : Bool :=
  decide (((engQueue (getSlot s slot) eng).filter fun c => c.status != some 2).length + n ≤ engDepth eng)

/-- ACCDIRTY: a command of an open region names an architectural bank (11 R291). -/
def setDirty (s : State) (slot : Nat) : State :=
  updSlot s slot fun x => if x.regionOpen then { x with crstat := x.crstat ||| 4#64 } else x

/-- Queue a packet as its checks answer (13 R318). A word that waits or traps has not executed: an override that it made is not kept (04
R104, 10 R276). -/
def queuePacket (s0 : State) (t : Thread) (eng p ext : Nat) (after : Option Nat) : Chk → Res
  | .ok s r =>
    let (s, uid) := addCmd s t.slot eng t.seq (.packet (BitVec.ofNat 512 p) (BitVec.ofNat 512 ext) r none) after none
    let s := checkAssertion s t.slot eng uid
    .done (if eng = 5 ∧ !mxClosed p then setDirty s t.slot else s)
  | .reject s c => .done (addCmd s t.slot eng t.seq (packetBody p) none (some c)).1
  | .wait s => .wait { s with mem := s0.mem } false
  | .trap s tr => .trap { s with mem := s0.mem } tr
  | .bad s b => .bad { s with mem := s0.mem } b

/-- COPY (17 R420). -/
def execCopy (n : Nib) (f : Opnd) (ctx : BitVec 2) (s : State) : Host.Outcome State Fault Refusal :=
  issueWord (.copy n f ctx) n none { scalars := [f] }
    (fun s t => readPacket 64 64 (fun s => roomFor s t.slot ctx.toNat 1) f s t fun s _ p =>
      queuePacket s t ctx.toNat p 0 none (acceptCopy s t p)) s

/-- GATH (17 R423). -/
def execGath (n : Nib) (f : Opnd) (s : State) : Host.Outcome State Fault Refusal :=
  issueWord (.gath n f) n none { scalars := [f] }
    (fun s t => readPacket 64 64 (fun s => roomFor s t.slot 4 1) f s t fun s _ p =>
      queuePacket s t 4 p 0 none (acceptGather s p)) s

/-- A matrix word that takes one kind (17 R416). -/
def matrixEff (kind : Nat) (f : Opnd) (s : State) (t : Thread) : Res :=
  let size := if kind = 7 then 128 else 64
  readPacket size size (fun s => roomFor s t.slot 5 1) f s t fun s _ v =>
    let p := v % 2 ^ 512
    queuePacket s t 5 p (v / 2 ^ 512) none (acceptMatrix s t [kind] p (v / 2 ^ 512) (mxM p))
/-- MMA (17 R416). -/
def execMma (n : Nib) (f : Opnd) (s : State) : Host.Outcome State Fault Refusal :=
  issueWord (.mma n f) n none { scalars := [f] } (matrixEff 5 f) s
/-- MCONV (17 R416, 13 R328). -/
def execMconv (n : Nib) (f : Opnd) (s : State) : Host.Outcome State Fault Refusal :=
  issueWord (.mconv n f) n none { scalars := [f] } (matrixEff 7 f) s
/-- MEPI (17 R416). -/
def execMepi (n : Nib) (f : Opnd) (s : State) : Host.Outcome State Fault Refusal :=
  issueWord (.mepi n f) n none { scalars := [f] } (matrixEff 11 f) s

/-- The slots of the gang of a slot with their member numbers. -/
def gangSlots (s : State) (slot : Nat) : List (Nat × Nat) :=
  let me := getSlot s slot
  s.slots.filterMap fun e =>
    if sameGang me e.2 then e.2.task.bind fun k => k.gang.map fun g => (e.1, g.member) else none

/-- The checks of every part: once for all members, or for each where the record lies in its own window (13 R327). -/
def acceptParts (t : Thread) (p rows : Nat) (every : Bool) : List (Nat × Nat) → State → Except Chk (State × List (Nat × Nat × Resolved))
  | [], s => .ok (s, [])
  | m :: l, s =>
    match acceptMatrix s ⟨m.1, t.seq⟩ [6] p 0 rows with
    | .ok s r =>
      (if every then
        match acceptParts t p rows every l s with
        | .ok (s, q) => .ok (s, (m.1, m.2, r) :: q)
        | .error e => .error e
       else .ok (s, (m :: l).map fun m => (m.1, m.2, r)))
    | c => .error c

/-- GMMA's effect (17 R417): one part on every member's engine, accepted together. -/
def gmmaEff (f : Opnd) (s : State) (t : Thread) : Res :=
  if (getSlot s t.slot).regionOpen then .trap s { cause := 10 }
  else
    let ms := gangSlots s t.slot
    let ms := (ms.filter fun m => m.1 == t.slot) ++ ms.filter fun m => m.1 != t.slot
    readPacket 64 64 (fun s => roomFor s t.slot 5 1 && ms.all fun m => roomFor s m.1 5 1) f s t fun s _ p =>
      if ms.isEmpty then queuePacket s t 5 p 0 none (acceptMatrix s t [6] p 0 (mxM p))
      else
        let local_ := inLocal (mxDaddr p)
        match acceptParts t p (if local_ then mxM p else ms.length * mxM p) local_ ms s with
        | .error c => queuePacket s t 5 p 0 none c
        | .ok (s, parts) =>
          let (gid, s) := takeUid s
          let rver := match parts with | (_, _, r) :: _ => r.rver | [] => 0
          let range := match parts with
            | (_, _, r) :: _ => mxRange p r (if local_ then mxM p else ms.length * mxM p)
            | [] => .range 0 0
          let g : GCmd := { gid, owner := t.slot, pkt := BitVec.ofNat 512 p, rver, fails := [], aborted := false, bytes := 0,
                            sats := 0, marked := none, paused := none, range }
          .done (parts.foldl (fun s m =>
            let (s, uid) := addCmd s m.1 5 .C (.packet (BitVec.ofNat 512 p) 0 m.2.2 (some { gid, member := m.2.1 })) none none
            let s := checkAssertion s m.1 5 uid
            if mxClosed p then s else setDirty s m.1) { s with gcmds := s.gcmds ++ [g] })
/-- GMMA (17 R417, 13 R327). -/
def execGmma (n : Nib) (f : Opnd) (s : State) : Host.Outcome State Fault Refusal :=
  issueWord (.gmma n f) n none { scalars := [f] } (gmmaEff f) s

/-- Queue a bank word (17 R418). -/
def bankEff (b : CmdBody) (s : State) (t : Thread) : Res :=
  if !roomFor s t.slot 5 1 then .wait s false
  else .done (setDirty (addCmd s t.slot 5 t.seq b none none).1 t.slot)
/-- MZERO (17 R418). -/
def execMzero (n : Nib) (bank clr : Bool) (s : State) : Host.Outcome State Fault Refusal :=
  issueWord (.mzero n bank clr) n none {} (bankEff (.mzero bank clr)) s
/-- MSWAP (17 R418). -/
def execMswap (n : Nib) (s : State) : Host.Outcome State Fault Refusal :=
  issueWord (.mswap n) n none {} (bankEff .mswap) s

/-- MSTATR's effect: after every earlier matrix command of the slot (17 R418). -/
def mstatrEff (f : Dest) (bank : Bool) (s : State) (t : Thread) : Res :=
  let x := getSlot s t.slot
  if !x.mq.isEmpty then .wait s false
  else observe s t (.mstat bank) (.done (putResult s t f (if bank then x.mstat1 else x.mstat0)))
/-- MSTATR (17 R418). -/
def execMstatr (n : Nib) (f : Dest) (bank : Bool) (s : State) : Host.Outcome State Fault Refusal :=
  issueWord (.mstatr n f bank) n (some (.scalar f)) {} (mstatrEff f bank) s

/-- The engine of a COPYM follow-on (17 R421). -/
def followEngine (ctx : Nat) (kind : Nat) : Option Nat :=
  if 1 ≤ kind ∧ kind ≤ 4 then some ctx else if kind = 8 then some 4
  else if kind = 5 ∨ kind = 11 then some 5 else none

/-- Queue a follow-on behind its copy, or ABORTED where the copy was rejected. -/
def queueFollow (s : State) (t : Thread) (eng q : Nat) (after : Option Nat) : Res :=
  let chk := if eng = 4 then acceptGather s q else if eng = 5 then acceptMatrix s t [5, 11] q 0 (mxM q) else acceptCopy s t q
  match chk, after with
  | .ok s r, none =>
    let (s, uid) := addCmd s t.slot eng t.seq (.packet (BitVec.ofNat 512 q) 0 r none) (some s.nextUid) none
    .done (kick (updCmd s t.slot eng uid fun c => { c with after := none, status := some 4 }) t.slot eng)
  | chk, _ => queuePacket s t eng q 0 after chk

/-- COPYM's effect (17 R421). -/
def copymEff (f : Opnd) (ctx : BitVec 2) (s0 : State) (t : Thread) : Res :=
  readPacket 128 64 (fun _ => true) f s0 t fun s _ v =>
    let p := v % 2 ^ 512
    let q := v / 2 ^ 512
    let c := ctx.toNat
    match followEngine c (pkKind q) with
    | none =>
      let s := (addCmd s t.slot c t.seq (packetBody p) none (some fcKind)).1
      .done (addCmd s t.slot c t.seq (packetBody q) none (some fcKind)).1
    | some eng =>
      if !(if eng = c then roomFor s t.slot c 2 else roomFor s t.slot c 1 && roomFor s t.slot eng 1) then .wait s false
      else
        let uid := s.nextUid
        let r : Res :=
          match acceptCopy s t p with
          | .ok s r =>
            let (s, uid) := addCmd s t.slot c t.seq (.packet (BitVec.ofNat 512 p) 0 r none) none none
            queueFollow (checkAssertion s t.slot c uid) t eng q (some uid)
          | .reject s code => queueFollow (addCmd s t.slot c t.seq (packetBody p) none (some code)).1 t eng q none
          | .wait s => .wait s false
          | .trap s tr => .trap s tr
          | .bad s b => .bad s b
        -- neither packet is accepted unless both are
        match r with
        | .wait _ b => .wait s0 b
        | .trap s' tr => .trap (dropCmd s' t.slot c uid) tr
        | .bad s' b => .bad (dropCmd s' t.slot c uid) b
        | r => r
/-- COPYM (17 R421). -/
def execCopym (n : Nib) (f : Opnd) (ctx : BitVec 2) (s : State) : Host.Outcome State Fault Refusal :=
  issueWord (.copym n f ctx) n none { scalars := [f] } (copymEff f ctx) s

/-- STRSUB's effect (17 R424). -/
def strsubEff (f : Opnd) (s : State) (t : Thread) : Res :=
  if (getSlot s t.slot).regionOpen then .trap s { cause := 10 }
  else readPacket 64 64 (fun _ => true) f s t fun s va p =>
    .done (addSub s t.slot (getSlot s t.slot).job t.seq va p (.record (pkCrec p)))
/-- STRSUB (17 R424). -/
def execStrsub (n : Nib) (f : Opnd) (s : State) : Host.Outcome State Fault Refusal :=
  issueWord (.strsub n f) n none { scalars := [f] } (strsubEff f) s

/-- STRDROP's effect: the slot's live subscription at that address ends after its current tile (17 R425). -/
def strdropEff (f : Opnd) (s : State) (t : Thread) : Res :=
  let va := srcVal s t f
  match s.subs.find? fun b => b.slot == t.slot && b.addr == va && b.status.isNone && !b.drop with
  | some b => .done (enqueue (setSub s { b with drop := true }) (.event (.streamTile b.uid)))
  | none => .done s
/-- STRDROP (17 R425). -/
def execStrdrop (n : Nib) (f : Opnd) (s : State) : Host.Outcome State Fault Refusal :=
  issueWord (.strdrop n f) n none { scalars := [f] } (strdropEff f) s

end Sys2Proof.Machine
end

