-- ==== Sys2Proof/Machine/Levels.lean ====
section
/-! DEFINITION. Levels of work: headers, counts, completion, parents, the checks of task records, and the pushes onto task
queues (05 R114-R122, 11 R473, 13 R332). -/

namespace Sys2Proof.Machine

/-! ## Headers (05 R115) -/

/-- How the device reaches a job's records. -/
def jobCtx (s : State) (job : Nat) : TCtx := unitCtx (lowDie s) job false

/-- KIND of a header. -/
def hdKind (h : Nat) : Nat := rf h 24 1
/-- STATE of a header. -/
def hdState (h : Nat) : Nat := rf h 25 1
/-- JOBID of a header. -/
def hdJob (h : Nat) : Nat := rf h 26 2
/-- FAILCNT of a header. -/
def hdFail (h : Nat) : Nat := rf h 29 3
/-- PARENT of a header. -/
def hdParent (h : Nat) : Word := BitVec.ofNat 64 (rf h 16 8)
/-- SYNC of a header. -/
def hdSync (h : Nat) : Word := BitVec.ofNat 64 (rf h 8 8)

/-- The copies that a cluster holds of a range go to their homes, so that a record is read as the cluster's stores left
it (08 R216). -/
def ownRange (s : State) (cluster job : Nat) (va : Word) (n : Nat) : State :=
  (viewLines s s.clines cluster (cluster / 32) job [(va.toNat, n)]).foldl (fun s l => purge s cluster l) s

/-- A record that a cluster's word names, or the host, which no cluster's stores precede. -/
def ownFor (s : State) (cluster : Option Nat) (job : Nat) (va : Word) (n : Nat) : State :=
  match cluster with | some c => ownRange s c job va n | none => s

/-- The width of the page that holds an address in a job's space, 0 where it does not translate. -/
def widthOf (s : State) (job : Nat) (va : Word) : Nat :=
  match trPage s { jobCtx s job with sup := true } va 1 {} with
  | (_, .ok sp) => sp.sw
  | _ => 0

/-- The release of a whole history on a record: the issuing core's dirty copies go out at the width of its page (05 R116,
R126). -/
def releaseAll (s : State) (slot : Nat) (va : Word) : State :=
  let job := (getSlot s slot).job
  writeBackRange s (coreOf slot) job (widthOf s job va) [wholeRange]

/-- The tag of a level's barriers. -/
def levelTag (job : Nat) (hdr : Word) : Nat := job * 2 ^ 64 + hdr.toNat
/-- A level's barriers are free again (05 R131). -/
def freeBars (s : State) (job : Nat) (hdr : Word) : State :=
  { s with bars := s.bars.filter fun b => b.2.owner != levelTag job hdr }

/-- A level's entry in the live-level table (05 R119). -/
def liveLevel (s : State) (job : Nat) (hdr : Word) : Option Level :=
  s.levels.find? fun l => l.hdr == hdr && l.job == job
/-- A level leaves the table: its barriers, its graph and its place as the open or a closed phase go with it. -/
def dropLevel (s : State) (l : Level) : State :=
  let s := freeBars { s with levels := s.levels.erase l } l.job l.hdr
  let s := { s with
    graphs := s.graphs.filter fun g => !(g.hdr == l.hdr && g.job == l.job)
    lgangs := s.lgangs.filter fun g => !(g.hdr == l.hdr && g.job == l.job && g.phase != 0) }
  let j := getJob s l.job
  setJob s l.job { j with closed := j.closed.filter fun h => h != l.hdr, phase := if j.phase = l.hdr then 0 else j.phase }

/-- Update a word of a live level's header at its home; the old value, none where the update is not made (11 R473). -/
def levelWord (s : State) (job : Nat) (hdr : Word) (off n : Nat) (f : Nat → Option Nat) : State × Option Nat :=
  unitUpdate s (jobCtx s job) (hdr + BitVec.ofNat 64 off) n f

/-- The job's COUNT falls by one; at zero JOBSYNC is released with status 0 (05 R117). -/
def jobDec (s : State) (job : Nat) : State :=
  let j := getJob s job
  let s := setJob s job { j with count := j.count - 1 }
  if j.count ≠ 1 then s
  else
    match translate s (jobCtx s job) j.jobsync 8 { w := true } with
    | (s, .ok [sp]) => devRelease s job sp (2 ^ 63) .all
    | (s, _) => s

/-- The completion of a level whose COUNT is zero: STATE 2, for a phase the Regulator's step, and the release on SYNC (05
R117, R118). The answer is whether its parent counts it as failed. -/
def completeLevel (s : State) (l : Level) : State × Bool :=
  match unitRead s (jobCtx s l.job) l.hdr 40 with
  | (s, none) => (dropLevel s l, true)
  | (s, some h) =>
    let status := if l.forced then 2 else if hdState h = 1 then 1 else if hdFail h ≠ 0 then 2 else 0
    let (s, _) := levelWord s l.job l.hdr 25 1 fun _ => some 2
    let s := if l.kind = 4 then regulate s l.job (rf h 32 8) else s
    let (s, ok) :=
      match translate s (jobCtx s l.job) (hdSync h) 8 { w := true } with
      | (s, .ok [sp]) => devReleased s l.job sp (2 ^ 63 + status * 2 ^ 24 + hdFail h) .all
      | (s, _) => (s, true)
    (dropLevel s l, status != 0 || !ok)

/-- A child of a level has ended: FAILCNT + 1 if it failed, COUNT - 1, and the completion that a zero brings, up to the job
(05 R116, R117). A header that cannot be updated loses its level (11 R473). -/
def levelDecFrom : Nat → State → Nat → Word → Bool → State
  | 0, s, _, _, _ => s
  | fuel + 1, s, job, hdr, failed =>
    if hdr = 0 then jobDec s job else
      match liveLevel s job hdr with
      | none => s
      | some l =>
        let (s, ok) :=
          if failed then
            match levelWord s job hdr 29 3 fun v => some (min 0xFFFFFF (v + 1)) with
            | (s, some _) => (s, true)
            | (s, none) => (s, false)
          else (s, true)
        match if ok then levelWord s job hdr 0 8 (fun v => if v = 0 then none else some (v - 1)) else (s, none) with
        | (s, none) => levelDecFrom fuel (dropLevel s l) job l.parent true
        | (s, some 1) =>
          let (s, bad) := completeLevel s l
          levelDecFrom fuel s job l.parent bad
        | (s, some _) => s
/-- A child of a level has ended. -/
def levelDec (s : State) (job : Nat) (hdr : Word) (failed : Bool) : State :=
  levelDecFrom (s.levels.length + 2) s job hdr failed

/-- A level gains n children (05 R116). -/
def levelAdd (s : State) (job : Nat) (hdr : Word) (n : Nat) : State :=
  if hdr = 0 then setJob s job { getJob s job with count := (getJob s job).count + BitVec.ofNat 64 n }
  else
    match liveLevel s job hdr with
    | none => s
    | some l =>
      match levelWord s job hdr 0 8 fun v => some (v + n) with
      | (s, some _) => s
      | (s, none) => levelDec (dropLevel s l) job l.parent true

/-- Set bits of DIES: DEALT of a die in [3:0], PUSHED in [7:4] (05 R115). -/
def levelDies (s : State) (job : Nat) (hdr : Word) (bit : Nat) : State :=
  match liveLevel s job hdr with
  | none => s
  | some l =>
    match levelWord s job hdr 28 1 fun v => some (if v.testBit bit then v else v + 2 ^ bit) with
    | (s, some _) => s
    | (s, none) => levelDec (dropLevel s l) job l.parent true

/-- Write the header fields of a level that is issued; false where the header cannot be updated (05 R115, 11 R473). -/
def putHeader (s : State) (job : Nat) (hdr : Word) (count : Nat) : State × Bool :=
  let (s, a) := levelWord s job hdr 0 8 fun _ => some count
  let (s, b) := levelWord s job hdr 25 1 fun _ => some 0
  let (s, c) := levelWord s job hdr 26 2 fun _ => some job
  let (s, d) := levelWord s job hdr 28 4 fun _ => some 0
  (s, a.isSome && b.isSome && c.isSome && d.isSome)

/-- The level of a task or child is cancelling or complete (05 R120); a job that is killed counts as such. -/
def levelClosing (s : State) (job : Nat) (hdr : Word) : Bool :=
  if hdr = 0 then decide (3 ≤ (getJob s job).state)
  else
    match unitRead s (jobCtx s job) hdr 32 with
    | (_, some h) => hdState h != 0
    | (_, none) => false

/-! ## Parents (05 R114, 17 R427) -/

/-- What naming a parent answers. -/
inductive Parent where
  | ok (hdr : Word)
  | dropped
  | bad
  deriving DecidableEq, Repr

/-- The parent that a record names: 0 takes the open phase, or the job. Its JOBID must be the job and its KIND one that may
have such a child. -/
def parentOf (s : State) (cluster : Option Nat) (job : Nat) (p : Word) (kinds : List Nat) : State × Parent :=
  let p := if p = 0 then (getJob s job).phase else p
  if p = 0 then (s, if 3 ≤ (getJob s job).state then .dropped else .ok 0)
  else
    let s := ownFor s cluster job p 32
    if p.toNat % 8 ≠ 0 then (s, .bad) else
      match unitRead s (jobCtx s job) p 32 with
      | (s, none) => (s, .bad)
      | (s, some h) =>
        if hdJob h ≠ job ∨ !kinds.contains (hdKind h) then (s, .bad)
        else if hdState h ≠ 0 ∨ 3 ≤ (getJob s job).state then (s, .dropped)
        else (s, .ok p)

/-! ## Task records (13 R332) -/

/-- CODE. -/
def trCode (r : Nat) : Word := BitVec.ofNat 64 (rf r 0 8)
/-- The stream entry of a sequencer. -/
def trEntry (r : Nat) (q : Seq) : Word := trCode r + BitVec.ofNat 64 (rf r (8 + 4 * seqNum q) 4)
/-- FRAME. -/
def trFrame (r : Nat) : Word := BitVec.ofNat 64 (rf r 24 8)
/-- PARENT. -/
def trParent (r : Nat) : Word := BitVec.ofNat 64 (rf r 40 8)
/-- INDEX. -/
def trIndex (r : Nat) : BitVec 32 := BitVec.ofNat 32 (rf r 48 4)
/-- PRIO. -/
def trPrio (r : Nat) : Nat := rf r 52 1 % 4
/-- NEED, held to the range that the check allows. -/
def trNeed (r : Nat) : Nat := max 1 (min 32 (rf r 53 1))
/-- IDEMPOTENT. -/
def trIdem (r : Nat) : Bool := rf r 54 1 % 2 == 1

/-- The fields of a task record obey R332. -/
def taskFieldsOk (r : Nat) : Bool :=
  ([0, 1, 2, 3].all fun i => rf r (8 + 4 * i) 4 % 4 == 0) && decide (rf r 52 1 < 4) && decide (1 ≤ rf r 53 1)
    && decide (rf r 53 1 ≤ 32) && decide (rf r 54 1 < 2) && rf r 55 9 == 0
/-- The task record at an address, where it passes the checks of SPAWN (17 R429). -/
def taskAt (s : State) (cluster : Option Nat) (job : Nat) (va : Word) : State × Option Nat :=
  if va.toNat % 64 ≠ 0 then (s, none) else
    let s := ownFor s cluster job va 64
    match unitRead s (jobCtx s job) va 64 with
    | (s, some r) => (s, if taskFieldsOk r then some r else none)
    | (s, none) => (s, none)

/-! ## Task queues (05 R121, R122) -/

/-- The key of a job's task queue of a cluster at a priority. -/
def workKey (cluster job prio : Nat) : Nat := (cluster * 1024 + job) * 4 + prio
/-- The cluster of a key. -/
def keyCluster (k : Nat) : Nat := k / 4096
/-- The job of a key. -/
def keyJob (k : Nat) : Nat := k / 4 % 1024
/-- The priority of a key. -/
def keyPrio (k : Nat) : Nat := k % 4
/-- A task queue. -/
def getWork (s : State) (k : Nat) : List WorkEnt := kvGet [] s.work k
/-- Write a task queue. -/
def setWork (s : State) (k : Nat) (l : List WorkEnt) : State := { s with work := kvSet [] s.work k l }

/-- The entries of a job that stand in its spill area on a die. -/
def spilled (s : State) (job die : Nat) : Nat :=
  sumNat (s.work.map fun e =>
    if keyJob e.1 = job ∧ keyCluster e.1 / 32 = die then e.2.length - 32 else 0)
/-- A queue has room for one more entry (05 R121). -/
def workRoom (s : State) (k : Nat) : Bool :=
  decide ((getWork s k).length < 32) || decide (spilled s (keyJob k) (keyCluster k / 32) < (getJob s (keyJob k)).spill)
/-- Place an entry at the tail of a queue; slots look for work next. -/
def pushWork (s : State) (k : Nat) (item : WorkItem) : State :=
  let (ord, s) := takeUid s
  enqueue (setWork s k (getWork s k ++ [{ item, at_ := s.time, aged := false, ord }])) .schedule
/-- The priority at which a job's record stands (05 R122). -/
def jobPrio (s : State) (job prio : Nat) : Nat := min prio (getJob s job).maxprio.toNat

/-- What pushing a task record answers. -/
inductive Push where
  | ok (s : State)
  | dropped (s : State)
  | bad (s : State)
  | full (s : State)
  deriving DecidableEq, Repr

/-- Push the task record at an address onto a cluster's queue: its checks, its level's COUNT, the entry, and PUSHED (05
R116, R122, 17 R429). Room is tested before COUNT changes. -/
def pushTask (s : State) (job : Nat) (own : Option Nat) (cluster : Nat) (va : Word) : Push :=
  match taskAt s own job va with
  | (s, none) => .bad s
  | (s, some r) =>
    match parentOf s own job (trParent r) [1, 2, 3, 4] with
    | (s, .bad) => .bad s
    | (s, .dropped) => .dropped s
    | (s, .ok p) =>
      let k := workKey cluster job (jobPrio s job (trPrio r))
      if !workRoom s k then .full s else
        let s := levelAdd s job p 1
        let s := pushWork s k (.task va p)
        .ok (levelDies s job p (4 + cluster / 32))

/-- Push a record for a slot, with its release (05 R122, R126). -/
def slotPush (s : State) (slot : Nat) (va : Word) : Push :=
  let c := clusterOf (coreOf slot)
  pushTask (releaseAll s slot va) (slotJob s slot) (some c) c va

/-! ## The pushes of FFILL (05 R121, R143) -/

/-- The FFILL of a slot that has still to push: its number, whether the supervisor issued it, and the next node. -/
def fillOf (x : Slot) : Option (Nat × Bool × Word) :=
  (x.issued .K).findSome? fun e => match e.2.work with | .fill n => if e.2.done then none else some (e.2.tag, e.1, n) | _ => none
/-- An FFILL goes on from a node. -/
def setFill (x : Slot) (tag : Nat) (node : Word) : Slot :=
  x.onBanks .K fun v => { v with outst := v.outst.map fun o => if o.tag = tag then { o with work := .fill node } else o }
/-- A deferred-read node: the next node and the continuation's address (05 R142). None where it does not translate now, or its region
flips. -/
def nodeAt (s : State) (slot : Nat) (node : Word) : State × Option (Except Bad (State × Word × Word)) :=
  match translate s (slotCtx s slot .K) node 16 { r := true } with
  | (s, .ok (sp :: r)) =>
    if flipping s (sp :: r) then (s, none)
    else
      (s, some <|
        match homeRead s (some (clusterOf (coreOf slot))) { sp with len := 16 } 16 with
        | .error p => .error (.of p 0 node (sp.loc / 16))
        | .ok (s, v, n) =>
          .ok (countSubst s slot n, (BitVec.ofNat 64 v).extractLsb' 4 53 ++ 0#4 |>.signExtend 64, BitVec.ofNat 64 (v / 2 ^ 64)))
  | (s, _) => (s, none)
/-- The next push of a slot's FFILL. A full queue makes it wait at the queue unit until room frees (R121), as does a node that does not
translate; one whose continuation fails its checks is passed over (log 45). With no node left the word is complete. -/
def fillStep (s : State) (slot : Nat) : State :=
  match fillOf (getSlot s slot) with
  | none => s
  | some (tag, sup, node) =>
    if node = 0 then checkEnd (updSlot s slot fun x => settle (markDone x .K tag)) slot
    else
      match nodeAt s slot node with
      | (s, none) => hold s (.fill slot)
      | (s, some (.error b)) =>
        let pc := (((getSlot s slot).issued .K).find? fun e => e.2.tag == tag).elim 0 fun e => e.2.pc
        let s := updSlot s slot fun x => settle (dropIssued x .K tag)
        if inRegion (getSlot s slot) tag && !sup then unwind s slot b else machineCheck s slot .K pc b false
      | (s, some (.ok (s', next, va))) =>
        match slotPush s' slot va with
        | .full _ => hold s (.fill slot)
        | .ok s' => enqueue (updSlot s' slot fun x => setFill x tag next) (.fill slot)
        | .dropped s' => enqueue (updSlot s' slot fun x => setFill x tag next) (.fill slot)
        | .bad s' => enqueue (updSlot s' slot fun x => setFill x tag next) (.fill slot)

end Sys2Proof.Machine
end

