-- ==== Sys2Proof/Machine/TaskStart.lean ====
section
/-! DEFINITION. The start of a task in a slot, which slots are free for it, and the positions of a gang (05 R123, R126-R129,
07 R170). -/

namespace Sys2Proof.Machine

/-! ## Free slots -/

/-- A core is live: its die and it are not fenced. -/
def coreLive (s : State) (core : Nat) : Bool := !(getDie s (dieOfCore core)).fenced && !s.deadCores.contains core
/-- A slot is free. -/
def slotFree (s : State) (slot : Nat) : Bool :=
  let x := getSlot s slot
  x.task.isNone && x.mode == .user && coreLive s (coreOf slot)
/-- The other slot of a core. -/
def otherSlot (slot : Nat) : Nat := if slot % 2 = 0 then slot + 1 else slot - 1
/-- A need fits beside the other slot's allocation (05 R123). -/
def needFits (s : State) (slot need : Nat) : Bool := decide (need + (getSlot s (otherSlot slot)).need ≤ 32)
/-- The cores of a gang's position in a cluster, member by member. -/
def shapeCores (shape : BitVec 2) (members b : Nat) : List Nat :=
  if shape = 1 then (List.range members).map (b + ·)
  else if shape = 2 then [b, b + 1, b + 4, b + 5]
  else List.range 8
/-- The valid bases. -/
def shapeBases (shape : BitVec 2) (members : Nat) : List Nat :=
  if shape = 1 then List.range (9 - members) else if shape = 2 then [0, 1, 2] else [0]
/-- The reservation that holds a slot: it holds the free slots of its position, and each that frees there (05 R129). -/
def heldBy (s : State) (slot : Nat) : Option GangReq :=
  s.gangs.find? fun g => match g.resv with
    | some (c, b, _) => ((shapeCores g.shape g.members b).map (c * 8 + ·)).contains (coreOf slot)
    | none => false
/-- The graph and stage to which a core is assigned (06 R157). -/
def stageOf (s : State) (core : Nat) : Option (Graph × Nat) :=
  s.graphs.findSome? fun g =>
    (List.range g.stages.length).findSome? fun i =>
      match g.stages[i]? with
      | some st => if st.cores.contains core then some (g, i) else none
      | none => none

/-- The cores of a device, each die's clusters in order. -/
def clustersOf (die : Nat) : List Nat := (List.range 24).map fun c => die * 32 + c
/-- The slots of a cluster in order. -/
def slotsOf (cluster : Nat) : List Nat := (List.range 16).map fun i => cluster * 16 + i

/-! ## Start (07 R170) -/

/-- What a task starts from: its record's address and bytes, what its level gives, and the record that was released for it: a launch's, a
gang's or a graph's own, else the task's (05 R126). -/
structure Start where
  record : Word
  rec_   : Nat
  job    : Nat
  prio   : Nat
  need   : Nat
  parent : Word
  child  : Word
  index  : BitVec 32
  gang   : Option GangRef := none
  graph  : Option (Word × Nat) := none
  dealt  : Bool := false
  idem   : Bool
  deriving DecidableEq, Repr

/-- A sequencer at its entry, m0-m2 set. -/
def startSeq (st : Start) (q : Seq) : SeqSt :=
  let x := SeqSt.fresh (trEntry st.rec_ q)
  { x with main := ((x.main.set 0 (.fresh (trFrame st.rec_))).set 1 (.fresh (st.index.setWidth 64))).set 2 (.fresh st.record) }

/-- Start a task in a slot: R170's state, a new TASKID (12 R308), a zero binding table (08 R209), instruction caches that hold nothing from
before (07 R169), and the acquire that matches the release of its launch, at the width of that record's page (05 R126). -/
def startTask (s : State) (slot : Nat) (st : Start) : State :=
  let j := getJob s st.job
  let n := j.taskno + 1
  let s := setJob s st.job { j with taskno := n }
  let info : TaskInfo :=
    { record := st.record, taskid := BitVec.ofNat 64 (st.job + n * 1024), job := st.job, prio := st.prio, need := st.need,
      parent := st.parent, index := st.index, gang := st.gang, graph := st.graph, dealt := st.dealt, idem := st.idem,
      escs := 0, start := s.time }
  let x := { Slot.vacant with
    task := some info, k := startSeq st .K, l := startSeq st .L, c := startSeq st .C, s := startSeq st .S
    ksup := (getSlot s slot).ksup }
  let s := setSlot s slot x
  let table := allocLoc x slot (allocSize x - 512)
  let m := writeNat s.mem table 512 0
  let m := (List.range 32).foldl (fun m g => setGranSyn m (table / 16 + g) 0) m
  dropRange (disownWrs (dropFetched { s with mem := m } (coreOf slot)) slot) (coreOf slot) st.job (widthOf s st.job st.child) [wholeRange]

/-- Start a task from a record in memory. -/
def startRecord (s : State) (slot job prio : Nat) (record parent : Word) (r : Nat) (index : BitVec 32) (dealt idem : Bool) : State :=
  startTask s slot { record, rec_ := r, job, prio, need := trNeed r, parent, child := if dealt then parent else record, index, dealt, idem }

/-! ## Gangs (05 R127-R131) -/

/-- The first slot of a core that is free for a gang member, reservations apart (05 R128). -/
def memberSlot (s : State) (core need : Nat) : Option Nat :=
  if (stageOf s core).isSome then none
  else [2 * core, 2 * core + 1].find? fun k => slotFree s k && needFits s k need
/-- The first slot of a core that is free for a gang member (05 R128). -/
def gangSlot (s : State) (core need : Nat) : Option Nat := if (heldBy s (2 * core)).isSome then none else memberSlot s core need

/-- The positions of a gang in its scope, in ascending (die, cluster, base). -/
def gangPositions (g : GangReq) : List (Nat × Nat) :=
  let cl :=
    if g.scope = 0 then [g.die * 32 + g.cluster] else if g.scope = 1 then clustersOf g.die
    else [0, 1, 2, 3].flatMap clustersOf
  cl.flatMap fun c => (shapeBases g.shape g.members).map fun b => (c, b)
/-- The cores of a position. -/
def positionCores (g : GangReq) (p : Nat × Nat) : List Nat := (shapeCores g.shape g.members p.2).map (p.1 * 8 + ·)

/-- The free barriers of a die, ascending (05 R138). -/
def freeBarNums (s : State) (die : Nat) : List Nat := (List.range 256).filter fun i => (kvFind s.bars (barKey die i)).isNone
/-- Allocate n barriers of a die with P participants to a level. -/
def allocBars (s : State) (die n p owner : Nat) (lgid : Option (BitVec 32)) (loc_ : Nat) : State × List Nat :=
  let l := (freeBarNums s die).take n
  (l.foldl (fun s i => setBar s (barKey die i) { Bar.free with p, owner, lgid, loc_ }) s, l)
/-- Map barriers to bn0 upward. -/
def mapBars (x : Slot) (l : List Nat) : Slot :=
  { x with barmap := (List.range 16).foldl (fun m i => vset m (BitVec.ofNat 4 i) (l[i]?)) x.barmap }

/-- Start every member of a gang in given slots in one tick (05 R128, 19 R450). The barriers of a linked gang count the
other devices too (05 R141). -/
def startGang (s : State) (g : GangReq) (slots : List Nat) (others : Nat) : State :=
  match unitRead s (jobCtx s g.job) g.tmpl 64 with
  | (s, none) => s
  | (s, some r) =>
    let die := dieOfCore (coreOf (slots.headD 0))
    let (s, bars) := allocBars s die g.nbar (g.members + others) (levelTag g.job g.hdr) g.lgid g.members
    let start (s : State) (e : Nat × Nat) : State :=
      let s := startTask s e.1
        { record := g.tmpl, rec_ := r, job := g.job, prio := g.prio, need := g.need, parent := g.hdr, child := g.hdr,
          index := BitVec.ofNat 32 e.2, idem := trIdem r,
          gang := some { level := g.hdr, shape := g.shape, member := e.2, members := g.members, lgid := g.lgid,
                         scope := g.scope, cluster := g.cluster, die := g.die } }
      updSlot s e.1 fun x => mapBars x bars
    { (slots.zipIdx).foldl start s with gangs := s.gangs.filter fun o => o.uid != g.uid }

end Sys2Proof.Machine
end

