-- ==== Sys2Proof/Machine/Graph.lean ====
section
/-! DEFINITION. Stage graphs: the record, the loader's checks, instance grants, the finish of stages and the Escapement (06
R149-R162). -/

namespace Sys2Proof.Machine

/-! ## The record (06 R149-R151) -/

/-- NSTAGE. -/
def grStages (r : Nat) : Nat := rf r 32 1
/-- NBAR. -/
def grBars (r : Nat) : Nat := rf r 33 1
/-- The graph's die: 0xFF means the issuing die. -/
def grDie (r issuer : Nat) : Nat := if rf r 35 1 = 0xFF then issuer else rf r 35 1
/-- INTERVAL in µs. -/
def grInterval (r : Nat) : Nat := if rf r 36 2 = 0 then 20 else rf r 36 2
/-- BARP. -/
def grBarp (r : Nat) : Nat := if rf r 43 1 = 0 then 1 else rf r 43 1
/-- The n-byte field of stage entry i. -/
def seField (r i off n : Nat) : Nat := rf r (64 + 32 * i + off) n
/-- TEMPLATE. -/
def seTemplate (r i : Nat) : Word := BitVec.ofNat 64 (seField r i 0 8)
/-- INRING. -/
def seIn (r i : Nat) : Word := BitVec.ofNat 64 (seField r i 8 8)
/-- OUTRING. -/
def seOut (r i : Nat) : Word := BitVec.ofNat 64 (seField r i 16 8)
/-- INNEED. -/
def seInNeed (r i : Nat) : Nat := seField r i 28 1 % 16
/-- OUTNEED. -/
def seOutNeed (r i : Nat) : Nat := seField r i 28 1 / 16
/-- INIT. -/
def seInit (r i : Nat) : Nat := seField r i 31 1

/-! ## Loading (06 R154-R157) -/

/-- The header obeys R149. -/
def headerShape (va : Word) (r : Nat) : Bool :=
  va.toNat % 64 == 0 && decide (1 ≤ grStages r) && decide (grStages r ≤ 16) && decide (grBars r ≤ 16)
    && (decide (rf r 35 1 ≤ 3) || rf r 35 1 == 0xFF) && decide (5 ≤ grInterval r) && decide (grInterval r ≤ 1000)
    && decide (grBarp r ≤ 128) && rf r 44 20 == 0 && (hdSync r).toNat % 8 == 0
/-- Stage entry i obeys R150. -/
def stageShape (r i : Nat) : Bool :=
  (seIn r i == 0) == (seInNeed r i == 0) && (seOut r i == 0) == (seOutNeed r i == 0)
    && decide (1 ≤ seField r i 29 1) && decide (seField r i 29 1 ≤ 64) && decide (seField r i 29 1 ≤ seField r i 30 1)
    && decide (seField r i 30 1 ≤ 64) && decide (seField r i 29 1 ≤ seInit r i) && decide (seInit r i ≤ seField r i 30 1)
    && seTemplate r i != 0
/-- The templates of the stages, none at the first stage whose shape or template fails (R154 SHAPE). -/
def loadStages (s : State) (cluster : Option Nat) (job r : Nat) : List Nat → State × Except Nat (List Nat)
  | [] => (s, .ok [])
  | i :: l =>
    if !stageShape r i then (s, .error i) else
      match taskAt s cluster job (seTemplate r i) with
      | (s, none) => (s, .error i)
      | (s, some t) =>
        match loadStages s cluster job r l with
        | (s, .ok ts) => (s, .ok (t :: ts))
        | e => e

/-- A ring as the loader finds it: where its descriptor lies, and the descriptor as the cluster's stores left it. -/
def ringAt (s : State) (cluster : Option Nat) (job : Nat) (va : Word) : State × Option (Span × RDesc) :=
  if va.toNat % 32 ≠ 0 then (s, none) else
    let s := ownFor s cluster job va 32
    match translate s (jobCtx s job) va 32 {} with
    | (s, .ok [sp]) => (s, some (sp, descAt s sp.loc))
    | (s, _) => (s, none)
/-- Spans that lie in one vault of a die (01 R15). -/
def inVault (die : Nat) (l : List Span) : Bool :=
  match l with
  | [] => true
  | sp :: _ => l.all fun o => o.area == .vault && dieOf o.loc == some die && o.loc / 2 ^ 23 == sp.loc / 2 ^ 23
/-- A ring meets R152 as far as it shows alone: valid, its need within its slots, and a local one with its slots in a vault of the die. -/
def ringFits (s : State) (job die : Nat) (sp : Span) (d : RDesc) (need : Nat) : State × Bool :=
  if !d.ok || decide (d.n < need) then (s, false)
  else if d.remote then (s, true)
  else if 2 ^ 23 < d.n * d.size then (s, false)
  else
    match translate s (jobCtx s job) d.base (d.n * d.size) {} with
    | (s, .ok l) => (s, inVault die (sp :: l))
    | (s, _) => (s, false)
/-- Where a stage's rings lie: input and output. -/
abbrev StageRings := Option (Span × RDesc) × Option (Span × RDesc)
/-- The rings of the stages, as far as they are found. -/
def loadRings (s : State) (cluster : Option Nat) (job r : Nat) : List Nat → State × List StageRings
  | [] => (s, [])
  | i :: l =>
    let (s, a) := if seIn r i = 0 then (s, none) else ringAt s cluster job (seIn r i)
    let (s, b) := if seOut r i = 0 then (s, none) else ringAt s cluster job (seOut r i)
    let (s, t) := loadRings s cluster job r l
    (s, (a, b) :: t)
/-- The stages that consume, and that produce, a ring. -/
def ringEnds (l : List StageRings) (loc : Loc) : Nat × Nat :=
  ((l.filter fun p => p.1.any fun a => a.1.loc == loc).length, (l.filter fun p => p.2.any fun a => a.1.loc == loc).length)
/-- A ring joins exactly one producing stage to one consuming stage; a remote one has one end here (06 R152). -/
def ringJoins (l : List StageRings) (e : Option (Span × RDesc)) : Bool :=
  match e with
  | none => true
  | some (sp, d) => let (c, p) := ringEnds l sp.loc; if d.remote then c + p == 1 else c == 1 && p == 1
/-- One end of a stage has its ring, and the ring fits; an absent ring does. -/
def endFits (s : State) (job die : Nat) (va : Word) (e : Option (Span × RDesc)) (need : Nat) : State × Bool :=
  match e with
  | none => (s, va == 0)
  | some (sp, d) => ringFits s job die sp d need
/-- The first stage that fails RING (06 R154). -/
def ringFault (s : State) (job die r : Nat) (rings : List StageRings) : List (StageRings × Nat) → State × Option Nat
  | [] => (s, none)
  | ((a, b), i) :: l =>
    let (s, inOk) := endFits s job die (seIn r i) a (seInNeed r i)
    let (s, outOk) := endFits s job die (seOut r i) b (seOutNeed r i)
    let remoteIn := a.any fun e => e.2.remote && seField r i 24 4 == 0
    if !inOk || !outOk || remoteIn || !ringJoins rings a || !ringJoins rings b then (s, some i)
    else ringFault s job die r rings l
/-- The stage that consumes a stage's local output ring, with the ring's slot count. -/
def nextStage (l : List StageRings) (i : Nat) : Option (Nat × Nat) :=
  match l[i]? with
  | some (_, some (sp, d)) =>
    if d.remote then none
    else ((List.range l.length).find? fun j => match l[j]? with | some (some a, _) => a.1.loc == sp.loc | _ => false).map (·, d.n)
  | _ => none
/-- The stages and slot counts on the way from a stage, until `i` comes up again. -/
def cycleFrom (l : List StageRings) (i : Nat) : Nat → Nat → List (Nat × Nat) → Option (List (Nat × Nat))
  | 0, _, _ => none
  | fuel + 1, j, acc =>
    match nextStage l j with
    | none => none
    | some (k, n) => if k = i then some (acc ++ [(j, n)]) else cycleFrom l i fuel k (acc ++ [(j, n)])
/-- The cycle through a stage, if any, breaks R155. Every stage has one input and one output ring at most, so that the
elementary cycles are these. -/
def cycleBad (r : Nat) (l : List StageRings) (i : Nat) : Bool :=
  match cycleFrom l i (l.length + 1) i [] with
  | none => false
  | some c =>
    let total := sumNat (c.map fun e => seInNeed r e.1 + seOutNeed r e.1)
    c.any fun e => decide (e.2 ≤ total)

/-- A core is free for a stage assignment (06 R157). -/
def stageCore (s : State) (core : Nat) : Bool :=
  coreLive s core && (stageOf s core).isNone && [2 * core, 2 * core + 1].all fun k =>
    (heldBy s k).isNone && (match (getSlot s k).task with | some t => t.gang.isNone | none => true)
/-- The cores of the graph's clusters, ascending. -/
def graphCores (r die : Nat) : List Nat :=
  ((List.range 24).filter fun c => (rf r 40 3).testBit c).flatMap fun c =>
    (List.range 8).map fun k => (die * 32 + c) * 8 + k
/-- Deal INIT cores to each stage in turn (06 R157). -/
def dealCores (r : Nat) : List Nat → List Nat → List (List Nat)
  | [], _ => []
  | i :: l, free => free.take (seInit r i) :: dealCores r l (free.drop (seInit r i))

/-- The loader's answer: the graph, or REFUSE with REFSTAGE (06 R154). Too few cores and too few barriers concern the header rather than a
stage entry, so that REFSTAGE is 0xFF (log 109). -/
def checkGraph (s : State) (cluster : Option Nat) (issuer job : Nat) (va : Word) (r : Nat) : State × Except (Nat × Nat) Graph :=
  if !headerShape va r then (s, .error (1, 0xFF)) else
    let ns := List.range (grStages r)
    let die := grDie r issuer
    match loadStages s cluster job r ns with
    | (s, .error i) => (s, .error (1, i))
    | (s, .ok ts) =>
      let (s, rings) := loadRings s cluster job r ns
      match ringFault s job die r rings rings.zipIdx with
      | (s, some i) => (s, .error (2, i))
      | (s, none) =>
          match ns.find? fun i => cycleBad r rings i with
          | some i => (s, .error (3, i))
          | none =>
            let free := (graphCores r die).filter fun c => stageCore s c
            if free.length < sumNat (ns.map fun i => seInit r i) then (s, .error (4, 0xFF))
            else if (freeBarNums s die).length < grBars r then (s, .error (5, 0xFF))
            else
              let stages := (List.zip ns (List.zip ts (dealCores r ns free))).map fun (i, t, cores) =>
                let (a, b) := rings.getD i (none, none)
                { tmpl := BitVec.ofNat 512 t, tva := seTemplate r i, inr := seIn r i, outr := seOut r i,
                  insp := a.map (·.1), outsp := b.map (·.1), inst := seField r i 24 4, inneed := seInNeed r i, outneed := seOutNeed r i,
                  minc := seField r i 29 1, maxc := seField r i 30 1, cores, started := 0, ended := 0, lost := false,
                  auto := 0, left := 0, state := 0 }
              (s, .ok { hdr := va, job, die, hyst := rf r 34 1, interval := grInterval r, bars := [], stages, samples := [],
                        moves := [], at_ := s.time })

/-- Bring a checked graph to life: its barriers, the graph mark of its rings, its place at the Escapement (06 R156, 19
R450). -/
def loadGraph (s : State) (r : Nat) (g : Graph) : State :=
  let (s, bars) := allocBars s g.die (grBars r) (grBarp r) (levelTag g.job g.hdr) none 0
  let mark (s : State) (sp : Span) : State := putDesc s sp.loc 28 1 ((descAt s sp.loc).rfl_ ||| 4#8).toNat
  let s := (g.stages.flatMap fun st => st.insp.toList ++ st.outsp.toList).foldl mark s
  enqueue { s with graphs := s.graphs ++ [{ g with bars }] } .schedule

/-! ## Stages -/

/-- A loaded graph. -/
def findGraph (s : State) (job : Nat) (hdr : Word) : Option Graph := s.graphs.find? fun g => g.hdr == hdr && g.job == job
/-- Write a graph. -/
def setGraph (s : State) (g : Graph) : State :=
  { s with graphs := s.graphs.map fun o => if o.hdr = g.hdr ∧ o.job = g.job then g else o }
/-- Change a stage of a graph. -/
def updStage (s : State) (job : Nat) (hdr : Word) (i : Nat) (f : Stage → Stage) : State :=
  match findGraph s job hdr with
  | some g => setGraph s { g with stages := g.stages.zipIdx.map fun e => if e.2 = i then f e.1 else e.1 }
  | none => s
/-- Write a stage's status entry (06 R151). -/
def writeStatus (s : State) (g : Graph) (i : Nat) (st : Stage) : State :=
  let v := st.started % 2 ^ 32 + st.ended % 2 ^ 32 * 2 ^ 32 + st.cores.length * 2 ^ 64 + st.state * 2 ^ 72
    + min 0xFFFF st.auto * 2 ^ 80 + min 0xFFFF st.left * 2 ^ 96
  (unitWrite s (jobCtx s g.job) (g.hdr + BitVec.ofNat 64 (64 + 32 * g.stages.length + 16 * i)) 16 v).1

/-- A ring of a stage as its home holds it. -/
def heldRing (s : State) (e : Option Span) : Option (Span × RDesc) := e.map fun sp => (sp, descAt s sp.loc)
/-- A stage's finishing condition of R156 is met. -/
def stageMet (s : State) (st : Stage) : Bool :=
  st.started == st.ended &&
    (if st.inst ≠ 0 then st.started == st.inst
     else (heldRing s st.insp).any fun e => e.2.closed && decide (e.2.avail .consumer < st.inneed))
/-- In a graph that is cancelled, the stage's condition can no longer be met (06 R156): it had instances to start, or an input that does not
fall below its need any more, or none. -/
def stageDead (s : State) (st : Stage) : Bool :=
  st.started == st.ended && (st.inst != 0 || (heldRing s st.insp).all fun e => decide (st.inneed ≤ e.2.avail .consumer))
/-- No stage of a graph runs an instance any more. -/
def graphIdle (g : Graph) : Bool := g.stages.all fun o => o.started == o.ended

/-- A core runs an instance of a graph. -/
def runsInstance (s : State) (g : Graph) (core : Nat) : Bool :=
  [2 * core, 2 * core + 1].any fun k =>
    match (getSlot s k).task with | some t => t.job == g.job && t.graph.any fun e => e.1 == g.hdr | none => false
/-- The cores of finished stages leave as each one's last instance ends (06 R156). -/
def releaseCores (s : State) (job : Nat) (hdr : Word) : State :=
  match findGraph s job hdr with
  | none => s
  | some g =>
    setGraph s { g with stages := g.stages.map fun st =>
      if st.state = 0 then st else { st with cores := st.cores.filter fun c => runsInstance s g c } }

/-- The ring unit closes a ring at once (06 R156). -/
def closeRing (s : State) (loc : Loc) (tag : BitVec 12) : State :=
  let s := putDesc s loc 28 1 ((descAt s loc).rfl_ ||| 1#8).toNat
  enqueue (ringAdvance (setMarks s loc { marksOf s loc with closing := false }) loc tag) .schedule
/-- A stage finishes (06 R156): slots left are released untaken, its output ring is closed, its status entry is written, its
cores leave as they fall idle, and the graph's COUNT falls. -/
def finishStage (s : State) (g : Graph) (i : Nat) (st : Stage) (state : Nat) : State :=
  let tag := (getJob s g.job).jobtag
  let (s, left) :=
    match if st.inst = 0 then heldRing s st.insp else none with
    | some (sp, d) =>
      let n := if d.closed then d.avail .consumer else 0
      let l := (List.range n).map fun k => (d.take + BitVec.ofNat 32 k).toNat
      let s := if n = 0 then s else putDesc s sp.loc 16 4 d.fill.toNat
      (ringAdvance (markSlots s sp.loc .consumer l) sp.loc tag, n)
    | none => (s, 0)
  let s := match st.outsp with | some sp => closeRing s sp.loc tag | none => s
  let st := { st with left := min 0xFFFF left, state }
  let s := writeStatus s g i st
  let s := releaseCores (updStage s g.job g.hdr i fun _ => st) g.job g.hdr
  enqueue (levelDec s g.job g.hdr (state == 2)) .schedule

/-- The stage of a graph that finishes next, with its STATE: one whose condition is met; in a cancelled graph one whose condition cannot be
met any more; where every stage left waits for another's ring to close, the first of them (log 109). -/
def nextFinish (s : State) (g : Graph) : Option (Stage × Nat × Nat) :=
  let live := g.stages.zipIdx.filter fun e => e.1.state == 0
  match live.find? fun e => stageMet s e.1 with
  | some (st, i) => some (st, i, if st.lost then 2 else 1)
  | none =>
    if !levelClosing s g.job g.hdr then none
    else
      match live.find? fun e => stageDead s e.1 with
      | some (st, i) => some (st, i, 2)
      | none => if graphIdle g then live.head?.map fun e => (e.1, e.2, 2) else none
/-- Finish the stages of a graph that can finish, one after another. -/
def finishStages : Nat → State → Nat → Word → State
  | 0, s, _, _ => s
  | fuel + 1, s, job, hdr =>
    match findGraph s job hdr with
    | none => s
    | some g =>
      match nextFinish s g with
      | some (st, i, state) => finishStages fuel (finishStage s g i st state) job hdr
      | none => s

/-! ## Instances (06 R158, R159) -/

/-- A core's old stage still runs an instance on it after a move (06 R162). -/
def movePending (s : State) (g : Graph) (core : Nat) : Bool :=
  g.moves.any fun m => m.1 == core && [2 * core, 2 * core + 1].any fun k =>
    match (getSlot s k).task with | some t => t.job == g.job && t.graph == some (g.hdr, m.2) | none => false

/-- A ring of a stage has `need` slots to give: its location and descriptor; `none` within for an absent ring. -/
def ringReady (s : State) (e : Option Span) (role : Role) (need : Nat) : Option (Option (Span × RDesc)) :=
  match heldRing s e with
  | none => some none
  | some (sp, d) => if need ≤ d.avail role then some (some (sp, d)) else none

/-- What a slot's request for an instance would be granted, none where it is refused (06 R158). -/
def grantable (s : State) (slot : Nat) : Option (Graph × Nat × Stage × Option (Span × RDesc) × Option (Span × RDesc)) :=
  match stageOf s (coreOf slot) with
  | none => none
  | some (g, i) =>
    match g.stages[i]? with
    | none => none
    | some st =>
      let need := trNeed st.tmpl.toNat
      if !slotFree s slot || !needFits s slot need || movePending s g (coreOf slot) || st.state != 0
          || levelClosing s g.job g.hdr || (st.inst != 0 && st.started == st.inst) then none
      else
        match ringReady s st.insp .consumer st.inneed with
        | none => none
        | some a =>
          match ringReady s st.outsp .producer st.outneed with
          | none => none
          | some b => some (g, i, st, a, b)

/-- The handle that a grant binds. -/
def grantHandle (va : Word) (d : RDesc) (role : Role) (n : Nat) : Handle :=
  { desc := va, first := match role with | .consumer => d.take | .producer => d.claim, count := BitVec.ofNat 16 n, done := 0,
    role := some role, flags := if d.remote then 3 else 1, status := 0,
    seen := match role with | .consumer => d.fill | .producer => d.free }

/-- INSTANCE_GRANT (06 R158): a request is granted in one step, or refused with nothing taken or claimed. -/
def grantInstance (s : State) (slot : Nat) : State :=
  if !s.running then s else
    match grantable s slot with
    | none => s
    | some (g, i, st, a, b) =>
      let s := match a with
        | some (sp, d) => putDesc s sp.loc 16 4 (d.take + BitVec.ofNat 32 st.inneed).toNat
        | none => s
      let s := match b with
        | some (sp, d) => putDesc s sp.loc 20 4 (d.claim + BitVec.ofNat 32 st.outneed).toNat
        | none => s
      let s := levelAdd (updStage s g.job g.hdr i fun st => { st with started := st.started + 1 }) g.job g.hdr 1
      let r := st.tmpl.toNat
      let s := startTask s slot
        { record := st.tva, rec_ := r, job := g.job, prio := jobPrio s g.job (trPrio r), need := trNeed r, parent := g.hdr, child := g.hdr,
          index := BitVec.ofNat 32 st.started, graph := some (g.hdr, i), idem := trIdem r }
      let s := match a with
        | some (sp, d) => dropRange s (coreOf slot) g.job sp.sw (slotRanges d d.take st.inneed)
        | none => s
      updSlot s slot fun x =>
        let h0 := match a with | some (_, d) => grantHandle st.inr d .consumer st.inneed | none => .unbound
        let h1 := match b with | some (_, d) => grantHandle st.outr d .producer st.outneed | none => .unbound
        mapBars { x with handles := vset (vset x.handles 0 h0) 1 h1 } g.bars
/-- INSTANCE_GRANT (06 R158). -/
def execInstanceGrant (slot : Nat) (s : State) : Host.Outcome State Fault Refusal := .next (grantInstance s slot)

/-- A handle of a stage instance's end has slots of its binding that are not closed (06 R159). -/
def Handle.unclosed (h : Handle) (role : Role) : Bool := h.role == some role && h.flags.getLsbD 0 && h.done != h.count
/-- The descriptor of a handle as the ring unit reaches it, for the task of a slot. -/
def handleSpan (s : State) (slot : Nat) (h : Handle) : State × Except (Kind × Word) (Option Span) :=
  match translate s (engineCtx s slot) h.va 32 { r := true, w := true } with
  | (s, .ok [sp]) => (s, .ok (some sp))
  | (s, .fault k a) => (s, .error (k, a))
  | (s, _) => (s, .ok none)
/-- The handles that the ring unit closes at the end of the task in a slot, with their numbers. -/
def closing (x : Slot) : List (BitVec 5 × Handle × Role) :=
  if x.task.any fun t => t.graph.isSome then
    [((0 : BitVec 5), vget x.handles 0, Role.consumer), (1, vget x.handles 1, .producer)].filter fun e => e.2.1.unclosed e.2.2
  else []
/-- The ring unit closes a handle's binding at an instance's end (06 R159): slots released, or published as they stand with the release of
R153 at the width of the descriptor's page. -/
def closeHandle (s : State) (slot job : Nat) (sp : Span) (h : Handle) (role : Role) : State :=
  let s := match role with
    | .producer => writeBackRange s (coreOf slot) job sp.sw
        (slotRanges (descAt s sp.loc) (h.first + h.done.setWidth 32) (h.count - h.done).toNat)
    | .consumer => s
  ringAdvance (markSlots s sp.loc role (h.next (h.count - h.done).toNat)) sp.loc (getJob s job).jobtag
/-- Slots that the ring unit closed at an instance's end count in AUTOCNT (06 R159). -/
def countAuto (s : State) (slot n : Nat) : State :=
  match (getSlot s slot).task.bind fun t => t.graph.map fun g => (t.job, g) with
  | some (job, hdr, i) => updStage s job hdr i fun st => { st with auto := min 0xFFFF (st.auto + n) }
  | none => s
/-- What closing the handles of a task at its end comes to: done; a fault of the ring unit (04 R105); a wait for a page that migrates. -/
inductive Closed where
  | done (s : State)
  | fault (s : State) (k : Kind) (va : Word)
  | stall (s : State)
  deriving DecidableEq, Repr
/-- Close handles one after another; each that is closed is marked so, and is not closed again. -/
def closeHandles (slot job : Nat) : List (BitVec 5 × Handle × Role) → State → Closed
  | [], s => .done s
  | (rg, h, role) :: l, s =>
    match handleSpan s slot h with
    | (s, .error (k, a)) => .fault s k a
    | (s, .ok none) => .stall s
    | (s, .ok (some sp)) =>
      let s := setHandle (closeHandle s slot job sp h role) slot rg { h with done := h.count }
      closeHandles slot job l (countAuto s slot (h.count - h.done).toNat)

/-- An instance of a stage has ended and left its slot (06 R156): its stage counts it, its core's move is done with its last instance, and
what can finish does. -/
def instanceEnd (s : State) (x : Slot) (core : Nat) (lost : Bool) : State :=
  match x.task with
  | none => s
  | some t =>
    match t.graph with
    | none => s
    | some (hdr, i) =>
      let s := updStage s t.job hdr i fun st => { st with ended := st.ended + 1, lost := st.lost || lost }
      let s := match findGraph s t.job hdr with
        | some g => setGraph s { g with moves := g.moves.filter fun m => m.1 != core || movePending s g core }
        | none => s
      finishStages 20 (releaseCores s t.job hdr) t.job hdr

/-! ## The Escapement (06 R161, R162) -/

/-- A graph by its tag. -/
def graphByTag (s : State) (k : Nat) : Option Graph := s.graphs.find? fun g => levelTag g.job g.hdr == k
/-- A ring's occupancy as a stage's input or output sees it. -/
def occ (s : State) (e : Option Span) (out : Bool) : Int :=
  match heldRing s e with
  | some (_, d) =>
    let k := if out && d.remote then (d.fill - d.free + BitVec.ofNat 32 d.n).toNat else d.avail .consumer
    (256 * k / d.n : Nat)
  | none => 0
/-- The pressure sample of a stage. -/
def stageSample (s : State) (st : Stage) : Int :=
  (if st.insp.isSome then occ s st.insp false else if st.inst = 0 ∨ st.started < st.inst then 256 else 0) - occ s st.outsp true

/-- The graph's Escapement runs. -/
def escapementUp (s : State) (g : Graph) : Bool := s.running && !(getDie s g.die).fenced

/-- ESCAPEMENT_SAMPLE: the next of eight samples of an interval, when its time has come (06 R161). -/
def execEscapementSample (graph : Nat) (s : State) : Host.Outcome State Fault Refusal :=
  .next <|
    match graphByTag s graph with
    | none => s
    | some g =>
      let k := g.samples.length
      if !escapementUp s g || decide (8 ≤ k) || decide (s.time < g.at_ + k * g.interval * 125) then s
      else setGraph s { g with samples := g.samples ++ [g.stages.map (stageSample s)] }

/-- The pressures of the stages at an interval's end (06 R161). -/
def pressures (g : Graph) : List Int :=
  (List.range g.stages.length).map fun i => (g.samples.foldl (fun a (l : List Int) => a + l.getD i 0) 0) / 8
/-- The candidate with the greatest value, the lowest index on ties. -/
def argMax (l : List (Nat × Int)) : Option (Nat × Int) :=
  l.foldl (fun m e => match m with | some b => if b.2 < e.2 then some e else m | none => some e) none

/-- The move of an interval: gaining stage, losing stage, core (06 R162). -/
def balanceMove (s : State) (g : Graph) : Option (Nat × Nat × Nat) :=
  let p := pressures g
  let live := g.stages.zipIdx.filter fun e => e.1.state == 0
  let a := (live.filter fun e => decide (e.1.cores.length < e.1.maxc)).map fun e => (e.2, p.getD e.2 0)
  let d := (live.filter fun e => decide (e.1.minc < e.1.cores.length)).map fun e => (e.2, - p.getD e.2 0)
  match argMax a, argMax d with
  | some hi, some lo =>
    if hi.1 = lo.1 ∨ hi.2 + lo.2 < (g.hyst : Int) then none
    else
      let cores := (match g.stages[lo.1]? with | some st => st.cores | none => []).filter fun c => !movePending s g c
      match cores with
      | [] => none
      | c :: l => some (hi.1, lo.1, l.foldl max c)
  | _, _ => none

/-- BALANCE_DECISION: at the end of an interval, at most one move, the status entries, and the next interval (06 R151,
R162). -/
def execBalanceDecision (graph : Nat) (s : State) : Host.Outcome State Fault Refusal :=
  .next <|
    match graphByTag s graph with
    | none => s
    | some g =>
      if !escapementUp s g || g.samples.length != 8 || decide (s.time < g.at_ + g.interval * 1000) then s
      else
        let move := if levelClosing s g.job g.hdr then none else balanceMove s g
        let g : Graph := match move with
          | some (hi, lo, c) =>
            let stages := g.stages.zipIdx.map fun (st, i) =>
              if i = lo then { st with cores := st.cores.filter fun o => o != c }
              else if i = hi then { st with cores := st.cores ++ [c] } else st
            { g with stages, moves := (g.moves.filter fun m => m.1 != c) ++ [(c, lo)] }
          | none => g
        let s := setGraph s { g with samples := [], at_ := g.at_ + g.interval * 1000 }
        let s := g.stages.zipIdx.foldl (fun s e => writeStatus s g e.2 e.1) s
        enqueue s .schedule

end Sys2Proof.Machine
end

