-- ==== Sys2Proof/Machine/Contain.lean ====
section
/-! DEFINITION. CROPEN, CRCLOSE and the drain of a region (11 R287-R294, 18 R443). -/

namespace Sys2Proof.Machine

/-- Some issued word of the slot still has work to do. -/
def slotPending (x : Slot) : Bool :=
  [Seq.K, .L, .C, .S].any fun q => (x.issued q).any fun e => !e.2.done

/-- CROPEN writes the entry area: the sequencers at their stop points, K at the word after, and the slot's entry state
(11 R287). -/
def writeEntryArea (s : State) (slot : Nat) (after : Word) : State :=
  let x := getSlot s slot
  let img := putEntry .empty { x with k := { x.k with pc := after }, crstat := 0, subcnt := 0, corrcnt := 0, mstat0 := 0, mstat1 := 0 }
  { s with mem := blit s.mem img (allocLoc x slot (allocSize x - 512 - 98304)) 32768 }

/-- CROPEN's effect (18 R443): it waits for the engine commands that the slot accepted earlier, subscriptions included, and
for the slot's issued words. -/
def cropenEff (n : Nib) (off : BitVec 32) (s : State) (t : Thread) : Res :=
  let x := getSlot s t.slot
  if x.region.isSome ∨ isSup s t ∨ x.need < 2 then .trap s { cause := 10 }
  else
    let (uid, s) :=
      match x.fence.find? fun f => f.1 == t.seq with
      | some f => (f.2, s)
      | none => (s.nextUid, setSlot s t.slot { x with fence := x.fence ++ [(t.seq, s.nextUid)] })
    if [Path.copy, .matrix, .gather].any (fun p => pathBusy s t.slot p uid) || slotPending (getSlot s t.slot) then .wait s false
    else
      let pc := (getSeq s t).pc
      let handler := pc + off.signExtend 64 * 4
      -- the entry state holds the word's own waits taken and signals made (11 R293)
      let x := getSlot s t.slot
      let tok := takeWaits x.tok (waitsOf .K n none)
      let entry := { x with tok, k := { x.k with outst := x.k.outst ++
        [{ tag := 0, pc, work := .none, done := true, sigs := sigsOf .K n none }] } }
      let s' := writeEntryArea (setSlot s t.slot (settle entry)) t.slot (pc + 8)
      let s := clearJournal { s with mem := s'.mem } t.slot
      .done (updSlot s t.slot fun x =>
        { x with
          crstat := BitVec.ofNat 64 (1 + if off = 0 then 8 else 0)
          region := some { buf := [], handler, resume := pc + 8, phase := .opened, closePc := 0, closeUid := 0, failed := none } })
/-- CROPEN (18 R443). -/
def execCropen (n : Nib) (off : BitVec 32) (s : State) : Host.Outcome State Fault Refusal :=
  issueWord (.cropen n off) n none {} (cropenEff n off) s

/-- STATE of CRSTAT. -/
def setRegionState (x : Slot) (v : Word) : Slot := { x with crstat := (x.crstat &&& ~~~3#64) ||| v }

/-- CRCLOSE's effect: the region ends in its issue cycle and drains; the word completes when the drain does (11 R294). -/
def crcloseEff (s : State) (t : Thread) : Res :=
  let x := getSlot s t.slot
  match x.region with
  | none => .trap s { cause := 10 }
  | some r =>
    if isSup s t ∨ r.phase ≠ .opened then .trap s { cause := 10 }
    else
      let (tag, s) := takeUid s
      let pc := (getSeq s t).pc
      let s := updSlot s t.slot fun x =>
        setRegionState { x with region := some { r with phase := .draining, closePc := pc, closeUid := tag } } 2
      .pend (enqueue s (.event (.regionDrainComplete t.slot))) tag .none
/-- CRCLOSE (11 R294, 18 R443). -/
def execCrclose (n : Nib) (s : State) : Host.Outcome State Fault Refusal :=
  issueWord (.crclose n) n none {} crcloseEff s

/-- The region's words and commands are complete (11 R294 part 1). -/
def regionQuiet (x : Slot) (r : Region) : Bool :=
  !([Seq.K, .L, .C, .S].any fun q => (x.issued q).any fun e => !e.2.done && decide (e.2.tag < r.closeUid))
    && (List.range 6).all fun eng => (engQueue x eng).all fun c => !c.inRegion

/-- Perform buffered writes in order; one that a home cannot merge is passed over (11 R294 part 2). -/
def drainWrites (slot : Nat) : State → List (StoreOp × Seq × Word) → Option (Bad × Word) → State × Option (Bad × Word)
  | s, [], b => (s, b)
  | s, e :: t, b =>
    match performOp s slot e.1 with
    | .ok s => drainWrites slot s t b
    | .error x => drainWrites slot s t (b <|> some (x, match e.1.spans with | sp :: _ => sp.va | [] => 0))

/-- Have stores that a drain held perform next, and engines go on. -/
def resumeStores (s : State) (slot : Nat) : State :=
  let x := getSlot s slot
  let s := [Seq.K, .L, .C, .S].foldl (fun s q =>
    (x.issued q).foldl (fun s e => if !e.2.done && e.2.work.isStore then enqueue s (.event (.storePerformed slot q)) else s) s) s
  kickSlot s slot

/-- Part 2 of a drain: the writes perform, the journal goes, CRCLOSE completes; a write that failed makes MACHINE_CHECK at
the CRCLOSE (11 R294). -/
def drainAll (s : State) (slot : Nat) (r : Region) : State :=
  let (s, bad) := drainWrites slot s r.buf none
  let s := clearJournal s slot
  let s := updSlot s slot fun x => setRegionState { x with region := none } 0
  match bad with
  | none => checkEnd (resumeStores (updSlot s slot fun x => settle (markDone x .K r.closeUid)) slot) slot
  | some (b, va) =>
    let s := resumeStores (updSlot s slot fun x => settle (dropIssued x .K r.closeUid)) slot
    machineCheck s slot .K r.closePc { b with addr := va } false

/-- REGION_DRAIN_COMPLETE: the drain begins once the region's words and commands are complete, and then performs the buffered
writes (11 R292, R294). -/
def drainStep (s : State) (slot : Nat) : State :=
  match (getSlot s slot).region with
  | none => s
  | some r =>
    if r.phase = .performing then
      match needFar s slot (bufMerges (getSlot s slot)) with
      | some s => hold s (.event (.regionDrainComplete slot))
      | none => drainAll s slot r
    else if r.phase = .draining ∧ regionQuiet (getSlot s slot) r then
      enqueue (updSlot s slot fun x => { x with region := some { r with phase := .performing } })
        (.event (.regionDrainComplete slot))
    else s
/-- REGION_DRAIN_COMPLETE (11 R292). -/
def execRegionDrainComplete (slot : Nat) (s : State) : Host.Outcome State Fault Refusal := .next (drainStep s slot)

end Sys2Proof.Machine
end

