-- ==== Sys2Proof/Machine/Snapshot.lean ====
section
/-! DEFINITION. The snapshot of a slot: its image, its place in the job's save area, and the load of an image into a slot (07 R192-R198, 05
R146, R147). -/

namespace Sys2Proof.Machine

/-! ## The image (07 R193-R197) -/

/-- Put an accumulator bank with the codes its granules hold. -/
def putAcc (m : Store) (off : Nat) (a : Acc) : Store :=
  let m := a.elems.foldl (fun m e => writeNat m (off + 4 * e.1) 4 e.2.toNat) m
  a.syns.foldl (fun m e => setGranSyn m (off / 16 + e.1) e.2) m
/-- Read an accumulator bank back. -/
def takeAcc (img : Store) (off : Nat) : Acc :=
  let m := extract img off 65536
  { elems := (List.range 16384).filterMap fun i =>
      let v := BitVec.ofNat 32 (readNat m (4 * i) 4)
      if v = 0 then none else some (i, v)
    syns := m.syns }

/-- Put the commands of an engine's queue: packets in order. A bank word has no packet and leaves its entry zero. -/
def putCmds (size : Nat) (m : Store) (off : Nat) (l : List Cmd) : Store :=
  putAll (fun m o (c : Cmd) =>
    let m := putField m o 64 c.pkt
    match c.body with
    | .packet _ ext _ _ => if size = 128 then putField m (o + 64) 64 ext.toNat else m
    | _ => m) size m off l
/-- Put the engine progress entry of a queue (07 R197). -/
def putProgress (m : Store) (off : Nat) (l : List Cmd) (matrix : Bool) : Store :=
  match l.findIdx? fun c => (c.started || c.paused.isSome) && c.status.isNone with
  | none => putField m off 2 0xFFFF
  | some i =>
    match l[i]? with
    | none => m
    | some c =>
      let m := putField m off 2 i
      let m := putField m (off + 2) 1 (if c.paused.isSome then 1 else 0)
      let m := putField m (off + 3) 1 (if matrix then rf c.pkt 45 1 / 32 % 2 else 0)
      putField m (off + 4) 4 c.progress
/-- Put the engines of a slot. -/
def putEngines (m : Store) (x : Slot) : Store :=
  let m := putCmds 128 m 0x1900 x.mq
  let m := putCmds 64 m 0x1D00 x.gq
  let m := putAll (putCmds 64) 1024 m 0x1F00 x.ctxs.toList
  let m := (List.range 4).foldl (fun m c => putProgress m (0x2F00 + 16 * c) (engQueue x c) false) m
  let m := putProgress m 0x2F40 x.gq false
  putProgress m 0x2F50 x.mq true

/-- A region's buffer as lines: the virtual address of each distinct line with its 64 bytes, the buffered writes merged. -/
def bufferLines (s : State) (slot : Nat) (x : Slot) : List (Word × Nat) :=
  match x.region with
  | none => []
  | some r =>
    let v := visible (setSlot s slot x) slot
    let spans := r.buf.flatMap fun e => e.1.spans
    (bufLines r.buf).filterMap fun line =>
      (spans.find? fun sp => decide (sp.loc / 64 ≤ line) && decide (64 * line < sp.loc + sp.len)).map fun sp =>
        let va := sp.va - BitVec.ofNat 64 sp.loc + BitVec.ofNat 64 (64 * line)
        let (_, gs) := getRun v (coreWho v slot) sp.area (64 * line) 64
        (va, runValue gs (64 * line) 64)
/-- Put a region's buffer. -/
def putBuffer (m : Store) (l : List (Word × Nat)) : Store :=
  let m := putAll (fun m o (e : Word × Nat) => putField m o 8 e.1.toNat) 8 m 0x28000 l
  putAll (fun m o (e : Word × Nat) => writeNat m o 64 e.2) 64 m 0x29000 l

/-- SIZE of an image. -/
def imageSize (region : Bool) : Nat := if region then 0x31000 else 0x28000

/-- Put the header (07 R194). -/
def putHead (m : Store) (x : Slot) (slot cause : Nat) : Store :=
  match x.task with
  | none => m
  | some t =>
    let core := coreOf slot
    let flags := (if x.region.isSome then 1 else 0) + (if t.gang.isSome then 2 else 0) + (if t.graph.isSome then 4 else 0)
      + (if x.armed.isSome then 8 else 0) + (if x.mq.any fun c => c.started && c.status.isNone && c.paused.isNone then 16 else 0)
    let m := putField m 0 2 1
    let m := putField m 2 2 flags
    let m := putField m 4 4 (imageSize x.region.isSome)
    let m := putField m 8 8 t.record.toNat
    let m := putField m 16 8 t.taskid.toNat
    let m := putField m 24 2 t.job
    let m := putField m 26 1 t.prio
    let m := putField m 27 1 t.need
    let m := putField m 28 4 (core / 256 + core / 8 % 32 * 2 ^ 8 + core % 8 * 2 ^ 16 + slot % 2 * 2 ^ 24)
    let m := match t.gang with
      | some g => putField m 32 3 (g.shape.toNat + g.member * 2 ^ 8 + g.members * 2 ^ 16)
      | none => m
    let m := putField m 35 1 x.nbrmask.toNat
    let m := match t.graph with
      | some g => putField (putField m 40 8 g.1.toNat) 48 1 g.2
      | none => m
    let m := match x.armed with
      | some a => putField (putField m 49 1 a.1.toNat) 52 4 a.2.toNat
      | none => m
    putField m 56 1 cause

/-- The snapshot image of a stopped slot. -/
def snapImage (s : State) (slot : Nat) (x : Slot) (cause : Nat) : Store :=
  let m := putEntry .empty x
  let m := putHead m x slot cause
  let m := putEngines m x
  let m := putAcc m 0x8000 x.acc0
  let m := putAcc m 0x18000 x.acc1
  putBuffer m (bufferLines s slot x)

/-- The bytes of an image that are zero in every image of the layout, as offset and count (07 R193-R197). -/
def reservedBytes : List (Nat × Nat) :=
  [(36, 4), (50, 2), (57, 199)]
    ++ ([0x100, 0x500, 0x900, 0xD00].flatMap fun o => [(o + 0x50, 0x30), (o + 0x280, 0x180)])
    ++ [(0x1164, 12), (0x1182, 0x7E)]
    ++ ((List.range 32).flatMap fun i => [(0x1500 + 32 * i + 19, 5), (0x1500 + 32 * i + 28, 4)])
    ++ ((List.range 6).map fun i => (0x2F00 + 16 * i + 8, 8)) ++ [(0x2F60, 0xA0)]

/-- The image has a code other than its format's: SIZE against FLAGS bit 0, a reserved byte or bit. -/
def imageBad (img : Store) : Bool :=
  let flags := readNat img 2 2
  let region := flags % 2 == 1
  readNat img 4 4 != imageSize region || flags / 32 != 0
    || reservedBytes.any fun r => (extract img (r.1 / 64 * 64) (64 * (r.2 / 64 + 2))).cells.any fun c =>
        decide (r.1 % 64 ≤ c.1) && decide (c.1 < r.1 % 64 + r.2)

/-! ## Loading an image (07 R198) -/

/-- What a saved packet resolves to when its queue holds nothing of it that the device kept: it is accepted anew. -/
def acceptAgain (s : State) (t : Thread) (eng p ext : Nat) : Cmd :=
  let c : Chk :=
    if eng < 4 then acceptCopy s t p
    else if eng = 4 then acceptGather s p
    else acceptMatrix s t [pkKind p] p ext 0
  let (body, st, fc) : CmdBody × Option Nat × Nat := match c with
    | .ok _ r => (.packet (BitVec.ofNat 512 p) (BitVec.ofNat 512 ext) r none, none, 0)
    | .reject _ fc => (packetBody p, some 2, fc)
    | _ => (packetBody p, some 2, 8)
  { uid := 0, body, progress := 0, sats := 0, started := false, paused := none, status := st, fcode := fc, inRegion := false,
    after := none, by_ := .C, pulled := none, marked := false }

/-- The commands of a queue area, each with a number of its own and the stopped one with its progress. -/
def takeCmds (s : State) (t : Thread) (img : Store) (eng off size depth prog : Nat) (region : Bool) : State × List Cmd :=
  (List.range depth).foldl (fun (a : State × List Cmd) i =>
    let p := readNat img (off + size * i) 64
    if p = 0 then a else
      let ext := if size = 128 then readNat img (off + size * i + 64) 64 else 0
      let (uid, s) := takeUid a.1
      let stopped := readNat img prog 2 == i
      let c := { acceptAgain s t eng p ext with uid, inRegion := region }
      let c := if stopped then { c with started := true, progress := readNat img (prog + 4) 4 } else c
      (s, a.2 ++ [c])) (s, [])

/-- Rebuild a region from an image: each line a buffered store; the handler is what AUTO leaves of it. -/
def takeRegion (s : State) (t : Thread) (img : Store) (x : Slot) (kept : Option Region) : State × Option Region :=
  if readNat img 2 2 % 2 = 0 then (s, none)
  else
    let n := ((List.range 512).filter fun i => readNat img (0x28000 + 8 * i) 8 != 0).length
    let (s, buf) := (List.range n).foldl (fun (a : State × List (StoreOp × Seq × Word)) i =>
      let va := BitVec.ofNat 64 (readNat img (0x28000 + 8 * i) 8)
      match translate a.1 (engineCtx a.1 t.slot) va 64 { w := true } with
      | (s, .ok sps) => (s, a.2 ++ [(.plain sps (readNat img (0x29000 + 64 * i) 64), .K, x.k.pc)])
      | (s, _) => (s, a.2)) (s, [])
    let r : Region := kept.getD { buf := [], handler := x.k.pc, resume := x.k.pc, phase := .opened, closePc := 0, closeUid := 0,
                                  failed := none }
    (s, some { r with buf })

/-- The gang that an image names where the device kept nothing of it: a live gang level of the job with the image's template, shape and
members. -/
def imageGang (s : State) (img : Store) : Option GangRef :=
  if readNat img 2 2 / 2 % 2 = 0 then none else
    let job := readNat img 24 2
    s.levels.findSome? fun l =>
      match if l.job = job ∧ l.kind = 2 then (unitRead s (jobCtx s job) l.hdr 128).2 else none with
      | some r =>
        if rf r 32 8 == readNat img 8 8 && rf r 40 1 == readNat img 32 1 && rf r 41 1 == readNat img 34 1
            && decide (readNat img 33 1 < rf r 41 1) then
          some { level := l.hdr, shape := BitVec.ofNat 2 (rf r 40 1), member := readNat img 33 1, members := rf r 41 1,
                 lgid := if rf r 47 1 = 1 then some (BitVec.ofNat 32 (rf r 52 4)) else none, scope := rf r 44 1, cluster := rf r 45 1,
                 die := rf r 46 1 }
        else none
      | none => none
/-- The gang of an image. -/
def gangOfImage (s : State) (img : Store) (kept : Option Saved) : Option GangRef :=
  match kept with
  | some k => k.slot.task.bind (·.gang)
  | none => imageGang s img
/-- The barriers of the placement of an image on a core: those of the kept task, of its gang's level, or of its graph (R198 step 2). -/
def placementBars (s : State) (core : Nat) (img : Store) (kept : Option Saved) : Vector (Option Nat) (2 ^ 4) :=
  let job := readNat img 24 2
  let mapOf (l : List Nat) : Vector (Option Nat) (2 ^ 4) := (mapBars Slot.vacant l).barmap
  match kept with
  | some k => k.slot.barmap
  | none =>
    match imageGang s img with
    | some g => mapOf ((List.range 256).filter fun i => (getBar s (barKey (dieOfCore core) i)).owner == levelTag job g.level)
    | none =>
      if readNat img 2 2 / 4 % 2 = 1 then mapOf (((findGraph s job (BitVec.ofNat 64 (readNat img 40 8))).map (·.bars)).getD [])
      else .replicate _ none

/-- The task of an image: what the device kept of it, else what its header and its record give (log 46). -/
def takeTask (s : State) (img : Store) (kept : Option Saved) : TaskInfo :=
  match kept.bind fun k => k.slot.task with
  | some t => { t with prio := readNat img 26 1 % 4, need := max 1 (min 32 (readNat img 27 1)) }
  | none =>
    let job := readNat img 24 2
    let record := BitVec.ofNat 64 (readNat img 8 8)
    let r := (unitRead s (jobCtx s job) record 64).2.getD 0
    { record, taskid := BitVec.ofNat 64 (readNat img 16 8), job, prio := readNat img 26 1 % 4,
      need := max 1 (min 32 (readNat img 27 1)), parent := (imageGang s img).elim (trParent r) (·.level),
      index := (imageGang s img).elim (trIndex r) fun g => BitVec.ofNat 32 g.member, gang := imageGang s img,
      graph := if readNat img 2 2 / 4 % 2 = 1 then some (BitVec.ofNat 64 (readNat img 40 8), readNat img 48 1) else none,
      dealt := false, idem := trIdem r, escs := BitVec.allOnes 28, start := s.time }

/-- The engines of a slot that has been restored: a command that was saved paused translates its access again (07 R192 step 6, R198 step
3). -/
def resumeEngines (x : Slot) : Slot :=
  let f (c : Cmd) : Cmd := { c with paused := none }
  { x with mq := x.mq.map f, gq := x.gq.map f, ctxs := x.ctxs.map fun l => l.map f }
/-- The held signals of a kept task whose image names the same counters: with the amounts that they had (07 R192 step 2). -/
def keptSignals (img : Store) (kept : Option Saved) (x : Slot) : Slot :=
  match kept with
  | some k =>
    if (tokstat k.slot).toNat / 2 ^ 32 = readNat img 0x1100 8 / 2 ^ 32 then
      { x with k := { x.k with outst := k.slot.k.outst }, l := { x.l with outst := k.slot.l.outst },
               c := { x.c with outst := k.slot.c.outst }, s := { x.s with outst := k.slot.s.outst } }
    else x
  | none => x
/-- Load an image into a slot (R198 steps 1 to 4), whose core fetches anew (R169). Where the engine area or the buffer stands as the device wrote it, what the
device kept is taken, which holds the resolved records and the kinds of the buffered writes. -/
def loadImage (s : State) (slot : Nat) (img : Store) (kept : Option Saved) : State :=
  let base := match kept with | some k => resumeEngines k.slot | none => Slot.vacant
  let (d, s) := draw s
  let x := keptSignals img kept <|
    takeEntry img { base with task := some (takeTask s img kept), mode := .user, ksup := (getSlot s slot).ksup } false d
  let x := { x with barmap := placementBars s (coreOf slot) img kept, acc0 := takeAcc img 0x8000, acc1 := takeAcc img 0x18000, nbrmask := BitVec.ofNat 8 (readNat img 35 1),
                    armed := if readNat img 2 2 / 8 % 2 = 1 then
                        some (BitVec.ofNat 4 (readNat img 49 1), BitVec.ofNat 32 (readNat img 52 4)) else none }
  let s := disownWrs (dropFetched (setSlot s slot x) (coreOf slot)) slot
  let t : Thread := ⟨slot, .C⟩
  let same (off n : Nat) (m : Store) : Bool := extract img off n == extract m off n
  let region := readNat img 2 2 % 2 == 1
  let s :=
    if kept.any fun k => same 0x1900 0x1700 (putEngines .empty k.slot) then s
    else
      let (s, mq) := takeCmds s t img 5 0x1900 128 8 0x2F50 region
      let (s, gq) := takeCmds s t img 4 0x1D00 64 8 0x2F40 region
      let (s, c0) := takeCmds s t img 0 0x1F00 64 16 0x2F00 region
      let (s, c1) := takeCmds s t img 1 0x2300 64 16 0x2F10 region
      let (s, c2) := takeCmds s t img 2 0x2700 64 16 0x2F20 region
      let (s, c3) := takeCmds s t img 3 0x2B00 64 16 0x2F30 region
      updSlot s slot fun x => { x with mq, gq, ctxs := #v[c0, c1, c2, c3] }
  if kept.any fun k => k.slot.region.isSome == region && same 0x28000 0x9000 (putBuffer .empty k.lines) then s
  else
    let (s, r) := takeRegion s t img (getSlot s slot) (kept.bind fun k => k.slot.region)
    updSlot s slot fun x => { x with region := r }

/-! ## The save area (05 R146; log 17) -/

/-- Bytes that a task takes in its job's save area: its image, and its allocation from 0x4_0000 on. -/
def saveBytes : Nat := 0x240000
/-- The regions of 64 KiB of a run of physical addresses: their places, none where one is not HBM of a live die. -/
def areaRegions (s : State) (pa n : Nat) : Option (List Loc) :=
  (List.range ((n + 65535) / 65536)).mapM fun i =>
    match locate (pa + 65536 * i) with
    | some (loc, .hbm) => if (dieOf loc).any fun d => !(getDie s d).fenced then some loc else none
    | _ => none
/-- Where the next task of a job is saved: the first place of the job's save area that no saved task holds; none where it is not HBM. -/
def freeArea (s : State) (job : Nat) : Option Nat :=
  let base := (getJob s job).save.toNat / 65536 * 65536
  let used := (savedTasks s).filterMap fun t => if t.slot.job = job then t.area else none
  let pa := ((List.range (used.length + 1)).map fun i => base + i * saveBytes).find? fun a => !used.contains a
  pa.bind fun a => (areaRegions s a saveBytes).map fun _ => a
/-- Write back every dirty copy of a region's lines and drop every copy of the device (04 R108). -/
def recallRegion (s : State) (region : Nat) : State :=
  let mine := s.clines.filter fun e => e.1 % 2 ^ 64 / 1024 == region
  let s := mine.foldl (fun s e => purge s (e.1 / 2 ^ 64) (e.1 % 2 ^ 64)) s
  { s with ccache := s.ccache.filter fun e => e.1 % 2 ^ 64 / 1024 != region }
/-- Write n bytes of a store to physical addresses, with their codes and metadata, past every cache. -/
def putArea (s : State) (pa n : Nat) (m : Store) : State :=
  match areaRegions s pa n with
  | none => s
  | some l => l.zipIdx.foldl (fun s e =>
      let s := recallRegion s (e.1 / 65536)
      { s with mem := blit s.mem (extract m (65536 * e.2) 65536) e.1 (min 65536 (n - 65536 * e.2)) }) s
/-- Read n bytes back; none where a region of them is lost. -/
def takeArea (s : State) (pa n : Nat) : Option (State × Store) :=
  (areaRegions s pa n).map fun l => l.zipIdx.foldl (fun (a : State × Store) e =>
    let s := recallRegion a.1 (e.1 / 65536)
    let k := min 65536 (n - 65536 * e.2)
    (s, blit a.2 (extract s.mem e.1 k) (65536 * e.2) k)) (s, .empty)
/-- A saved image can be restored: it is one that SNAPLD takes, of this task, and no line of it is poisoned (07 R198, 11 R284). -/
def imageSound (t : Saved) (img : Store) : Bool :=
  readNat img 0 2 == 1 && !imageBad img && img.metas.all (fun e => !poisoned e.2) && readNat img 27 1 == t.slot.need
    && t.slot.task.any fun k => readNat img 16 8 == k.taskid.toNat && readNat img 24 2 == k.job

end Sys2Proof.Machine
end

