-- ==== Sys2Proof/Machine/Stop.lean ====
section
/-! DEFINITION. How tasks stop: the completion of issued words, the end of a task, the abort of its engine work, CANCEL, and
pre-emption with its save and restore (05 R116, R120, R145-R147, 07 R192, R198, 03 R81). -/

namespace Sys2Proof.Machine

/-! ## Issued words (07 R192 step 2) -/

/-- The words of a slot that have still work to do, with their sequencers. -/
def undone (x : Slot) : List (Seq × Outst) :=
  [Seq.K, .L, .C, .S].flatMap fun q => ((x.issued q).filter fun e => !e.2.done).map fun e => (q, e.2)

/-- Words already issued complete their whole effect, a draining region's drain included. -/
def completeWords : Nat → State → Nat → State
  | 0, s, _ => s
  | fuel + 1, s, slot =>
    let l := undone (getSlot s slot)
    if l.isEmpty then s else
      let s' := l.foldl (fun s e =>
        if e.2.work.isStore then performStore s slot e.1
        else if e.2.work.isFill then fillStep s slot
        else if e.2.work.isLoad then deliverLoad s slot e.1 e.2.tag
        else s) s
      let s' := drainStep (drainStep s' slot) slot
      if (undone (getSlot s' slot)).length < l.length then completeWords fuel s' slot else s'
/-- Stop a slot at its instruction boundaries: what has issued completes. -/
def stopWords (s : State) (slot : Nat) : State := completeWords ((undone (getSlot s slot)).length + 1) s slot

/-! ## The end of a task (05 R116, 07 R171) -/

/-- The slot of a task that has left it: vacant, K's supervisor bank as it stands. -/
def freedSlot (x : Slot) : Slot := { Slot.vacant with ksup := x.ksup }

/-- The word at which the level of a task counts its end, on whose page the width of the end's release stands (05 R116). -/
def endWord (s : State) (t : TaskInfo) : Word := if t.parent = 0 then (getJob s t.job).jobsync else t.parent
/-- A task's end: a release to its parent's COUNT, SUBCNT into SUBTOT (11 R285), the slot free, a stage instance's end, and
its level's COUNT. `aborted`: it was stopped; `failed`: it counts as a failed child. -/
def endTask (s : State) (slot : Nat) (aborted failed : Bool) : State :=
  let x := getSlot s slot
  match x.task with
  | none => s
  | some t =>
    let w := widthOf s t.job (endWord s t)
    let s := writeBackRange s (coreOf slot) t.job w [wholeRange]
    let s := setJob s t.job { getJob s t.job with subtot := (getJob s t.job).subtot + x.subcnt }
    let s := setSlot s slot (freedSlot x)
    let s := instanceEnd s x (coreOf slot) aborted
    enqueue (levelDec s t.job t.parent failed) .schedule

/-- The ring unit pauses on a fault at a task's end (04 R105). -/
def pauseRings (s : State) (slot : Nat) (k : Kind) (va : Word) : State :=
  let s := updSlot s slot fun x => { x with rpause := some (k, va, true) }
  postEngineFault s (slotJob s slot) (BitVec.ofNat 32 (coreOf slot)) 6 0 k va true
/-- A task's end at width 4 or 5 waits for its posted writes (02 R43). -/
def endHeld (s : State) (slot : Nat) : Bool :=
  s.outWrs.any (fun w => w.slot == some slot && !w.lost)
    && (getSlot s slot).task.any fun t => decide (4 ≤ widthOf s t.job (endWord s t))
/-- A task that has come to its end: the ring unit closes what a stage instance leaves open, and the slot frees (06 R159, 07 R171). -/
def finishTask (s : State) (slot : Nat) : State :=
  let x := getSlot s slot
  if endHeld s slot then hold s (.event (.taskEnd slot)) else
  match closeHandles slot (slotJob s slot) (closing x) s with
  | .done s => endTask s slot false false
  | .fault s _ _ => enqueue s (.event (.engineFault slot 6))
  | .stall s => hold s (.event (.taskEnd slot))
/-- TASK_END: all four sequencers have issued TEND and everything of the slot is complete (07 R171). -/
def execTaskEnd (slot : Nat) (s : State) : Host.Outcome State Fault Refusal :=
  .next (if s.running && taskFinished s slot && (getSlot s slot).rpause.isNone then finishTask s slot else s)
/-- ENGINE_FAULT of the ring unit of a slot: what it cannot reach at the task's end. -/
def pauseClosing (s : State) (slot : Nat) : State :=
  if taskFinished s slot ∧ (getSlot s slot).rpause.isNone then
    match closeHandles slot (slotJob s slot) (closing (getSlot s slot)) s with
    | .fault s k va => pauseRings s slot k va
    | _ => s
  else s

/-! ## The abort of a slot's engine work (03 R81 steps 3 and 4, R82) -/

/-- Write a command's ABORTED record where that is possible. -/
def abortRecord (s : State) (slot eng : Nat) (c : Cmd) : State :=
  let p := c.pkt
  let rver := match c.res with | some r => r.rver.toNat | none => 0
  let st := c.status.getD 4
  if c.part.isSome ∨ p = 0 then s else
    match engRecord (c.eng slot eng) (pkCrec p) (recordBytes st c.fcode (pkKind p) rver (pkTag p) (doneBytes eng c) c.sats)
        (pkTag p) (cmdRange eng c) s with
    | .ok s _ => s
    | _ => s
/-- Abort what a slot's engines hold: queued packets with status ABORTED, subscriptions with whole tiles done, collectives
without a record. Commands of a region leave no record, since its writes are discarded (11 R289). -/
def abortEngines (s : State) (slot : Nat) : State :=
  let x := getSlot s slot
  let places := (List.range 6).flatMap fun eng =>
    (coreOf slot * 8 + eng) :: (engQueue x eng).map fun c => c.place slot eng
  let s := (List.range 6).foldl (fun s eng =>
    (engQueue x eng).foldl (fun s c => if c.inRegion then s else abortRecord s slot eng c) s) s
  let s := abortParts s x.mq
  let s := (s.gcmds.filter fun g => g.owner == slot).foldl (fun s (g : GCmd) =>
    match engRecord { slot, src := 4, uid := g.gid, by_ := .C } (pkCrec g.pkt.toNat)
        (recordBytes 4 0 6 g.rver.toNat (pkTag g.pkt.toNat) g.bytes g.sats) (pkTag g.pkt.toNat) g.range s with
    | .ok s _ => s
    | _ => s) s
  let s := (s.subs.filter fun b => b.slot == slot).foldl (fun s b =>
    match b.origin with
    | .record crec =>
      (match engRecord b.eng crec (recordBytes (b.status.getD 4) b.fcode 9 0 (pkTag b.pkt.toNat) (subBytes b) 0)
          (pkTag b.pkt.toNat) (subRange s b) s with
       | .ok s _ => s
       | _ => s)
    | .queue _ => s) s
  let s := updSlot s slot fun x => { x with mq := [], gq := [], ctxs := .replicate _ [], rpause := none }
  let s := { s with
    gcmds := s.gcmds.filter fun g => g.owner != slot
    subs := s.subs.filter fun b => b.slot != slot
    colls := s.colls.filter fun c => c.slot != slot }
  places.eraseDups.foldl kickPlace s

/-! ## CANCEL (05 R120) -/

/-- n children of a level have ended at once. -/
def levelSub (s : State) (job : Nat) (hdr : Word) (n : Nat) (failed : Bool) : State :=
  if n = 0 then s
  else if hdr = 0 then
    levelDec (setJob s job { getJob s job with count := (getJob s job).count - BitVec.ofNat 64 (n - 1) }) job hdr failed
  else if (liveLevel s job hdr).isNone then s
  else
    let (s, _) := levelWord s job hdr 0 8 fun v => some (v - (n - 1))
    let (s, _) := if failed then levelWord s job hdr 29 3 fun v => some (min 0xFFFFFF (v + (n - 1))) else (s, none)
    levelDec s job hdr failed

/-- A level and its live descendants; header 0 is the job. -/
def descendants (l : List Level) : Nat → List Word → List Word
  | 0, acc => acc
  | fuel + 1, acc =>
    let more := (l.filter fun v => acc.contains v.parent && !acc.contains v.hdr).map (·.hdr)
    if more.isEmpty then acc else descendants l fuel (acc ++ more.eraseDups)

/-- Stop a running task of a cancelled level: issued words complete, an open region is discarded with its buffer, engine work
is aborted, the slot frees. A slot stopped in the supervisor ends when that returns, and one whose FFILL waits to push once it has
pushed (R121). -/
def cancelSlot (s : State) (slot : Nat) : State :=
  let x := getSlot s slot
  match x.task with
  | none => s
  | some t =>
    if x.mode = .handler then s
    else
      let s := if x.mode = .frozen then s else stopWords s slot
      if (fillOf (getSlot s slot)).isSome then
        hold (updSlot s slot fun x => { x with held := true }) (.cancelled t.job t.parent)
      else endTask (abortEngines (updSlot s slot fun x => { x with region := none, armed := none }) slot) slot true false

/-- The tasks that an entry of a task queue stands for. -/
def WorkItem.size : WorkItem → Nat
  | .task _ _ => 1
  | .range _ _ n => n
  | .saved _ => 1
/-- The level that an entry counts in. -/
def WorkItem.level : WorkItem → Word
  | .task _ p => p
  | .range l _ _ => l
  | .saved t => match t.slot.task with | some k => k.parent | none => 0

/-- What a saved task leaves that is given up: its share of SUBTOT, its stage instance, its collectives and GMMAs. -/
def dropSaved (s : State) (job : Nat) (t : Saved) : State :=
  let s := { s with
    gcmds := s.gcmds.filter fun g => g.owner != 2 ^ 21 + t.uid
    colls := s.colls.filter fun c => c.slot != 2 ^ 21 + t.uid }
  let s := setJob s job { getJob s job with subtot := (getJob s job).subtot + t.slot.subcnt }
  instanceEnd s t.slot (coreOf t.place) true
/-- Remove the queued records and undealt ranges of levels of a job; each removed task counts as ended (R120 step 2). -/
def dropQueued (s : State) (job : Nat) (set : List Word) : State :=
  let mine (e : WorkEnt) : Bool := set.contains e.item.level
  let keys := (s.work.map (·.1)).filter fun k => keyJob k == job
  let s := keys.foldl (fun s k =>
    let l := getWork s k
    let s := setWork s k (l.filter fun e => !mine e)
    (l.filter mine).foldl (fun s e =>
      let s := match e.item with
        | .saved t => dropSaved s job t
        | _ => s
      levelSub s job e.item.level e.item.size false) s) s
  let deals := s.deals.filter fun d => d.job == job && set.contains d.hdr
  let s := { s with deals := s.deals.filter fun d => !(d.job == job && set.contains d.hdr) }
  let s := deals.foldl (fun s d => levelSub s job d.hdr d.left false) s
  let gangs := s.gangs.filter fun g => g.job == job && set.contains g.hdr
  let s := { s with gangs := s.gangs.filter fun g => !(g.job == job && set.contains g.hdr) }
  gangs.foldl (fun s g => levelSub (g.saved.foldl (fun s t => dropSaved s job t) s) job g.hdr g.waiting false) s

/-- Steps 2 to 4 of R120 for a set of levels of a job, whose STATE is 1. -/
def cancelSet (s : State) (job : Nat) (set : List Word) : State :=
  let s := set.foldl (fun s h => freeBars s job h) s
  let s := dropQueued s job set
  let hit := (s.slots.filter fun e => match e.2.task with | some t => t.job == job && set.contains t.parent | none => false).map (·.1)
  let s := hit.foldl cancelSlot s
  let s := set.foldl (fun s h => finishStages 20 s job h) s
  enqueue s .schedule

/-- CANCEL of a level (05 R120): STATE 1 on it and its live descendants, then their tasks. Header 0 is the job, as a kill
cancels it. -/
def cancelLevel (s : State) (job : Nat) (hdr : Word) : State :=
  if hdr ≠ 0 ∧ levelClosing s job hdr then s
  else
    let set := descendants (s.levels.filter fun l => l.job == job) (s.levels.length + 1) [hdr]
    let s := set.foldl (fun s h => if h = 0 then s else (levelWord s job h 25 1 fun v => some (if v = 0 then 1 else v)).1) s
    cancelSet s job set

/-! ## Pre-emption and restore (05 R145-R147) -/

/-- Run the commands of a slot that siblings pulled until each has its status (07 R192 step 7). -/
def runPulled : Nat → State → Nat → State
  | 0, s, _ => s
  | fuel + 1, s, slot =>
    let l := (List.range 6).flatMap fun eng =>
      ((runnable s slot eng).filter fun c => c.relocated slot).map fun c => (eng, c.uid)
    match l with
    | [] => s
    | _ => runPulled fuel (l.foldl (fun s e => workStep s slot e.1 e.2) s) slot

/-- A slot may be pre-empted: a task runs in user mode and is not held. -/
def preemptible (s : State) (slot : Nat) : Bool :=
  let x := getSlot s slot
  x.task.isSome && x.mode == .user && coreLive s (coreOf slot)

/-- A command of a slot that a sibling pulled has not ended: the slot cannot be saved yet (06 R166, 07 R192 step 7). -/
def pulledLeft (x : Slot) : Bool := (List.range 6).any fun eng => (engQueue x eng).any fun c => c.pulled.isSome && c.status.isNone
/-- The engines of a slot's core look again. -/
def kickCore (s : State) (slot : Nat) : State := (List.range 6).foldl (fun s eng => kickPlace s (coreOf slot * 8 + eng)) s

/-- What the device keeps of the task in a slot beside its image: `x` is the slot as it is saved. -/
def keepSaved (s : State) (slot : Nat) (x : Slot) (area : Option Nat) (cause : Nat) : State × Saved :=
  let (uid, s) := takeUid s
  (s, { uid, slot := x, subs := (s.subs.filter fun b => b.slot == slot).map fun b => { b with paused := none },
        lines := bufferLines s slot x, area, cause, place := slot })
/-- A slot as it is saved. -/
def savedForm (x : Slot) : Slot := { x with mode := .user, fence := [], relAt := [], rpause := none }
/-- Save a stopped slot and free it: its image and its allocation go to the job's save area; its collectives run on (05 R146, 17 R426). Of a
job without a save area in HBM the device keeps the allocation itself (log 17). -/
def saveSlot (s : State) (slot cause : Nat) : State × Saved :=
  let x := savedForm (getSlot s slot)
  let s := writeBackRange s (coreOf slot) x.job 5 [wholeRange]
  let area := freeArea s x.job
  let s := match area with
    | some pa => putArea (putArea s pa (imageSize x.region.isSome) (snapImage s slot x cause)) (pa + 0x40000) (allocSize x)
        (extract s.mem (allocLoc x slot 0) (allocSize x))
    | none => s
  let (s, t) := keepSaved s slot x area cause
  let t := { t with alloc := if area.isNone then extract s.mem (allocLoc x slot 0) (allocSize x) else .empty }
  let s := { s with
    subs := s.subs.filter fun b => b.slot != slot
    gcmds := s.gcmds.map fun (g : GCmd) => if g.owner = slot then { g with owner := 2 ^ 21 + t.uid, paused := none } else g
    colls := s.colls.map fun (c : Coll) => if c.slot = slot then { c with slot := 2 ^ 21 + t.uid } else c }
  (kickCore (setSlot s slot (freedSlot x)) slot, t)

/-- The subscriptions, collectives and GMMAs of a restored task are the slot's again. -/
def rejoinSlot (s : State) (slot : Nat) (k : Saved) : State :=
  let s := { s with
    subs := s.subs ++ k.subs.map fun b => { b with slot }
    gcmds := s.gcmds.map fun (g : GCmd) => if g.owner = 2 ^ 21 + k.uid then { g with owner := slot } else g
    colls := s.colls.map fun (c : Coll) => if c.slot = 2 ^ 21 + k.uid then { c with slot } else c }
  k.subs.foldl (fun s b => enqueue s (.event (if b.status.isSome then .streamComplete b.uid else .streamTile b.uid))) s
/-- A saved task whose image is lost or no image any more cannot come back: it counts as lost (05 R116, 11 R284; log 17). -/
def loseSaved (s : State) (t : Saved) : State :=
  match t.slot.task with
  | none => s
  | some k =>
    let s := postUncorrectable s k.job (BitVec.ofNat 32 (coreOf t.place)) (BitVec.ofNat 64 (t.area.getD 0)) 0
    enqueue (levelDec (dropSaved s k.job t) k.job k.parent true) .schedule
/-- Load a saved task into a slot, from its image and its allocation in the save area: its state, its subscriptions and collectives; an armed
wait is looked at again (07 R198). -/
def restoreSlot (s : State) (slot : Nat) (t : Saved) : State :=
  let parts : Option (State × Store × Store) :=
    match t.area with
    | none => some (s, snapImage s t.place t.slot t.cause, t.alloc)
    | some pa =>
      (takeArea s pa 0x40000).bind fun (s, img) => (takeArea s (pa + 0x40000) (allocSize t.slot)).map fun (s, m) => (s, img, m)
  match parts with
  | none => loseSaved s t
  | some (s, img, alloc) =>
    if !imageSound t img then loseSaved s t
    else
      let s := loadImage s slot img (some t)
      let x := getSlot s slot
      let s := { s with mem := blit s.mem alloc (allocLoc x slot 0) (allocSize x) }
      let s := dropRange s (coreOf slot) x.job 5 [wholeRange]
      checkEnd (resumeStores (wakeSlot (rejoinSlot s slot t) slot) slot) slot

/-- A saved gang's barriers move to another die: free numbers there, ascending, with the state that each had, in the order of the gang's map;
the map that follows (R147, 07 R198 step 2). -/
def moveBars (s : State) (t : Saved) (die : Nat) : State × Vector (Option Nat) (2 ^ 4) :=
  let old := dieOfCore (coreOf t.place)
  if old = die then (s, t.slot.barmap)
  else
    (List.range 16).foldl (fun (a : State × Vector (Option Nat) (2 ^ 4)) i =>
      let bn := BitVec.ofNat 4 i
      match vget t.slot.barmap bn, freeBarNums a.1 die with
      | some k, f :: _ =>
        let b := getBar a.1 (barKey old k)
        (setBar (setBar a.1 (barKey old k) .free) (barKey die f) b, vset a.2 bn (some f))
      | _, _ => (a.1, vset a.2 bn none)) (s, t.slot.barmap)
/-- The slots that stop together with a slot: its gang, or itself (05 R145). -/
def stopGroup (s : State) (slot : Nat) : List Nat :=
  let l := (gangSlots s slot).map (·.1)
  if l.isEmpty then [slot] else l

/-- A gang that has been saved waits to be placed again as a whole, with the shape and scope of its launch, at the head of its queue (R146,
R147). -/
def savedGang (s : State) (k : TaskInfo) (g : GangRef) (saved : List Saved) : State :=
  let (uid, s) := takeUid s
  let (need, nbar) := match saved with
    | t :: _ => (t.slot.need, (t.slot.barmap.toList.filter Option.isSome).length)
    | [] => (0, 0)
  { s with gangs := s.gangs ++ [
    { uid, hdr := g.level, tmpl := k.record, job := k.job, prio := k.prio, shape := g.shape, members := g.members, need, nbar, scope := g.scope,
      cluster := g.cluster, die := g.die, at_ := s.time, ord := 0, lgid := g.lgid, resv := none, saved }] }
/-- Stop a group of slots and save them (05 R145, R146): a task at the head of its job's queue at its own priority on its cluster, a gang
where gangs wait. Where an issued word or a pulled command cannot complete yet, the group is stopped once it has. -/
def preempt (s : State) (slot cause : Nat) : State :=
  let taskid := ((getSlot s slot).task.map (·.taskid)).getD 0
  let l := stopGroup s slot
  let s := l.foldl (fun s k => runPulled 100000 (stopWords s k) k) s
  if !l.all (preemptible s) then s
  else if l.any fun k => pulledLeft (getSlot s k) || (undone (getSlot s k)).any fun e => e.2.work != .none then hold s (.preempt slot taskid cause)
  else
    let (s, saved) := l.foldl (fun (a : State × List Saved) k =>
      let (s, t) := saveSlot a.1 k cause
      (s, a.2 ++ [t])) (s, [])
    match saved with
    | [] => s
    | t :: _ =>
      match t.slot.task with
      | none => s
      | some k =>
        enqueue (match k.gang with
          | some g => savedGang s k g saved
          | none =>
            let key := workKey (clusterOf (coreOf t.place)) k.job k.prio
            setWork s key ({ item := .saved t, at_ := s.time, aged := false, ord := 0 } :: getWork s key)) .schedule
/-- The pre-emption of a task that a word asked for or that had to wait: it comes about while the task still stands in the slot. -/
def preemptTask (s : State) (slot : Nat) (taskid : Word) (cause : Nat) : State :=
  if (getSlot s slot).task.any fun t => t.taskid == taskid then preempt s slot cause else s

/-! ## What the supervisor makes of a machine check (05 R137) -/

/-- A task that a machine check stopped in the supervisor leaves its slot: replayed, its original record pushed again, where it has no
escapes or its launch is IDEMPOTENT; else lost (R116). A gang member and a stage instance have no record of their own to push. -/
def disposeTask (s : State) (slot : Nat) (replay : Bool) : State :=
  let x := getSlot s slot
  match x.task with
  | none => s
  | some t =>
    if x.mode ≠ .handler ∨ x.tcause &&& 0xFF#64 ≠ 8 then s
    else
      let s := abortEngines (updSlot (stopWords s slot) slot fun x => { x with region := none, armed := none }) slot
      if replay ∧ (t.escs = 0 ∨ t.idem) ∧ t.gang.isNone ∧ t.graph.isNone then
        let key := workKey (clusterOf (coreOf slot)) t.job t.prio
        let s := pushWork (levelAdd s t.job t.parent 1) key (if t.dealt then .range t.parent t.index.toNat 1 else .task t.record t.parent)
        endTask s slot true false
      else endTask s slot true true

end Sys2Proof.Machine
end

