-- ==== Sys2Proof/Machine/Sched.lean ====
section
/-! DEFINITION. Distributors and queue units: dealing, gang placement and reservation, the order of takes, ageing, priority
pressure, and the movement of work (05 R121-R134, R145; 02 R59). -/

namespace Sys2Proof.Machine

/-! ## Linked gangs: what the coordinator sends (02 R59) -/

/-- A gang flit: its kind, destination, the linked gang, the accept bit and the data field (log 43); one without data has a zero code
field (R35). -/
def gangFlit (s : State) (kind : BitVec 6) (dst : BitVec 12) (job : Nat) (lgid : BitVec 32) (tag : BitVec 12) (data : Word) : Flit :=
  { kind, cls := 2, dst, src := s.devId, jobtag := (getJob s job).jobtag, tag, hops := 0, addr := lgid.setWidth 45, gmask := 0,
    meta0 := 0, meta1 := 0, rsvd := 0, codes := if data = 0 then 0 else flitCodes (data.setWidth 1024), data := data.setWidth 1024, reject := false }
/-- Write a linked gang. -/
def setLgang (s : State) (g : LGang) : State := { s with lgangs := s.lgangs.map fun o => if o.lgid = g.lgid then g else o }
/-- Send a gang flit to every other device of a linked gang. -/
def toMembers (s : State) (g : LGang) (kind : BitVec 6) : State :=
  (g.devs.filter fun d => d.1 != s.devId).foldl (fun s d => sendFlit s (gangFlit s kind d.1 g.job g.lgid 0 d.2)) s

/-! ## Gangs (05 R128-R130) -/

/-- Write a gang that waits. -/
def setGang (s : State) (g : GangReq) : State := { s with gangs := s.gangs.map fun o => if o.uid = g.uid then g else o }
/-- The master distributor is at work where the gang's scope needs it (05 R133). -/
def gangPlaceable (s : State) (g : GangReq) : Bool := g.scope != 2 || s.master.isSome
/-- A saved task that used neighbour windows outside its gang finds its neighbours (R147, 07 R198). -/
def neighboursFit (s : State) (slot : Nat) (t : Saved) : Bool :=
  t.slot.nbrmask == 0 ||
    (coreOf slot % 8 == coreOf t.place % 8 && (List.range 8).all fun k =>
      !t.slot.nbrmask.getLsbD k || [0, 1].any fun i =>
        let x := getSlot s ((coreOf slot / 8 * 8 + k) * 2 + i)
        x.task.isSome && x.job == t.slot.job)

/-- The saved member of a gang for a core of its position may be restored there. -/
def memberFits (s : State) (g : GangReq) (e : Nat × Nat) : Bool := (g.saved.filter fun t => t.member == e.2).all (neighboursFit s (2 * e.1))
/-- The slots of a position's cores that are free for the gang, core by core. -/
def positionSlots (s : State) (g : GangReq) (p : Nat × Nat) : List (Option Nat) :=
  (positionCores g p).zipIdx.map fun e => if memberFits s g e then gangSlot s e.1 g.need else none
/-- A cluster holds a gang reservation. -/
def clusterReserved (s : State) (cluster : Nat) : Bool :=
  s.gangs.any fun g => match g.resv with | some (c, _, _) => c == cluster | none => false
/-- The barriers that a gang asks for can be had on the die of a cluster: free ones, or those that a saved gang holds there. -/
def barsReady (s : State) (g : GangReq) (cluster : Nat) : Bool :=
  (g.saved.any fun t => dieOfCore (coreOf t.place) == cluster / 32) || decide (g.nbar ≤ (freeBarNums s (cluster / 32)).length)
/-- The first position whose cores are all free (R128). A linked gang, which holds its position until all devices have answered, passes
over a cluster that holds a reservation (R129). -/
def freePosition (s : State) (g : GangReq) : Option (Nat × Nat × List Nat) :=
  (gangPositions g).findSome? fun p =>
    let l := positionSlots s g p
    if l.all Option.isSome && barsReady s g p.1 && !(g.lgid.isSome && clusterReserved s p.1) then some (p.1, p.2, l.filterMap id) else none
/-- The position of a reservation: the most free cores, the first on ties, on a cluster that holds none (R129). -/
def bestPosition (s : State) (g : GangReq) : Option (Nat × Nat) :=
  let l := (gangPositions g).filter fun p => !clusterReserved s p.1 && (positionCores g p).all (coreLive s)
  (l.foldl (fun (m : Option ((Nat × Nat) × Nat)) p =>
    let free := ((positionSlots s g p).filter Option.isSome).length
    match m with
    | some b => if b.2 < free then some (p, free) else m
    | none => some (p, free)) none).map (·.1)
/-- The slots in which a reserved gang can start, member by member, where every member core has one that still fits (R129). -/
def heldSlots (s : State) (g : GangReq) : Option (List Nat) :=
  match g.resv with
  | none => none
  | some (c, b, _) =>
    let m := (positionCores g (c, b)).zipIdx.map fun e => if memberFits s g e then memberSlot s e.1 g.need else none
    if m.all Option.isSome && barsReady s g c then some (m.filterMap id) else none

/-- A saved gang is restored in given slots, as a whole (R147). -/
def restoreGang (s : State) (g : GangReq) (slots : List Nat) : State :=
  match g.saved with
  | [] => s
  | t :: _ =>
    let (s, map) := moveBars s t (dieOfCore (coreOf (slots.headD 0)))
    let s := { s with gangs := s.gangs.filter fun o => o.uid != g.uid }
    g.saved.foldl (fun s t => restoreSlot s (slots.getD t.member 0) { t with slot := { t.slot with barmap := map } }) s

/-- A gang holds all its slots: it starts, or is restored; of a linked gang, the coordinator asks the other devices, and a member answers
GRESACK (02 R59). -/
def gangHolds (s : State) (g : GangReq) (slots : List Nat) : State :=
  if !g.saved.isEmpty then restoreGang s g slots
  else
    match g.lgid with
    | none => startGang s g slots 0
    | some l =>
      match s.lgangs.find? fun o => o.lgid == l with
      | none => s
      | some o =>
        if o.phase != 0 || o.at_ != 0 then s
        else
          let s' := setLgang s { o with acks := if o.coord then [s.devId] else o.acks, at_ := max 1 s.time }
          if o.coord then toMembers s' o 0x0C else sendFlit s' (gangFlit s 0x0D (o.acks.headD 0) o.job l 1 0)

/-- A gang's turn under R124: it starts, or reserves (R128, R129). -/
def gangTurn (s : State) (g : GangReq) : State :=
  match freePosition s g with
  | some (c, b, slots) => gangHolds (setGang s { g with resv := some (c, b, s.time) }) g slots
  | none => setGang s { g with resv := (bestPosition s g).map fun p => (p.1, p.2, s.time) }

/-- A reservation whose member cores all hold a slot, with its barriers free, starts its gang (R129). -/
def reservationStep (s : State) : Option State :=
  s.gangs.findSome? fun g =>
    let waits : Bool := g.saved.isEmpty && match g.lgid with
      | some l => !s.lgangs.any fun o => o.lgid == l && o.phase == 0 && o.at_ == 0
      | none => false
    if waits then none else (heldSlots s g).map fun slots => gangHolds s g slots

/-- The gang's scope holds a cluster. -/
def gangCovers (g : GangReq) (cluster : Nat) : Bool :=
  if g.scope = 0 then g.die * 32 + g.cluster == cluster else if g.scope = 1 then g.die == cluster / 32 else true

/-- The records that stand behind a gang in its queue, as their places in the order of pushes: gangs of its job and priority, and entries of
the job's queues at the clusters of its scope, with which it is placed (R124). -/
def behindGang (s : State) (g : GangReq) : List Nat :=
  let gangs := (s.gangs.filter fun o => o.uid != g.uid && o.job == g.job && o.prio == g.prio).map (·.ord)
  let entries := (s.work.filter fun e => keyJob e.1 == g.job && keyPrio e.1 == g.prio && gangCovers g (keyCluster e.1)).flatMap
    fun e => e.2.map (·.ord)
  (gangs ++ entries).filter fun o => decide (g.ord < o)
/-- A gang yields what it holds and stands directly behind the record that follows it in its queue, or at the tail (R130). Of two gangs at
one place the one later in the list stands behind. -/
def gangYield (s : State) (g : GangReq) : State :=
  let (uid, s) := takeUid s
  let ord := match behindGang s g with | [] => uid | a :: l => l.foldl min a
  let rest := s.gangs.filter fun o => o.uid != g.uid
  let g := { g with resv := none, ord }
  let gangs := if rest.any fun o => o.ord == ord then rest.flatMap fun o => if o.ord = ord then [o, g] else [o] else rest ++ [g]
  enqueue { s with gangs } .schedule

/-- GANG_RESERVATION_TIMEOUT: a reservation lasts at most 200 µs (05 R130). A linked gang that has asked, or has answered, waits by 02 R59
instead; a member's whose reservation ends unanswered is refused. -/
def execGangReservationTimeout (gang : Nat) (s : State) : Host.Outcome State Fault Refusal :=
  .next <|
    match s.gangs.find? fun g => g.uid == gang with
    | some g =>
      (match g.resv with
       | some (_, _, t) =>
         if !s.running || decide (s.time < t + 200000) then s
         else
           match g.lgid.bind fun l => s.lgangs.find? fun o => o.lgid == l && o.phase == 0 with
           | none => if g.lgid.isSome && g.saved.isEmpty then s else gangYield s g
           | some o =>
             if o.at_ != 0 then s
             else if o.coord then gangYield s g
             else
               let s' := { s with lgangs := s.lgangs.filter fun p => p.lgid != o.lgid, gangs := s.gangs.filter fun p => p.uid != g.uid }
               enqueue (sendFlit s' (gangFlit s 0x0D (o.acks.headD 0) o.job o.lgid 0 0)) .schedule
       | none => s)
    | none => s

/-! ## Dealing (05 R134) -/

/-- The indices of a launch that stand in a queue. -/
def launchHeld (s : State) (k : Nat) (hdr : Word) : Nat :=
  sumNat ((getWork s k).map fun e => match e.item with | .range l _ n => if l = hdr then n else 0 | _ => 0)
/-- Where the next chunk of a launch goes: a die that holds fewer than a chunk's worth of it, for a device-scope launch, and there a cluster
that does, with room. The rule does not say which of several; the lowest die and there the lowest cluster is taken (log 108). -/
def dealTo (s : State) (d : Deal) : Option Nat :=
  let held (c : Nat) : Nat := launchHeld s (workKey c d.job d.prio) d.hdr
  let dies := if d.dev then [0, 1, 2, 3] else [d.die]
  (dies.filter fun i => !(getDie s i).fenced && (!d.dev || decide (sumNat ((clustersOf i).map held) < d.chunk))).findSome? fun i =>
    (clustersOf i).find? fun c => decide (held c < d.chunk) && workRoom s (workKey c d.job d.prio)
/-- Deal a chunk: a range entry, and DEALT of its die. -/
def dealChunk (s : State) (d : Deal) (c : Nat) : State :=
  let n := min d.chunk d.left
  let s := pushWork s (workKey c d.job d.prio) (.range d.hdr d.next n)
  let d' := { d with next := d.next + n, left := d.left - n }
  let s := { s with deals := s.deals.flatMap fun o => if o = d then (if d'.left = 0 then [] else [d']) else [o] }
  levelDies s d.job d.hdr (c / 32)
/-- The first chunk that can be dealt. -/
def dealStep (s : State) : Option State :=
  s.deals.findSome? fun d =>
    if d.dev && s.master.isNone then none else (dealTo s d).map fun c => dealChunk s d c

/-! ## Eligibility (05 R123, R124, R147) -/

/-- The template's address and LFLAGS of a launch record. -/
def launchTemplate (s : State) (job : Nat) (hdr : Word) : Option (Word × Nat) :=
  match (unitRead s (jobCtx s job) hdr 64).2 with
  | some r => some (BitVec.ofNat 64 (rf r 32 8), rf r 49 1)
  | none => none
/-- A task record's bytes. -/
def recordBytesAt (s : State) (job : Nat) (va : Word) : Option Nat := (unitRead s (jobCtx s job) va 64).2

/-- An entry may be taken by a free slot. -/
def eligible (s : State) (slot job : Nat) (item : WorkItem) : Bool :=
  let plain := (stageOf s (coreOf slot)).isNone
  match item with
  | .task va _ => plain && (match recordBytesAt s job va with | some r => needFits s slot (trNeed r) | none => false)
  | .range hdr _ _ =>
    plain && (match (launchTemplate s job hdr).bind fun t => recordBytesAt s job t.1 with
      | some r => needFits s slot (trNeed r)
      | none => false)
  | .saved t =>
    match t.slot.task with
    | none => false
    | some k =>
      match k.graph with
      | some g =>
        needFits s slot t.slot.need && neighboursFit s slot t && (match stageOf s (coreOf slot) with
          | some (h, i) => h.job == job && (h.hdr, i) == g && !movePending s h (coreOf slot)
          | none => false)
      | none => plain && needFits s slot t.slot.need && neighboursFit s slot t

/-- What a job offers at a cluster and priority: the head of its queue, or a gang pushed before it. -/
inductive Cand where
  | queue (key : Nat)
  | gang (uid : Nat)
  deriving DecidableEq, Repr

/-- The first gang of a job at a cluster and priority that waits without a reservation. -/
def gangHead (s : State) (cluster job prio : Nat) : Option GangReq :=
  (s.gangs.filter fun g => g.job == job && g.prio == prio && gangCovers g cluster && g.resv.isNone && gangPlaceable s g).foldl
    (fun (m : Option GangReq) g => match m with | some o => if g.ord < o.ord then some g else m | none => some g) none
/-- The gang that heads a job's queue at a cluster: it was pushed before the queue's first entry (R124). -/
def headingGang (s : State) (cluster job prio : Nat) : Option GangReq :=
  (gangHead s cluster job prio).filter fun g => match getWork s (workKey cluster job prio) with | e :: _ => decide (g.ord < e.ord) | [] => true
/-- A job's candidate for a free slot, none where its head is not eligible (R124). A gang's is one that it can start or reserve. -/
def jobCand (s : State) (slot job prio : Nat) : Option Cand :=
  let c := clusterOf (coreOf slot)
  let k := workKey c job prio
  if 3 ≤ (getJob s job).state then none
  else
    match headingGang s c job prio, getWork s k with
    | some g, _ => if (freePosition s g).isSome || (bestPosition s g).isSome then some (.gang g.uid) else none
    | none, e :: _ => if eligible s slot job e.item then some (.queue k) else none
    | none, [] => none

/-- Insert in ascending order, without repeats. -/
def insertNat (a : Nat) : List Nat → List Nat
  | [] => [a]
  | b :: l => if a < b then a :: b :: l else if a = b then b :: l else b :: insertNat a l
/-- The jobs with anything at a cluster and priority, ascending. -/
def jobsAt (s : State) (cluster prio : Nat) : List Nat :=
  let a := (s.work.filter fun e => keyCluster e.1 == cluster && keyPrio e.1 == prio).map fun e => keyJob e.1
  let b := (s.gangs.filter fun g => g.prio == prio && gangCovers g cluster).map (·.job)
  (a ++ b).foldr insertNat []

/-- Weighted round robin (R124): the job that takes next, with the takes its visit has left. -/
def nextJob (s : State) (cluster prio : Nat) (cands : List Nat) : Option (Nat × Nat) :=
  let cur := kvGet (0, 0) s.rr (cluster * 4 + prio)
  if cur.2 ≠ 0 ∧ cands.contains cur.1 then some (cur.1, cur.2 - 1)
  else
    match (cands.find? fun j => decide (cur.1 < j)) <|> cands.head? with
    | some j => some (j, (getJob s j).weight - 1)
    | none => none

/-- The take of a free slot: a candidate of the highest priority that has one; a slot that a reservation holds goes to a higher
priority only, which voids the hold (R124, R129). -/
def choose (s : State) (slot : Nat) : Option (State × Cand) :=
  let floor := match heldBy s slot with | some g => g.prio + 1 | none => 0
  let c := clusterOf (coreOf slot)
  [3, 2, 1, 0].findSome? fun p =>
    if p < floor then none else
      match nextJob s c p ((jobsAt s c p).filter fun j => (jobCand s slot j p).isSome) with
      | none => none
      | some (j, left) =>
        (jobCand s slot j p).map fun cand => ({ s with rr := kvSet (0, 0) s.rr (c * 4 + p) (j, left) }, cand)

/-- Take the head of a queue into a free slot (R121, R124). -/
def takeHead (s : State) (slot key : Nat) : State :=
  let job := keyJob key
  match getWork s key with
  | [] => s
  | e :: l =>
    match e.item with
    | .task va p =>
      (match recordBytesAt s job va with
       | some r => startRecord (setWork s key l) slot job (jobPrio s job (trPrio r)) va p r (trIndex r) false (trIdem r)
       | none => s)
    | .range hdr i n =>
      (match launchTemplate s job hdr with
       | some (va, flags) =>
         (match recordBytesAt s job va with
          | some r =>
            let s := setWork s key (if n ≤ 1 then l else { e with item := .range hdr (i + 1) (n - 1) } :: l)
            startRecord s slot job (jobPrio s job (trPrio r)) va hdr r (BitVec.ofNat 32 i) true (flags / 2 % 2 == 1)
          | none => s)
       | none => s)
    | .saved t => restoreSlot (setWork s key l) slot t

/-- Fill one free slot. -/
def placeSlot (s : State) (slot : Nat) : Option State :=
  if !slotFree s slot then none else
    match choose s slot with
    | none => none
    | some (s, .queue k) => some (takeHead s slot k)
    | some (s, .gang uid) => (s.gangs.find? fun g => g.uid == uid).map fun g => gangTurn s g
/-- The clusters at which anything waits. -/
def busyClusters (s : State) : List Nat :=
  let a := s.work.map fun e => keyCluster e.1
  let b := if s.gangs.any (fun g => g.resv.isNone) then [0, 1, 2, 3].flatMap clustersOf else []
  (a ++ b).foldr insertNat []
/-- Fill the first free slot that can take something. -/
def placeOne (s : State) : Option State :=
  (busyClusters s).findSome? fun c => (slotsOf c).findSome? fun k => placeSlot s k

/-! ## Movement of work (05 R134) -/

/-- The indices of an entry that may move: gangs and saved tasks stay. -/
def WorkItem.movable : WorkItem → Nat
  | .task _ _ => 1
  | .range _ _ n => n
  | .saved _ => 0
/-- Split n indices off the front of a queue, what stays kept in place. -/
def takeIndices : Nat → List WorkEnt → List WorkEnt × List WorkEnt
  | _, [] => ([], [])
  | 0, l => ([], l)
  | n + 1, e :: l =>
    match e.item with
    | .saved _ => let (a, b) := takeIndices (n + 1) l; (a, e :: b)
    | .task _ _ => let (a, b) := takeIndices n l; (e :: a, b)
    | .range h i k =>
      if k ≤ n + 1 then let (a, b) := takeIndices (n + 1 - k) l; (e :: a, b)
      else ([{ e with item := .range h i (n + 1) }], { e with item := .range h (i + n + 1) (k - n - 1) } :: l)
/-- The fullest queue of a die at the highest priority present, other than those of a cluster. -/
def fullest (s : State) (cluster : Nat) : Option (Nat × Nat) :=
  let l := s.work.filter fun e => keyCluster e.1 / 32 == cluster / 32 && keyCluster e.1 != cluster
    && decide ((getJob s (keyJob e.1)).state < 3)
  let size (q : List WorkEnt) : Nat := sumNat (q.map fun e => e.item.movable)
  [3, 2, 1, 0].findSome? fun p =>
    (l.filter fun e => keyPrio e.1 == p).foldl (fun (m : Option (Nat × Nat)) e =>
      let n := size e.2
      if n = 0 then m else match m with | some b => if b.2 < n then some (e.1, n) else m | none => some (e.1, n)) none
/-- Move work to a cluster with a free slot and no eligible record: half of the fullest queue, rounded up, 16 indices at most. A moved entry's
wait in one queue begins again, since it has come to another (R125; log 108). -/
def stealFor (s : State) (slot : Nat) : Option State :=
  let c := clusterOf (coreOf slot)
  if !slotFree s slot || (heldBy s slot).isSome || (stageOf s (coreOf slot)).isSome then none else
    match fullest s c with
    | none => none
    | some (k, n) =>
      let (mv, stay) := takeIndices (min 16 ((n + 1) / 2)) (getWork s k)
      let key := workKey c (keyJob k) (keyPrio k)
      some (mv.foldl (fun s e =>
        let (ord, s) := takeUid s
        setWork s key (getWork s key ++ [{ e with at_ := s.time, ord, since := none }])) (setWork s k stay))
/-- The first movement of work. -/
def stealOne (s : State) : Option State :=
  let dies := (s.work.map fun e => keyCluster e.1 / 32).foldr insertNat []
  dies.findSome? fun d => (clustersOf d).findSome? fun c => (slotsOf c).findSome? fun k => stealFor s k

/-- The cluster of a die whose queue of a job at a priority holds the fewest entries, the lowest on ties. -/
def emptiest (s : State) (die job prio : Nat) : Nat :=
  ((clustersOf die).foldl (fun (m : Option (Nat × Nat)) c =>
    let n := (getWork s (workKey c job prio)).length
    match m with | some b => if n < b.2 then some (c, n) else m | none => some (c, n)) none).elim (die * 32) (·.1)

/-! ## Scheduling -/

/-- A level that a fence cancelled completes FAILED once nothing names it (05 R136). -/
def forcedStep (s : State) : Option State :=
  (s.levels.find? fun l => l.forced
    && !(s.work.any fun e => keyJob e.1 == l.job && e.2.any fun w => w.item.level == l.hdr)
    && !(s.gangs.any fun g => g.job == l.job && g.hdr == l.hdr)
    && !(s.slots.any fun e => match e.2.task with | some t => t.job == l.job && t.parent == l.hdr | none => false)
    && !(s.levels.any fun o => o.job == l.job && o.parent == l.hdr)).map fun l =>
      let (s, _) := completeLevel s l
      levelDec s l.job l.parent true

/-- The first slot of an assigned core whose request would be granted. -/
def grantOne (s : State) : Option Nat :=
  let cores := (s.graphs.flatMap fun g => g.stages.flatMap fun st => st.cores).foldr insertNat []
  (cores.flatMap fun c => [2 * c, 2 * c + 1]).find? fun k => (grantable s k).isSome

/-- Note since when each record has stood at the head of its queue, a gang also while it reserves (05 R145). -/
def markHeads (s : State) : State :=
  let mark (k : Nat) (l : List WorkEnt) : List WorkEnt :=
    match l with
    | [] => []
    | e :: r =>
      let gang := headingGang s (keyCluster k) (keyJob k) (keyPrio k)
      { e with since := if gang.isSome then none else some (e.since.getD s.time) } :: r.map fun e => { e with since := none }
  let heads (g : GangReq) : Bool := g.resv.isSome ||
    ([0, 1, 2, 3].flatMap clustersOf).any fun c => (headingGang s c g.job g.prio).any fun o => o.uid == g.uid
  { s with
    work := s.work.map fun e => (e.1, mark e.1 e.2)
    gangs := s.gangs.map fun (g : GangReq) => { g with since := if heads g then some (g.since.getD s.time) else none } }

/-- The distributors, the ring arbiter and the queue units look once; where something has come of it they look again. A slot is offered
to the records of a higher priority before a reservation on it starts its gang (R129). Work that has moved is looked at again where it
can be taken. -/
def scheduleStep (s : State) : State :=
  if !s.running || s.ckbusy then s else
    let s := s.graphs.foldl (fun s g => finishStages 20 s g.job g.hdr) s
    match forcedStep s with
    | some s => enqueue s .schedule
    | none =>
      match grantOne s with
      | some k => enqueue (enqueue s (.event (.instanceGrant k))) .schedule
      | none =>
        match dealStep s <|> placeOne s <|> reservationStep s with
        | some s => enqueue (unhold s) .schedule
        | none =>
          match stealOne s with
          | some s => if (placeOne s).isSome then enqueue (unhold s) .schedule else markHeads s
          | none => markHeads s

/-! ## Time (05 R125, R145) -/

/-- RECORD_AGING: the oldest record of a queue that has waited 1 ms moves, once, to the tail of the next higher queue of its
job (05 R125): an entry, or else a gang that waits there. -/
def execRecordAging (cluster job prio : Nat) (s : State) : Host.Outcome State Fault Refusal :=
  .next <|
    let k := workKey cluster job prio
    if 3 ≤ prio ∨ 1023 < job ∨ !s.running then s
    else
      match (getWork s k).find? fun e => !e.aged && decide (e.at_ + 1000000 ≤ s.time) with
      | some e =>
        let up := workKey cluster job (prio + 1)
        let (ord, s) := takeUid (setWork s k ((getWork s k).erase e))
        enqueue (setWork s up (getWork s up ++ [{ e with at_ := s.time, aged := true, ord, since := none }])) .schedule
      | none =>
        match s.gangs.find? fun g => g.job == job && g.prio == prio && gangCovers g cluster && !g.aged
            && decide (g.at_ + 1000000 ≤ s.time) with
        | some g =>
          let (ord, s) := takeUid s
          let rest := s.gangs.filter fun o => o.uid != g.uid
          enqueue { s with gangs := rest ++ [{ g with prio := prio + 1, at_ := s.time, aged := true, ord, since := none }] } .schedule
        | none => s

/-- The victims of priority pressure at a cluster: slots below a priority that may be pre-empted with all their gang; no slot
of a core assigned to a stage (05 R145, 06 R157). -/
def victims (s : State) (cluster p : Nat) : List (Nat × TaskInfo) :=
  (slotsOf cluster).filterMap fun k =>
    match (getSlot s k).task with
    | some t =>
      if t.prio < p ∧ (stageOf s (coreOf k)).isNone ∧ (stopGroup s k).all (preemptible s) then some (k, t) else none
    | none => none
/-- The victim: lowest priority, longest running, lowest core and slot. -/
def victim (s : State) (cluster p : Nat) : Option Nat :=
  ((victims s cluster p).foldl (fun (m : Option (Nat × TaskInfo)) e =>
    match m with
    | some b => if e.2.prio < b.2.prio ∨ (e.2.prio = b.2.prio ∧ e.2.start < b.2.start) then some e else m
    | none => some e) none).map (·.1)
/-- A time since when a record has stood at the head is the pre-emption delay ago (05 R145). -/
def delayed (s : State) (since : Option Nat) : Bool := since.any fun t => decide (t + s.delay ≤ s.time)
/-- A record of a priority has been at the head of a queue of a cluster for the pre-emption delay with no free slot that it could take, or a
gang, for this cluster, with no position (05 R145). -/
def pressed (s : State) (cluster p : Nat) : Bool :=
  ((jobsAt s cluster p).any fun j =>
    match getWork s (workKey cluster j p) with
    | e :: _ => delayed s e.since && !(slotsOf cluster).any fun k => slotFree s k && (heldBy s k).all (fun g => decide (g.prio < p))
        && eligible s k j e.item
    | [] => false)
  || s.gangs.any fun g => g.prio == p && delayed s g.since && (heldSlots s g).isNone && (freePosition s g).isNone
      && (match g.resv with | some (c, _, _) => c == cluster | none => gangCovers g cluster)
/-- PREEMPTION_DELAY: where a record is held up for the pre-emption delay, the victim is pre-empted (05 R145). -/
def execPreemptionDelay (cluster : Nat) (s : State) : Host.Outcome State Fault Refusal :=
  .next <|
    if !s.running || s.ckbusy then s else
      match [3, 2, 1].find? fun p => pressed s cluster p && (victim s cluster p).isSome with
      | some p => (match victim s cluster p with | some k => preempt s k 0 | none => s)
      | none => s

end Sys2Proof.Machine
end

