-- ==== Sys2Proof/Machine/Launch.lean ====
section
/-! DEFINITION. The launch words LAUNCH, GANG, SPAWN, JDEC, CANCEL, PHEND, and the issue of level records (17 R427-R432, 13
R333, R334, 05 R114-R122). -/

namespace Sys2Proof.Machine

/-! ## Issuing a level (17 R427, R428) -/

/-- What issuing a level answers: it is live; dropped; a trap cause; a graph refused with REFUSE and REFSTAGE. -/
inductive Issue where
  | ok (s : State)
  | dropped (s : State)
  | bad (cause : Nat)
  | graph (refuse stage : Nat)
  deriving DecidableEq, Repr

/-- A launch record obeys R333. -/
def launchOk (r : Nat) : Bool :=
  decide (1 ≤ rf r 40 4) && decide (1 ≤ rf r 44 4) && decide (rf r 44 4 ≤ 65536) && decide (rf r 48 1 ≤ 1)
    && decide (rf r 49 1 < 4) && rf r 54 2 == 0 && (hdSync r).toNat % 8 == 0
/-- A gang launch record obeys R334; the fields of a linked gang only where it is one. -/
def gangOk (r : Nat) : Bool :=
  let shape := rf r 40 1
  let n := rf r 41 1
  decide (1 ≤ shape) && decide (shape ≤ 3)
    && (if shape = 1 then decide (1 ≤ n) && decide (n ≤ 8) else if shape = 2 then n == 4 else n == 8)
    && decide (1 ≤ rf r 42 1) && decide (rf r 42 1 ≤ 32) && decide (rf r 43 1 ≤ 16) && decide (rf r 44 1 ≤ 2)
    && (rf r 44 1 != 0 || (decide (rf r 45 1 ≤ 23) && decide (rf r 46 1 ≤ 3))) && decide (rf r 47 1 < 2)
    && (rf r 47 1 == 0 || (decide (2 ≤ rf r 48 2) && decide (rf r 48 2 ≤ 64)
          && (rf r 50 2 == 0 || (decide (10 ≤ rf r 50 2) && decide (rf r 50 2 ≤ 1000))) && rf r 56 8 % 16 == 0))
    && rf r 64 64 == 0 && (hdSync r).toNat % 8 == 0

/-- The device list of a linked gang, where it obeys R334. -/
def deviceList (s : State) (cluster : Option Nat) (job r : Nat) : State × Option (List (BitVec 12 × Word)) :=
  let va := BitVec.ofNat 64 (rf r 56 8)
  let s := ownFor s cluster job va (16 * rf r 48 2)
  match unitRead s (jobCtx s job) va (16 * rf r 48 2) with
  | (s, none) => (s, none)
  | (s, some d) =>
    let l := (List.range (rf r 48 2)).map fun i => (rf d (16 * i) 2, rf d (16 * i + 2) 6, rf d (16 * i + 8) 8)
    (s, if l.all fun e => decide (e.1 < 4096) && e.2.1 == 0 then
        some (l.map fun e => (BitVec.ofNat 12 e.1, BitVec.ofNat 64 e.2.2)) else none)
/-- GTMO in µs. -/
def gangTmo (r : Nat) : Nat := if rf r 50 2 = 0 then 50 else rf r 50 2

/-- Make a checked level live: its parent's COUNT, its header, its entry (05 R115, R116, R119). The Bool is false where its
header cannot be updated: then the level is lost at once (11 R473). -/
def makeLive (s : State) (job : Nat) (hdr parent : Word) (kind count : Nat) : State × Bool :=
  let s := levelAdd s job parent 1
  let (s, ok) := putHeader s job hdr count
  if ok then ({ s with levels := s.levels ++ [{ hdr, parent, job, kind }] }, true)
  else (levelDec s job parent true, false)

/-- The request that a gang launch record makes of its distributor. -/
def gangReq (s : State) (job die : Nat) (va : Word) (r tmpl : Nat) (lgid : Option (BitVec 32)) : State × GangReq :=
  let (uid, s) := takeUid s
  (s, { uid, ord := uid, hdr := va, tmpl := BitVec.ofNat 64 (rf r 32 8), job, prio := jobPrio s job (trPrio tmpl),
        shape := BitVec.ofNat 2 (rf r 40 1), members := rf r 41 1, need := rf r 42 1, nbar := rf r 43 1, scope := rf r 44 1,
        cluster := rf r 45 1, die := if rf r 44 1 = 0 then rf r 46 1 else die, at_ := s.time, lgid, resv := none })

/-- Issue the launch, graph or gang launch record at an address, with the checks of R427 and R428. `cluster` is the issuing
cluster, none for an issue packet; `die` the issuing die. -/
def issueLevel (s : State) (cluster : Option Nat) (die job : Nat) (va : Word) (gang : Bool) : Issue :=
  let s := ownFor s cluster job va 128
  match unitRead s (jobCtx s job) va (if gang then 128 else 64) with
  | (_, none) => .bad 26
  | (s, some r) =>
    let kind := hdKind r
    let parent (s : State) : State × Parent := parentOf s cluster job (hdParent r) (if kind = 3 then [4] else [1, 2, 4])
    if !gang ∧ kind = 3 then
      match parent s with
      | (_, .bad) => .graph 1 0xFF
      | (s, .dropped) => .dropped s
      | (s, .ok p) =>
        if Config.maxLevels ≤ s.levels.length then .bad 24 else
          let s := ownFor s cluster job va (64 + 48 * grStages r)
          match unitRead s (jobCtx s job) va (64 + 48 * grStages r) with
          | (_, none) => .graph 1 0xFF
          | (s, some r) =>
            match checkGraph s cluster die job va r with
            | (_, .error (a, b)) => .graph a b
            | (s, .ok g) =>
              let (s, _) := unitWrite s (jobCtx s job) (va + 38) 1 0
              match makeLive s job va p 3 (grStages r) with
              | (s, true) => .ok (loadGraph s r g)
              | (s, false) => .ok s
    else if va.toNat % 64 ≠ 0 ∨ kind ≠ (if gang then 2 else 1) then .bad 26
    else if !(if gang then gangOk r else launchOk r) then .bad 26
    else
      match taskAt s cluster job (BitVec.ofNat 64 (rf r 32 8)) with
      | (_, none) => .bad 26
      | (s, some tmpl) =>
        let linked := gang && rf r 47 1 == 1
        match if linked then deviceList s cluster job r else (s, some []) with
        | (_, none) => .bad 26
        | (s, some devs) =>
          if linked ∧ (devs.headD (0, 0)).1 ≠ s.devId then .bad 26 else
            match parent s with
            | (_, .bad) => .bad 26
            | (s, .dropped) => .dropped s
            | (s, .ok p) =>
              if Config.maxLevels ≤ s.levels.length then .bad 24 else
                match makeLive s job va p kind (if gang then rf r 41 1 else rf r 40 4) with
                | (s, false) => .ok s
                | (s, true) =>
                  if gang then
                    let lgid := if linked then some (BitVec.ofNat 32 (rf r 52 4)) else none
                    let (s, g) := gangReq s job die va r tmpl lgid
                    let lg : List LGang := match lgid with
                      | some lgid => [{ lgid, coord := true, hdr := va, job, tmo := gangTmo r, devs, acks := [], starts := [],
                                        phase := 0, at_ := 0 }]
                      | none => []
                    .ok (enqueue { s with gangs := s.gangs ++ [g], lgangs := s.lgangs ++ lg } .schedule)
                  else
                    let d : Deal := { hdr := va, job, prio := jobPrio s job (trPrio tmpl), next := 0, left := rf r 40 4,
                                      chunk := rf r 44 4, dev := rf r 48 1 == 1, die }
                    .ok (enqueue { s with deals := s.deals ++ [d] } .schedule)

/-! ## The words -/

/-- A launch word's escape, drained and counted before it performs; a word that traps or waits after all has changed nothing
(11 R290, 17 R427). -/
def launchWord (s : State) (t : Thread) (k : State → Res) : Res :=
  if pending s t then .wait s false else
    match if isSup s t then .ok s else escape s t.slot s.nextUid escLaunch with
    | .error b => .bad s b
    | .ok s' =>
      match k s' with
      | .trap _ tr => .trap s tr
      | .wait _ b => .wait s b
      | r => r
/-- The status that a launch word pushes (17 R427). -/
def launchStatus (t : Thread) (s : State) (v : Word) : Res := .done (putResult s t .push v)
/-- Reach the record of a launch word that writes its header: its page with R and W. -/
def launchAccess (f : Opnd) (n : Nat) (s : State) (t : Thread) (k : State → Word → Res) : Res :=
  let va := srcVal s t f
  access s t va n { r := true, w := true } fun s _ => k s va

/-- LAUNCH's and GANG's effect (17 R428). -/
def levelEff (gang : Bool) (f : Opnd) (s : State) (t : Thread) : Res :=
  launchAccess f 64 s t fun s va =>
    let core := coreOf t.slot
    let job := slotJob s t.slot
    let refused (s : State) (a b : Nat) : Res :=
      .trap (unitWrite s (jobCtx s job) (va + 38) 2 (a + 256 * b)).1 { cause := 25, addr := va }
    if pending s t then .wait s false else
      match if isSup s t then .ok s else escape s t.slot s.nextUid escLaunch with
      | .error b => .bad s b
      | .ok s' =>
        match issueLevel s' (some (clusterOf core)) (dieOfCore core) job va gang with
        | .ok s => launchStatus t (releaseAll s t.slot va) 0
        | .dropped s => launchStatus t s 2
        | .bad c => .trap s { cause := c, addr := va }
        | .graph a b => refused s a b
/-- LAUNCH (17 R428). -/
def execLaunch (n : Nib) (f : Opnd) (s : State) : Host.Outcome State Fault Refusal :=
  issueWord (.launch n f) n (some (.scalar .push)) { scalars := [f] } (levelEff false f) s
/-- GANG (17 R428). -/
def execGang (n : Nib) (f : Opnd) (s : State) : Host.Outcome State Fault Refusal :=
  issueWord (.gang n f) n (some (.scalar .push)) { scalars := [f] } (levelEff true f) s

/-- SPAWN's effect (17 R429): it only reads its record, so the record's page needs R alone (04 R97). -/
def spawnEff (f : Opnd) (s : State) (t : Thread) : Res :=
  let va := srcVal s t f
  access s t va 64 { r := true } fun s _ => launchWord s t fun s =>
    match slotPush s t.slot va with
    | .ok s => launchStatus t s 0
    | .dropped s => launchStatus t s 2
    | .bad s => .trap s { cause := 26, addr := va }
    | .full s => .trap s { cause := 23, addr := va }
/-- SPAWN (17 R429). -/
def execSpawn (n : Nib) (f : Opnd) (s : State) : Host.Outcome State Fault Refusal :=
  issueWord (.spawn n f) n (some (.scalar .push)) { scalars := [f] } (spawnEff f) s

/-- JDEC's effect (17 R430): the record is checked, and its queue's room tested, before the counter changes; the test, the
decrement and the underflow's restore are one atomic. -/
def jdecEff (a b : Opnd) (s : State) (t : Thread) : Res :=
  let ca := srcVal s t a
  let va := srcVal s t b
  aligned s ca 8 <| access s t ca 8 { r := true, w := true } fun s sps =>
    access s t va 64 { r := true } fun s _ => launchWord s t fun s =>
      match sps with
      | [sp] =>
        let bad : Res := .trap s { cause := 26, addr := va }
        let dec (room : Bool) : Res :=
          let f (m : Nat) : Option Nat := if m = 0 ∨ (m = 1 ∧ !room) then none else some (m - 1)
          match atomicAt s t.slot sp 8 .acqrel f with
          | .error e => .bad s e
          | .ok (s', old) =>
            if old = 0 then .trap s { cause := 22, addr := ca }
            else if 1 < old then launchStatus t s' 1
            else if !room then .trap s { cause := 23, addr := va }
            else
              match slotPush s' t.slot va with
              | .ok s => launchStatus t s 0
              | .dropped s => launchStatus t s 2
              | .bad _ => bad
              | .full _ => .trap s { cause := 23, addr := va }
        (match slotPush s t.slot va with
         | .bad _ => bad
         | .full _ => dec false
         | _ => dec true)
      | _ => .wait s false
/-- JDEC (17 R430). -/
def execJdec (n : Nib) (a b : Opnd) (s : State) : Host.Outcome State Fault Refusal :=
  issueWord (.jdec n a b) n (some (.scalar .push)) { scalars := [a, b] } (jdecEff a b) s

/-- CANCEL's effect: STATE 1 on the level and its live descendants; the rest comes about next (17 R431). A record that is not aligned as
its kind asks traps RECORD (05 R115). -/
def cancelEff (f : Opnd) (s : State) (t : Thread) : Res :=
  launchAccess f 32 s t fun s va => launchWord s t fun s =>
    let job := slotJob s t.slot
    let s := ownRange s (clusterOf (coreOf t.slot)) job va 32
    match unitRead s (jobCtx s job) va 32 with
    | (s, none) => .trap s { cause := 26, addr := va }
    | (s, some h) =>
      if va = 0 ∨ va.toNat % 8 ≠ 0 ∨ hdKind h = 0 ∨ 4 < hdKind h ∨ (hdKind h ≠ 3 ∧ va.toNat % 64 ≠ 0) ∨ hdJob h ≠ job then
        .trap s { cause := 26, addr := va }
      else if hdState h ≠ 0 then launchStatus t s 0
      else
        let set := descendants (s.levels.filter fun l => l.job == job) (s.levels.length + 1) [va]
        let s := set.foldl (fun s h => (levelWord s job h 25 1 fun v => some (if v = 0 then 1 else v)).1) s
        launchStatus t { s with agenda := ⟨0, .cancelled job va⟩ :: s.agenda } 0
/-- CANCEL (17 R431). -/
def execCancel (n : Nib) (f : Opnd) (s : State) : Host.Outcome State Fault Refusal :=
  issueWord (.cancel n f) n (some (.scalar .push)) { scalars := [f] } (cancelEff f) s
/-- The rest of a cancel: steps 2 to 4 of R120. -/
def cancelRest (s : State) (job : Nat) (hdr : Word) : State :=
  cancelSet s job (descendants (s.levels.filter fun l => l.job == job) (s.levels.length + 1) [hdr])

/-- Close a job's open phase: its "plus 1" goes (05 R118). -/
def closePhase (s : State) (job : Nat) (next : Word) : State :=
  let j := getJob s job
  let old := j.phase
  let s := setJob s job { j with phase := next, closed := if old = 0 then j.closed else j.closed ++ [old] }
  if old = 0 then s else levelDec s job old false
/-- PHEND's effect (17 R432, 05 R118): the new phase is live before the old one closes. -/
def phendEff (f : Opnd) (s : State) (t : Thread) : Res :=
  let va := srcVal s t f
  let job := slotJob s t.slot
  if (getJob s job).closed ≠ [] then .wait s false
  else if va = 0 then launchWord s t fun s => launchStatus t (closePhase s job 0) 0
  else
    launchAccess f 64 s t fun s va => launchWord s t fun s =>
      let s := ownRange s (clusterOf (coreOf t.slot)) job va 64
      let bad : Res := .trap s { cause := 26, addr := va }
      match unitRead s (jobCtx s job) va 64 with
      | (_, none) => bad
      | (s, some r) =>
        if va.toNat % 64 ≠ 0 ∨ hdKind r ≠ 4 ∨ hdParent r ≠ 0 ∨ rf r 40 24 ≠ 0 ∨ (hdSync r).toNat % 8 ≠ 0 then bad
        else if 3 ≤ (getJob s job).state then launchStatus t s 2
        else if Config.maxLevels ≤ s.levels.length then .trap s { cause := 24, addr := va }
        else
          let n := (getJob s job).phaseno + 1
          let s := setJob s job { getJob s job with phaseno := n }
          let (s, live) := makeLive s job va 0 4 1
          let (s, _) := unitWrite s (jobCtx s job) (va + 32) 8 n
          launchStatus t (releaseAll (closePhase s job (if live then va else 0)) t.slot va) 0
/-- PHEND (17 R432). -/
def execPhend (n : Nib) (f : Opnd) (s : State) : Host.Outcome State Fault Refusal :=
  issueWord (.phend n f) n (some (.scalar .push)) { scalars := [f] } (phendEff f) s

end Sys2Proof.Machine
end

