-- ==== Sys2Proof/Machine/Collective.lean ====
section
/-! DEFINITION. The collective units: acceptance, scale agreement, conversion with thinning and residual carry, the exchange
through receive rings, sums and maxima, shards and completion (02 R47-R58, 17 R426, 20 R463, R464). -/

namespace Sys2Proof.Machine

/-! ## A member and its accesses -/

/-- The descriptor as a number. -/
def Coll.d (c : Coll) : Nat := c.desc.toNat
/-- The unit's die. -/
def Coll.die (c : Coll) : Nat := dieOfCore c.core
/-- How the unit reaches memory: through the issuing cluster's view, for a queue's request at the homes (17 R426). -/
def Coll.who (c : Coll) : Who := if c.queue.isSome then .home else .engine c.core c.job
/-- Where substitutions count: the slot, or the job's total. -/
def Coll.place (c : Coll) : Nat := if isUnit c.slot then unitSlot c.die c.job else c.slot
/-- SOURCE of a collective unit (04 R105). -/
def Coll.source (c : Coll) : BitVec 32 := BitVec.ofNat 32 (0xFF020000 + c.die)
/-- Two members of one collective (17 R426). -/
def Coll.same (a b : Coll) : Bool := a.job == b.job && pkTag a.d == pkTag b.d && cdSeq a.d == cdSeq b.d
/-- Write a member's state. -/
def setColl (s : State) (c : Coll) : State := { s with colls := s.colls.map fun (o : Coll) => if o.uid = c.uid then c else o }
/-- A collective of a number. -/
def findColl (s : State) (uid : Nat) : Option Coll := s.colls.find? fun c => c.uid == uid
/-- The members of this package look again. -/
def kickColl (s : State) (c : Coll) : State :=
  (s.colls.filter fun o => o.same c && o.status.isNone).foldl (fun s o => enqueue s (.coll o.uid)) s

/-- Translate an access of the unit. -/
def collSpans (c : Coll) (wr tt : Bool) (va : Word) (n : Nat) (s : State) : EngR (List Span) :=
  match translate s (unitCtx c.die c.job false) va n { r := !wr, w := wr, tt } with
  | (s, .ok l) => .ok s l
  | (s, .fault k a) => .fault s k a wr
  | (s, .stall) => .stall s
/-- Read bytes with the codes of their granules; nothing is consumed but on ET pages. -/
def collMove (c : Coll) (va : Word) (n : Nat) (s : State) : EngR (Nat × Nat) :=
  if n = 0 then .ok s (0, 0) else
    (collSpans c false false va n s).bind fun s sps =>
      match moveSpans 7 c.place c.who s sps with
      | .ok (s, v, y) => .ok s (v, y)
      | .error b => .bad s b
/-- Read bytes that the unit uses itself. -/
def collRead (c : Coll) (va : Word) (n : Nat) (s : State) : EngR Nat :=
  if n = 0 then .ok s 0 else
    (collSpans c false false va n s).bind fun s sps => engRisk s (loadSpans 7 c.place c.who s sps)
/-- Write bytes, with the codes of whole granules that move or with fresh ones. -/
def collWrite (c : Coll) (va : Word) (n v : Nat) (codes : Option Nat) (stamp : Option (BitVec 4)) (s : State) : EngR Unit :=
  if n = 0 then .ok s () else
    (collSpans c true stamp.isSome va n s).bind fun s sps =>
      match storeSpans 7 c.place c.who stamp s sps v codes with
      | .ok s => .ok s ()
      | .error b => .bad s b

/-! ## The end (02 R57, R58) -/

/-- The parts of the member's destination. -/
def Coll.final (c : Coll) : List (List Nat) := partsOf c.d (destMarks c.d) (coordsOf (cdNa c.d) (cdMe c.d))
/-- The bytes of the member's destination. -/
def Coll.bytes (c : Coll) : Nat := (partSize c.final * fmtWidth c.fmt + 7) / 8

/-- Maximal runs of consecutive positions: first position and elements. -/
def posRuns : List (Nat × CEl) → List (Nat × List CEl)
  | [] => []
  | e :: t =>
    match posRuns t with
    | (p, l) :: r => if p = e.1 + 1 then (e.1, e.2 :: l) :: r else (e.1, [e.2]) :: (p, l) :: r
    | [] => [(e.1, [e.2])]

/-- Elements of the member's destination hold values that nothing constrains, with their block scales (log 10). -/
def freeElems (s : State) (c : Coll) (gs : List Nat) : State :=
  let (k, s) := draw s
  let put (va : Word) (o n : Nat) (s : State) : State :=
    match collWrite c (va + BitVec.ofNat 64 o) n (natOf ((List.range n).map fun i => Config.freeByte k (o + i))) none none s with
    | .ok s _ => s
    | _ => s
  let w := fmtWidth c.fmt
  (posRuns (gs.map fun g => (posIn c.d c.final g, { code := none, scale := 0, syn := 0 }))).foldl (fun s r =>
    let s := put (cdDst c.d) (r.1 * w / 8) ((r.2.length * w + 7) / 8) s
    match c.record with
    | some n => if fmtBlock c.fmt then put (recScales n.val) (r.1 / 32) ((r.2.length + 31) / 32) s else s
    | none => s) s
/-- Undefined bytes (02 R55, R57): a shard whose flag was not raised holds free values. -/
def scramble (s : State) (c : Coll) : State :=
  let me := coordsOf (cdNa c.d) (cdMe c.d)
  ((List.range (shardCount c.d)).filter fun j => !c.shards.contains j).foldl (fun s j =>
    freeElems s c ((partElems c.d (shardParts c.d me j)).filter fun g => inParts c.d c.final g)) s
/-- Elements of the destination that no step of R53 brings hold free values (log 48). -/
def freeMissing (s : State) (c : Coll) : State :=
  let held := partsOf c.d (lastMarks c.d) (coordsOf (cdNa c.d) (cdMe c.d))
  match (partElems c.d c.final).filter fun g => !inParts c.d held g with
  | [] => s
  | gs => freeElems s c gs

/-- A member's status is decided: its record and its release come about next. -/
def endColl (s : State) (c : Coll) (status fcode : Nat) : State :=
  match findColl s c.uid with
  | none => s
  | some o =>
    if o.status.isSome then s else
      let s := if status = 3 ∨ status = 4 ∨ status = 6 then scramble s o else s
      enqueue (setColl s { o with status := some status, fcode, paused := none }) (.event (.collectiveComplete c.uid))

/-- An uncorrectable error that a unit consumed: CHECK_FAIL, and the event (11 R299). -/
def collBad (s : State) (c : Coll) (b : Bad) : State :=
  postUncorrectable (endColl s c 4 0) c.job c.source b.addr (badDetail (getSlot s c.place) b false)

/-! ## Elements -/

/-- Elements read from packed codes: each with the difference of its granule; a block format's scale bytes are given. -/
def takeEls (w lead v codes n : Nat) (scale : Nat → Nat) : List CEl :=
  (List.range n).map fun i =>
    { code := some (v / 2 ^ (w * i) % 2 ^ w), scale := scale (i / 32),
      syn := BitVec.ofNat 16 (codes / 2 ^ (16 * ((lead + i * w / 8) / 16))) }
/-- The codes of elements; an absent one is zero. -/
def elCodes (l : List CEl) : List Nat := l.map fun e => e.code.getD 0
/-- The code differences of the granules that elements fill, from a byte offset on. -/
def elSyns (w lead : Nat) (l : List CEl) : Nat :=
  (l.zipIdx.foldl (fun (a : Nat × Nat) e =>
    let g := (lead + e.2 * w / 8) / 16
    if e.1.syn = 0 ∨ g < a.1 then a else (g + 1, a.2 + e.1.syn.toNat * 2 ^ (16 * g))) (0, 0)).2
/-- The value of an element in the element format. -/
def Coll.value (c : Coll) (e : CEl) : XV :=
  match e.code with
  | none => .fin false 0 0
  | some x => (if fmtBlock c.fmt then blockElem c.fmt e.scale x else decodeElem c.fmt x).scale (-c.scale)
/-- The value of a source element. -/
def Coll.srcValue (c : Coll) (e : CEl) : XV :=
  let x := e.code.getD 0
  (if fmtBlock c.sfmt then blockElem c.sfmt e.scale x else decodeElem c.sfmt x).scale (-c.sscale)
/-- to_fp32 (09 R249). -/
def toFp32 (x : XV) : XV := ff32.decode (ff32.convert true x).1
/-- A rounded FP32 sum. -/
def addFp32 (a b : XV) : XV := ff32.decode (roundArith ff32 (xAdd a b)).1

/-- Encode values in the element format with the member's scale (09 R249): the elements, and the saturations. -/
def Coll.encode (c : Coll) (widen : Bool) (forced : Nat → Option Nat) (xs : List XV) : List CEl × Nat :=
  if fmtBlock c.fmt then
    let bs := (blocks32 ((xs.length + 31) / 32) xs).zipIdx.map fun b => quantiseBlock c.fmt b.1 c.scale (forced b.2)
    (bs.flatMap fun b => b.codes.map fun x => { code := some x, scale := b.scale, syn := 0 }, sumNat (bs.map (·.sats)))
  else
    let l := xs.map fun x => convertTo c.fmt (pkRtz c.d) widen (x.scale c.scale)
    (l.map fun e => { code := some e.1, scale := 0, syn := 0 }, (l.filter fun e => e.2 &&& fSAT != 0).length)

/-- The source stays as it is: no format, scale, thinning, carry or agreement changes it. -/
def Coll.plain (c : Coll) : Bool :=
  c.sfmt == c.fmt && c.sscale == c.scale && cdThin c.d == 0 && !cdCarry c.d && cdAgree c.d == 0

/-- The order of magnitudes: NaN, then infinity, then by size. -/
def magAbove (a b : XV) : Bool :=
  match a, b with
  | .nan _ _, .nan _ _ => false
  | .nan _ _, _ => true
  | _, .nan _ _ => false
  | .inf _, .inf _ => false
  | .inf _, _ => true
  | _, .inf _ => false
  | _, _ => b.dy.abs.lt a.dy.abs
/-- The k elements of largest magnitude, ties to the lower index; all for k = 0 (02 R56). -/
def keepLargest (k : Nat) (v : List XV) : List Bool :=
  if k = 0 then v.map fun _ => true else
    v.zipIdx.map fun e => decide ((v.zipIdx.filter fun o => magAbove o.1 e.1 || (!magAbove e.1 o.1 && decide (o.2 < e.2))).length < k)

/-- R56 on one block: what travels, and the new residuals. -/
def Coll.blockPass (c : Coll) (forced : Option Nat) (src : List XV) (resid : List Nat) : List CEl × List Nat :=
  let v := (src.zip resid).map fun e => if cdCarry c.d then addFp32 (toFp32 e.1) (ff32.decode e.2) else toFp32 e.1
  let keep := keepLargest (cdThin c.d) v
  let w := (c.encode (widening .fp32 c.fmt || c.fmt == .fp32) (fun _ => forced)
    ((v.zip keep).map fun e => if e.2 then e.1 else .fin false 0 0)).1
  let out := (w.zip keep).map fun e => if e.2 then e.1 else { e.1 with code := none }
  (out, ((v.zip out).map fun e =>
    match e.2.code with
    | some _ => (roundArith ff32 (xAdd e.1 (c.value e.2).flip)).1
    | none => (ff32.convert true e.1).1))

/-- The agreed exponent of a block, where the agreement is by block. -/
def Coll.forced (c : Coll) (b : Nat) : Option Nat :=
  if cdAgree c.d ≠ 1 then none
  else (c.agreed.find? fun e => e.1 == b / 128).map fun e => (e.2.extractLsb' (8 * (b % 128)) 8).toNat

/-- The source converted (02 R54 step 1, R56): elements and residuals. -/
def Coll.convert (c : Coll) (resid : Nat) : List CEl × Nat :=
  if c.plain then (c.data, resid)
  else if cdThin c.d = 0 ∧ !cdCarry c.d then
    ((c.encode (widening c.sfmt c.fmt || c.sfmt == c.fmt) c.forced (c.data.map c.srcValue)).1, resid)
  else
    let n := c.data.length
    let bs := (blocks32 ((n + 31) / 32) (c.data.map c.srcValue)).zip
      (blocks32 ((n + 31) / 32) ((List.range n).map fun i => resid / 2 ^ (32 * i) % 2 ^ 32))
    let r := bs.zipIdx.map fun b => c.blockPass (c.forced b.2) b.1.1 b.1.2
    (r.flatMap (·.1), packCodes 32 (r.flatMap (·.2)))

/-! ## Scale agreement (02 R47-R49) -/

/-- The member's own exponent vector: the E8M0 code of each block of its source, or 127 less its own new scale (R49). -/
def Coll.exponents (c : Coll) (r p resid : Nat) : List Nat :=
  if cdAgree c.d = 2 then
    let s := if recStill r then recScale r (recVer r) else newScale r p (cdFmtOf c)
    [(127 - s).toNat % 256]
  else
    let n := c.data.length
    (blocks32 ((n + 31) / 32) (c.data.zipIdx.map fun e =>
      let x := toFp32 (c.srcValue e.1)
      if cdCarry c.d then addFp32 x (ff32.decode (resid / 2 ^ (32 * e.2) % 2 ^ 32)) else x)).map fun b =>
        (quantiseBlock .e2m1 b c.scale none).scale
where
  /-- The code of the element format. -/
  cdFmtOf (c : Coll) : Nat := if cdFmt c.d = 14 then (match c.record with | some n => recFmt n.val c.ver | none => 0) else cdFmt c.d
/-- Vectors of 128 lanes. -/
def laneVectors (l : List Nat) : List (BitVec 1024) :=
  (List.range ((l.length + 127) / 128)).map fun i => BitVec.ofNat 1024 (packCodes 8 ((l.drop (128 * i)).take 128))
/-- The lanewise maximum. -/
def laneMax (a b : BitVec 1024) : BitVec 1024 :=
  BitVec.ofNat 1024 (packCodes 8 ((List.range 128).map fun i =>
    max (a.extractLsb' (8 * i) 8).toNat (b.extractLsb' (8 * i) 8).toNat))

/-- A member is on this device. -/
def Coll.near (s : State) (c : Coll) (rank : Nat) : Bool := c.mems.getD rank 0 % 4096 == s.devId.toNat
/-- The device of a member. -/
def Coll.device (c : Coll) (rank : Nat) : BitVec 12 := BitVec.ofNat 12 (c.mems.getD rank 0)
/-- The member of a rank on this device, once it has been accepted and has begun. -/
def peerOf (s : State) (c : Coll) (rank : Nat) : Option Coll :=
  s.colls.find? fun o => o.same c && cdMe o.d == rank && decide (1 ≤ o.phase)
/-- The agreement identifier. -/
def Coll.agreeId (s : State) (c : Coll) : BitVec 45 :=
  Config.agreeId (getJob s c.job).jobtag (BitVec.ofNat 32 (pkTag c.d)) (BitVec.ofNat 64 (cdSeq c.d))
/-- An SMAX or SMAXRES flit; its TAG holds the vector's number (log 47). A fold that met a mismatch sends codes that do not match (log
104). -/
def smaxFlit (s : State) (c : Coll) (kind : BitVec 6) (dst : BitVec 12) (f : CFold) : Flit :=
  { kind, cls := 2, dst, src := s.devId, jobtag := (getJob s c.job).jobtag, tag := BitVec.ofNat 12 f.num, hops := 0,
    addr := c.agreeId s, gmask := f.ver.setWidth 8 ||| (if f.skew then 16#8 else 0#8), meta0 := 0, meta1 := 0, rsvd := 0,
    codes := if f.bad then ~~~flitCodes f.lanes else flitCodes f.lanes, data := f.lanes, reject := false }

/-- A member takes an agreed vector; one that a fold found wrong ends it CHECK_FAIL (R48). -/
def takeAgreed (s : State) (c : Coll) (f : CFold) : State :=
  match findColl s c.uid with
  | none => s
  | some c =>
    if f.bad then endColl s c 4 0 else
    enqueue (setColl s { c with agreed := c.agreed.filter (fun e => e.1 != f.num) ++ [(f.num, f.lanes)], skew := c.skew || f.skew })
      (.coll c.uid)

/-- Pass on one vector of the agreement: folded, and sent to the next member, or from the last to all, as one SMAXRES for each device that
has members (R47 says to every member; log 47). None where the next member of this device has not begun. -/
def passFold (s : State) (c : Coll) (f : CFold) : Option State :=
  let own := c.vec.getD f.num 0
  let g : CFold := { f with lanes := laneMax f.lanes own, skew := f.skew || f.ver.toNat != c.ver }
  let s := setColl s { c with folds := c.folds.erase f }
  let next := cdMe c.d + 1
  if next < cdCount c.d then
    if c.near s next then
      (peerOf s c next).map fun o => enqueue (setColl s { o with folds := o.folds ++ [g] }) (.coll o.uid)
    else some (sendFlit s (smaxFlit s c 0x0A (c.device next) g))
  else
    let far := (((List.range (cdCount c.d)).filter fun r => !c.near s r).map c.device).eraseDups
    let s := far.foldl (fun s dst => sendFlit s (smaxFlit s c 0x0B dst g)) s
    some ((s.colls.filter fun o => o.same c).foldl (fun s o => takeAgreed s o g) s)

/-- The scale and format that the agreement gives the record: its new version slot, made current (R49, R463). -/
def applyAgreed (c : Coll) (s : State) : EngR Coll :=
  match c.record with
  | none => .ok s c
  | some n =>
    (collSpans c true false n.va 256 s).bind fun s sps =>
      match sps with
      | [sp] =>
        (engRisk s (readRecord s 7 c.slot sp)).bind fun s r =>
          let v := (recVer r + 1) % 16
          let sc : Int := if cdAgree c.d = 2 then
              127 - (((c.agreed.headD (0, 0)).2.extractLsb' 0 8).toNat : Int) else recScale r (recVer r)
          let code := if cdFmt c.d = 14 then recFmt r (recVer r) else cdFmt c.d
          let r := rset (rset (rset r (16 + 2 * v) 1 (byteOf sc)) (17 + 2 * v) 1 code) 6 1 v
          .ok (putRecord s sp r) { c with scale := sc, ver := v, record := some { n with val := r } }
      | _ => .ok s c
/-- Set or clear HELD of a member's record (R49); a step that waited for it runs when the hold ends (10 R271). -/
def holdRecord (s : State) (c : Coll) (on : Bool) : State :=
  match c.record with
  | none => s
  | some n =>
    match translate s (unitCtx c.die c.job false) n.va 256 { w := true } with
    | (s, .ok [sp]) =>
      let (s, _) := devUpdate s c.job (sp.at 5) 1 fun b => some (b - b / 4 % 2 * 4 + if on then 4 else 0)
      if on then s else runDeferred s c.job n.va
    | (s, _) => s

/-! ## Messages (02 R54, R56) -/

/-- The elements of a message are whole blocks of the sender's source, so that it travels thinned (R56; log 49). -/
def msgThin (d step : Nat) (frm dst : List Nat) : Bool :=
  match (collSteps d)[step]? with
  | none => false
  | some st =>
    let src := partElems d (partsOf d (cdSrole d) frm)
    let ps := sendParts d st frm dst
    let pos := (src.zipIdx.filter fun e => inParts d ps e.1).map (·.2)
    cdThin d != 0 && step == 0 && pos.length % 32 == 0
      && pos.zipIdx.all fun e => e.1 % 32 == e.2 % 32 && (e.2 % 32 == 0 || pos.getD (e.2 - 1) 0 + 1 == e.1)
/-- The bytes of a thinned block: its mask and its kept elements in whole granules. -/
def thinBytes (k w : Nat) : Nat := (4 + (k * w + 7) / 8 + 15) / 16 * 16
/-- The bytes of a message of n elements; the scale bytes of a block format come last (log 49). -/
def msgLen (f : Fmt) (k n : Nat) (thin : Bool) : Nat :=
  (if thin then n / 32 * thinBytes k (fmtWidth f) else (n * fmtWidth f + 7) / 8) + (if fmtBlock f then n / 32 else 0)
/-- A message's bytes and codes. -/
def packMsg (f : Fmt) (k : Nat) (thin : Bool) (l : List CEl) : Nat × Nat :=
  let w := fmtWidth f
  let bs := blocks32 ((l.length + 31) / 32) l
  let body : Nat :=
    if thin then
      packCodes (8 * thinBytes k w) (bs.map fun b =>
        let mask := (b.zipIdx.map fun e => if e.1.code.isSome then 2 ^ e.2 else 0).foldl (· + ·) 0
        mask + packCodes w (b.filterMap (·.code)) * 2 ^ 32)
    else packCodes w (elCodes l)
  let at_ := msgLen f k l.length thin - (if fmtBlock f then l.length / 32 else 0)
  let scales := if fmtBlock f then packCodes 8 (bs.map fun b => match b.head? with | some e => e.scale | none => 0) else 0
  (body + scales * 2 ^ (8 * at_), if thin then 0 else elSyns w 0 l)
/-- The n elements of a message. -/
def unpackMsg (f : Fmt) (k : Nat) (thin : Bool) (n v codes : Nat) : List CEl :=
  let w := fmtWidth f
  let at_ := msgLen f k n thin - (if fmtBlock f then n / 32 else 0)
  let scale (b : Nat) : Nat := if fmtBlock f then v / 2 ^ (8 * (at_ + b)) % 256 else 0
  if thin then
    let size := thinBytes k w
    (List.range (n / 32)).flatMap fun b =>
      let x := v / 2 ^ (8 * size * b)
      let bad := (List.range (size / 16)).foldl (fun (a : BitVec 16) g => a ||| BitVec.ofNat 16 (codes / 2 ^ (16 * (b * (size / 16) + g)))) 0
      (List.range 32).map fun e =>
        let at_ := ((List.range e).filter fun i => x / 2 ^ i % 2 == 1).length
        { code := if x / 2 ^ e % 2 = 1 then some (x / 2 ^ (32 + w * at_) % 2 ^ w) else none, scale := scale b, syn := bad }
  else takeEls w 0 v codes n scale

/-- The messages that a member sends in a step. -/
def stepOuts (c : Coll) (step : Nat) : List CMsg :=
  let d := c.d
  let na := cdNa d
  let me := coordsOf na (cdMe d)
  match (collSteps d)[step]? with
  | none => []
  | some st =>
    let els := (partElems d (partsOf d st.before me)).zip c.data
    (axisPeers d st.axis me).filterMap fun p =>
      let ps := sendParts d st me p
      if p = me ∨ partSize ps = 0 then none else
        let l := (els.filter fun e => inParts d ps e.1).map (·.2)
        let thin := msgThin d step me p
        let (val, codes) := packMsg c.fmt (cdThin d) thin l
        some { peer := rankOf na p, step, val, codes, len := msgLen c.fmt (cdThin d) l.length thin, off := 0 }
/-- The messages that a member awaits in a step, as senders with their element counts. -/
def stepIns (c : Coll) (step : Nat) : List (Nat × Nat) :=
  let d := c.d
  let na := cdNa d
  let me := coordsOf na (cdMe d)
  match (collSteps d)[step]? with
  | none => []
  | some st =>
    (axisPeers d st.axis me).filterMap fun p =>
      let n := partSize (sendParts d st p me)
      if p = me ∨ n = 0 then none else some (rankOf na p, n)
/-- The length of an awaited message. -/
def inLen (c : Coll) (step peer n : Nat) : Nat :=
  let na := cdNa c.d
  msgLen c.fmt (cdThin c.d) n (msgThin c.d step (coordsOf na peer) (coordsOf na (cdMe c.d)))

/-! ## The receive rings (02 R45, R46, R54) -/

/-- The bytes that one slot of a receive ring of some slot size takes: 4 KiB, less where the slot is smaller (log 49). -/
def slotBytes (size : Nat) : Nat := min 4096 size
/-- A part of a message, at most k bytes. -/
def CMsg.part (m : CMsg) (k : Nat) : Nat × Nat × Nat :=
  let n := min k (m.len - m.off)
  (n, m.val / 2 ^ (8 * m.off) % 2 ^ (8 * n), m.codes / 2 ^ (m.off) % 2 ^ n)

/-- A message has moved by a slot of k bytes. -/
def moveOut (s : State) (c : Coll) (m : CMsg) (k : Nat) : State :=
  match findColl s c.uid with
  | none => s
  | some c =>
    let m' := { m with off := m.off + min k (m.len - m.off) }
    setColl s { c with outs := c.outs.flatMap fun (o : CMsg) => if o = m then (if m'.len ≤ m'.off then [] else [m']) else [o] }

/-- The descriptor of a member's receive ring. -/
def ringOf (o : Coll) (frm step : Nat) (s : State) : EngR (Option Loc) :=
  (collSpans o true false (cdRings o.d + BitVec.ofNat 64 (32 * ringIndex o.d (cdMe o.d) frm step)) 32 s).bind fun s sps =>
    .ok s (match sps with | [sp] => some sp.loc | _ => none)

/-- Send one slot of a message to a member of this device: none where it has not begun or its ring has no free slot. -/
def sendNear (c : Coll) (m : CMsg) (s : State) : EngR (Option State) :=
  match peerOf s c m.peer with
  | none => .ok s none
  | some o =>
    (ringOf o (cdMe c.d) m.step s).bind fun s loc =>
      match loc with
      | none => .ok s none
      | some loc =>
        let r := descAt s loc
        if r.free = r.fill then .ok s none else
          let k := slotBytes r.size
          let (n, v, y) := m.part k
          let va := r.base + BitVec.ofNat 64 (r.fill.toNat % r.n * r.size)
          (collWrite { o with queue := some 0 } va n v (some y) none s).bind fun s _ =>
            let s := putDesc s loc 8 4 (r.fill + 1).toNat
            .ok s (some (enqueue (moveOut s c m k) (.coll o.uid)))

/-- The identity of a far receive ring, as its free values know it (log 25). -/
def farKey (c : Coll) (m : CMsg) : Nat :=
  (((c.mems.getD m.peer 0 * 2 ^ 32 + pkTag c.d) * 2 ^ 64 + cdSeq c.d) * 4096 + cdMe c.d) * 64 + m.step
/-- The device of a far ring. -/
def farDevice (key : Nat) : BitVec 12 := BitVec.ofNat 12 (key / (64 * 4096 * 2 ^ 64 * 2 ^ 32))
/-- A sender's shadow of a far ring's FILL and FREE (R45). -/
def shadowOf (s : State) (key : Nat) : BitVec 32 × BitVec 32 :=
  (kvFind s.shadows key).getD
    (Config.farFill key, Config.farFill key + BitVec.ofNat 32 ((Config.farCount key).toNat + 1))
/-- The WR flits of a run of bytes at a far address (02 R35, R42); TAG names the collective (log 47). -/
def wrFlits (s : State) (cls : BitVec 2) (dst jobtag tag : BitVec 12) (pa : BitVec 52) (n v y : Nat) : List Flit :=
  (List.range ((n + 127) / 128)).map fun i =>
    let k := min 128 (n - 128 * i)
    let data := BitVec.ofNat 1024 (v / 2 ^ (1024 * i) % 2 ^ (8 * k))
    let syn := BitVec.ofNat 128 (y / 2 ^ (128 * i))
    { kind := 1, cls, dst, src := s.devId, jobtag, tag, hops := 0, addr := pa.extractLsb' 7 45 + BitVec.ofNat 45 i,
      gmask := BitVec.ofNat 8 (2 ^ ((k + 15) / 16) - 1), meta0 := 0, meta1 := 0, rsvd := 0,
      codes := flitCodes data ^^^ syn, data, reject := false }
/-- Send one slot of a message to a member of another device: WR flits into slot FILL mod n, outstanding until their WRACKs, then FILLN on
the same flow (R42, R45, R46). -/
def sendFar (c : Coll) (m : CMsg) (s : State) : Option State :=
  let key := farKey c m
  let (fill, free) := shadowOf s key
  if fill = free then none
  else
    let (n, v, y) := m.part 4096
    let dst := c.device m.peer
    let jt := (getJob s c.job).jobtag
    let tag := BitVec.ofNat 12 c.uid
    let slots := (Config.farCount key).toNat + 1
    let l := wrFlits s 3 dst jt tag (Config.farSlot key (fill.toNat % slots)) n v y
    let s := l.foldl sendFlit s
    let s := if unreachable s dst then s else { s with outWrs := s.outWrs ++ l.map fun _ => { job := c.job, dst, tag, slot := none, line := 0, lost := false } }
    let s := sendFlit s (wordFlit s 0x08 3 dst tag jt (Config.farRing key) ((fill + 1).setWidth 64))
    some (moveOut { s with shadows := kvSet (0, 0) s.shadows key (fill + 1, free) } c m 4096)

/-- Send the first slot that can go. -/
def sendOne (c : Coll) : List CMsg → State → EngR (Option State)
  | [], s => .ok s none
  | m :: t, s =>
    if c.near s m.peer then
      (sendNear c m s).bind fun s r => match r with | some s' => .ok s (some s') | none => sendOne c t s
    else
      match sendFar c m s with
      | some s' => .ok s (some s')
      | none => sendOne c t s

/-- Take one slot of the messages that a step awaits, as a consumer of its ring (R45). -/
def recvOne (c : Coll) (step : Nat) : List (Nat × Nat) → State → EngR (Option State)
  | [], s => .ok s none
  | e :: t, s =>
    let len := inLen c step e.1 e.2
    let cur := (c.inns.find? fun m => m.peer == e.1 && m.step == step).getD
      { peer := e.1, step, val := 0, codes := 0, len, off := 0 }
    if len ≤ cur.off then recvOne c step t s
    else
      (ringOf c e.1 step s).bind fun s loc =>
        match loc with
        | none => recvOne c step t s
        | some loc =>
          let r := descAt s loc
          if r.fill = r.take then recvOne c step t s
          else
            let n := min (slotBytes r.size) (len - cur.off)
            (collMove c (r.base + BitVec.ofNat 64 (r.take.toNat % r.n * r.size)) n s).bind fun s x =>
              let s := putDesc s loc 16 4 (r.take + 1).toNat
              let s := putDesc s loc 12 4 (r.free + 1).toNat
              let s := if r.remote then sendFlit s (ringNotice s 0x09 2 r.pdev (getJob s c.job).jobtag loc (r.free + 1)) else s
              let m := { cur with val := cur.val + x.1 * 2 ^ (8 * cur.off), codes := cur.codes + x.2 * 2 ^ cur.off,
                                  off := cur.off + n }
              let c := { c with inns := c.inns.filter (fun o => !(o.peer == e.1 && o.step == step)) ++ [m] }
              .ok s (some (kickColl (setColl s c) c))

/-! ## The results of a step (02 R54) -/

/-- The elements that a member has from a sender in a step, itself included. -/
def elsFrom (c : Coll) (st : CStep) (step : Nat) (p : List Nat) : List CEl :=
  let d := c.d
  let na := cdNa d
  let me := coordsOf na (cdMe d)
  if p = me then
    (((partElems d (partsOf d st.before me)).zip c.data).filter fun e => inParts d (sendParts d st me me) e.1).map (·.2)
  else
    let n := partSize (sendParts d st p me)
    match c.inns.find? fun m => m.peer == rankOf na p && m.step == step with
    | some m => unpackMsg c.fmt (cdThin d) (msgThin d step p me) n m.val m.codes
    | none => []

/-- The combination of the contributions to one element, in rank order: the value delivered to the conversion, or for INT32
and INT64 its code. -/
def combine (c : Coll) (l : List CEl) : XV × Option Nat :=
  let xs := l.map c.value
  if cdMax c.d then
    (xs.tail.foldl (fun a x => if a.isNan ∨ x.isNan then .nan false false else (xMin true a x).1) (xs.headD (.fin false 0 0)), none)
  else
    match c.fmt with
    | .fp64 => (xs.tail.foldl (fun a x => ff64.decode (roundArith ff64 (xAdd a x)).1) (xs.headD (.fin false 0 0)), none)
    | .int32 | .int64 =>
      let w := fmtWidth c.fmt
      let k := sumNat (l.map fun e => e.code.getD 0) % 2 ^ w
      (decodeElem c.fmt k, some k)
    | _ => (xs.tail.foldl (fun a x => addFp32 a (toFp32 x)) (toFp32 (xs.headD (.fin false 0 0))), none)

/-- The transpose of lists of one length. -/
def columns {α : Type} : Nat → List (List α) → List (List α)
  | 0, _ => []
  | n + 1, l => l.filterMap List.head? :: columns n (l.map List.tail)

/-- A reduce-scatter's owner combines and converts; its record counts the saturations of every such step (R54), and the values of the sums
of the last (10 R265, 20 R463). -/
def reduceStep (c : Coll) (st : CStep) (step : Nat) (s : State) : EngR Coll :=
  let d := c.d
  let na := cdNa d
  let me := coordsOf na (cdMe d)
  let ps := partsOf d st.after me
  let ls := (axisPeers d st.axis me).map fun p => elsFrom c st step p
  if ls.any fun l => l.any fun e => e.syn != 0 then .bad s (.of false 7 (cdDst d) 0)
  else
    let r := (columns (partSize ps) ls).map (combine c)
    let src := (partElems d (partsOf d (cdSrole d) me))
    let first := (partElems d ps).zipIdx.filterMap fun e => if e.2 % 32 = 0 then some (src.idxOf e.1 / 32) else none
    let widen := if c.fmt = .fp64 ∨ cdMax d then true else widening .fp32 c.fmt || c.fmt == .fp32
    let (els, sats) := c.encode widen (fun b => (first[b]?).bind c.forced) (r.map (·.1))
    let els := (els.zip r).map fun e => match e.2.2 with | some k => { e.1 with code := some k } | none => e.1
    let last := !((collSteps d).drop (step + 1)).any fun o => o.kind == .scatter
    let c := { c with data := els, sats := c.sats + sats }
    match c.record with
    | some n =>
      if cdMax d then .ok s c
      else
        let (s, m) := mergeCounts s c.job n.span (if last then countValues (r.map (·.1)) sats else { bins := [], zeros := 0, sats })
        .ok s { c with marked := c.marked || m }
    | none => .ok s c

/-- An all-gather or all-to-all copies elements unchanged. -/
def gatherStep (c : Coll) (st : CStep) (step : Nat) : Coll :=
  let d := c.d
  let me := coordsOf (cdNa d) (cdMe d)
  let ps := partsOf d st.after me
  let have_ := (axisPeers d st.axis me).flatMap fun p => (partElems d (sendParts d st p me)).zip (elsFrom c st step p)
  { c with data := (partElems d ps).map fun g =>
      ((have_.find? fun e => e.1 == g).map (·.2)).getD { code := none, scale := 0, syn := 0 } }

/-- The shards that elements of some parts make ready. -/
def readyShards (c : Coll) (axis : Option (Nat × Nat)) (ps : List (List Nat)) (els : List CEl) : List (Nat × List CEl) :=
  let d := c.d
  let me := coordsOf (cdNa d) (cdMe d)
  let gs := (partElems d ps).zip els
  (List.range (shardCount d)).filterMap fun j =>
    let hit : Bool := match axis with | some (a, i) => (shardCoords d me j).getD a 0 == i | none => true
    if hit then some (j, (gs.filter fun e => inParts d (shardParts d me j) e.1).map (·.2)) else none
/-- Have shards written and raised. -/
def addReady (s : State) (c : Coll) (l : List (Nat × List CEl)) : State × Coll :=
  let l := l.filter fun e => !c.shards.contains e.1 && !c.ready.any fun o => o.1 == e.1
  let c := { c with ready := c.ready ++ l }
  (l.foldl (fun s e => enqueue s (.event (.shardComplete c.uid e.1))) (setColl s c), c)
/-- The shards that the last gathering step has made ready so far. -/
def raiseNow (s : State) (c : Coll) (step : Nat) : State × Coll :=
  let d := c.d
  let na := cdNa d
  let me := coordsOf na (cdMe d)
  match (collSteps d)[step]? with
  | none => addReady s c (readyShards c none (partsOf d (lastMarks d) me) c.data)
  | some st =>
    if st.kind ≠ .gather ∨ step + 1 ≠ (collSteps d).length then (s, c)
    else
      (axisPeers d st.axis me).foldl (fun (x : State × Coll) p =>
        let n := partSize (sendParts d st p me)
        let els := elsFrom x.2 st step p
        let whole := p = me ∨ x.2.inns.any fun m => m.peer == rankOf na p && m.step == step && m.len == m.off
        if els.length = n ∧ whole then
          addReady x.1 x.2 (readyShards x.2 (some (st.axis, p.getD st.axis 0)) (sendParts d st p me) els)
        else x) (s, c)

/-! ## The unit's steps -/

/-- Enter a step: its messages go out, and what stands ready of the destination is raised. -/
def enterStep (s : State) (c : Coll) (step : Nat) : State :=
  let c := { c with phase := 2 + step, outs := c.outs ++ stepOuts c step, inns := [] }
  let (s, c) := raiseNow (setColl s c) c step
  kickColl s c

/-- Another member's descriptor, or another collective of the same name, differs where it must not (17 R426). -/
def collClash (s : State) (c : Coll) : Bool :=
  let common (d : Nat) : List Nat :=
    [rf d 64 5, cdRank d, cdAxes d, rf d 88 16, rf d 104 8, rf d 112 8]
  s.colls.any fun o => o.uid != c.uid && o.same c && o.status.isNone
    && (common o.d != common c.d || cdMe o.d == cdMe c.d || (decide (1 ≤ o.phase) && o.mems != c.mems))

/-- A member begins: its member table, its layouts, its receive rings, its source, and for an agreement its record held and its
own vector. -/
def beginColl (c : Coll) (s : State) : EngR State :=
  let d := c.d
  (collRead c (cdMembers d) (2 * cdCount d) s).bind fun s t =>
    let mems := (List.range (cdCount d)).map fun i => t / 2 ^ (16 * i) % 2 ^ 16
    let c := { c with mems }
    if mems.any fun m => decide (32768 ≤ m) then .stop s 1 fcReserved
    else if !layoutOk d (fmtBlock c.fmt) || collClash s c then .stop s 1 fcRange
    else
      let rings := ringCount d (cdMe d)
      (collRead c (cdRings d) (32 * rings) s).bind fun s t =>
        let bad := (List.range rings).any fun i =>
          !(rdescOf (t / 2 ^ (256 * i) % 2 ^ 256)).ok
        if bad then .stop s 1 fcRange
        else
          let w := fmtWidth c.sfmt
          let n := partSize (partsOf d (cdSrole d) (coordsOf (cdNa d) (cdMe d)))
          (collMove c (cdSrc d) ((n * w + 7) / 8) s).bind fun s x =>
            -- the scale bytes of a block source: no field of the descriptor names them (log 50)
            let (k, s) := draw s
            let els := takeEls w ((cdSrc d).toNat % 16) x.1 x.2 n fun b => if fmtBlock c.sfmt then (Config.freeByte k b).toNat else 0
            if !c.plain && els.any (fun e => e.syn != 0) then .bad s (.of false 7 (cdSrc d) 0)
            else
              (if cdCarry d ∧ cdAgree d = 1 then collRead c (cdResid d) (4 * n) s else .ok s 0).bind fun s resid =>
                let c := { c with data := els, phase := 1 }
                if cdAgree d = 0 then .ok s (kickColl (setColl s c) c)
                else
                  let s := holdRecord s c true
                  let r := match c.record with | some n => n.val | none => 0
                  let (s, p) := policyOf s c.job r
                  let vec := laneVectors (c.exponents r (p.getD 0) resid)
                  let folds : List CFold := if cdMe d = 0 then
                      vec.zipIdx.map fun e => { num := e.2, lanes := e.1, ver := BitVec.ofNat 4 c.ver, skew := false } else []
                  let c := { c with vec, folds }
                  .ok s (kickColl (setColl s c) c)

/-- The agreement is over: the record takes its new version, the source is converted, and the first step begins. -/
def convertColl (c : Coll) (s : State) : EngR State :=
  let d := c.d
  (if cdAgree d = 0 then .ok s c else applyAgreed c s).bind fun s c =>
    let n := c.data.length
    (if cdCarry d then collRead c (cdResid d) (4 * n) s else .ok s 0).bind fun s resid =>
      let (els, resid) := c.convert resid
      (if cdCarry d then collWrite c (cdResid d) (4 * n) resid none none s else .ok s ()).bind fun s _ =>
        let me := coordsOf (cdNa d) (cdMe d)
        -- the local slices
        let els := (((partElems d (partsOf d (cdSrole d) me)).zip els).filter fun e => inParts d (partsOf d (slicedMarks d) me) e.1).map (·.2)
        .ok s (enterStep (freeMissing s c) { c with data := els } 0)

/-- A member whose shards are all raised and whose messages have all gone is decided (R55, R57, R58). -/
def settleColl (s : State) (c : Coll) : State :=
  if shardCount c.d ≤ c.shards.length ∧ c.outs.isEmpty ∧ 2 + (collSteps c.d).length ≤ c.phase then
    endColl s c (if c.marked then 5 else 0) (if c.marked then 10 else 0)
  else s

/-- One step of a member; none where it waits. -/
def collStep (c : Coll) (s : State) : EngR (Option State) :=
  if c.phase = 0 then (beginColl c s).bind fun s t => .ok s (some t)
  else if c.phase = 1 then
    if cdAgree c.d ≠ 0 ∧ c.agreed.length < c.vec.length then
      match c.folds.findSome? fun f => if f.num < c.vec.length then passFold s c f else none with
      | some t => .ok s (some t)
      | none => .ok s none
    else if c.skew then .stop s 2 0
    else (convertColl c s).bind fun s t => .ok s (some t)
  else
    let step := c.phase - 2
    (sendOne c c.outs s).bind fun s r =>
      match r with
      | some t => .ok s (some (enqueue t (.coll c.uid)))
      | none =>
        (recvOne c step (stepIns c step) s).bind fun s r =>
          match r with
          | some t => .ok s (some (match findColl t c.uid with | some c => (raiseNow t c step).1 | none => t))
          | none =>
            match (collSteps c.d)[step]? with
            | none => .ok s (if c.outs.isEmpty && decide (shardCount c.d ≤ c.shards.length) then some (settleColl s c) else none)
            | some st =>
              if (stepIns c step).any fun e => !c.inns.any fun m => m.peer == e.1 && m.step == step && m.len == m.off then .ok s none
              else
                (if st.kind = .scatter then reduceStep c st step s else .ok s (gatherStep c st step)).bind fun s c =>
                  .ok s (some (enterStep s c (step + 1)))

/-- A collective unit works: the package runs, its die is not fenced, and the collective is neither decided nor paused. -/
def collUp (s : State) (c : Coll) : Bool :=
  s.running && !(getDie s c.die).fenced && c.status.isNone && c.paused.isNone

/-- A step of a collective (log 3). -/
def collWork (s : State) (uid : Nat) : State :=
  match findColl s uid with
  | none => s
  | some c =>
    if !collUp s c then s else
      match collStep c s with
      | .ok _ (some t) => t
      | .ok s none => s
      | .fault s _ _ _ => enqueue s (.event (.engineFault uid 8))
      | .stall s => s
      | .bad s b => collBad s c b
      | .stop s st fc => endColl s c st fc

/-! ## Shards and completion (02 R57) -/

/-- Write a shard and release its flag with its range. -/
def shardWrite (c : Coll) (j : Nat) (els : List CEl) (s : State) : EngR State :=
  let d := c.d
  let w := fmtWidth c.fmt
  let me := coordsOf (cdNa d) (cdMe d)
  let gs := ((partElems d (shardParts d me j)).zip els).filter fun g => inParts d c.final g.1
  let runs := posRuns (gs.map fun g => (posIn d c.final g.1, g.2))
  let stamp : Option (BitVec 4) := c.record.map fun _ => BitVec.ofNat 4 c.ver
  let scales := match c.record with | some n => recScales n.val | none => 0
  let one (s : EngR Unit) (r : Nat × List CEl) : EngR Unit :=
    s.bind fun s _ =>
      let va := cdDst d + BitVec.ofNat 64 (r.1 * w / 8)
      let syns := elSyns w (va.toNat % 16) r.2
      (collWrite c va ((r.2.length * w + 7) / 8) (packCodes w (elCodes r.2)) (if syns = 0 then none else some syns) stamp s).bind fun s _ =>
        if fmtBlock c.fmt then
          collWrite c (scales + BitVec.ofNat 64 (r.1 / 32)) (r.2.length / 32)
            (packCodes 8 ((blocks32 (r.2.length / 32) r.2).map fun b => match b.head? with | some e => e.scale | none => 0)) none none s
        else .ok s ()
  (runs.foldl one (.ok s ())).bind fun s _ =>
    let lo := match runs.head? with | some r => r.1 | none => 0
    let hi := match runs.getLast? with | some r => r.1 + r.2.length | none => 0
    let range := RelRange.range (cdDst d + BitVec.ofNat 64 (lo * w / 8)) (((hi - lo) * w + 7) / 8)
    (collSpans c true false (cdFlags d + BitVec.ofNat 64 (8 * j)) 8 s).bind fun s sps =>
      match sps with
      | [sp] => .ok s (devRelease s c.job sp (cdSeq d) range)
      | _ => .ok s s

/-- A shard's step: its write, its flag, and with the last, once every message has gone, the status (R55, R58). -/
def shardStep (c : Coll) (j : Nat) (s : State) : EngR State :=
  match c.ready.find? fun e => e.1 == j with
  | none => .ok s s
  | some e =>
    (shardWrite c j e.2 s).bind fun s t =>
      let c := { c with ready := c.ready.filter (fun e => e.1 != j), shards := c.shards ++ [j] }
      let t := setColl t c
      .ok s (settleColl t c)

/-- SHARD_COMPLETE (02 R57). -/
def execShardComplete (coll shard : Nat) (s : State) : Host.Outcome State Fault Refusal :=
  .next <|
    match findColl s coll with
    | none => s
    | some c =>
      if !collUp s c then s else
        match shardStep c shard s with
        | .ok _ t => t
        | .fault s _ _ _ => enqueue s (.event (.engineFault coll 8))
        | .stall s => s
        | .bad s b => collBad s c b
        | .stop s st fc => endColl s c st fc

/-- Leave a mark on a task, in its slot or saved. -/
def markTask (s : State) (slot : Nat) (m : OvfMark) : State :=
  let put (t : Saved) : Saved :=
    if 2 ^ 21 + t.uid = slot then { t with slot := { t.slot with marks := t.slot.marks ++ [m] } } else t
  if !isUnit slot then updSlot s slot fun x => { x with marks := x.marks ++ [m] }
  else mapSaved s put

/-- The completion record of a collective and its DONE word, unless it has been written or given up, then SYNC with the whole
destination's range (R57). -/
def collReport (c : Coll) (s : State) : EngR State :=
  let d := c.d
  let crec := pkCrec d
  let st := c.status.getD 0
  let bytes := if st = 0 ∨ st = 5 then c.bytes else 0
  let range := RelRange.range (cdDst d) (if checkColl d = none then c.bytes else 0)
  let rel (va : Word) (v : Nat) (s : State) : EngR Unit :=
    (collSpans c true false va 8 s).bind fun s sps =>
      match sps with
      | [sp] => .ok (devRelease s c.job sp v range) ()
      | _ => .ok s ()
  (if crec = 0 ∨ crec.toNat % 32 ≠ 0 ∨ c.ended then .ok s ()
   else (collWrite c crec 24 (recordBytes st c.fcode 10 c.ver (pkTag d) bytes c.sats) none none s).bind fun s _ =>
     rel (crec + 24) (2 ^ 63 + pkTag d) s).bind fun s _ =>
   (if (cdSync d).toNat % 8 ≠ 0 then .ok s () else rel (cdSync d) (cdSeq d) s).bind fun s _ => .ok s s

/-- A member has ended: the hold of its record ends, an overflow is left for the ACQ of SYNC (R55, R464), a queue's request is
answered (13 R475), and what waited goes on. -/
def retireColl (s : State) (c : Coll) : State :=
  let d := c.d
  let s := if cdAgree d ≠ 0 ∧ 1 ≤ c.phase then holdRecord s c false else s
  let s := if c.status = some 5 ∧ c.queue.isNone then
      markTask s c.slot { path := .coll, done := cdSync d, bank := none, ctx := none, low := 0, obs := .K, record := c.addr,
                          seq := BitVec.ofNat 64 (cdSeq d) } else s
  let s := match c.queue with
    | some q => queueDone s c.job q (queueRecord 0 c.fcode 10 c.ver (pkTag d) (if c.status = some 0 ∨ c.status = some 5 then c.bytes else 0)
        c.sats (c.status.getD 0))
    | none => s
  let s := { s with colls := s.colls.filter fun (o : Coll) => o.uid != c.uid }
  if isUnit c.slot then s else checkEnd s c.slot

/-- A member whose completion record cannot be written goes on to release SYNC; one whose SYNC cannot be released ends (R57; log 56). -/
def giveUp (s : State) (c : Coll) : State :=
  if c.ended then retireColl s c
  else enqueue (setColl s { c with ended := true, paused := none }) (.event (.collectiveComplete c.uid))

/-- COLLECTIVE_COMPLETE (02 R57, R58). -/
def execCollectiveComplete (coll : Nat) (s : State) : Host.Outcome State Fault Refusal :=
  .next <|
    match findColl s coll with
    | none => s
    | some c =>
      if !s.running || (getDie s c.die).fenced || c.status.isNone || c.paused.isSome then s else
        match collReport c s with
        | .ok _ t => retireColl t c
        | .fault s _ _ _ => enqueue s (.event (.engineFault coll 8))
        | .stall s => s
        | .bad s _ => giveUp s c
        | .stop s _ _ => giveUp s c

/-- A member still expects a slot, a notice or an SMAXRES (02 R55). -/
def Coll.expects (c : Coll) : Bool := decide (c.phase < 2 + (collSteps c.d).length) || !c.outs.isEmpty
/-- COLLECTIVE_TIMEOUT: something expected has not arrived within the descriptor's timeout (02 R55): every member of this package that is
not decided ends; a far member comes to its own timeout. -/
def execCollectiveTimeout (coll : Nat) (s : State) : Host.Outcome State Fault Refusal :=
  .next <|
    match findColl s coll with
    | none => s
    | some c =>
      if collUp s c && decide (c.at_ + cdTmo c.d ≤ s.time) && c.expects then
        (s.colls.filter fun o => o.same c && o.status.isNone).foldl (fun s o => endColl s o 3 0) s
      else s

/-- The fault that stands in a collective's way now. -/
def collFault (s : State) (c : Coll) : Option (State × Kind × Word × Bool) :=
  let r : EngR State :=
    if c.status.isSome then collReport c s
    else
      match (c.ready.map fun e => shardStep c e.1 s).find? fun r => match r with | .fault _ _ _ _ => true | _ => false with
      | some r => r
      | none => (collStep c s).bind fun s _ => .ok s s
  match r with
  | .fault s k va wr => some (s, k, va, wr)
  | _ => none
/-- ENGINE_FAULT of a collective unit: the collective pauses, and the event is posted (04 R105). -/
def pauseColl (s : State) (uid : Nat) : State :=
  match findColl s uid with
  | none => s
  | some c =>
    if c.paused.isSome || (getDie s c.die).fenced then s else
      match collFault s c with
      | some (s, k, va, wr) =>
        let s := match findColl s uid with
          | some c => setColl s { c with paused := some (k, va, wr) }
          | none => s
        postEngineFault s c.job c.source 8 (pkTag c.d) k va wr
      | none => s

/-! ## COLL (17 R426) -/

/-- A collective as accepted, before its record is resolved. -/
def newColl (uid slot job core : Nat) (addr : Word) (d : Nat) (queue : Option Word) (time : Nat) (st : Option Nat) (fc : Nat) : Coll :=
  { uid, slot, job, core, addr, desc := BitVec.ofNat 2048 d, queue, at_ := time, fmt := fmtOf (cdFmt d), scale := 0, ver := 0,
    sfmt := fmtOf (cdSfmt d), sscale := 0, record := none, phase := 0, mems := [], vec := [], folds := [], agreed := [],
    data := [], outs := [], inns := [], ready := [], shards := [], sats := 0, marked := false, skew := false, status := st,
    fcode := fc, paused := none, ended := false }

/-- What resolving a collective's record answers. -/
inductive CollRes where
  | ok (s : State) (c : Coll)
  | wait (s : State)
  | trap (s : State) (t : Trap)
  | bad (s : State) (c : Coll) (b : Bad)
  deriving DecidableEq, Repr

/-- Accept a descriptor: its checks, then its formats through its record (10 R268, R276; 20 R463). A failed check completes with
LAYOUT, and for a queue's request an uncorrectable error in its record completes with CHECK_FAIL (11 R284). -/
def acceptColl (s : State) (ctx : TCtx) (ovr : Word) (slot job core : Nat) (addr : Word) (d : Nat) (queue : Option Word) : CollRes :=
  let (uid, s) := takeUid s
  let mk : Option Nat → Nat → Coll := newColl uid slot job core addr d queue s.time
  match checkColl d with
  | some fc => .ok s (mk (some 1) fc)
  | none =>
    let c := mk none 0
    if cdTrec d = 0 then .ok s c
    else
      match translate s ctx (cdTrec d) 256 { r := true } with
      | (s, .fault k a) => .trap s { cause := 4, kind := k, addr := a }
      | (s, .stall) => .wait s
      | (s, .ok sps) =>
        match sps with
        | [sp] =>
          (match readRecord s 7 slot sp with
           | .error b => .bad s (mk (some 4) 0) b
           | .ok (s, r) =>
             match resolveRecord s job (if cdFmt d = 14 then ovr else 0) (cdTrec d) sp r with
             | .held => .wait s
             | .skew => .trap s (skewTrap (cdTrec d))
             | .bad => .ok s (mk (some 1) 8)
             | .ok s r v =>
               .ok s { c with
                 fmt := if cdFmt d = 14 then fmtOf v.2.1 else fmtOf (cdFmt d), scale := v.2.2, ver := v.1
                 sfmt := if cdSfmt d = 14 then fmtOf v.2.1 else fmtOf (cdSfmt d), sscale := if cdSfmt d = 14 then v.2.2 else 0
                 record := some { va := cdTrec d, span := sp, val := r } })
        | _ => .ok s (mk (some 1) fcAlign)
/-- A collective joins the unit. -/
def addColl (s : State) (c : Coll) : State :=
  let s := { s with colls := s.colls ++ [c] }
  enqueue s (if c.status.isSome then .event (.collectiveComplete c.uid) else .coll c.uid)

/-- COLL's effect: at most four outstanding, accepted, an escape. -/
def collEff (f : Opnd) (s : State) (t : Thread) : Res :=
  let room (s : State) : Bool := decide ((s.colls.filter fun c => c.slot == t.slot).length < 4)
  readPacket 256 64 room f s t fun s va d =>
    match acceptColl s (slotCtx s t.slot t.seq) (getSlot s t.slot).fmtovr t.slot (slotJob s t.slot) (coreOf t.slot) va d none with
    | .wait s => .wait s false
    | .trap s tr => .trap s tr
    | .bad s _ b => .bad s { b with src := seqNum t.seq }
    | .ok s c =>
      match if isSup s t then .ok s else escape s t.slot s.nextUid escColl with
      | .error b => .bad s b
      | .ok s => .done (addColl s c)
/-- COLL. -/
def execColl (n : Nib) (f : Opnd) (s : State) : Host.Outcome State Fault Refusal :=
  issueWord (.coll n f) n none { scalars := [f] } (collEff f) s

/-! ## What waits looks again -/

/-- The engines, streamers and collective units of a job look again at what they wait for. -/
def kickJob (s : State) (job : Nat) : State :=
  let s := ((s.slots.map (·.1)).filter fun k => slotJob s k == job).foldl kickSlot s
  let s := (s.subs.filter fun b => b.job == job).foldl (fun s b =>
    enqueue s (.event (if b.status.isSome then .streamComplete b.uid else .streamTile b.uid))) s
  (s.colls.filter fun c => c.job == job).foldl (fun s c =>
    if c.status.isSome then enqueue s (.event (.collectiveComplete c.uid))
    else c.ready.foldl (fun s e => enqueue s (.event (.shardComplete c.uid e.1))) (enqueue s (.coll c.uid))) s

/-- Every job's engines look again: a walk slot is free, a region's flip has ended, or another device has answered. -/
def kickAll (s : State) : State := (((s.slots.map fun e => slotJob s e.1) ++ s.subs.map (·.job) ++ s.colls.map (·.job)).eraseDups).foldl kickJob s

end Sys2Proof.Machine
end

