-- ==== Sys2Proof/Machine/Control.lean ====
section
/-! DEFINITION. Class 0x00, control words (14 R339-R347, 07 R182, 11 R297, R298). -/

namespace Sys2Proof.Machine

/-- The PC of a thread. -/
def pcOf (s : State) (t : Thread) : Word := (getSeq s t).pc

/-- A conditional transfer relative to the branch word (14 R339). -/
def branchEff (taken : State → Thread → Bool) (off : Word) (s : State) (t : Thread) : Res :=
  if taken s t then .jump s (pcOf s t + off) else .done s

/-- A comparison of two sources (14 R339). -/
def cmp2 (a b : Opnd) (f : Word → Word → Bool) (s : State) (t : Thread) : Bool := f (srcVal s t a) (srcVal s t b)

/-- NOP: no effect but its nibble (14 R345). -/
def execNop (n : Nib) (s : State) : Host.Outcome State Fault Refusal :=
  issueWord (.nop n) n none {} (fun s _ => .done s) s

/-- BR (14 R339). -/
def execBr (n : Nib) (off : BitVec 20) (s : State) : Host.Outcome State Fault Refusal :=
  issueWord (.br n off) n none {} (branchEff (fun _ _ => true) (wordOff off)) s
/-- BEQ (14 R339). -/
def execBeq (n : Nib) (a b : Opnd) (off : BitVec 8) (s : State) : Host.Outcome State Fault Refusal :=
  issueWord (.beq n a b off) n none { scalars := [a, b] } (branchEff (cmp2 a b fun x y => x == y) (wordOff off)) s
/-- BNE (14 R339). -/
def execBne (n : Nib) (a b : Opnd) (off : BitVec 8) (s : State) : Host.Outcome State Fault Refusal :=
  issueWord (.bne n a b off) n none { scalars := [a, b] } (branchEff (cmp2 a b fun x y => x != y) (wordOff off)) s
/-- BLT (14 R339). -/
def execBlt (n : Nib) (a b : Opnd) (off : BitVec 8) (s : State) : Host.Outcome State Fault Refusal :=
  issueWord (.blt n a b off) n none { scalars := [a, b] } (branchEff (cmp2 a b fun x y => x.slt y) (wordOff off)) s
/-- BGE (14 R339). -/
def execBge (n : Nib) (a b : Opnd) (off : BitVec 8) (s : State) : Host.Outcome State Fault Refusal :=
  issueWord (.bge n a b off) n none { scalars := [a, b] } (branchEff (cmp2 a b fun x y => !x.slt y) (wordOff off)) s
/-- BLTU (14 R339). -/
def execBltu (n : Nib) (a b : Opnd) (off : BitVec 8) (s : State) : Host.Outcome State Fault Refusal :=
  issueWord (.bltu n a b off) n none { scalars := [a, b] } (branchEff (cmp2 a b fun x y => x.ult y) (wordOff off)) s
/-- BGEU (14 R339). -/
def execBgeu (n : Nib) (a b : Opnd) (off : BitVec 8) (s : State) : Host.Outcome State Fault Refusal :=
  issueWord (.bgeu n a b off) n none { scalars := [a, b] } (branchEff (cmp2 a b fun x y => !x.ult y) (wordOff off)) s
/-- BZ (14 R339). -/
def execBz (n : Nib) (a : Opnd) (off : BitVec 14) (s : State) : Host.Outcome State Fault Refusal :=
  issueWord (.bz n a off) n none { scalars := [a] } (branchEff (fun s t => srcVal s t a == 0) (wordOff off)) s
/-- BNZ (14 R339). -/
def execBnz (n : Nib) (a : Opnd) (off : BitVec 14) (s : State) : Host.Outcome State Fault Refusal :=
  issueWord (.bnz n a off) n none { scalars := [a] } (branchEff (fun s t => srcVal s t a != 0) (wordOff off)) s

/-- Push the return address PC + 4 and transfer (14 R339). -/
def callEff (target : State → Thread → Word) (s : State) (t : Thread) : Res :=
  .jump (putResult s t .push (pcOf s t + 4)) (target s t)
/-- CALL (14 R339). -/
def execCall (n : Nib) (off : BitVec 20) (s : State) : Host.Outcome State Fault Refusal :=
  issueWord (.call n off) n (some (.scalar .push)) {} (callEff fun s t => pcOf s t + wordOff off) s
/-- CALLI (14 R339). -/
def execCalli (n : Nib) (a : Opnd) (off : BitVec 14) (s : State) : Host.Outcome State Fault Refusal :=
  issueWord (.calli n a off) n (some (.scalar .push)) { scalars := [a] }
    (callEff fun s t => srcVal s t a + wordOff off) s
/-- RET (14 R339). -/
def execRet (n : Nib) (a : Opnd) (s : State) : Host.Outcome State Fault Refusal :=
  issueWord (.ret n a) n none { scalars := [a] } (fun s t => .jump s (srcVal s t a)) s
/-- JMPI (14 R339). -/
def execJmpi (n : Nib) (a : Opnd) (off : BitVec 14) (s : State) : Host.Outcome State Fault Refusal :=
  issueWord (.jmpi n a off) n none { scalars := [a] } (fun s t => .jump s (srcVal s t a + wordOff off)) s

/-- LOOP's update of its sequencer, and whether it is taken (07 R182). It ends the predication (14 R343). -/
def loopStep (q : SeqSt) : SeqSt × Bool :=
  let n0 : BitVec 8 := if q.lc = 0 then 0 else 1
  ({ q with
      lc := if q.lc = 0 then 0 else q.lc - 1
      ec := if q.lc = 0 ∧ q.ec ≠ 0 then q.ec - 1 else q.ec
      stg := (q.stg <<< 1) ||| n0
      rrb := q.rrb - 1
      predOn := false }, q.lc != 0 || q.ec != 0)
/-- LOOP (14 R343). -/
def execLoop (n : Nib) (off : BitVec 20) (s : State) : Host.Outcome State Fault Refusal :=
  issueWord (.loop n off) n none {}
    (fun s t =>
      let r := loopStep (getSeq s t)
      let s := setSeq s t r.1
      if r.2 then .jump s (pcOf s t + wordOff off) else .done s) s

/-- SETLC (14 R342). -/
def execSetlc (n : Nib) (a b : Opnd) (s : State) : Host.Outcome State Fault Refusal :=
  issueWord (.setlc n a b) n none { scalars := [a, b] }
    (fun s t => .done (updSeq s t fun q => { q with lc := srcVal s t a, ec := srcVal s t b, stg := 1 })) s

/-- STAGE (14 R344). -/
def execStage (k : BitVec 3) (s : State) : Host.Outcome State Fault Refusal :=
  issueWord (.stage k) .none none {} (fun s t => .done (updSeq s t fun q => { q with predOn := true, predN := k })) s

/-- The counters of an open segment agree with what SEG gave (11 R298). -/
def segAgrees (q : SeqSt) : Bool := q.segCnt == q.segExp && q.segSig == q.segXsig

/-- Close a thread's segment at a closing word (11 R298): a mismatch is an uncorrectable error of cause 4, with the
counters left and the segment closed, so that the closing word completes when it is run again; otherwise `k`. -/
def closeSeg (s : State) (t : Thread) (k : State → Res) : Res :=
  let q := getSeq s t
  let s := updSeq s t fun q => { q with segOpen := false }
  if q.segOpen && !segAgrees q then .bad s { cause := 4, src := seqNum t.seq, addr := 0 } else k s

/-- TEND's effect (14 R346, 11 R292, R298, 10 R274). TEND counts in the segment it closes (11 R297). -/
def tendEff (n : Nib) (s : State) (t : Thread) : Res :=
  if t.seq = .K ∧ (getSlot s t.slot).regionOpen then .trap s { cause := 10 }
  else
    let r := closeSeg (updSeq s t fun q => segCount q (wordsOf (.tend n))) t fun s =>
      .done (checkEnd (updSeq s t fun q => { q with tend := true }) t.slot)
    observe s t .tend r
/-- TEND (14 R346). -/
def execTend (n : Nib) (s : State) : Host.Outcome State Fault Refusal :=
  issueWord (.tend n) n none {} (tendEff n) s

/-- YIELD: the slot is then pre-empted (14 R347). In supervisor mode a slot is never pre-empted (05 R145). -/
def execYield (n : Nib) (s : State) : Host.Outcome State Fault Refusal :=
  issueWord (.yield n) n none {}
    (fun s t =>
      let x := getSlot s t.slot
      if x.supMode then .done s
      else if x.regionOpen then .trap s { cause := 10 }
      else .done { s with agenda := ⟨0, .preempt t.slot (((getSlot s t.slot).task.map (·.taskid)).getD 0) 1⟩ :: s.agenda }) s

/-- SEG (11 R297, 18 R445). -/
def execSeg (n : Nib) (cost : BitVec 20) (sig : BitVec 32) (s : State) : Host.Outcome State Fault Refusal :=
  issueWord (.seg n cost sig) n none {}
    (fun s t => closeSeg s t fun s => .done (updSeq s t fun q =>
      { q with segOpen := true, segExp := cost, segXsig := sig, segCnt := 0, segSig := 0 })) s
/-- SEGEND (11 R298, 18 R445). -/
def execSegend (n : Nib) (s : State) : Host.Outcome State Fault Refusal :=
  issueWord (.segend n) n none {} (fun s t => closeSeg s t fun s => .done s) s

end Sys2Proof.Machine
end

