-- ==== Sys2Proof/Machine/Fabric.lean ====
section
/-! DEFINITION. The device links: what arrives, the home check, ring notices, scale agreement, lost ports and devices (02
R34-R48, R61). -/

namespace Sys2Proof.Machine

/-! ## Arrival (02 R37, R40) -/

/-- A flit with a reserved field that is not zero; a CWR that names no line count (R36, R37, R39). -/
def flitBad (f : Flit) : Bool :=
  f.rsvd != 0 || f.kind == 0 || 0x12#6 < f.kind || (f.kind == 0x11 && (f.gmask.extractLsb' 0 2 == 0#2 || f.gmask.extractLsb' 2 6 != 0#6))
/-- A dropped flit: the port counts it and LINK_PROTOCOL is posted (R37). -/
def dropFlit (s : State) (port : Nat) : State :=
  let p := kvGet Port.up s.ports port
  postSup { s with ports := kvSet .up s.ports port { p with errs := p.errs + 1 } } (unitEvent s 0x08 (16 + port) 0 0 port)
/-- The lines of a CWR, none where its block does not decompress to the stated count (R39). -/
def cwrLines (f : Flit) : Option (List (BitVec 512)) :=
  let n := f.gmask.toNat % 4 + 1
  (Config.decompress n (f.data.extractLsb' 128 880)).filter fun l => l.length == n
/-- A flit has come from a device through a port: the device is reachable, and unless the flit has to be retried, the failed retries of
the port's flit end (R35, R39, R61). -/
def heardFrom (s : State) (port : Nat) (f : Flit) : State :=
  let p := kvGet Port.up s.ports port
  let again := f.kind == 0x11 && (cwrLines f).isNone
  { s with heard := kvInsert f.src.toNat s.time s.heard
           ports := if again then s.ports else kvSet .up s.ports port { p with retries := 0 } }
/-- The first flit of a kind that may be taken: none of its flow stands before it, but an SMAX that waits for its vector holds
no other (R40, R47). The queue before it, the port, the flit, the queue behind it. -/
def takeFlit (kind : BitVec 6) (ok : Flit → Bool) :
    List (Nat × Flit) → List (Nat × Flit) → Option (List (Nat × Flit) × Nat × Flit × List (Nat × Flit))
  | _, [] => none
  | before, e :: t =>
    let free := !before.any fun o => o.2.src == e.2.src && o.2.cls == e.2.cls && o.2.kind != 0x0A
    if e.2.kind = kind ∧ free ∧ ok e.2 then some (before, e.1, e.2, t) else takeFlit kind ok (before ++ [e]) t
/-- A flit row: the flit is taken from the receive queue and has its effect. -/
def onFlit (kind : BitVec 6) (ok : Flit → Bool) (k : State → Nat → Flit → State) (s : State) : Host.Outcome State Fault Refusal :=
  .next <|
    if !s.running then s else
      match takeFlit kind ok [] s.rx with
      | none => s
      | some (a, port, f, b) =>
        let s := { s with rx := a ++ b }
        if flitBad f then dropFlit s port else k (heardFrom s port f) port f
/-- Any flit of the kind may be taken. -/
def anyFlit (_ : Flit) : Bool := true

/-- INVALID_FLIT (R37). -/
def execInvalidFlit (port : Nat) (f : Flit) (s : State) : Host.Outcome State Fault Refusal :=
  .next (if s.running && flitBad f && decide (port < 18) then dropFlit s port else s)
/-- LINK_RETRY (R35): a failed retry of the port's flit; the eighth in a row takes the port down next. -/
def execLinkRetry (port : Nat) (s : State) : Host.Outcome State Fault Refusal :=
  .next <|
    let p := kvGet Port.up s.ports port
    if s.running && decide (port < 18) && decide (p.retries < 8) then
      let s := { s with ports := kvSet .up s.ports port { p with retries := p.retries + 1 } }
      if p.retries = 7 then enqueue s (.event (.portDown port)) else s
    else s
/-- PORT_DOWN: eight consecutive failed retries (R35). -/
def execPortDown (port : Nat) (s : State) : Host.Outcome State Fault Refusal :=
  .next <|
    let p := kvGet Port.up s.ports port
    if s.running && decide (8 ≤ p.retries) then unhold { s with ports := kvSet .up s.ports port { p with down := true } } else s

/-! ## The home check and the answers (02 R41) -/

/-- An answer to a request: class 1, its TAG echoed. -/
def answerFlit (s : State) (f : Flit) (kind : BitVec 6) (reject : Bool) : Flit :=
  { kind, cls := 1, dst := f.src, src := s.devId, jobtag := f.jobtag, tag := f.tag, hops := 0, addr := f.addr, gmask := 0,
    meta0 := 0, meta1 := 0, rsvd := 0, codes := 0, data := 0, reject }
/-- What a window permits a kind (log 28). -/
def Window.permits (w : Window) (kind : BitVec 6) : Bool :=
  if kind = 3 then w.r else if kind = 5 then w.a else if kind = 8 ∨ kind = 9 then w.n else w.w
/-- The home accepts n bytes at a physical address. -/
def windowOk (s : State) (f : Flit) (n : Nat) : Bool :=
  let pa := f.addr.toNat * 128
  (locate pa).isSome && s.windows.any fun w =>
    decide (w.2.base.toNat ≤ pa) && decide (pa + n ≤ w.2.base.toNat + w.2.size) && w.2.tag == f.jobtag && w.2.permits f.kind
/-- The kind of the answer to a request. -/
def answerKind (kind : BitVec 6) : BitVec 6 := if kind = 3 then 4 else if kind = 5 then 6 else 2
/-- The live or killing job of a fabric tag. -/
def getJobOfTag (s : State) (tag : BitVec 12) : Option Nat :=
  (s.jobs.find? fun e => (e.2.state == 2 || e.2.state == 3) && e.2.jobtag == tag).map (·.1)
/-- The job of a fabric tag. -/
def tagJob (s : State) (tag : BitVec 12) : Option Nat :=
  (s.jobs.find? fun e => e.2.state == 2 && e.2.jobtag == tag).map (·.1)
/-- A request past the home check; one that fails it is dropped, answered REJECT and reported. -/
def atHome (n : Nat) (k : State → Flit → State) (s : State) (f : Flit) : State :=
  if windowOk s f n then k s f
  else
    postSup (sendFlit s (answerFlit s f (answerKind f.kind) true))
      (unitEvent s 0x09 1 ((tagJob s f.jobtag).getD 0) (f.addr.setWidth 64 <<< 7) f.src.toNat)

/-! ## Data at the home (02 R35, R38, R39, R42) -/

/-- The bits of a line that its granules of a mask fill. -/
def granMask (m : Nat) : BitVec 512 :=
  BitVec.ofNat 512 (((List.range 4).map fun g => if m.testBit g then (2 ^ 128 - 1) * 2 ^ (128 * g) else 0).foldl (· + ·) 0)
/-- The clean copies of a line that the device's caches hold go as another device writes it, so that a consumer of a remote ring that has seen
the notice reads no slot's old contents (R44; log 110). -/
def dropStale (s : State) (line : Nat) : State :=
  (s.clines.filter fun e => e.1 % 2 ^ 64 == line).foldl (fun s e =>
    let c := getView s (e.1 / 2 ^ 64) line
    setView s (e.1 / 2 ^ 64) line { c with gr := c.gr.map fun x => x.filter fun y => y.dirty.isSome }) s
/-- Write granules of a line with the codes they came with; a whole line takes the metadata it came with, part of one only a
version (R38, 11 R282). -/
def putFlitLine (s : State) (pa : Nat) (m : Nat) (data : BitVec 512) (codes : Nat) (md : BitVec 6) : State :=
  match locate pa with
  | none => s
  | some (loc, area) =>
    let line := loc / 64
    let md8 : Byte := md.setWidth 8 <<< 2
    let fresh := ((List.range 4).map fun g => (granuleCode (granBits data g)).toNat * 2 ^ (16 * g)).foldl (· + ·) 0
    let p : LinePut := { mask := granMask m, data, syns := some (BitVec.ofNat 64 codes ^^^ BitVec.ofNat 64 fresh),
                         stamp := if md.getLsbD 0 then some (md.extractLsb' 2 4) else none }
    if m = 0 then s else
      let s := ((List.range 4).filter fun g => m.testBit g).foldl (fun s g => clearRanges s (64 * line + 16 * g) 16) s
      match putLine s .home area false line p with
      | none => s
      | some (s, _) => dropStale (if m = 15 then putHomeMeta s line md8 else s) line
/-- Write the lines of a data field from an address on: granule masks, codes, metadata. -/
def putFlitLines (s : State) (pa : Nat) (l : List (Nat × BitVec 512 × Nat × BitVec 6)) : State :=
  l.zipIdx.foldl (fun s e => putFlitLine s (pa + 64 * e.2) e.1.1 e.1.2.1 e.1.2.2.1 e.1.2.2.2) s
/-- Acknowledge a performed write. -/
def ackWrite (s : State) (f : Flit) : State := sendFlit s (answerFlit s f 2 false)

/-- WR performed (R42). -/
def wrHome (s : State) (f : Flit) : State :=
  ackWrite (putFlitLines s (f.addr.toNat * 128)
    [(f.gmask.toNat % 16, f.data.extractLsb' 0 512, f.codes.toNat % 2 ^ 64, f.meta0),
     (f.gmask.toNat / 16, f.data.extractLsb' 512 512, f.codes.toNat / 2 ^ 64, f.meta1)]) f
/-- WR (R42). -/
def execWr (s : State) : Host.Outcome State Fault Refusal := onFlit 1 anyFlit (fun s _ f => atHome 128 wrHome s f) s

/-- CWR performed: the block decompressed, each granule with its own code (R39). -/
def cwrHome (lines : List (BitVec 512)) (s : State) (f : Flit) : State :=
  let d := f.data.toNat
  let code (i : Nat) : Nat := (if i < 2 then f.codes.toNat / 2 ^ (64 * i) else d / 2 ^ (64 * (i - 2))) % 2 ^ 64
  let md (i : Nat) : BitVec 6 := if i = 0 then f.meta0 else if i = 1 then f.meta1 else BitVec.ofNat 6 (rf d (124 + i) 1)
  ackWrite (putFlitLines s (f.addr.toNat * 128) (lines.zipIdx.map fun e => (15, e.1, code e.2, md e.2))) f
/-- CWR (R39): a block that does not decompress is a link CRC failure, retried. -/
def execCwr (s : State) : Host.Outcome State Fault Refusal :=
  onFlit 0x11 anyFlit (fun s port f =>
    match cwrLines f with
    | some lines => atHome (64 * lines.length) (cwrHome lines) s f
    | none => enqueue { s with rx := (port, f) :: s.rx } (.event (.linkRetry port))) s

/-- A posted write of a TAG has been acknowledged by a device. -/
def ackedWr (l : List OutWr) (dst tag : BitVec 12) : List OutWr :=
  match l.find? fun w => w.dst == dst && w.tag == tag with
  | some w => l.erase w
  | none => l
/-- The word of a slot that awaits the answer of a device to a TAG. -/
def farWord (s : State) (src tag : BitVec 12) : Option (Nat × Seq × Outst) :=
  let waits (o : Outst) : Bool :=
    !o.done && match o.work with
      | .far sp t _ => t == tag && (farAddr s sp.loc).any fun d => d.1 == src
      | .relw sp t => t == tag && (farAddr s sp.loc).any fun d => d.1 == src
      | _ => false
  s.slots.findSome? fun e => [Seq.K, .L, .C, .S].findSome? fun q =>
    ((e.2.issued q).find? fun o => waits o.2).map fun o => (e.1, q, o.2)
/-- A word's home on another device has answered: the word is complete, with its value and its acquire; without a value it has consumed
poison (08 R210, 11 R284, 02 R34). -/
def farAnswer (s : State) (slot : Nat) (q : Seq) (o : Outst) (v : Option Nat) : State :=
  match o.work, v with
  | .far sp _ _, none =>
    let s := updSlot s slot fun x => settle (dropIssued x q o.tag)
    wordError s ⟨slot, q⟩ o.pc o.tag (.of true 6 sp.va (sp.loc / 16))
  | .far sp _ ord, some v =>
    let s := updSlot s slot fun x => settle (markDone (x.onBanks q fun r => deliver r o.tag (BitVec.ofNat 64 v)) q o.tag)
    checkEnd (if ordAcquires ord then acquireStep s slot sp else s) slot
  | _, _ => checkEnd (updSlot s slot fun x => settle (markDone x q o.tag)) slot
/-- An acknowledgement: the posted write is outstanding no more, or the release that awaited it is complete (R42, R43); what waited for it goes
on. -/
def ackFar (s : State) (f : Flit) : State :=
  if s.outWrs.any fun w => w.dst == f.src && w.tag == f.tag then
    unhold { s with outWrs := ackedWr s.outWrs f.src f.tag }
  else
    match farWord s f.src f.tag with
    | some (slot, q, o) => unhold (farAnswer s slot q o (if f.reject then none else some 0))
    | none => s
/-- WRACK: a home has performed a write, or has refused it: the collective whose write it was ends FABRIC_REJECT (R42, R43, R58). -/
def execWrack (s : State) : Host.Outcome State Fault Refusal :=
  onFlit 2 anyFlit (fun s _ f =>
    let s := ackFar s f
    let s := if (getJobOfTag s f.jobtag).any fun j => (getJob s j).state == 3 then
      (getJobOfTag s f.jobtag).elim s fun j => enqueue s (.event (.killDone j)) else s
    if !f.reject then s else
      (s.colls.filter fun c => c.uid % 4096 == f.tag.toNat && (getJob s c.job).jobtag == f.jobtag && c.mems.any fun m => m % 4096 == f.src.toNat).foldl
        (fun s c => endColl s c 6 0) s) s

/-- RD performed: 128 bytes with codes and metadata as stored (R37). -/
def rdHome (s : State) (f : Flit) : State :=
  match locate (f.addr.toNat * 128) with
  | none => s
  | some (loc, _) =>
    let g (i : Nat) : CGran := homeGran s (loc / 64 + i / 4) (i % 4)
    let sum (h : Nat → Nat) (w : Nat) : Nat := ((List.range 8).map fun i => h i * 2 ^ (w * i)).foldl (· + ·) 0
    sendFlit s { answerFlit s f 4 false with
      data := BitVec.ofNat 1024 (sum (fun i => (g i).data.toNat) 128)
      codes := BitVec.ofNat 128 (sum (fun i => ((g i).syn ^^^ granuleCode (g i).data).toNat) 16)
      meta0 := (homeMeta s (loc / 64)).extractLsb' 2 6
      meta1 := (homeMeta s (loc / 64 + 1)).extractLsb' 2 6 }
/-- RD (R37). -/
def execRd (s : State) : Host.Outcome State Fault Refusal := onFlit 3 anyFlit (fun s _ f => atHome 128 rdHome s f) s
/-- The metadata of a line of a flit. -/
def flitMeta (f : Flit) (i : Nat) : Byte := (if i = 0 then f.meta0 else f.meta1).setWidth 8 <<< 2
/-- The 8 bytes at an offset of the 128 bytes that an RDRESP brings; none where their granule's code does not match or their line is
poisoned (11 R284). -/
def flitWord (f : Flit) (off : Nat) : Option Nat :=
  let g := off / 16
  let d := f.data.extractLsb' (128 * g) 128
  if f.reject || poisoned (flitMeta f (off / 64)) || f.codes.extractLsb' (16 * g) 16 != granuleCode d then none
  else some (d.toNat / 2 ^ (8 * (off % 16)) % 2 ^ 64)
/-- RDRESP's change: the lines that a core asked for come into its L1, poisoned where the home refused the read, and what waited for them goes
on; or an acquire has its value (R37, R41, R42, 08 R208; log 16). -/
def takeRead (s : State) (f : Flit) : State :=
  match s.farReads.find? fun r => r.tag == f.tag && r.dst == f.src with
  | some r =>
    let s := { s with farReads := s.farReads.erase r }
    let put (s : State) (i : Nat) : State :=
      if f.reject then fillFar s r.core (r.line + i) 0 (granuleCode 0#128 |>.toNat |> (· * (1 + 2 ^ 16 + 2 ^ 32 + 2 ^ 48))) 8
      else fillFar s r.core (r.line + i) (f.data.extractLsb' (512 * i) 512) (f.codes.toNat / 2 ^ (64 * i)) (flitMeta f i)
    kickAll (unhold (put (put s 0) 1))
  | none =>
    match farWord s f.src f.tag with
    | some (slot, q, o) =>
      farAnswer s slot q o (match o.work with | .far sp _ _ => flitWord f (sp.loc % 128) | _ => none)
    | none => s
/-- RDRESP (R37). -/
def execRdresp (s : State) : Host.Outcome State Fault Refusal := onFlit 4 anyFlit (fun s _ f => takeRead s f) s
/-- ATOMRESP (R37): a reduction is acknowledged, or an atomic has its old value, which it consumes. -/
def execAtomresp (s : State) : Host.Outcome State Fault Refusal :=
  onFlit 6 anyFlit (fun s _ f =>
    if s.outWrs.any fun w => w.dst == f.src && w.tag == f.tag then ackFar s f
    else
      match farWord s f.src f.tag with
      | some (slot, q, o) =>
        farAnswer s slot q o (if f.reject || f.codes.extractLsb' 0 16 != granuleCode (f.data.extractLsb' 0 128) then none
          else some (f.data.toNat % 2 ^ 64))
      | none => s) s

/-! ## Words at the home -/

/-- The byte offset in a flit's 128 bytes (log 25). -/
def flitOff (f : Flit) : Nat := (f.data.extractLsb' 128 7).toNat
/-- The span of a word that a flit names. -/
def flitSpan (f : Flit) (n : Nat) : Option Span :=
  match locate (f.addr.toNat * 128 + flitOff f) with
  | some (loc, area) => if loc % n = 0 then some { homeSpan 0 loc n with area } else none
  | none => none
/-- The operation of an ATOM: code in bits [138:135], 0-7 as RED's, 8 swap, 9 compare and swap with the second operand in
[127:64]; bit 139 for 4 bytes instead of 8; bit 140 for a reduction, whose answer carries no value (log 29). -/
def atomNew (f : Flit) (n old : Nat) : Option Nat :=
  let a := f.data.extractLsb' 0 64
  let b := f.data.extractLsb' 64 64
  let sx (v : Word) : Word := if n = 4 then (v.setWidth 32).signExtend 64 else v
  let o : Word := BitVec.ofNat 64 old
  match (f.data.extractLsb' 135 4).toNat with
  | 0 => some (redFun .add o a).toNat
  | 1 => some (redFun .min (sx o) (sx a)).toNat
  | 2 => some (redFun .max (sx o) (sx a)).toNat
  | 3 => some (redFun .minu o (if n = 4 then (a.setWidth 32).setWidth 64 else a)).toNat
  | 4 => some (redFun .maxu o (if n = 4 then (a.setWidth 32).setWidth 64 else a)).toNat
  | 5 => some (redFun .and o a).toNat
  | 6 => some (redFun .or o a).toNat
  | 7 => some (redFun .xor o a).toNat
  | 8 => some a.toNat
  | _ => if old = a.toNat % 256 ^ n then some b.toNat else none
/-- The home consumes a flit's data: its carried codes are checked, and on a mismatch the operation is not performed and the error is
reported, for no slot (02 R38, 11 R284, R299). -/
def consumed (s : State) (f : Flit) (k : State) : State :=
  if flitCodes f.data = f.codes then k
  else
    postUncorrectable s ((tagJob s f.jobtag).getD 0) (0xFF000000 ||| (Config.unitNumber 1).setWidth 32)
      (BitVec.ofNat 64 (f.addr.toNat * 128 + flitOff f)) (BitVec.ofNat 64 (1 + 6 * 16))
/-- ATOM performed at the home, and its answer (R37, 08 R216). -/
def atomHome (s : State) (f : Flit) : State :=
  let n := if f.data.getLsbD 139 then 4 else 8
  match flitSpan f n with
  | none => s
  | some sp =>
    match devUpdate s ((tagJob s f.jobtag).getD 0) sp n (atomNew f n) with
    | (s, none) => s
    | (s, some v) =>
      let data : BitVec 1024 := if f.data.getLsbD 140 then 0 else BitVec.ofNat 1024 v
      sendFlit s { answerFlit s f 6 false with data, codes := if f.data.getLsbD 140 then 0 else flitCodes data }
/-- ATOM (R37). -/
def execAtom (s : State) : Host.Outcome State Fault Refusal := onFlit 5 anyFlit (fun s _ f => atHome 128 (fun s f => consumed s f (atomHome s f)) s f) s

/-- RELW performed: the release value on its sync word (R43). -/
def relwHome (s : State) (f : Flit) : State :=
  match flitSpan f 8 with
  | none => s
  | some sp =>
    match devUpdate s ((tagJob s f.jobtag).getD 0) sp 8 fun _ => some (f.data.toNat % 2 ^ 64) with
    | (s, some _) => ackWrite s f
    | (s, none) => s
/-- RELW (R43). -/
def execRelw (s : State) : Host.Outcome State Fault Refusal := onFlit 7 anyFlit (fun s _ f => atHome 128 (fun s f => consumed s f (relwHome s f)) s f) s

/-! ## Ring notices (02 R45, R46) -/

/-- A noticed value replaces a held one only where it is not behind it (R46). -/
def newer (w v : BitVec 32) : Bool := (w - v).ult 0x80000000#32
/-- What waits at a ring looks again. -/
def kickRing (s : State) (loc : Loc) : State :=
  let s := (s.subs.filter fun b => b.ring == loc).foldl (fun s b => enqueue s (.event (.streamTile b.uid))) (enqueue s .schedule)
  (s.colls.filter fun c => c.status.isNone).foldl (fun s (c : Coll) => enqueue s (.coll c.uid)) s
/-- FILLN performed: FILL and the release that carries the slots it covers (R46, 08 R212). -/
def fillnHome (s : State) (f : Flit) : State :=
  match flitSpan f 32 with
  | none => s
  | some sp =>
    let r := descAt s sp.loc
    let w := f.data.extractLsb' 0 32
    if !newer w r.fill then s else
      let cover := (slotRanges r r.fill (min r.n (w - r.fill).toNat)).map fun e =>
        (sp.loc + 8, RelRange.range (BitVec.ofNat 64 e.1) e.2)
      let s := putDesc s sp.loc 8 4 w.toNat
      kickRing { s with ranges := s.ranges ++ cover } sp.loc
/-- FILLN (R46). -/
def execFilln (s : State) : Host.Outcome State Fault Refusal := onFlit 8 anyFlit (fun s _ f => atHome 128 (fun s f => consumed s f (fillnHome s f)) s f) s
/-- FREEN performed on a descriptor of this package. -/
def freenHome (s : State) (f : Flit) : State :=
  match flitSpan f 32 with
  | none => s
  | some sp =>
    let r := descAt s sp.loc
    let w := f.data.extractLsb' 0 32
    if newer w r.free then kickRing (putDesc s sp.loc 12 4 w.toNat) sp.loc else s
/-- The far receive ring of a collective, among those that this device has sent to, whose release a notice names (log 25). -/
def freenShadow (s : State) (f : Flit) : Option Nat :=
  (s.shadows.find? fun e => farDevice e.1 == f.src && (Config.farRing e.1).toNat == f.addr.toNat * 128 + flitOff f).map (·.1)
/-- FREEN: a sender's shadow, or the FREE word of a descriptor (R46). -/
def execFreen (s : State) : Host.Outcome State Fault Refusal :=
  onFlit 9 anyFlit (fun s _ f =>
    match freenShadow s f with
    | some key =>
      consumed s f <|
        let (fill, free) := shadowOf s key
        let w := f.data.extractLsb' 0 32
        if newer w free then
          (s.colls.filter fun c => c.status.isNone).foldl (fun s (c : Coll) => enqueue s (.coll c.uid))
            { s with shadows := kvSet (0, 0) s.shadows key (fill, w) }
        else s
    | none => atHome 128 (fun s f => consumed s f (freenHome s f)) s f) s

/-! ## Scale agreement (02 R47, R48) -/

/-- The local members of an agreement that are under way. -/
def agreers (s : State) (id : BitVec 45) : List Coll :=
  s.colls.filter fun c => c.status.isNone && decide (cdAgree c.d ≠ 0) && decide (1 ≤ c.phase) && c.agreeId s == id
/-- The full number of an agreement's vector: the least that its flit's TAG stands for and that has not come yet, as the flits of one
pass come in order (R40; log 47). -/
def fullNum (got : List Nat) (tag : Nat) : Nat :=
  (((List.range (got.length + 1)).map fun i => tag + 4096 * i).find? fun n => !got.contains n).getD tag
/-- The member that an SMAX is for: of those whose predecessor is on the sending device, the lowest rank to which the fewest vectors of
the flit's number have come, as the pass reaches them in rank order (R47). -/
def smaxMember (s : State) (f : Flit) : Option Coll :=
  let l := (agreers s f.addr).filter fun c =>
    decide (1 ≤ cdMe c.d) && !c.near s (cdMe c.d - 1) && c.device (cdMe c.d - 1) == f.src
  let n (c : Coll) : Nat := (c.got.filter fun k => k % 4096 == f.tag.toNat).length
  l.foldl (fun (m : Option Coll) c => match m with
    | some o => if n c < n o ∨ (n c = n o ∧ cdMe c.d < cdMe o.d) then some c else m
    | none => some c) none
/-- What an agreement flit brings (R36, log 47); codes that do not match are carried on as a mismatch. -/
def foldOf (num : Nat) (f : Flit) : CFold :=
  { num, lanes := f.data, ver := f.gmask.extractLsb' 0 4, skew := f.gmask.getLsbD 4, bad := flitCodes f.data != f.codes }
/-- SMAX (R47): it waits until the member has posted its own vector. A mismatch of the carried codes at the fold is reported, and goes on
with the flit, so that every member meets it and ends CHECK_FAIL (R48; log 104). -/
def execSmax (s : State) : Host.Outcome State Fault Refusal :=
  onFlit 0x0A (fun f => flitBad f || (smaxMember s f).isSome) (fun s _ f =>
    match smaxMember s f with
    | none => s
    | some c =>
      let d := foldOf (fullNum c.got f.tag.toNat) f
      let s := enqueue (setColl s { c with folds := c.folds ++ [d], got := c.got ++ [d.num] }) (.coll c.uid)
      if d.bad then
        postUncorrectable s c.job c.source 0 (badDetail (getSlot s c.place) { cause := 1, src := 8, addr := 0 } false)
      else s) s
/-- SMAXRES (R47-R49). -/
def execSmaxres (s : State) : Host.Outcome State Fault Refusal :=
  onFlit 0x0B anyFlit (fun s _ f =>
    (agreers s f.addr).foldl (fun s c => takeAgreed s c (foldOf (fullNum (c.agreed.map (·.1)) f.tag.toNat) f)) s) s

/-! ## Device loss (02 R61) -/

/-- HBEAT (R61). -/
def execHbeat (s : State) : Host.Outcome State Fault Refusal := onFlit 0x12 anyFlit (fun s _ _ => s) s
/-- DEVICE_HEARTBEAT: an HBEAT on every port that carries flits, 1 µs after the last (R61). -/
def execDeviceHeartbeat (s : State) : Host.Outcome State Fault Refusal :=
  .next <|
    if !s.running || !(s.hbAt.all fun t => decide (t + 1000 ≤ s.time)) then s else
      let ports := (List.range 18).filter (portUp s)
      { s with hbAt := some s.time, tx := s.tx ++ ports.map fun p =>
          (p, { kind := 0x12, cls := 2, dst := Config.heartbeatDst p, src := s.devId, jobtag := 0, tag := 0, hops := 0, addr := 0,
                gmask := 0, meta0 := 0, meta1 := 0, rsvd := 0, codes := 0, data := 0, reject := false }) }

end Sys2Proof.Machine
end

