-- ==== Sys2Proof/Machine/Linked.lean ====
section
/-! DEFINITION. Linked gangs: reservation, start, cancel, partner loss; the loss of a device (02 R59-R61, 05 R141). -/

namespace Sys2Proof.Machine

/-- A linked gang of this device. -/
def findLgang (s : State) (lgid : BitVec 32) : Option LGang := s.lgangs.find? fun g => g.lgid == lgid
/-- The gang that waits for a linked gang's start. -/
def lgangReq (s : State) (lgid : BitVec 32) : Option GangReq := s.gangs.find? fun g => g.lgid == some lgid
/-- The linked gang's identifier in a flit (R36). -/
def flitLgid (f : Flit) : BitVec 32 := f.addr.setWidth 32
/-- Forget a linked gang and what it holds. -/
def dropLgang (s : State) (lgid : BitVec 32) : State :=
  enqueue { s with
    lgangs := s.lgangs.filter fun g => g.lgid != lgid
    gangs := s.gangs.filter fun g => g.lgid != some lgid } .schedule
/-- The gang timeout in ns. -/
def LGang.limit (g : LGang) : Nat := g.tmo * 1000

/-! ## The member (R59) -/

/-- The local gang of a GRES, to be placed: its record at the address that the flit carries (log 43), with its checks. None where the
reservation is refused. -/
def memberGang (s : State) (f : Flit) : Option (State × GangReq) :=
  let va : Word := f.data.extractLsb' 0 64
  match tagJob s f.jobtag with
  | none => none
  | some job =>
    match unitRead s (jobCtx s job) va 128 with
    | (_, none) => none
    | (s, some r) =>
      if va.toNat % 64 ≠ 0 ∨ hdKind r ≠ 2 ∨ !gangOk r ∨ rf r 47 1 ≠ 1 ∨ rf r 52 4 ≠ (flitLgid f).toNat
          ∨ (findLgang s (flitLgid f)).isSome ∨ Config.maxLevels ≤ s.levels.length then none else
        match taskAt s none job (BitVec.ofNat 64 (rf r 32 8)), deviceList s none job r with
        | (s, some tmpl), (_, some devs) =>
          match parentOf s none job (hdParent r) [1, 2, 4] with
          | (s, .ok _) =>
            let (s, g) := gangReq s job (lowDie s) va r tmpl (some (flitLgid f))
            if !gangPlaceable s g then none else
              some ({ s with
                gangs := s.gangs ++ [g]
                lgangs := s.lgangs ++ [{ lgid := flitLgid f, coord := false, hdr := va, job, tmo := gangTmo r, devs,
                                         acks := [f.src], starts := [], phase := 0, at_ := 0 }] }, g)
          | _ => none
        | _, _ => none
/-- An answer of a member: TAG bit 0 accepts (R59). -/
def gangAnswer (s : State) (f : Flit) (kind : BitVec 6) (ok : Bool) : State :=
  sendFlit s { gangFlit s kind f.src 0 (flitLgid f) (if ok then 1 else 0) 0 with jobtag := f.jobtag }
/-- GRES (R59 step 1): the local gang is placed by R128 to R130 (05 R131). It is refused where no position can be had or reserved; while a
reservation lacks a slot, the answer waits. -/
def execGres (s : State) : Host.Outcome State Fault Refusal :=
  onFlit 0x0C anyFlit (fun s _ f =>
    match memberGang s f with
    | none => gangAnswer s f 0x0D false
    | some (s', g) =>
      if (freePosition s' g).isNone && (bestPosition s' g).isNone then gangAnswer s f 0x0D false
      else enqueue (gangTurn s' g) .schedule) s

/-- The local gang of a linked gang starts in the slots it holds; a member's level becomes live with it. -/
def startLinked (s : State) (o : LGang) (g : GangReq) (slots : List Nat) : State :=
  let s := setLgang s { o with phase := 1, at_ := max 1 s.time, starts := [s.devId] }
  if o.coord then startGang s g slots (o.devs.length - 1)
  else
    match unitRead s (jobCtx s o.job) o.hdr 128 with
    | (s, some r) =>
      (match parentOf s none o.job (hdParent r) [1, 2, 4] with
       | (s, .ok p) =>
         (match makeLive s o.job o.hdr p 2 g.members with
          | (s, true) => startGang s g slots (o.devs.length - 1)
          | (s, false) => dropLgang s o.lgid)
       | (s, _) => dropLgang s o.lgid)
    | (s, none) => dropLgang s o.lgid
/-- GSTART (R59 step 2): a member that no longer holds its reservation refuses. -/
def execGstart (s : State) : Host.Outcome State Fault Refusal :=
  onFlit 0x0E anyFlit (fun s _ f =>
    match findLgang s (flitLgid f), lgangReq s (flitLgid f) with
    | some o, some g =>
      (match o.coord || o.phase != 0, heldSlots s g with
       | false, some slots =>
         let s := startLinked s o g slots
         gangAnswer s f 0x0F (findLgang s o.lgid).isSome
       | _, _ => gangAnswer s f 0x0F false)
    | _, _ => gangAnswer s f 0x0F false) s

/-- The level's cancel on this device, with its barriers lost (R60 steps 2 and 4). -/
def loseBars (s : State) (lgid : BitVec 32) : State :=
  let hit := s.bars.filter fun b => b.2.lgid == some lgid && !b.2.lost
  hit.foldl (fun s b => wakeDie (setBar s b.1 { b.2 with a := 0, ph := b.2.ph + 1, lost := true }) (b.1 / 256)) s
/-- GCANCEL: a reservation is released; a member that has started is cancelled (R59 step 2', R60 step 4; log 43). -/
def execGcancel (s : State) : Host.Outcome State Fault Refusal :=
  onFlit 0x10 anyFlit (fun s _ f =>
    match findLgang s (flitLgid f) with
    | none => s
    | some o =>
      if o.coord then s
      else if o.phase = 0 then dropLgang s o.lgid
      else
        let s := setLgang s { o with phase := 4, starts := o.acks ++ [s.devId] }
        cancelLevel (loseBars s o.lgid) o.job o.hdr) s

/-! ## The coordinator (R59, R60) -/

/-- Step 2': the reservations are withdrawn, and the linked gang stands behind one other record of its priority. -/
def withdrawLinked (s : State) (o : LGang) : State :=
  let s := setLgang (toMembers s o 0x10) { o with acks := [], starts := [], phase := 0, at_ := 0 }
  match lgangReq s o.lgid with
  | some g => gangYield s g
  | none => s
/-- All have accepted: GSTART, and the coordinator's own gang starts. -/
def startAll (s : State) (o : LGang) : State :=
  match lgangReq s o.lgid with
  | none => s
  | some g =>
    match heldSlots s g with
    | some slots => startLinked (toMembers s o 0x0E) o g slots
    | none => withdrawLinked s o
/-- GRESACK (R59): one that comes at the gang timeout or later is missing. -/
def execGresack (s : State) : Host.Outcome State Fault Refusal :=
  onFlit 0x0D anyFlit (fun s _ f =>
    match findLgang s (flitLgid f) with
    | none => s
    | some o =>
      if !o.coord || o.phase != 0 || o.at_ == 0 || !(o.devs.any fun d => d.1 == f.src) then s
      else if !f.tag.getLsbD 0 || decide (o.at_ + o.limit ≤ s.time) then withdrawLinked s o
      else
        let o := { o with acks := if o.acks.contains f.src then o.acks else o.acks ++ [f.src] }
        let s := setLgang s o
        if o.devs.all fun d => o.acks.contains d.1 then startAll s o else s) s
/-- GSTARTACK (R59). -/
def execGstartack (s : State) : Host.Outcome State Fault Refusal :=
  onFlit 0x0F anyFlit (fun s _ f =>
    match findLgang s (flitLgid f) with
    | none => s
    | some o =>
      if o.coord && o.phase == 1 && f.tag.getLsbD 0 && !o.starts.contains f.src then
        setLgang s { o with starts := o.starts ++ [f.src] } else s) s

/-- The watchdog's first step: the barriers are lost, and what waits at them has touched them (R60 steps 1 and 2). -/
def watchdog (s : State) (o : LGang) : State := loseBars (setLgang s { o with phase := 2 }) o.lgid
/-- The watchdog's last steps: FAILCNT, and the level's cancel on every member that can be reached (R60 steps 3 and 4). -/
def failLinked (s : State) (o : LGang) : State :=
  let s := setLgang s { o with phase := 4 }
  let (s, _) := levelWord s o.job o.hdr 29 3 fun v => some (min 0xFFFFFF (v + 1))
  cancelLevel (if o.coord then toMembers s o 0x10 else s) o.job o.hdr
/-- GANG_TIMEOUT (R59, R60): an answer is missing or refused at the gang timeout; or the watchdog's last steps come about, after a
word has touched what is shared with a missing member. -/
def execGangTimeout (lgid : BitVec 32) (s : State) : Host.Outcome State Fault Refusal :=
  .next <|
    match findLgang s lgid with
    | none => s
    | some o =>
      if !s.running then s
      else if o.phase = 3 then failLinked s o
      else if !o.coord || o.at_ == 0 || decide (s.time < o.at_ + o.limit) then s
      else if o.phase = 0 then withdrawLinked s o
      else if o.phase = 1 && !o.devs.all fun d => o.starts.contains d.1 then watchdog s o
      else s
/-- GANG_RESERVATION_EXPIRY: a member releases a reservation held for twice the gang timeout (R59). -/
def execGangReservationExpiry (lgid : BitVec 32) (s : State) : Host.Outcome State Fault Refusal :=
  .next <|
    match findLgang s lgid with
    | none => s
    | some o => if s.running && !o.coord && o.phase == 0 && o.at_ != 0 && decide (o.at_ + 2 * o.limit ≤ s.time) then dropLgang s lgid else s

/-! ## Device loss (R61) -/

/-- A linked gang that includes a lost device goes on as at its gang timeout (R60). -/
def loseMember (dev : BitVec 12) (s : State) (o : LGang) : State :=
  if !(o.devs.any fun d => d.1 == dev) then s
  else if o.phase = 1 then watchdog s { o with starts := o.starts.filter fun d => d != dev }
  else if o.phase = 0 ∧ o.coord ∧ o.at_ ≠ 0 then withdrawLinked s o
  else s
/-- What words of slots had under way to a lost device: its outstanding writes are lost, a release that awaits an answer ends, an atomic or
acquire completes with poison, and what waited for lines looks again (R34, R42, R43). -/
def loseFar (s : State) (dev : BitVec 12) : State :=
  let s := { s with
    outWrs := s.outWrs.filterMap fun (w : OutWr) => if w.dst ≠ dev then some w else if w.slot.isSome then some { w with lost := true } else none
    farReads := s.farReads.filter fun r => r.dst != dev }
  let s := s.slots.foldl (fun s (e : Nat × Slot) => [Seq.K, .L, .C, .S].foldl (fun s q =>
    (e.2.issued q).foldl (fun s o =>
      match o.2.work with
      | .far sp _ _ => if !o.2.done && (farAddr s sp.loc).any (fun d => d.1 == dev) then farAnswer s e.1 q o.2 none else s
      | _ => if !o.2.done && o.2.work.isStore then enqueue s (.event (.relFabricTimeout e.1 q)) else s) s) s) s
  kickAll (unhold s)
/-- DEVICE_LOST: no flit of a device that is reached for 20 µs (R61). Its outstanding writes are lost, and count as resolved for a kill
(R42, 03 R81). -/
def execDeviceLost (dev : BitVec 12) (s : State) : Host.Outcome State Fault Refusal :=
  .next <|
    let known := kvGet 0 s.routes dev.toNat != 0 || (kvFind s.heard dev.toNat).isSome
    if !s.running || !known || dev == s.devId || s.lostDevs.contains dev || decide (s.time < kvGet 0 s.heard dev.toNat + 20000) then s
    else
      let s := loseFar { s with lostDevs := s.lostDevs ++ [dev] } dev
      let s := (s.colls.filter fun c => c.status.isNone && c.mems.any fun m => m % 4096 == dev.toNat).foldl (fun s c => endColl s c 3 0) s
      let s := s.lgangs.foldl (loseMember dev) s
      let s := (s.jobs.filter fun e => e.2.state == 3).foldl (fun s e => enqueue s (.event (.killDone e.1))) s
      enqueue (postSup s (unitEvent s 0x0A 0 0 0 dev.toNat)) .schedule

end Sys2Proof.Machine
end

