-- ==== Sys2Proof/Machine/Fence.lean ====
section
/-! DEFINITION. Distributor heartbeats, the election of the master, and the fencing of a die with what becomes of its levels (01
R29, R30, 05 R132-R136). -/

namespace Sys2Proof.Machine

/-! ## Heartbeats and election (05 R132, R133) -/

/-- DISTRIBUTOR_HEARTBEAT (R132). -/
def execDistributorHeartbeat (die : Nat) (s : State) : Host.Outcome State Fault Refusal :=
  .next (if s.running && decide (die < 4) && !(getDie s die).fenced then { s with beats := kvInsert die s.time s.beats } else s)
/-- A live die whose heartbeat is less than 5 µs old. -/
def beatCurrent (s : State) (die : Nat) : Bool :=
  !(getDie s die).fenced && (match kvFind s.beats die with | some t => decide (s.time < t + 5000) | none => false)
/-- A die's heartbeat has been missing for 5 µs (01 R29). -/
def beatMissing (s : State) (die : Nat) : Bool :=
  match kvFind s.beats die with | some t => decide (t + 5000 ≤ s.time) | none => true
/-- MASTER_ELECTION: the lowest live die with a current heartbeat (R132). -/
def execMasterElection (s : State) : Host.Outcome State Fault Refusal :=
  .next (if !s.running then s else enqueue { s with master := [0, 1, 2, 3].find? (beatCurrent s) } .schedule)

/-! ## Lost and reissued indices (05 R136, 13 R333) -/

/-- Append an index to the lost list of a launch: its count rises, and an index within the capacity is written. -/
def appendLost (s : State) (job : Nat) (r : Nat) (i : Nat) : State :=
  let va : Word := BitVec.ofNat 64 (rf r 56 8)
  if va = 0 then s else
    match unitUpdate s (jobCtx s job) va 8 fun v => some (v + 1) with
    | (s, some n) =>
      if n < rf r 50 4 then (unitWrite s (jobCtx s job) (va + BitVec.ofNat 64 (8 + 4 * n)) 4 i).1 else s
    | (s, none) => s
/-- n indices of a launch from i on that a fenced die held: reissued to a surviving die where the launch permits it and no escape
was noted, else lost. The rule does not say which surviving die, or which of its clusters: the master's, or the lowest, and there the one
whose queue holds the fewest entries is taken (log 33). -/
def resolveIndices (s : State) (l : Level) (prio i n : Nat) (escaped : Bool) : State :=
  match (unitRead s (jobCtx s l.job) l.hdr 64).2 with
  | none => levelSub s l.job l.hdr n true
  | some r =>
    let die := s.master.getD (lowDie s)
    if rf r 49 1 % 2 = 1 ∧ !escaped ∧ !(getDie s die).fenced then
      let c := emptiest s die l.job prio
      levelDies (pushWork s (workKey c l.job prio) (.range l.hdr i n)) l.job l.hdr (c / 32)
    else levelSub ((List.range n).foldl (fun s k => appendLost s l.job r (i + k)) s) l.job l.hdr n true

/-! ## Levels of a fenced die (05 R136) -/

/-- An address of a job is homed on a die. -/
def homedOn (s : State) (job : Nat) (va : Word) (die : Nat) : Bool :=
  match (trPage s { jobCtx s job with sup := true } va 1 {}).2 with
  | .ok sp => dieOf sp.loc == some die
  | _ => false
/-- A task of a fenced die: what it is, its slot's contents and its core. -/
structure Gone where
  task : TaskInfo
  x    : Slot
  core : Nat
  deriving DecidableEq, Repr
/-- A task that the die held running or saved: reissued, or lost (R136, R116). A gang's level has neither PUSHED nor DEALT, so that no row
of R136 is on its members: each that the die held counts as lost (log 33). -/
def resolveTask (s : State) (g : Gone) : State :=
  let t := g.task
  let s := if t.graph.isSome then instanceEnd s g.x g.core true else s
  if t.parent = 0 then jobDec s t.job
  else
    match liveLevel s t.job t.parent with
    | none => s
    | some l =>
      if l.forced then s
      else if t.dealt then resolveIndices s l t.prio t.index.toNat 1 t.escaped
      else levelDec s t.job t.parent true
/-- The entries of a fenced die's task queues: ranges and saved tasks of dealt indices as R136, other records lost. -/
def resolveEntry (s : State) (key : Nat) (e : WorkEnt) : State :=
  match e.item with
  | .range hdr i n =>
    (match liveLevel s (keyJob key) hdr with
     | some l => if l.forced then s else resolveIndices s l (keyPrio key) i n false
     | none => s)
  | .task _ p =>
    (match liveLevel s (keyJob key) p with
     | some l => if l.forced then s else levelDec s (keyJob key) p true
     | none => if p = 0 then jobDec s (keyJob key) else s)
  | .saved t => match t.slot.task with | some k => resolveTask s ⟨k, t.slot, coreOf t.place⟩ | none => s

/-- The condition of R136 on one level, but for its dealt indices: with its record homed on the die, where its DIES cannot be read either, it
is lost at once; with a bit of the die in DIES and its sync word homed there it completes without its release; with its PUSHED bit, or a
graph of the die, it is cancelled with status FAILED (log 33). -/
def resolveLevel (die : Nat) (s : State) (l : Level) : State :=
  if !s.levels.contains l then s
  else
    match (unitRead s (jobCtx s l.job) l.hdr 32).2 with
    | none => levelDec (dropLevel s l) l.job l.parent true
    | some h =>
      if homedOn s l.job l.hdr die then levelDec (dropLevel s l) l.job l.parent true
      else if ((rf h 28 1).testBit die || (rf h 28 1).testBit (4 + die)) && homedOn s l.job (hdSync h) die then
        levelDec (dropLevel (levelWord s l.job l.hdr 25 1 fun _ => some 2).1 l) l.job l.parent true
      else if (rf h 28 1).testBit (4 + die) || s.graphs.any fun g => g.job == l.job && g.hdr == l.hdr && g.die == die then
        cancelLevel { s with levels := s.levels.map fun (o : Level) => if o = l then { o with forced := true } else o } l.job l.hdr
      else s

/-- What the units of a die held is gone: slots, engine work, subscriptions, collectives, barriers, walks, translations, holds. -/
def clearDie (s : State) (die : Nat) : State :=
  let mine (slot : Nat) : Bool := !isUnit slot && dieOfCore (coreOf slot) == die
  { s with
    slots := s.slots.filter fun e => !mine e.1
    gcmds := s.gcmds.filter fun g => !mine g.owner
    subs := s.subs.filter fun b => !mine b.slot
    colls := s.colls.filter fun c => c.die != die
    bars := s.bars.filter fun b => b.1 / 256 != die
    tlb := s.tlb.filter fun e => tlbHome e.1 != die
    ptrs := s.ptrs.filter fun e => e.1 != die
    parked := s.parked.filter fun p => p.2.1 / 1024 != die
    work := s.work.filter fun e => keyCluster e.1 / 32 != die
    gangs := s.gangs.map fun (g : GangReq) => match g.resv with
      | some (c, _, _) => if c / 32 = die then { g with resv := none } else g
      | none => g }

/-- Lines that the die held dirty and that are homed elsewhere are poisoned at their homes; copies of lines homed on the die are
served no more (01 R30 steps 2 and 3). -/
def poisonLines (s : State) (die : Nat) : State :=
  let line (k : Nat) : Nat := k % 2 ^ 64
  let cluster (k : Nat) : Nat := k / 2 ^ 64
  let lost := s.clines.filter fun e =>
    cluster e.1 / 32 == die && dieOf (64 * line e.1) != some die
      && (e.2.metaDirty || e.2.gr.toList.any fun g => match g with | some y => y.dirty.isSome | none => false)
  let s := lost.foldl (fun s e => lineWritten (putHomeMeta s (line e.1) (homeMeta s (line e.1) ||| 8#8)) (line e.1)) s
  { s with clines := s.clines.filter fun e => cluster e.1 / 32 != die && dieOf (64 * line e.1) != some die
           icache := s.icache.filter fun e => dieOf (16 * line e.1) != some die
           ccache := s.ccache.filter fun e => dieOf (64 * line e.1) != some die }

/-- Fence a die (01 R29, R30, 05 R136). -/
def fenceDie (s : State) (die : Nat) : State :=
  if 4 ≤ die ∨ (getDie s die).fenced then s
  else
    let gone := (s.slots.filter fun e => !isUnit e.1 && dieOfCore (coreOf e.1) == die).filterMap fun e =>
      e.2.task.map fun t => (⟨t, e.2, coreOf e.1⟩ : Gone)
    let queued := s.work.filter fun e => keyCluster e.1 / 32 == die
    let deals := s.deals.filter fun d => !d.dev && d.die == die
    let held (g : GangReq) : Bool := (g.scope != 2 && g.die == die) || g.saved.any fun t => dieOfCore (coreOf t.place) == die
    let gangs := s.gangs.filter held
    let s := { s with gangs := s.gangs.filter fun g => !held g }
    let s := poisonLines s die
    let s := clearDie (updDie s die fun d => { d with fenced := true }) die
    let s := { s with deals := s.deals.filter fun d => !(!d.dev && d.die == die) }
    let s := if s.master = some die then { s with master := none } else s
    let s := s.levels.foldl (resolveLevel die) s
    -- dealt indices, level by level in the order of the table, then what is left
    let s := s.levels.foldl (fun s l =>
      let s := (gone.filter fun g => g.task.job == l.job && g.task.parent == l.hdr).foldl resolveTask s
      queued.foldl (fun s q => (q.2.filter fun e => keyJob q.1 == l.job && e.item.level == l.hdr).foldl (fun s e => resolveEntry s q.1 e) s) s) s
    let s := (gone.filter fun g => g.task.parent == 0).foldl resolveTask s
    let s := queued.foldl (fun s q => (q.2.filter fun e => e.item.level == 0).foldl (fun s e => resolveEntry s q.1 e) s) s
    let s := deals.foldl (fun s d => match liveLevel s d.job d.hdr with
      | some l => if l.forced then s else resolveIndices s l d.prio d.next d.left false
      | none => s) s
    -- gangs that waited at the die's distributor, or whose members its queues held
    let s := gangs.foldl (fun s g =>
      let s := g.saved.foldl (fun s t => dropSaved s g.job t) s
      match liveLevel s g.job g.hdr with
      | some l => if l.forced then s else levelSub s g.job g.hdr g.waiting true
      | none => s) s
    let s := postSup s (unitEvent s 0x0C (64 + die) 0 0 die)
    enqueue (enqueue s (.event .masterElection)) .schedule

/-- The cause stands (01 R29): the link lost is one to another live die; the heartbeat is 5 µs old. What a link or a rail does is an
input. -/
def causeStands (s : State) : FenceCause → Bool
  | .link d e => d != e && decide (e < 4) && !(getDie s e).fenced
  | .rail _ => true
  | .heartbeat d => beatMissing s d
/-- DIE_FENCED: an event of 01 R29 on a die. The events of the other rows are in THERMAL_SAMPLE, SOFT_ERROR and FENCE_DIE. -/
def execDieFenced (cause : FenceCause) (s : State) : Host.Outcome State Fault Refusal :=
  .next (if s.running && causeStands s cause then fenceDie s cause.die else s)

end Sys2Proof.Machine
end

