-- ==== Sys2Proof/Machine/HostQueue.lean ====
section
/-! DEFINITION. Shared queues: their consumers, skipped slots, issue packets and COLL requests (03 R70-R78, 13 R336, R475). -/

namespace Sys2Proof.Machine

/-! ## The consumer's head slot (03 R75) -/

/-- An enabled queue. -/
def findQueue (s : State) (job : Nat) (desc : Word) : Option HQueue := s.hqueues.find? fun q => q.job == job && q.desc == desc
/-- Write an enabled queue. -/
def setHqueue (s : State) (q : HQueue) : State :=
  { s with hqueues := s.hqueues.map fun o => if o.job = q.job ∧ o.desc = q.desc then q else o }
/-- Disable a queue: bit 0 of its FLAGS clears, and it is consumed no more. -/
def disableQueue (s : State) (q : HQueue) (d : QDesc) : State :=
  let s := { s with hqueues := s.hqueues.filter fun o => !(o.job == q.job && o.desc == q.desc) }
  queueSet s q.job q.desc 14 1 (d.flags &&& 0xFE#8).toNat
/-- What came by a queue and has not been reported yet. -/
def inFlight (s : State) (q : HQueue) : Bool :=
  s.slots.any (fun e => isUnit e.1 && slotJob s e.1 == q.job
      && (List.range 4).any fun i => (engQueue e.2 i).any fun c => c.queue == some q.desc)
    || s.subs.any (fun b => b.job == q.job && b.origin == .queue q.desc)
    || s.requests.any fun r => r.2 == some (q.job, q.desc)
/-- The die whose unit consumes a queue's packets: the one that homes the descriptor, or the master's where the descriptor lies
in host memory (03 R72). -/
def queueDie (s : State) (q : HQueue) : Nat :=
  match (queueSpan s q.job q.desc 0 1).2 with
  | some sp => (dieOf sp.loc).getD (s.master.getD 0)
  | none => s.master.getD 0
/-- A queue's consumer works: the package runs, no checkpoint is under way, its job is live, and no packet waits to run. -/
def queueUp (s : State) (q : HQueue) : Bool :=
  s.running && !s.ckbusy && q.pkt.isNone && (q.job == 0 || (getJob s q.job).state == 2)
    && (q.kind != 1 || s.master.isSome) && (q.kind != 2 || !(getDie s (queueDie s q)).fenced)
/-- The 64 bytes of the slot of a claim. -/
def queueLine (s : State) (q : HQueue) (d : QDesc) : State × Option Nat :=
  unitRead s (queueCtx s q.job) (d.base + BitVec.ofNat 64 (d.rdidx % 2 ^ d.log2n * 64)) 64
/-- The head slot is published or holds a reserved mark (03 R73, R75). -/
def seenSlot (d : QDesc) (v : Nat) : Bool := rf v 56 7 == d.rdidx % 2 ^ 56 && rf v 63 1 != 0
/-- The stall limit in ns. -/
def QDesc.limit (d : QDesc) : Nat := (if d.stall = 0 then 100 else d.stall) * 1000
/-- The consumer takes no further slot: none is claimed, or the completion ring is full (R75). -/
def QDesc.idle (d : QDesc) : Bool := decide (d.wridx ≤ d.rdidx) || decide (2 ^ d.clog ≤ d.cwr - d.crd)
/-- Queues whose records stand in claim order (03 R77). -/
def ordered (kind : Nat) : Bool := kind == 0 || kind == 3 || kind == 4

/-- The head has been dealt with: RDIDX advances with a release, and the consumer looks at the next slot; a queue that is to be
destroyed ends with its last slot. -/
def nextSlot (s : State) (job : Nat) (desc : Word) (d : QDesc) : State :=
  let s := queueRelease s job desc 24 (d.rdidx + 1) (.range desc 0)
  match findQueue s job desc with
  | none => s
  | some q =>
    let q := { q with since := none }
    if q.pkt.isNone && q.upto.any fun n => decide (n ≤ d.rdidx + 1) then disableQueue (setHqueue s q) q d
    else enqueue (setHqueue s q) (.event (.queueSlotAccept job desc))
/-- Report a slot whose packet is not executed, or gives its record no KIND and TAG: those bytes are free (log 30). -/
def reportSlot (s : State) (job : Nat) (desc : Word) (status fcode : Nat) : State :=
  let (k, s) := draw s
  queueDone s job desc (queueRecord status fcode (Config.freeByte k 2).toNat 0
    (natOf ((List.range 4).map fun i => Config.freeByte k (4 + i))) 0 0 0)

/-! ## Acceptance by kind (03 R72) -/

/-- The FCODE of a check that a word would trap on: a translation kind, TENSOR_SKEW, or RANGE (log 31). -/
def trapFcode (t : Trap) : Nat := if t.cause = 4 then t.kind.toNat else if t.cause = 13 then 9 else 18
/-- Kind 0: the packet joins the copy channel that TARGET names. None where it waits for room or a record. -/
def takeCopy (s : State) (q : HQueue) (d : QDesc) (p : Nat) : Option State :=
  let g := d.target.toNat
  let core := g % 256 * 256 + g / 256 % 256 * 8 + g / 65536 % 256
  let chan := g / 2 ^ 24 % 4
  let slot := unitSlot (g % 4) q.job
  if engDepth chan ≤ ((engQueue (getSlot s slot) chan).filter fun c => c.pulled == some (core * 8 + chan)).length then none else
    let add (s : State) (body : CmdBody) (status : Option (Nat × Nat)) : State :=
      let (uid, s) := takeUid s
      let c : Cmd := { uid, body, progress := 0, sats := 0, started := false, paused := none, status := status.map (·.1),
                       fcode := (status.getD (0, 0)).2, inRegion := false, after := none, by_ := .K, pulled := some (core * 8 + chan),
                       marked := false, queue := some q.desc }
      checkAssertion (kick (updSlot s slot fun x => setQueue x chan (engQueue x chan ++ [c])) slot chan) slot chan uid
    match acceptCopy s ⟨slot, .K⟩ p with
    | .ok s r => some (add s (.packet (BitVec.ofNat 512 p) 0 r none) none)
    | .reject s c => some (add s (packetBody p) (some (2, c)))
    | .trap s t => some (add s (packetBody p) (some (2, trapFcode t)))
    | .bad s b => some (postUncorrectable (add s (packetBody p) (some (3, 11))) q.job (BitVec.ofNat 32 core) b.addr
        (badDetail (getSlot s slot) { b with src := 5 } false))
    | .wait _ => none
/-- Kinds 1 and 2: the packet is held, and its own step comes about next. -/
def takeHeld (s : State) (q : HQueue) (v : Nat) (ev : Word → Byte → List Byte → Instr) : State :=
  let l := bytesOf 56 v
  let record : Word := BitVec.ofNat 64 v
  let kind : Byte := if q.kind = 1 then l.getD 8 0 else 0
  let rest := l.drop (if q.kind = 1 then 9 else 8)
  enqueue (setHqueue s { q with pkt := some (record, kind, rest) }) (.event (ev record kind rest))
/-- The request of a packet's bytes (03 R68; log 13), none for an unknown code or a reserved byte that is not zero. -/
def requestOf (s : State) (l : List Byte) : Option Request :=
  let f (i : Nat) : Word := Config.requestField i l
  let job : Nat := (f 0).toNat
  if Config.requestReserved l then none
  else
    match (l.getD 0 0).toNat with
    | 1 => some (.createJob (Config.requestJob l))
    | 2 => some (.killJob job)
    | 3 => some (.createQueue job (f 1))
    | 4 => some (.destroyQueue job (f 1))
    | 5 => some (.checkpoint (Config.requestTarget l))
    | 6 => some (.restore (Config.requestImage l s.time))
    | 7 => some (.attest (Config.requestBytes l s.time))
    | 8 => some (.fwStage (Config.requestBytes l s.time))
    | 9 => some .warmReset
    | 10 => some (.fenceDie (l.getD 1 0).toNat)
    | _ => none

/-- The event of a request. -/
def requestEvent : Request → Instr
  | .createJob _ => .createJob
  | .killJob _ => .killJob
  | .createQueue _ _ => .createQueue
  | .destroyQueue _ _ => .destroyQueue
  | .checkpoint _ => .checkpoint
  | .restore _ => .restore
  | .attest _ => .attest
  | .fwStage _ => .fwStage
  | .warmReset => .warmReset
  | .fenceDie _ => .fenceDie
/-- The supervisor looks at the head of its requests. -/
def kickRequests (s : State) : State :=
  match s.requests with
  | r :: _ => enqueue s (.event (requestEvent r.1))
  | [] => s

/-- Accept the published packet of the head slot; none where the consumer waits. -/
def takeSlot (s : State) (q : HQueue) (d : QDesc) (v : Nat) : Option State :=
  let fin (s : State) : State := nextSlot s q.job q.desc d
  match q.kind with
  | 0 => (takeCopy s q d v).map fin
  | 1 => some (fin (takeHeld s q v fun r k l => .issuePacket q.job q.desc r k l))
  | 2 => some (fin (takeHeld s q v fun r _ l => .collRequest q.job q.desc r l))
  | 3 =>
    (match requestOf s (bytesOf 56 v) with
     | some r => some (fin (kickRequests { s with requests := s.requests ++ [(r, some (q.job, q.desc))] }))
     | none => if inFlight s q then none else some (fin (reportSlot s q.job q.desc 2 17)))
  | _ =>
    let die := (queueDie s q)
    let va := d.base + BitVec.ofNat 64 (d.rdidx % 2 ^ d.log2n * 64)
    some (fin (addSub s (unitSlot die q.job) q.job .K va v (.queue q.desc) (some d.base)))

/-- The consumer looks at its head slot: nothing claimed, the ring full, WRIDX at its end, or the slot's line. -/
def lookSlot (s : State) (job : Nat) (desc : Word) (k : State → HQueue → QDesc → Nat → State) : State :=
  match findQueue s job desc with
  | none => s
  | some q =>
    if !queueUp s q then s else
      match queueDesc s job desc with
      | (s, none) => s
      | (s, some d) =>
        if 2 ^ 56 ≤ d.wridx then postJob (disableQueue s q d) job (unitEvent s 0x07 81 job desc 0)
        else if q.upto.any fun n => decide (n ≤ d.rdidx) then disableQueue s q d
        else if d.idle then setHqueue s { q with since := none }
        else
          match queueLine s q d with
          | (s, none) => s
          | (s, some v) => k s q d v

/-- QUEUE_SLOT_ACCEPT (R75): the head slot is published, or is marked with a reserved value and rejected; a slot that is not yet
published starts the stall timer. -/
def execQueueSlotAccept (job : Nat) (desc : Word) (s : State) : Host.Outcome State Fault Refusal :=
  .next <| lookSlot s job desc fun s q d v =>
    if !seenSlot d v then setHqueue s { q with since := some (q.since.getD s.time) }
    else if rf v 63 1 ≠ 1 then
      if ordered q.kind && inFlight s q then s else nextSlot (reportSlot s job desc 2 17) job desc d
    else (takeSlot s q d v).getD s
/-- QUEUE_STALL (R75, R76): the head slot is still unpublished at the stall limit. -/
def execQueueStall (job : Nat) (desc : Word) (s : State) : Host.Outcome State Fault Refusal :=
  .next <| lookSlot s job desc fun s q d v =>
    if seenSlot d v || !(q.since.any fun t => decide (t + d.limit ≤ s.time)) || (ordered q.kind && inFlight s q) then s
    else nextSlot (reportSlot s job desc 1 0) job desc d

/-! ## Issue packets (13 R336) -/

/-- The outcome of an issue packet: the state and its record's STATUS and FCODE (log 32). -/
def issueRecord (s : State) (job : Nat) (record : Word) (kind : Byte) (rest : List Byte) : State × Nat × Nat :=
  let die := s.master.getD (lowDie s)
  if rest.any fun b => b != 0 then (s, 2, 17)
  else if kind = 3 then
    match taskAt s none job record with
    | (s, none) => (s, 2, 18)
    | (s, some r) =>
      match pushTask s job none (emptiest s die job (jobPrio s job (trPrio r))) record with
      | .ok s => (s, 0, 0)
      | .dropped s => (s, 4, 0)
      | .bad s => (s, 2, 18)
      | .full s => (s, 2, 18)
  else if kind = 1 ∨ kind = 2 then
    match issueLevel s none die job record (kind == 2) with
    | .ok s => (s, 0, 0)
    | .dropped s => (s, 4, 0)
    | .bad _ => (s, 2, 18)
    | .graph a b => ((unitWrite s (jobCtx s job) (record + 38) 2 (a + 256 * b)).1, 2, 18)
  else (s, 2, 18)
/-- ISSUE_PACKET (13 R336): the packet that the queue holds. -/
def execIssuePacket (job : Nat) (desc record : Word) (kind : Byte) (rest : List Byte) (s : State) :
    Host.Outcome State Fault Refusal :=
  .next <|
    match findQueue s job desc with
    | none => s
    | some q =>
      if !s.running || s.master.isNone || (getJob s job).state != 2 || q.pkt != some (record, kind, rest) || q.kind != 1 then s
      else
        let s := setHqueue s { q with pkt := none }
        let (s, st, fc) := issueRecord s job record kind rest
        reportSlot s job desc st fc

/-! ## COLL requests (13 R475) -/

/-- The KIND of a COLL request's record is 10; its TAG is the descriptor's, which was not read: free (log 30). -/
def endRequest (s : State) (job : Nat) (desc : Word) (status fcode : Nat) : State :=
  let (k, s) := draw s
  queueDone s job desc (queueRecord status fcode 10 0 (natOf ((List.range 4).map fun i => Config.freeByte k (4 + i))) 0 0 0)
/-- A request is rejected. -/
def rejectColl (s : State) (job : Nat) (desc : Word) (fcode : Nat) : State := endRequest s job desc 2 fcode
/-- COLL_REQUEST (13 R475): the packet that the queue holds; a held record makes it wait. -/
def execCollRequest (job : Nat) (desc record : Word) (rest : List Byte) (s : State) : Host.Outcome State Fault Refusal :=
  .next <|
    match findQueue s job desc with
    | none => s
    | some q =>
      let die := queueDie s q
      if !s.running || (getDie s die).fenced || (getJob s job).state != 2 || q.pkt != some (record, 0, rest) || q.kind != 2 then s
      else
        let free (s : State) : State := setHqueue s { q with pkt := none }
        if rest.any fun b => b != 0 then rejectColl (free s) job desc 17
        else if record.toNat % 64 ≠ 0 then rejectColl (free s) job desc 19
        else
          match translate s (unitCtx die job false) record 256 { r := true } with
          | (s, .fault k _) => rejectColl (free s) job desc k.toNat
          | (s, .stall) => s
          | (s, .ok sps) =>
            match loadSpans 7 (unitSlot die job) .home s sps with
            | .error b =>
              endRequest (postUncorrectable (free s) job (BitVec.ofNat 32 (0xFF020000 + die)) b.addr (badDetail (getSlot s (unitSlot die job)) b false))
                job desc 3 11
            | .ok (s, d) =>
              match acceptColl s (unitCtx die job false) 0 (unitSlot die job) job (die * 256) record d (some desc) with
              | .ok s c => addColl (free s) c
              | .wait s => s
              | .trap s t => rejectColl (free s) job desc (trapFcode t)
              | .bad s c b => postUncorrectable (addColl (free s) c) job c.source b.addr (badDetail (getSlot s c.place) b false)

end Sys2Proof.Machine
end

