-- ==== Sys2Proof/Machine/Faults.lean ====
section
/-! DEFINITION. Walks, paused engine channels, bias flips, access counters, pulled commands, the deadlock count and soft errors:
the steps that come about without a word (04 R93-R111, 06 R165, 07 R175, 11 R283). -/

namespace Sys2Proof.Machine

/-! ## Walks (04 R93, R98, R111) -/

/-- PAGE_WALK: a die's walker walks for an address that no cached leaf maps; the leaf is cached, or the walk parks. A fault is
reported to the access that misses, which translates before it issues (R101). -/
def execPageWalk (die job : Nat) (va : Word) (s : State) : Host.Outcome State Fault Refusal :=
  .next <|
    if s.running && decide (die < 4) && !(getDie s die).fenced && canonical va && !inWindow va
      && (!upperHalf va || (getDie s die).supen) && (tlbHit s [tlbDie die] job va).isNone
    then (walkFill s [tlbDie die] die job va).1 else s

/-- WALK_RESTART: a walk whose leaf's line has been written walks again, and what waited for it or for its walk slot goes on (04 R99,
R111). -/
def execWalkRestart (die job : Nat) (va : Word) (s : State) : Host.Outcome State Fault Refusal :=
  .next (if s.running && decide (die < 4) && !(getDie s die).fenced then
    kickAll (if (tlbHit s [tlbDie die] job va).isNone then (walkFill s [tlbDie die] die job va).1 else s) else s)

/-! ## Paused channels (04 R105) -/

/-- ENGINE_FAULT: an access of a channel faults; the channel pauses and the event is posted. A subscription or a collective is
named by its number. The ring unit accesses memory on its own account at a task's end (06 R159). -/
def execEngineFault (slot eng : Nat) (s : State) : Host.Outcome State Fault Refusal :=
  .next (if !s.running then s
    else if eng < 6 then pauseEngine s slot eng
    else if eng = 6 then pauseClosing s slot
    else if eng = 7 then pauseSub s slot
    else if eng = 8 then pauseColl s slot
    else s)

/-- The paused command that a reply names: its slot and itself. -/
def pausedCmd (s : State) (source : BitVec 32) (eng : Nat) : Option (Nat × Cmd) :=
  s.slots.findSome? fun e => ((engQueue e.2 eng).find? fun c => c.paused.isSome && c.source e.1 == source).map fun c => (e.1, c)
/-- The GMMA whose completion record is paused that a reply names. -/
def pausedGmma (s : State) (source : BitVec 32) : Option GCmd :=
  s.gcmds.find? fun g => g.paused.isSome && BitVec.ofNat 32 (coreOf g.owner) == source
/-- The paused subscription that a reply names. -/
def pausedSub (s : State) (source : BitVec 32) : Option Sub := s.subs.find? fun b => b.paused.isSome && b.source == source
/-- The paused collective that a reply names. -/
def pausedColl (s : State) (source : BitVec 32) : Option Coll := s.colls.find? fun c => c.paused.isSome && c.source == source
/-- The slot whose ring unit is paused that a reply names. -/
def pausedRing (s : State) (source : BitVec 32) : Option Nat :=
  (s.slots.find? fun e => e.2.rpause.isSome && BitVec.ofNat 32 (coreOf e.1) == source).map (·.1)
/-- The ring unit of a slot goes on with the end of its task. -/
def resumeRing (s : State) (slot : Nat) : State := enqueue (updSlot s slot fun x => { x with rpause := none }) (.event (.taskEnd slot))
/-- The ring unit of a slot gives up the binding that it could not close. -/
def abortRing (s : State) (slot : Nat) : State :=
  match closing (getSlot s slot) with
  | (rg, h, _) :: _ => resumeRing (setHandle s slot rg { h with done := h.count }) slot
  | [] => resumeRing s slot
/-- The kind of a pause, as a fault code (13 R322). -/
def pauseCode (p : Option (BitVec 3 × Word × Bool)) : Nat := match p with | some (k, _, _) => k.toNat | none => 0

/-- ENGINE_FAULT_RESUME: the channel translates the access again and goes on. -/
def execEngineFaultResume (source : BitVec 32) (eng : BitVec 8) (s : State) : Host.Outcome State Fault Refusal :=
  let e := eng.toNat
  .next <|
    if !s.running then s
    else if e < 6 then
      match pausedCmd s source e with
      | some (slot, c) => kickPlace (updCmd s slot e c.uid fun c => { c with paused := none }) (c.place slot e)
      | none =>
        match if e = 5 then pausedGmma s source else none with
        | some g =>
          let s := { s with gcmds := s.gcmds.map fun (o : GCmd) => if o.gid = g.gid then { o with paused := none } else o }
          enqueue s (.event (.matrixCommandComplete g.owner))
        | none => s
    else if e = 6 then match pausedRing s source with | some slot => resumeRing s slot | none => s
    else if e = 7 then
      match pausedSub s source with
      | some b => enqueue (setSub s { b with paused := none })
          (.event (if b.status.isSome then .streamComplete b.uid else .streamTile b.uid))
      | none => s
    else if e = 8 then
      match pausedColl s source with
      | some c => kickJob (setColl s { c with paused := none }) c.job
      | none => s
    else s

/-- Abort a paused command: it completes FAULT with the fault's kind; one whose completion record was paused ends without it. -/
def abortCmd (s : State) (slot eng : Nat) (c : Cmd) : State :=
  let place := c.place slot eng
  let s := updCmd s slot eng c.uid fun c => { c with paused := none }
  let c' : Cmd := { c with paused := none }
  let s := if c.status.isSome then retireCmd s slot eng c' c.progress else endCmd s slot eng c.uid 3 (pauseCode c.paused)
  kickPlace s place
/-- A GMMA whose completion record was paused ends without it. -/
def abortGmma (s : State) (g : GCmd) : State :=
  let s := { s with gcmds := s.gcmds.filter fun o => o.gid != g.gid }
  checkEnd s g.owner
/-- A subscription whose completion record was paused ends without it. -/
def abortSub (s : State) (b : Sub) : State :=
  if b.status.isSome then
    let s := { s with subs := s.subs.filter fun o => o.uid != b.uid }
    if isUnit b.slot then s else checkEnd s b.slot
  else endSub s { b with paused := none } 3 (pauseCode b.paused)

/-- ENGINE_FAULT_ABORT: the channel completes the packet FAULT and takes its next packet. -/
def execEngineFaultAbort (source : BitVec 32) (eng : BitVec 8) (s : State) : Host.Outcome State Fault Refusal :=
  let e := eng.toNat
  .next <|
    if !s.running then s
    else if e < 6 then
      match pausedCmd s source e with
      | some (slot, c) => abortCmd s slot e c
      | none => match if e = 5 then pausedGmma s source else none with | some g => abortGmma s g | none => s
    else if e = 6 then match pausedRing s source with | some slot => abortRing s slot | none => s
    else if e = 7 then match pausedSub s source with | some b => abortSub s b | none => s
    else if e = 8 then
      match pausedColl s source with
      | some c => if c.status.isSome then giveUp s c else endColl s c 3 (pauseCode c.paused)
      | none => s
    else s

/-! ## Bias (04 R106-R108) -/

/-- A region of HBM stands in host-bias. -/
def hostBias (s : State) (region : Nat) : Bool := kvGet false s.bias region
/-- Set a region's bias. -/
def setBias (s : State) (region : Nat) (host : Bool) : State := { s with bias := kvSet false s.bias region host }
/-- The first flip of a region; the others wait for it. -/
def firstFlip (s : State) (region : Nat) : Option Flip := s.flips.find? fun f => f.region == region
/-- The event that begins a flip. -/
def flipEvent (f : Flip) : Instr :=
  let region : BitVec 36 := BitVec.ofNat 36 (physOf (f.region * 65536) / 65536)
  if f.host then .biasFlipToHost region else .biasFlipToDevice region

/-- Begin the flip of a region that has been asked for, once the device's accesses of it in flight have performed (R108). -/
def beginFlip (s : State) (region : BitVec 36) (host : Bool) : State :=
  match hbmRegion region with
  | none => s
  | some r =>
    match firstFlip s r with
    | some f =>
      if !s.running || f.begun || f.host != host then s
      else if accessing s s.nextUid fun sp => sp.loc / 65536 == r then hold s (.event (flipEvent f))
      else
        let s := if host then recallRegion s r else s
        let s := { s with flips := { f with begun := true } :: s.flips.erase f }
        enqueue s (.event (.biasFlipComplete r))
    | none => s
/-- BIAS_FLIP_TO_HOST: the device's copies go first. -/
def execBiasFlipToHost (region : BitVec 36) (s : State) : Host.Outcome State Fault Refusal := .next (beginFlip s region true)
/-- BIAS_FLIP_TO_DEVICE: the host's copies go first; what the host writes back arrives by its own accesses (log 34). -/
def execBiasFlipToDevice (region : BitVec 36) (s : State) : Host.Outcome State Fault Refusal := .next (beginFlip s region false)
/-- BIAS_FLIP_COMPLETE: the new bias stands, BUSY clears, the region's next flip begins, and accesses that waited go on. -/
def execBiasFlipComplete (region : Nat) (s : State) : Host.Outcome State Fault Refusal :=
  .next <|
    match firstFlip s region with
    | some f =>
      if !s.running || !f.begun then s else
        let s := if f.host then recallRegion s region else s
        let s := setBias { s with flips := s.flips.erase f } region f.host
        let s := match f.by_ with | some d => updDie s d fun d => { d with bbusy := false } | none => s
        (match firstFlip s region with
         | some g => enqueue s (.event (flipEvent g))
         | none => unhold (kickAll s))
    | none => s

/-! ## Access counters (04 R109, R110) -/

/-- The threshold of the entry's job on a side. -/
def migThreshold (s : State) (c : Counter) (deviceSide : Bool) : Nat :=
  let m := (getJob s c.job).migth
  if deviceSide then (m.extractLsb' 16 16).toNat else (m.extractLsb' 0 16).toNat
/-- MIGRATE: a count has reached its threshold; it is posted and the count is zero again. -/
def execMigrate (die region : Nat) (deviceSide : Bool) (s : State) : Host.Outcome State Fault Refusal :=
  .next <|
    match kvFind s.counts (countKey die region) with
    | none => s
    | some c =>
      let th := migThreshold s c deviceSide
      let n := if deviceSide then c.dev else c.host
      if !s.running || th == 0 || decide (n < th) then s else
        let c : Counter := if deviceSide then { c with dev := 0 } else { c with host := 0 }
        postSup { s with counts := kvInsert (countKey die region) c s.counts }
          { type := 0x03, reply := false, job := c.job, source := (unitEvent s 0x03 1 c.job 0 0).source,
            addr := BitVec.ofNat 64 (physOf (region * 65536)), time := now s,
            detail := BitVec.ofNat 64 ((if deviceSide then 1 else 0) + th * 65536) }
/-- COUNTER_HALVING: every count halves. -/
def execCounterHalving (s : State) : Host.Outcome State Fault Refusal :=
  .next (if !s.running then s else
    { s with counts := s.counts.map fun e => (e.1, { e.2 with host := e.2.host / 2, dev := e.2.dev / 2 }) })

/-! ## Pulled commands (06 R163-R166) -/

/-- The engines of the class of an engine. -/
def classOf (eng : Nat) : List Nat := if eng < 4 then [0, 1, 2, 3] else [eng]
/-- A closed command that its packet lets another engine run, and that none has pulled (R163, R165). -/
def pullable (c : Cmd) : Bool :=
  pkReloc c.pkt && !c.inRegion && c.pulled.isNone && c.after.isNone
/-- A command that its own engine executes: it has started, or it is the one that runs next there. -/
def executing (s : State) (slot eng : Nat) (c : Cmd) : Bool :=
  c.status.isNone && !c.relocated slot && (c.started || c.paused.isSome
    || ((runnable s slot eng).any (fun d => d.uid == c.uid) && (decide (eng < 4) || engTurn s (c.place slot eng) slot)))
/-- An engine of a core is busy: it executes a command of one of its slots or of a shared queue. -/
def engineBusy (s : State) (core eng : Nat) : Bool :=
  s.slots.any fun e => (engQueue e.2 eng).any fun c => c.place e.1 eng == core * 8 + eng && executing s e.1 eng c
/-- A command that has not started. -/
def notStarted (s : State) (slot eng : Nat) (c : Cmd) : Bool := c.status.isNone && c.pulled.isNone && !executing s slot eng c
/-- The commands of a queue that have not started. -/
def waitingCmds (s : State) (slot eng : Nat) : List Cmd := (engQueue (getSlot s slot) eng).filter (notStarted s slot eng)
/-- What an idle engine of a class may pull from a busy engine's queue: the oldest of its first four that have not started. -/
def pullFrom (s : State) (slot eng : Nat) : Option Cmd :=
  if engineBusy s (coreOf slot) eng then ((waitingCmds s slot eng).take 4).find? pullable else none
/-- An engine of a core is idle: both slots' queues are empty, no command stands at it that has not ended, and it is not paused. -/
def engineIdle (s : State) (core eng : Nat) : Bool :=
  let place := core * 8 + eng
  coreLive s core && (engQueue (getSlot s (2 * core)) eng).isEmpty && (engQueue (getSlot s (2 * core + 1)) eng).isEmpty
    && !(s.slots.any fun e => (classOf eng).any fun f => (engQueue e.2 f).any fun c => c.pulled == some place && c.status.isNone)
    && !placePaused s place
/-- The queue that an idle engine pulls from: of its cluster and class, with the most commands not started, then the lower core,
then the lower channel: slot, engine, command. -/
def pullSource (s : State) (core eng : Nat) : Option (Nat × Nat × Cmd) :=
  let slots := (List.range 16).map fun i => core / 8 * 16 + i
  let all := slots.flatMap fun k => (classOf eng).filterMap fun e =>
    if coreOf k = core ∧ e = eng then none
    else (pullFrom s k e).map fun c => (k, e, c)
  let size (a : Nat × Nat × Cmd) : Nat := (waitingCmds s a.1 a.2.1).length
  let before (a b : Nat × Nat × Cmd) : Bool :=
    decide (size b < size a) || (size a == size b && decide (coreOf a.1 * 8 + a.2.1 < coreOf b.1 * 8 + b.2.1))
  all.foldl (fun (m : Option (Nat × Nat × Cmd)) a => match m with
    | some b => if before a b then some a else m
    | none => some a) none
/-- COMMAND_PULL: the idle engine `eng` of the slot's core pulls a command, unless a lower idle engine of its cluster and class
goes first (R165). -/
def execCommandPull (slot eng : Nat) (s : State) : Host.Outcome State Fault Refusal :=
  let core := coreOf slot
  let lower := (List.range 8).any fun i => (classOf eng).any fun e =>
    let c := core / 8 * 8 + i
    decide (c * 8 + e < core * 8 + eng) && engineIdle s c e && (pullSource s c e).isSome
  .next <|
    if !s.running || isUnit slot || decide (6 ≤ eng) || !engineIdle s core eng || lower then s else
      match pullSource s core eng with
      | some (k, e, c) =>
        enqueue (updCmd s k e c.uid fun c => { c with pulled := some (core * 8 + eng) }) (.work k e c.uid)
      | none => s

/-! ## The deadlock count (07 R175) -/

/-- A sequencer stands in a state that R175 counts. -/
def counted (x : Slot) (q : SeqSt) : Bool := q.waiting || q.tend || !(holding x.tok q.outst).isEmpty
/-- DECOUPLE_DEADLOCK: cycles go by in which every sequencer of a slot stands in such a state; at 2^20 in a row the slot traps. -/
def execDecoupleDeadlock (slot cycles : Nat) (s : State) : Host.Outcome State Fault Refusal :=
  let x := getSlot s slot
  let qs := [x.k, x.l, x.c, x.s]
  .next <|
    if !s.running || isUnit slot || !coreLive s (coreOf slot) || x.task.isNone || x.mode != .user || x.held || x.armed.isSome
        || !qs.all (counted x) || qs.all (·.tend) then s
    else
      let n := x.deadlock + cycles
      let s := updSlot s slot fun x => { x with deadlock := min n (2 ^ 20) }
      if n < 2 ^ 20 then s else takeTrap s slot .K x.k.pc { cause := 9 }

/-! ## Counters and soft errors (11 R283) -/

/-- ECC_COUNTER_READ: the correction counters of a die are read, which clears them. -/
def execEccCounterRead (die : Nat) (s : State) : Host.Outcome State Fault Refusal :=
  .next <|
    if !s.running || decide (4 ≤ die) then s else
      let (s, v) := ctlRead s die (0x200000 + 8 * die)
      { s with replies := s.replies ++ [.data v.toNat] }

/-- The difference that flipping bits of a granule under an unchanged code makes to its code difference. -/
def granFlip (d flip : BitVec 128) : BitVec 16 := granuleCode d ^^^ granuleCode (d ^^^ flip)
/-- A scalar entry with a bit flipped under its code. -/
def flipWord (w : SWord) (bit : Nat) : SWord :=
  let v := w.val ^^^ (1#64 <<< (bit % 64))
  { w with val := v, syn := w.syn ^^^ wordCode w.val ^^^ wordCode v }
/-- A vector entry with a bit flipped under its codes. -/
def flipVec (w : VWord) (bit : Nat) : VWord :=
  let b := bit % 2048
  let flip : BitVec 2048 := 1#2048 <<< b
  let d := w.val.extractLsb' (b / 128 * 128) 128
  let y : BitVec 256 := (granFlip d (1#128 <<< (b % 128))).setWidth 256 <<< (16 * (b / 128))
  { val := w.val ^^^ flip, syn := w.syn ^^^ y }
/-- A saturating 32-bit count plus one. -/
def satInc (c : BitVec 32) : BitVec 32 := if c = BitVec.allOnes 32 then c else c + 1
/-- Count a correction where it was made: in a stack, or on the SRAM die. -/
def countCorrection (s : State) (l : Loc) : State :=
  match dieOf l with
  | some d => updDie s d fun d =>
      if l < 12 * 2 ^ 36 then { d with hbmcorr := satInc d.hbmcorr } else { d with sramcorr := satInc d.sramcorr }
  | none => s
/-- Flip a bit of a bank's element under the code of its run of four. -/
def flipAcc (b : Acc) (byte bit : Nat) : Acc :=
  let i := byte / 4 % 16384
  let at_ := byte % 4 * 8 + bit % 8
  let run (b : Acc) : BitVec 128 := BitVec.ofNat 128 (natOf ((List.range 4).flatMap fun k =>
    bytesOf 4 (kvGet 0 b.elems (i / 4 * 4 + k)).toNat))
  let y := granFlip (run b) (1#128 <<< (32 * (i % 4) + at_))
  { elems := kvSet 0 b.elems i (kvGet 0 b.elems i ^^^ (1#32 <<< at_)), syns := kvSet 0 b.syns (i / 4) (kvGet 0 b.syns (i / 4) ^^^ y) }
/-- An entry of a data queue with a bit flipped. -/
def flipEnt (e : QEnt) (bit : Nat) : QEnt :=
  { e with val := e.val.map fun v => match v with | .s w => .s (flipWord w bit) | .v w => .v (flipVec w bit) }

/-- The die in whose system region a location lies; its directory slice lies there (01 R14). -/
def inSysRegion (l : Loc) : Option Nat :=
  if 0x2000000000000 ≤ l ∧ l < 0x2000400000000 ∧ 0x10000000 ≤ l % 2 ^ 32 then dieOf l else none
/-- SOFT_ERROR: a stored bit flips on its own, or the ECC beneath meets an error, which in a die's directory or system region fences
the die (01 R29). -/
def execSoftError (t : UpsetTarget) (s : State) : Host.Outcome State Fault Refusal :=
  .next <|
    match t with
    | .dataBit l bit =>
      let g := l / 16
      let d := BitVec.ofNat 128 (readNat s.mem (16 * g) 16)
      let y := granFlip d (1#128 <<< (l % 16 * 8 + bit % 8))
      let y := if hostLine (l / 64) then 0 else granSyn s.mem g ^^^ y
      { s with mem := setGranSyn (writeByte s.mem l (readByte s.mem l ^^^ (1#8 <<< (bit % 8)))) g y }
    | .corrected l => countCorrection s l
    | .uncorrectable l =>
      let s := { s with mem := setLineMeta s.mem (l / 64) (lineMeta s.mem (l / 64) ||| 8#8) }
      match inSysRegion l with
      | some d => if s.running then fenceDie s d else s
      | none => s
    | .mainReg slot q m bit =>
      updSeq s ⟨slot, q⟩ fun v => { v with main := vset v.main (BitVec.ofNat 5 m) (flipWord (vget v.main (BitVec.ofNat 5 m)) bit) }
    | .vecReg slot m bit =>
      updSlot s slot fun x => { x with vmain := vset x.vmain (BitVec.ofNat 5 m) (flipVec (vget x.vmain (BitVec.ofNat 5 m)) bit) }
    | .queue1 slot bit =>
      updSlot s slot fun x =>
        let l := vget x.queues 1
        { x with queues := vset x.queues 1 (l.mapIdx fun i e => if i = bit / 2048 then flipEnt e (bit % 2048) else e) }
    | .acc slot bank byte bit =>
      updSlot s slot fun x => if bank then { x with acc1 := flipAcc x.acc1 byte bit } else { x with acc0 := flipAcc x.acc0 byte bit }
    | .voted slot a b c => updSlot s slot fun x => { x with vote := some (a, b, c) }

end Sys2Proof.Machine
end

