-- ==== Sys2Proof/Machine/Futures.lean ====
section
/-! DEFINITION. Futures: FWAIT, FFILL, FTEST (05 R142-R144, 15 R385). -/

namespace Sys2Proof.Machine

/-- The future is full. -/
def futureFull (v : Word) : Bool := v.msb
/-- An empty future whose address fields break R142. -/
def futureBad (v : Word) : Bool := !v.msb && (v.extractLsb' 57 6 != 0 || v.extractLsb' 0 4 != 0)
/-- The node that an empty future names, 0 for none: address bits [56:4]. -/
def futureNode (v : Word) : Word := (v.extractLsb' 4 53 ++ 0#4).signExtend 64

/-- Compare a word at its home with an old value and release a new one there: none where it has changed. -/
def casRelease (s : State) (slot : Nat) (sp : Span) (old new : Word) : Risk (State × Bool) :=
  match atomicAt s slot sp 8 .rel fun m => if m = old.toNat then some new.toNat else none with
  | .ok (s, m) => .ok (s, m == old.toNat)
  | .error b => .error b

/-- FTEST (15 R385). -/
def execFtest (n : Nib) (d : Dest) (a : Opnd) (s : State) : Host.Outcome State Fault Refusal :=
  issueWord (.ftest n d a) n (some (.scalar d)) { scalars := [a] }
    (syncAccess a { r := true } fun s t sp =>
      match acquireRead s t.slot (isSup s t) sp with
      | .error b => .bad s b
      | .ok (s, v) => .done (putResult s t d v)) s

/-- Store a deferred-read node for the filler to read: its next node and its continuation. -/
def storeNode (s : State) (slot : Nat) (sps : List Span) (node next cont : Word) : Risk State :=
  match performOp s slot (.plain sps (next.toNat + cont.toNat * 2 ^ 64)) with
  | .ok s => .ok (writeBackRange s (coreOf slot) (getSlot s slot).job 5 [(node.toNat, 16)])
  | .error b => .error b

/-- Every sequencer of a parked task stops before its oldest unissued word; the task ends when what has issued is complete
(15 R385). -/
def parkTask (s : State) (slot : Nat) : State :=
  let stop (q : SeqSt) : SeqSt := { q with tend := true }
  checkEnd (updSlot s slot fun x => { x with k := stop x.k, l := stop x.l, c := stop x.c, s := stop x.s }) slot

/-- FWAIT's effect (05 R143, 15 R385). An empty future is looked at again by the supervisor, which has no task to park. -/
def fwaitEff (a b c : Opnd) (s : State) (t : Thread) : Res :=
  let node := srcVal s t b
  let cont := srcVal s t c
  syncAccess a { r := true, w := true } (fun s t sp =>
    match acquireRead s t.slot (isSup s t) sp with
    | .error e => .bad s e
    | .ok (s', v) =>
      if futureFull v then .done (putResult s' t .push (v &&& 0x7FFFFFFFFFFFFFFF#64))
      else if futureBad v then .trap s { cause := 20, addr := sp.va }
      else if isSup s t then .wait s false
      else if (getSlot s t.slot).regionOpen then .trap s { cause := 10 }
      else
        aligned s node 16 <| access s t node 16 { w := true } fun s nsp =>
          match storeNode s t.slot nsp node v cont with
          | .error e => .bad s e
          | .ok s1 =>
            match casRelease s1 t.slot sp v ((node.extractLsb' 4 53 ++ 0#4).setWidth 64) with
            | .error e => .bad s1 e
            | .ok (s1, true) => .done (parkTask s1 t.slot)
            | .ok (_, false) => .wait s false) s t
/-- FWAIT (15 R385). -/
def execFwait (n : Nib) (a b c : Opnd) (s : State) : Host.Outcome State Fault Refusal :=
  issueWord (.fwait n a b c) n (some (.scalar .push)) { scalars := [a, b, c] } (fwaitEff a b c) s

/-- The deferred-read nodes that an FFILL will read, as far as it looks before its CAS: a fault of one of them traps at the word (04 R101;
log 44). -/
def nodesReach (t : Thread) : Nat → State → Word → (State → Res) → Res
  | 0, s, _, k => k s
  | fuel + 1, s, node, k =>
    if node = 0 then k s else
      access s t node 16 { r := true } fun s sps =>
        match sps with
        | sp :: _ =>
          (match homeRead s (some (clusterOf (coreOf t.slot))) { sp with len := 16 } 16 with
           | .error p => .bad s (.of p (seqNum t.seq) node (sp.loc / 16))
           | .ok (_, v, _) => nodesReach t fuel s (futureNode (BitVec.ofNat 64 v)) k)
        | [] => .wait s false

/-- FFILL's effect (05 R143): the CAS performs, and the word is outstanding until every continuation of the list has been pushed. -/
def ffillEff (a b : Opnd) (s0 : State) (t : Thread) : Res :=
  let new := srcVal s0 t b ||| 0x8000000000000000#64
  syncAccess a { r := true, w := true } (fun s t sp =>
    match if isSup s t then .ok s else escape s t.slot s.nextUid escSig with
    | .error e => .bad s e
    | .ok s1 =>
      match acquireRead s1 t.slot true sp with
      | .error e => .bad s1 e
      | .ok (s1, v) =>
        if futureFull v then .trap s { cause := 21, addr := sp.va }
        else if futureBad v then .trap s { cause := 20, addr := sp.va }
        else
          match nodesReach t 4096 s1 (futureNode v) (fun s1 =>
              match casRelease s1 t.slot sp v new with
              | .error e => .bad s1 e
              | .ok (_, false) => .wait s false
              | .ok (s1, true) =>
                let (tag, s1) := takeUid s1
                .pend (enqueue s1 (.fill t.slot)) tag (.fill (futureNode v))) with
          | .trap _ tr => .trap s tr
          | .wait _ r => .wait s r
          | r => r) s0 t
/-- FFILL (15 R385). -/
def execFfill (n : Nib) (a b : Opnd) (s : State) : Host.Outcome State Fault Refusal :=
  issueWord (.ffill n a b) n none { scalars := [a, b] } (ffillEff a b) s

end Sys2Proof.Machine
end

