-- ==== Sys2Proof/Machine/HostIf.lean ====
section
/-! DEFINITION. What the host and the management put in: register writes, accesses to device memory, snoops, and the fabric
tables (00 R9, 02 R34, R41, 03 R65, R66, 04 R100, R107-R109, 11 R281). -/

namespace Sys2Proof.Machine

/-- The host ports answer: the package runs, or its start stopped at step 10, after the ports had trained, and the host may read the
start record (01 R27, R28, 03 R67). -/
def hostUp (s : State) : Bool :=
  s.running || (s.boot.resetN && s.boot.pwrgood && !s.boot.frozen && !s.boot.clean && s.master.isSome)
/-- What stands at the head of the host ports' queue, if they answer, with the state once it is taken. -/
def headHost (s : State) : Option (HostIn × State) :=
  match hostUp s, s.hostIn with
  | true, h :: t => some (h, { s with hostIn := t })
  | _, _ => none

/-- SRQ_WRITE: the supervisor reads SRQ again (03 R66). -/
def execSrqWrite (s : State) : Host.Outcome State Fault Refusal :=
  .next (match headHost s with | some (.srq v, s) => setSrq s v | _ => s)
/-- SEVQ_WRITE: the supervisor reads SEVQ again (03 R66). -/
def execSevqWrite (s : State) : Host.Outcome State Fault Refusal :=
  .next (match headHost s with | some (.sevq v, s) => setSevq s v | _ => s)

/-- Load a route-table entry; a lost device rejoins with it, once a fresh window has been loaded (02 R34, R61; log 105). -/
def loadRoute (s : State) (dst : BitVec 12) (mask : BitVec 18) : State :=
  let s := unhold { s with routes := kvSet 0 s.routes dst.toNat mask }
  if s.lostDevs.contains dst && s.freshWins.contains dst then
    { s with lostDevs := s.lostDevs.filter (fun d => d != dst), freshWins := s.freshWins.filter (fun d => d != dst)
             heard := kvErase s.heard dst.toNat }
  else s
/-- Load an inbound window, or take it away (02 R41): 256 entries, sizes in multiples of 64 KiB. A window loaded is fresh for every
device that is lost. -/
def loadWindow (s : State) (i : Nat) (w : Option Window) : State :=
  if 256 ≤ i then s
  else
    match w with
    | none => { s with windows := kvErase s.windows i }
    | some w => if w.size % 65536 = 0 then { s with windows := kvInsert i w s.windows, freshWins := s.lostDevs } else s
/-- Load an outbound fabric window, or take it away: in the range that 01 R16 leaves free, in multiples of 64 KiB (08 R200; log 16). -/
def loadOutWindow (s : State) (i : Nat) (w : Option OutWin) : State :=
  match w with
  | none => { s with outWins := kvErase s.outWins i }
  | some w =>
    if w.size % 65536 = 0 ∧ w.base % 65536 = 0 ∧ w.pa % 65536 = 0 ∧ farLoc w.base ∧ w.base + w.size ≤ 2 ^ 51 then
      { s with outWins := kvInsert i w s.outWins }
    else s
/-- A request signed by Lanimor raises the fused minimum of an image kind; a minimum never falls (03 R87; log 106). -/
def raiseMinimum (s : State) (kind : Nat) (svn : Word) (sig : List Byte) : State :=
  let old := s.boot.minSvn.getD kind 0
  if kind < 8 ∧ old.ult svn ∧ Config.mldsaOk Config.rootKey (BitVec.ofNat 8 kind :: bytesOf 8 svn.toNat) sig then
    { s with boot := { s.boot with minSvn := s.boot.minSvn.set kind svn } }
  else s
/-- REGISTER_WRITE: a register of the host-interface block, by its access codes (00 R9); the rest of BAR0 is not the host's (03 R65).
The supervisor's loading of the fabric tables comes this way too (log 24), and so does the power limit that the board's controller
sets on LGN4-PKG (01 R22), the supervisor's setting of the pre-emption delay (05 R145) and what it makes of a task that met a machine check
(05 R137), a signed rise of a fused minimum (03 R87), and word that a checkpoint's target takes bytes (03 R85; log 36). -/
def execRegisterWrite (s : State) : Host.Outcome State Fault Refusal :=
  .next <|
    match headHost s with
    | some (.reg die off v, s) => if off < 0x1000 then ctlWrite s die off v else s
    | some (.route d m, s) => loadRoute s d m
    | some (.window i w, s) => loadWindow s i w
    | some (.outWindow i w, s) => loadOutWindow s i w
    | some (.device id, s) => { s with devId := id }
    | some (.progress, s) => if s.ckStage = 2 then { s with ckAt := s.time } else s
    | some (.minimum kind svn sig, s) => raiseMinimum s kind svn sig
    | some (.delay ns, s) => if 10000 ≤ ns ∧ ns ≤ 10000000 then { s with delay := ns } else s
    | some (.dispose slot replay, s) => if s.running then disposeTask s slot replay else s
    | some (.limit w, s) => if Config.boardLimit then { s with power := { s.power with limit := w } } else s
    | _ => s

/-! ## Device memory (04 R107, R109, 11 R281) -/

/-- Before the host's access of a line is served, a region in device-bias is flipped; the access is counted (R107, R109). -/
def hostTouch (s : State) (line : Nat) : State :=
  let r := line / 1024
  let s := if hostBias s r then s else setBias (recallRegion s r) r true
  let die := r * 65536 / 2 ^ 36 / 3
  match kvFind s.counts (countKey die r) with
  | none => s
  | some c =>
    let th := migThreshold s c false
    let n := if th = 0 then c.host else min 0xFFFF (c.host + 1)
    let s := { s with counts := kvInsert (countKey die r) { c with host := n } s.counts }
    if th ≠ 0 ∧ th ≤ n then enqueue s (.event (.migrate die r false)) else s

/-- Granules of a line at its home that a port's check finds bad (R281). -/
def badMask (s : State) (line : Nat) : BitVec 4 :=
  let p := poisoned (homeMeta s line)
  let b (g : Nat) : Nat := if (homeGran s line g).syn ≠ 0 ∨ p then 2 ^ g else 0
  BitVec.ofNat 4 (b 0 + b 1 + b 2 + b 3)
/-- The lines of n bytes from a location. -/
def linesOf (loc n : Nat) : List Nat := if n = 0 then [] else (List.range ((loc + n - 1) / 64 - loc / 64 + 1)).map fun i => loc / 64 + i

/-- A host read of a line: a bad granule is reported, and the data goes out poisoned. -/
def hostReadLine (a : State × Bool) (line : Nat) : State × Bool :=
  let s := hostTouch a.1 line
  let m := badMask s line
  if m = 0 then (s, a.2) else (portError s line m (poisoned (homeMeta s line)), true)

/-- One granule of a line under a host write (R281). -/
def hostGran (old : CGran) (poison : Bool) (p : LinePut) (g : Nat) : BitVec 128 × BitVec 16 :=
  let m := granBits p.mask g
  let d := (old.data &&& ~~~m) ||| (granBits p.data g &&& m)
  if m = 0 then (old.data, old.syn)
  else if m = BitVec.allOnes 128 then (d, 0)
  else if old.syn != 0 || poison then (d, 0xFFFF#16)
  else (d, 0)
/-- A host write to part of a line: never refused; what it covers in part and was bad stays detectable, and is reported. -/
def hostWriteLine (r : RunPut) (s : State) (line : Nat) : State :=
  let s := hostTouch s line
  let p := r.part line
  let md := homeMeta s line
  let bad := badMask s line
  let put (s : State) (g : Nat) : State :=
    if granBits p.mask g = 0 then s else
      let (d, y) := hostGran (homeGran s line g) (poisoned md) p g
      putHomeGran s line g d y
  let t := put (put (put (put s 0) 1) 2) 3
  let md' := metaAfter md p
  let t := lineWritten (clearRanges (if md' = md then t else putHomeMeta t line md') (max r.loc (64 * line))
    (min (r.loc + r.n) (64 * line + 64) - max r.loc (64 * line))) line
  if bad ≠ 0 ∧ p.mask ≠ BitVec.allOnes 512 then portError t line bad (poisoned md) else t

/-- The range of device memory that the host sees (03 R63). -/
def hdm (pa n : Nat) : Bool := decide (pa + n ≤ 0xC000000000)
/-- The storage locations of n bytes of the interleaved alias, region by region. -/
def hdmRuns : Nat → Nat → Nat → List (Nat × Nat)
  | 0, _, _ => []
  | fuel + 1, pa, n =>
    if n = 0 then [] else
      let k := min n (65536 - pa % 65536)
      match locate pa with
      | some (loc, _) => (loc, k) :: hdmRuns fuel (pa + k) (n - k)
      | none => []
/-- The bytes of host-visible runs. -/
def runsBytes (s : State) (l : List (Nat × Nat)) : List Byte := l.flatMap fun e => (List.range e.2).map fun i => readByte s.mem (e.1 + i)

/-- An access of the host waits: a flip of its region has been asked for before it, whose turn comes first (04 R108), or a table write of
the host before it is not complete (R100). -/
def hostWaits (s : State) (pa n : Nat) : Bool :=
  !s.drops.isEmpty || (hdmRuns (n / 65536 + 2) pa n).any fun e => s.flips.any fun f => f.region == e.1 / 65536

/-- HOST_MEM_READ: served at the home; caches of the device are not snooped (R107). A read through BAR0 answers its register, and zero
past the host-interface block (03 R65). -/
def execHostMemRead (s : State) : Host.Outcome State Fault Refusal :=
  match headHost s with
  | some (.read pa n, s') =>
    if !hdm pa n then .fault (.noStorage (BitVec.ofNat 64 pa))
    else if hostWaits s pa n then .next (hold s (.event .hostMemRead))
    else
      let s := s'
      let l := hdmRuns (n / 65536 + 2) pa n
      let (s, bad) := (l.flatMap fun e => linesOf e.1 e.2).foldl hostReadLine (s, false)
      .next { s with replies := s.replies ++ [.read (runsBytes s l) bad] }
  | some (.bar die off, s) =>
    if off < 0x1000 then
      let (s, v) := ctlRead s die off
      .next { s with replies := s.replies ++ [.data v.toNat] }
    else .next { s with replies := s.replies ++ [.data 0] }
  | _ => .next s

/-- Write runs of a value, line by line. -/
def hostWriteRuns : List (Nat × Nat) → Nat → State → State
  | [], _, s => s
  | (loc, k) :: t, v, s =>
    hostWriteRuns t (v / 256 ^ k) ((linesOf loc k).foldl (hostWriteLine { loc, n := k, v, syns := none, stamp := none }) s)
/-- HOST_MEM_WRITE: merged at the home with fresh codes. -/
def execHostMemWrite (s : State) : Host.Outcome State Fault Refusal :=
  match headHost s with
  | some (.write pa n v, s') =>
    if !hdm pa n then .fault (.noStorage (BitVec.ofNat 64 pa))
    else if hostWaits s pa n then .next (hold s (.event .hostMemWrite))
    else let s := s'; .next (hostWriteRuns (hdmRuns (n / 65536 + 2) pa n) v s)
  | _ => .next s

/-- HOST_SNOOP: the host takes a line of its memory back (04 R100): modified copies go to it, every copy and every translation
derived from the line is dropped, and the line may then hold what the host has written. -/
def execHostSnoop (s : State) : Host.Outcome State Fault Refusal :=
  .next <|
    match headHost s with
    | some (.snoop pa data, s) =>
      let line := pa / 64
      if !hostLine line then s
      else
        let held := s.clines.filter fun e => e.1 % 2 ^ 64 == line
        let s := held.foldl (fun s e => purge s (e.1 / 2 ^ 64) line) s
        let s := { s with ccache := s.ccache.filter fun e => e.1 % 2 ^ 64 != line }
        let s := match data with
          | some d =>
            let put (s : State) (g : Nat) : State := putHomeGran s line g (granBits d g) 0
            putHomeMeta (clearRanges (put (put (put (put s 0) 1) 2) 3) (64 * line) 64) line 0
          | none => s
        lineWritten s line
    | _ => s

end Sys2Proof.Machine
end

