-- ==== Sys2Proof/Machine/Imm.lean ====
section
/-! DEFINITION. Class 0x40, immediates and CMPI (14 R350-R352). -/

namespace Sys2Proof.Machine

/-- Sign-extended imm14 (14 R350). -/
def aluLi (d : Dest) (imm : BitVec 14) : Alu := alu0 d (imm.signExtend 64)
/-- LI (14 R350). -/
def execLi (n : Nib) (d : Dest) (imm : BitVec 14) (s : State) : Host.Outcome State Fault Refusal :=
  issueAlu (.li n d imm) n (aluLi d imm) s

/-- The extension word sign-extended (14 R350). -/
def aluLiw (d : Dest) (imm : BitVec 32) : Alu := alu0 d (imm.signExtend 64)
/-- LIW (14 R350). -/
def execLiw (n : Nib) (d : Dest) (imm : BitVec 32) (s : State) : Host.Outcome State Fault Refusal :=
  issueAlu (.liw n d imm) n (aluLiw d imm) s

/-- The low half of a under the extension word (14 R350). -/
def aluLihi (d : Dest) (a : Opnd) (imm : BitVec 32) : Alu := alu1 d a fun x => imm ++ x.extractLsb' 0 32
/-- LIHI (14 R350). -/
def execLihi (n : Nib) (d : Dest) (a : Opnd) (imm : BitVec 32) (s : State) : Host.Outcome State Fault Refusal :=
  issueAlu (.lihi n d a imm) n (aluLihi d a imm) s

/-- The sum with a sign-extended immediate (14 R351). -/
def aluAddi (f : Opnd) (imm : BitVec 14) : Alu := alu1 (aiDest f) f fun x => x + imm.signExtend 64
/-- ADDI (14 R351). -/
def execAddi (n : Nib) (f : Opnd) (imm : BitVec 14) (s : State) : Host.Outcome State Fault Refusal :=
  issueAlu (.addi n f imm) n (aluAddi f imm) s

/-- Bitwise and with a sign-extended immediate (14 R351). -/
def aluAndi (f : Opnd) (imm : BitVec 14) : Alu := alu1 (aiDest f) f fun x => x &&& imm.signExtend 64
/-- ANDI (14 R351). -/
def execAndi (n : Nib) (f : Opnd) (imm : BitVec 14) (s : State) : Host.Outcome State Fault Refusal :=
  issueAlu (.andi n f imm) n (aluAndi f imm) s

/-- Bitwise or with a sign-extended immediate (14 R351). -/
def aluOri (f : Opnd) (imm : BitVec 14) : Alu := alu1 (aiDest f) f fun x => x ||| imm.signExtend 64
/-- ORI (14 R351). -/
def execOri (n : Nib) (f : Opnd) (imm : BitVec 14) (s : State) : Host.Outcome State Fault Refusal :=
  issueAlu (.ori n f imm) n (aluOri f imm) s

/-- Bitwise exclusive or with a sign-extended immediate (14 R351). -/
def aluXori (f : Opnd) (imm : BitVec 14) : Alu := alu1 (aiDest f) f fun x => x ^^^ imm.signExtend 64
/-- XORI (14 R351). -/
def execXori (n : Nib) (f : Opnd) (imm : BitVec 14) (s : State) : Host.Outcome State Fault Refusal :=
  issueAlu (.xori n f imm) n (aluXori f imm) s

/-- Left shift by an immediate (14 R351). -/
def aluShli (f : Opnd) (sh : BitVec 6) : Alu := alu1 (aiDest f) f fun x => x <<< sh.toNat
/-- SHLI (14 R351). -/
def execShli (n : Nib) (f : Opnd) (sh : BitVec 6) (s : State) : Host.Outcome State Fault Refusal :=
  issueAlu (.shli n f sh) n (aluShli f sh) s

/-- Logical right shift by an immediate (14 R351). -/
def aluShri (f : Opnd) (sh : BitVec 6) : Alu := alu1 (aiDest f) f fun x => x >>> sh.toNat
/-- SHRI (14 R351). -/
def execShri (n : Nib) (f : Opnd) (sh : BitVec 6) (s : State) : Host.Outcome State Fault Refusal :=
  issueAlu (.shri n f sh) n (aluShri f sh) s

/-- Arithmetic right shift by an immediate (14 R351). -/
def aluSrai (f : Opnd) (sh : BitVec 6) : Alu := alu1 (aiDest f) f fun x => x.sshiftRight sh.toNat
/-- SRAI (14 R351). -/
def execSrai (n : Nib) (f : Opnd) (sh : BitVec 6) (s : State) : Host.Outcome State Fault Refusal :=
  issueAlu (.srai n f sh) n (aluSrai f sh) s

/-- 1 where the condition holds against a sign-extended imm12, else 0, pushed (14 R352). -/
def aluCmpi (m : Cond) (a : Opnd) (imm : BitVec 12) : Alu :=
  alu1 .push a fun x => flagWord (condHolds m x (imm.signExtend 64))
/-- CMPI (14 R352). -/
def execCmpi (n : Nib) (m : Cond) (a : Opnd) (imm : BitVec 12) (s : State) : Host.Outcome State Fault Refusal :=
  issueAlu (.cmpi n m a imm) n (aluCmpi m a imm) s

end Sys2Proof.Machine
end

