-- ==== Sys2Proof/Machine/System.lean ====
section
/-! DEFINITION. SVC, TRAP, ERET, SNAP with the whole snapshot image, SNAPLD and TLBINV (07 R192-R198, 18 R437-R448). -/

namespace Sys2Proof.Machine

/-! ## SVC, TRAP (18 R442) -/

/-- SVC: the word issues, then K enters the supervisor with CAUSE 6. -/
def execSvc (n : Nib) (num : BitVec 14) (s : State) : Host.Outcome State Fault Refusal :=
  issueWord (.svc n num) n none {} (fun s _ => .trapAfter s { cause := 6, num, after := true }) s
/-- TRAP: the word issues, then the slot enters the supervisor with CAUSE 7. -/
def execTrap (n : Nib) (num : BitVec 14) (s : State) : Host.Outcome State Fault Refusal :=
  issueWord (.trap n num) n none {} (fun s _ => .trapAfter s { cause := 7, num, after := true }) s

/-! ## SNAP (18 R446) -/

/-- Write n bytes of a store at an address, page by page, with their codes; the spans were translated before. -/
def putStore (slot : Nat) (img : Store) : State → List Span → Nat → Risk State
  | s, [], _ => .ok s
  | s, sp :: t, off =>
    let part := extract img off sp.len
    let codes := part.syns.foldl (fun a e => a + e.2.toNat * 2 ^ (16 * e.1)) 0
    let val := part.cells.foldl (fun a e => a + e.2.toNat * 2 ^ (8 * e.1)) 0
    match storeSpans 11 slot (coreWho s slot) none s [sp] val (some codes) with
    | .ok s => putStore slot img s t (off + sp.len)
    | .error b => .error b

/-- A run of whole pages of storage, in spans of at most 4 KiB. -/
def pageSpans (l : List Span) : List Span :=
  l.flatMap fun sp => (List.range ((sp.len + 4095) / 4096)).map fun i =>
    { sp with va := sp.va + BitVec.ofNat 64 (4096 * i), loc := sp.loc + 4096 * i, len := min 4096 (sp.len - 4096 * i) }

/-- The least width of spans, and the release of a range at it: K's own dirty lines go home where it is not the core's. -/
def settleRange (s : State) (slot : Nat) (l : List Span) : State :=
  l.foldl (fun s sp => writeBackRange s (coreOf slot) (getSlot s slot).job sp.sw [(sp.va.toNat, sp.len)]) s

/-- SNAP's effect: the slot's words and relocated commands complete, what its engines hold is withdrawn, and the image and the
allocation are written at the width of their pages (18 R446). -/
def snapEff (f : Opnd) (s : State) (t : Thread) : Res :=
  let x := getSlot s t.slot
  if x.mode ≠ .handler ∨ x.task.isNone then .trap s { cause := 1 }
  else
    let va := srcVal s t f
    aligned s va 4096 <|
      access s t va (imageSize x.region.isSome) { w := true } fun s sps =>
        access s t (va + 0x40000) (allocSize x) { w := true } fun s aps =>
          if pending s t then .wait s false
          else
            let s := runPulled 100000 (stopWords s t.slot) t.slot
            let x := getSlot s t.slot
            if pulledLeft x || (undone x).any fun e => e.2.work != .none then .wait s false
            else
              let y := savedForm x
              match putStore t.slot (snapImage s t.slot y 3) s (pageSpans sps) 0 with
              | .error b => .bad s b
              | .ok s =>
                match putStore t.slot (extract s.mem (allocLoc x t.slot 0) (allocSize x)) s (pageSpans aps) 0 with
                | .error b => .bad s b
                | .ok s =>
                  let s := settleRange (settleRange s t.slot sps) t.slot aps
                  let (s, k) := keepSaved s t.slot y none 3
                  let taskid := y.task.map (·.taskid)
                  let s := { s with
                    snaps := s.snaps.filter (fun o => o.slot.task.map (·.taskid) != taskid) ++ [k]
                    subs := s.subs.filter fun b => b.slot != t.slot }
                  .done (kickCore (updSlot s t.slot fun x => { x with snapped := true, mq := [], gq := [], ctxs := .replicate _ [] }) t.slot)
/-- SNAP. -/
def execSnap (n : Nib) (f : Opnd) (s : State) : Host.Outcome State Fault Refusal :=
  issueWord (.snap n f) n none { scalars := [f] } (snapEff f) s

/-! ## ERET (18 R441) -/

/-- The task of a slot was cancelled while its supervisor ran. -/
def slotClosing (s : State) (slot : Nat) : Bool :=
  match (getSlot s slot).task with
  | some t => decide (3 ≤ (getJob s t.job).state) || (t.parent != 0 && levelClosing s t.job t.parent)
  | none => false

/-- The slot of a task that SNAP saved: free; its collectives and GMMAs go on beside the saved task. -/
def freeSnapped (s : State) (slot : Nat) : State :=
  let x := getSlot s slot
  match s.snaps.find? fun k => k.slot.task.map (·.taskid) == x.task.map (·.taskid) with
  | none => setSlot s slot (freedSlot x)
  | some k =>
    let owner := 2 ^ 21 + k.uid
    let s := { s with
      gcmds := s.gcmds.map fun (g : GCmd) => if g.owner = slot then { g with owner, paused := none } else g
      colls := s.colls.map fun (c : Coll) => if c.slot = slot then { c with slot := owner } else c }
    setSlot s slot (freedSlot x)

/-- ERET's effect: it moves K itself. A task cancelled meanwhile stops at the boundary (05 R120). -/
def eretEff (n : Nib) (s : State) (t : Thread) : Res :=
  let x := getSlot s t.slot
  if x.mode ≠ .handler ∨ n ≠ .none then .trap s { cause := 1 }
  else if x.snapped then .own (enqueue (freeSnapped s t.slot) .schedule)
  else
    let s := updSlot s t.slot fun x => { returnUser x with deadlock := 0 }
    let s := if slotClosing s t.slot then enqueue (cancelSlot s t.slot) (.event (.killDone x.job)) else s
    .own (kickSlot (checkEnd (resumeStores s t.slot) t.slot) t.slot)
/-- ERET. -/
def execEret (n : Nib) (s : State) : Host.Outcome State Fault Refusal :=
  issueWord (.eret n) n none {} (eretEff n) s

/-! ## SNAPLD (07 R198, 18 R447) -/

/-- Read whole pages with their codes into a store. -/
def takeStore (slot : Nat) : State → List Span → Nat → Store → Risk (State × Store)
  | s, [], _, m => .ok (s, m)
  | s, sp :: t, off, m =>
    match moveSpans 11 slot (coreWho s slot) s [sp] with
    | .error b => .error b
    | .ok (s, v, y) =>
      let cells := (List.range sp.len).filterMap fun i =>
        let b := BitVec.ofNat 8 (v / 256 ^ i)
        if b = 0 then none else some (i, b)
      let syns := (List.range (sp.len / 16)).filterMap fun i =>
        let c := BitVec.ofNat 16 (y / 2 ^ (16 * i))
        if c = 0 then none else some (i, c)
      takeStore slot s t (off + sp.len) (blit m { cells, syns, metas := [] } off sp.len)

/-- What SNAP kept of the other members of the gang of a kept task. -/
def keptGang (s : State) (k : Saved) : List Saved :=
  s.snaps.filter fun o => match k.slot.task, o.slot.task with
    | some a, some b => a.job == b.job && a.gang.any fun g => b.gang.any fun h => g.level == h.level
    | _, _ => false
/-- A gang whose first member is restored on another die takes its barriers there, and every member's map follows (05 R147, 07 R198 step
2). -/
def moveGang (s : State) (k : Saved) (die : Nat) : State :=
  if k.slot.task.any (fun t => t.gang.isSome) ∧ dieOfCore (coreOf k.place) ≠ die then
    let uids := (keptGang s k).map (·.uid)
    let (s, map) := moveBars s k die
    { s with snaps := s.snaps.map fun o =>
        if uids.contains o.uid then { o with slot := { o.slot with barmap := map }, place := die * 512 + o.place % 512 } else o }
  else s

/-- What the device kept of the task of an image. -/
def keptFor (s : State) (img : Store) : Option Saved :=
  s.snaps.find? fun k => match k.slot.task with
    | some t => t.taskid.toNat == readNat img 16 8 && t.job == readNat img 24 2 && t.record.toNat == readNat img 8 8
    | none => false

/-- The members of a gang that SNAPLD has restored and that stay stopped. -/
def heldMembers (s : State) (g : GangRef) (job : Nat) : List (Nat × Nat) :=
  s.slots.filterMap fun e =>
    match e.2.task with
    | some t => (match t.gang with
      | some h => if e.2.held ∧ t.job = job ∧ h.level = g.level then some (e.1, h.member) else none
      | none => none)
    | none => none

/-- The place of a member: a position of its shape whose core for the member is the issuing core and whose other members fit what stands
restored, on the die of the gang's barriers or, for the first member, on one that has as many free (05 R128, R147; log 46). -/
def memberPlace (s : State) (slot job : Nat) (g : GangRef) (kept : Option Saved) : Bool :=
  let core := coreOf slot
  let held := heldMembers s g job
  kept.all (fun k => dieOfCore core == dieOfCore (coreOf k.place)
    || (held.isEmpty && decide ((k.slot.barmap.toList.filter Option.isSome).length ≤ (freeBarNums s (dieOfCore core)).length)))
  && (shapeBases g.shape g.members).any fun b =>
    let cores := (shapeCores g.shape g.members b).map (core / 8 * 8 + ·)
    cores[g.member]? == some core && held.all fun h => cores[h.2]? == some (coreOf h.1)

/-- PLACEMENT (07 R198). -/
def placeBad (s : State) (slot : Nat) (img : Store) (kept : Option Saved) : Bool :=
  let core := coreOf slot
  let job := readNat img 24 2
  let flags := readNat img 2 2
  let gang := flags / 2 % 2 == 1
  let stage := flags / 4 % 2 == 1
  let mask := readNat img 35 1
  let here (k : Nat) : Bool := [0, 1].any fun i =>
    let x := getSlot s ((core / 8 * 8 + k) * 2 + i)
    x.task.isSome && x.job == job
  let gangBad : Bool := gang && match gangOfImage s img kept with
    | some g =>
      readNat img 32 1 != g.shape.toNat || readNat img 33 1 != g.member || readNat img 34 1 != g.members
        || !memberPlace s slot job g kept
    | none => true
  let stageBad : Bool := match stageOf s core with
    | some (h, i) => !(stage && h.job == job && h.hdr.toNat == readNat img 40 8 && i == readNat img 48 1) || movePending s h core
    | none => stage
  let nbrBad := mask != 0 && (core % 8 != readNat img 30 1 || (List.range 8).any fun k => mask / 2 ^ k % 2 == 1 && !here k)
  let map := placementBars s core img kept
  let bits := (List.range 16).foldl (fun a i => a + if (vget map (BitVec.ofNat 4 i)).isSome then 2 ^ i else 0) 0
  gangBad || stageBad || nbrBad || readNat img 0x1180 2 != bits

/-- The restored task's parts are the slot's again; the record of what was kept goes. -/
def rejoin (s : State) (slot : Nat) (k : Saved) : State :=
  rejoinSlot { s with snaps := s.snaps.filter fun o => o.uid != k.uid } slot k

/-- Resume a restored slot: held signals, an armed wait, waiting stores, its engines (R198 steps 4 to 6). -/
def resumeSlot (s : State) (slot : Nat) : State :=
  let s := updSlot s slot fun x => settle { x with held := false }
  kickSlot (checkEnd (resumeStores (wakeSlot s slot) slot) slot) slot

/-- A restored member stays stopped until every member of its gang that has not ended is restored; then all resume (18 R447). -/
def resumeMembers (s : State) (slot job : Nat) : Option GangRef → State
  | none => resumeSlot s slot
  | some g =>
    let s := updSlot s slot fun x => { x with held := true }
    let held := heldMembers s g job
    let left := match (unitRead s (jobCtx s job) g.level 8).2 with | some n => decide (held.length < n) | none => false
    if left then s else held.foldl (fun s h => resumeSlot s h.1) s

/-- SNAPLD's status for an image. -/
def snapldStatus (s : State) (t : Thread) (img : Store) : Nat :=
  let other := otherSlot t.slot
  if readNat img 0 2 ≠ 1 then 1
  else if imageBad img then 2
  else if placeBad s other img (keptFor s img) then 3
  else if !slotFree s other || 32 < readNat img 27 1 || !needFits s other (max 1 (readNat img 27 1)) then 4
  else 0

/-- SNAPLD's effect: the image's checks, then the other slot of the core loaded with it and with its allocation. -/
def snapldEff (f : Opnd) (s : State) (t : Thread) : Res :=
  let va := srcVal s t f
  let other := otherSlot t.slot
  aligned s va 4096 <|
    access s t va 0x1000 { r := true } fun s hps =>
      if pending s t then .wait s false
      else
        match takeStore t.slot s (pageSpans hps) 0 .empty with
        | .error b => .bad s b
        | .ok (s, head) =>
          let fin (s : State) (v : Nat) : Res := .done (putResult s t .push (BitVec.ofNat 64 v))
          if readNat head 0 2 ≠ 1 then fin s 1
          else
            access s t va (imageSize (readNat head 2 2 % 2 == 1)) { r := true } fun s sps =>
              match takeStore t.slot s (pageSpans sps) 0 .empty with
              | .error b => .bad s b
              | .ok (s, img) =>
                let st := snapldStatus s t img
                if st ≠ 0 then fin s st
                else
                  access s t (va + 0x40000) (max 1 (readNat img 27 1) * 65536) { r := true } fun s aps =>
                    match takeStore t.slot s (pageSpans aps) 0 .empty with
                    | .error b => .bad s b
                    | .ok (s, alloc) =>
                      let s := match keptFor s img with | some k => moveGang s k (dieOfCore (coreOf other)) | none => s
                      let kept := keptFor s img
                      let job := readNat img 24 2
                      let s := loadImage s other img kept
                      let x := getSlot s other
                      let s := { s with mem := blit s.mem alloc (allocLoc x other 0) (allocSize x) }
                      let s := dropRange s (coreOf other) job 5 [wholeRange]
                      let s := match kept with | some k => rejoin s other k | none => s
                      fin (resumeMembers s other job (x.task.bind (·.gang))) 0
/-- SNAPLD. -/
def execSnapld (n : Nib) (f : Opnd) (s : State) : Host.Outcome State Fault Refusal :=
  issueWord (.snapld n f) n (some (.scalar .push)) { scalars := [f] } (snapldEff f) s

/-! ## TLBINV (18 R448) -/

/-- Some access that a removed translation served is still under way. -/
def accessesLeft (s : State) : Bool := accessing s s.nextUid fun sp => !sp.walk.isEmpty
/-- Remove cached leaves on every die; the word completes when every access under them has performed. -/
def dropLeaves (hit : TlbEnt → Bool) (s : State) : Res :=
  let s := { s with tlb := s.tlb.filter (fun e => !hit e.2), ptrs := [] }
  if accessesLeft s then .wait s false else .done s

/-- tlbinv.range. -/
def tlbinvRangeEff (a b : Opnd) (s : State) (t : Thread) : Res :=
  let va := srcVal s t a
  let n := (srcVal s t b).toNat
  let x := getSlot s t.slot
  let job := if x.mode = .supTask then 0 else x.job
  if n = 0 then .done s
  else
    match leavesHalf va n with
    | some bad => .trap s { cause := 4, kind := kNonCanonical, addr := bad }
    | none =>
      dropLeaves (fun e => (e.job == job || e.leaf.getLsbD 53) && e.upper == upperHalf va
        && decide (e.base.toNat < va.toNat + n) && decide (va.toNat < e.base.toNat + e.size)) s
/-- TLBINV.RANGE. -/
def execTlbinvRange (n : Nib) (a b : Opnd) (s : State) : Host.Outcome State Fault Refusal :=
  issueWord (.tlbinvRange n a b) n none { scalars := [a, b] } (tlbinvRangeEff a b) s

/-- tlbinv.job. -/
def tlbinvJobEff (a : Opnd) (s : State) (t : Thread) : Res :=
  let j := (srcVal s t a).toNat
  if j = 0 ∨ 1023 < j then .done s else dropLeaves (fun e => e.job == j && !e.leaf.getLsbD 53) s
/-- TLBINV.JOB. -/
def execTlbinvJob (n : Nib) (a : Opnd) (s : State) : Host.Outcome State Fault Refusal :=
  issueWord (.tlbinvJob n a) n none { scalars := [a] } (tlbinvJobEff a) s

/-- TLBINV.ALL. -/
def execTlbinvAll (n : Nib) (s : State) : Host.Outcome State Fault Refusal :=
  issueWord (.tlbinvAll n) n none {} (fun s _ => dropLeaves (fun _ => true) s) s

end Sys2Proof.Machine
end

