-- ==== Sys2Proof/Machine/Jobs.lean ====
section
/-! DEFINITION. Requests to the supervisor: jobs and their kill, queues, the whole-memory checkpoint, attestation, staged firmware,
the warm reset and the fence command (03 R68-R90, 01 R26). -/

namespace Sys2Proof.Machine

/-! ## Answers -/

/-- The request at the head, if the package runs. -/
def headRequest (s : State) : Option (Request × Option (Nat × Word)) := if s.running then s.requests.head? else none
/-- The head request ends: its record, where it came by a queue (03 R77), and the next one is looked at. -/
def answer (s : State) (status fcode : Nat) : State :=
  match s.requests with
  | [] => s
  | (_, by_) :: rest =>
    let s := { s with requests := rest }
    kickRequests (match by_ with
      | some (job, desc) => reportSlot s job desc status fcode
      | none => s)
/-- The head request is refused (log 13). -/
def refuse (s : State) : State := answer s 2 fcRange
/-- A reply beside the record. -/
def reply (s : State) (r : Reply) : State := { s with replies := s.replies ++ [r] }

/-! ## CREATE_JOB (03 R68-R70) -/

/-- A job id that no job uses: free, or dead since. -/
def jobIdFree (s : State) (j : Nat) : Bool :=
  decide (1 ≤ j) && decide (j ≤ 1023) && ((getJob s j).state == 0 || (getJob s j).state == 4)
/-- A tag that no live job uses. -/
def tagFree (s : State) (t : BitVec 12) : Bool := !s.jobs.any fun e => e.2.jobtag == t && (e.2.state == 2 || e.2.state == 3)
/-- The id that the supervisor picks, else the lowest that is free (log 13). -/
def pickJob (s : State) (k : Nat) : Option Nat :=
  if jobIdFree s (Config.jobId k).toNat then some (Config.jobId k).toNat
  else ((List.range 1024).find? (jobIdFree s))
/-- The tag that the supervisor picks, else the lowest that is free. -/
def pickTag (s : State) (k : Nat) : BitVec 12 :=
  if tagFree s (Config.jobTag k) then Config.jobTag k
  else (((List.range 4096).map (BitVec.ofNat 12)).find? (tagFree s)).getD 0
/-- CREATE_JOB. -/
def execCreateJob (s : State) : Host.Outcome State Fault Refusal :=
  .next <|
    match headRequest s with
    | some (.createJob r, _) =>
      let (k, t) := draw s
      (match if r.weight = 0 ∨ 255 < r.weight then none else pickJob s k with
       | none => refuse s
       | some j =>
         let tag := pickTag s k
         let t := setJob t j { Job.free with
           jobtag := tag, state := 2, weight := r.weight, maxprio := r.maxprio, flags := r.flags.setWidth 8,
           ptroot := r.ptroot, evq := r.evq, jobsync := r.jobsync, policy := r.policy, migth := r.migth, spill := r.spill, save := r.save }
         reply (answer t 0 0) (.job j tag))
    | _ => s

/-! ## KILL_JOB (03 R81, R82) -/

/-- The commands and subscriptions that came to a job by queues: each leaves a record with status ABORTED, in order. -/
def abortQueued (s : State) (job : Nat) : State :=
  let s := (List.range 4).foldl (fun s die =>
    let k := unitSlot die job
    let x := getSlot s k
    let s := (List.range 4).foldl (fun s eng => (engQueue x eng).foldl (fun s c =>
      match c.queue with
      | some desc =>
        queueDone s job desc (queueRecord (c.status.getD 4) c.finalCode (pkKind c.pkt)
          (match c.res with | some r => r.rver.toNat | none => 0) (pkTag c.pkt) (doneBytes eng c) c.sats 0)
      | none => s) s) s
    let places := (List.range 4).flatMap fun eng => ((engQueue x eng).filter fun c => c.paused.isSome).map fun c => c.place k eng
    places.foldl kickPlace { s with slots := s.slots.filter fun e => e.1 != k }) s
  let s := (s.subs.filter fun b => b.job == job).foldl (fun s b =>
    match b.origin with
    | .queue desc => queueDone s job desc (queueRecord (b.status.getD 4) b.fcode 9 0 (pkTag b.pkt.toNat) (subBytes b) 0 0)
    | .record _ => s) s
  let s := { s with subs := s.subs.filter fun b => b.job != job }
  -- requests accepted whose collectives have not begun to exchange; one that has leaves no record (R82)
  let s := (s.colls.filter fun c => c.job == job && c.status.isNone && decide (c.phase < 2)).foldl (fun s c =>
    match c.queue with
    | some q => queueDone s job q (queueRecord 4 0 10 c.ver (pkTag c.d) 0 0 0)
    | none => s) s
  (s.hqueues.filter fun q => q.job == job && q.pkt.isSome).foldl (fun s q =>
    reportSlot (setHqueue s { q with pkt := none }) job q.desc 4 0) s

/-- What a kill leaves of a job beside its tasks is gone: saved tasks, collectives, linked gangs, held Regulator steps. -/
def dropJob (s : State) (job : Nat) : State :=
  { s with
    colls := s.colls.filter fun c => c.job != job
    lgangs := s.lgangs.filter fun g => g.job != job
    snaps := s.snaps.filter fun t => t.slot.job != job
    deferred := s.deferred.filter fun d => d.1 != job }

/-- Steps 1 to 3 of R81: what has issued performs as the tasks stop (step 4). -/
def killJob (s : State) (job : Nat) : State :=
  let s := setJob s job { getJob s job with state := 3 }
  let s := cancelLevel s job 0
  enqueue (dropJob (abortQueued s job) job) (.event (.killDone job))
/-- KILL_JOB: it waits for the end of a checkpoint; a job that is killing or dead answers at once. -/
def execKillJob (s : State) : Host.Outcome State Fault Refusal :=
  .next <|
    match headRequest s with
    | some (.killJob j, _) =>
      if s.ckbusy then s
      else
        (match (getJob s j).state with
         | 2 => answer (killJob s j) 0 0
         | 3 => answer s 0 0
         | 4 => answer s 0 0
         | _ => refuse s)
    | _ => s

/-- Nothing of a killed job is left at work, and every write that it sent to another device is acknowledged or lost (R81 steps 2 to 4). -/
def killQuiet (s : State) (job : Nat) : Bool :=
  !s.outWrs.any (fun w => w.job == job && !w.lost) && !s.slots.any (fun e => slotJob s e.1 == job && (isUnit e.1 || e.2.task.isSome))
    && !s.subs.any (fun b => b.job == job) && !s.colls.any fun c => c.job == job
/-- KILL_DONE: steps 5 and 6 of R81. -/
def execKillDone (job : Nat) (s : State) : Host.Outcome State Fault Refusal :=
  .next <|
    let j := getJob s job
    if !s.running || j.state != 3 || !killQuiet s job then s else
      let e (s : State) : Event := { unitEvent s 0x06 81 job 0 0 with job }
      let s := setJob s job { j with state := 4 }
      let s := postSup (postJob s job (e s)) (e s)
      { dropJob s job with
        windows := s.windows.filter fun w => w.2.tag != j.jobtag
        tlb := s.tlb.filter fun t => t.2.job != job
        ptrs := s.ptrs.filter fun t => t.2.job != job
        parked := s.parked.filter fun p => p.2.1 % 1024 != job
        hqueues := s.hqueues.filter fun q => q.job != job }
/-- HOST_COMPLETION_TIMEOUT: host-port writes of a killed job count as resolved. Writes of the model perform at once, so that none is
unresolved and the kill goes on. -/
def execHostCompletionTimeout (job : Nat) (s : State) : Host.Outcome State Fault Refusal :=
  .next (if s.running && (getJob s job).state == 3 then enqueue s (.event (.killDone job)) else s)

/-! ## CREATE_QUEUE and DESTROY_QUEUE (03 R68, R71) -/

/-- TARGET names a copy channel. -/
def targetOk (g : Nat) : Bool :=
  decide (g % 256 < 4) && decide (g / 256 % 256 < 24) && decide (g / 65536 % 256 < 8) && decide (g / 2 ^ 24 < 4)
/-- The fields of a descriptor obey R71. A job's own queue is never of kind 3, whose packets are the host driver's (log 35). -/
def descOk (job : Nat) (desc : Word) (d : QDesc) : Bool :=
  desc.toNat % 64 == 0 && d.base.toNat % 4096 == 0 && decide (4 ≤ d.log2n) && decide (d.log2n ≤ 16) && decide (d.kind ≤ 4)
    && d.kind != 3 && d.job == job && d.flags &&& 0xFC#8 == 0 && rf d.raw 15 1 == 0 && d.cbase.toNat % 4096 == 0
    && decide (4 ≤ d.clog) && decide (d.clog ≤ 16) && rf d.raw 45 3 == 0
    && (if d.kind = 0 then targetOk d.target.toNat else d.target == 0)
/-- A range of a job's space is mapped with sharing width 3 or more. -/
def mappedWide (s : State) (job : Nat) (va : Word) (n : Nat) : Bool :=
  match (translate s (queueCtx s job) va n {}).2 with
  | .ok sps => sps.all fun sp => decide (3 ≤ sp.sw)
  | _ => false
/-- CREATE_QUEUE. -/
def execCreateQueue (s : State) : Host.Outcome State Fault Refusal :=
  .next <|
    match headRequest s with
    | some (.createQueue j desc, _) =>
      if (getJob s j).state ≠ 2 ∨ (findQueue s j desc).isSome then refuse s
      else
        (match queueDesc s j desc with
         | (s, none) => refuse s
         | (s, some d) =>
           if descOk j desc d && mappedWide s j desc 64 && mappedWide s j d.base (64 * 2 ^ d.log2n)
               && mappedWide s j d.cbase (32 * 2 ^ d.clog) then
             let s := queueSet s j desc 14 1 (d.flags ||| 1#8).toNat
             let s := { s with hqueues := s.hqueues ++ [{ desc, job := j, kind := d.kind, since := none, upto := none }] }
             answer (enqueue s (.event (.queueSlotAccept j desc))) 0 0
           else refuse s)
    | _ => s
/-- DESTROY_QUEUE: WRIDX is read once, and the consumer ends with the slots claimed before. The request itself answers at once (log 35). -/
def execDestroyQueue (s : State) : Host.Outcome State Fault Refusal :=
  .next <|
    match headRequest s with
    | some (.destroyQueue j desc, _) =>
      (match findQueue s j desc with
       | none => refuse s
       | some q =>
         match queueDesc s j desc with
         | (s, none) => refuse s
         | (s, some d) =>
           answer (enqueue (setHqueue s { q with upto := some (q.upto.getD d.wridx) }) (.event (.queueSlotAccept j desc))) 0 0)
    | _ => s

/-! ## Checkpoint and restore (03 R83-R85) -/

/-- The bytes of a 4 KiB block and its side-band: codes, then line metadata (R83). -/
def blockBytes (m : Store) (loc : Loc) : List Byte :=
  (List.range 4096).map (fun i => readByte m (loc + i))
    ++ (List.range 256).flatMap (fun g =>
      let n := loc / 16 + g
      bytesOf 2 (granSyn m n ^^^ granuleCode (BitVec.ofNat 128 (readNat m (16 * n) 16))).toNat)
    ++ (List.range 64).map fun l => lineMeta m (loc / 64 + l)
/-- The blocks of a range of storage, in order. -/
def rangeBytes (m : Store) (loc n : Nat) : List Byte := (List.range (n / 4096)).flatMap fun i => blockBytes m (loc + 4096 * i)
/-- Byte 0 of the vaults of a die. -/
def vaultBase (die : Nat) : Nat := 0x2000000000000 + die * 2 ^ 32
/-- Bytes of vaults on a die. -/
def vaultBytes : Nat := 0xC000000
/-- Sections 2 and 3 of an image. -/
def sectionBytes (m : Store) : List Byte :=
  rangeBytes m 0 (12 * 2 ^ 36) ++ [0, 1, 2, 3].flatMap fun d => rangeBytes m (vaultBase d) vaultBytes
/-- The location is one of HBM or a vault. -/
def imaged (l : Nat) : Bool := decide (l < 12 * 2 ^ 36) || ([0, 1, 2, 3].any fun d => decide (vaultBase d ≤ l) && decide (l < vaultBase d + vaultBytes))
/-- The part of storage that an image holds. -/
def imageStore (m : Store) : Store :=
  { cells := m.cells.filter fun e => imaged e.1, syns := m.syns.filter fun e => imaged (16 * e.1),
    metas := m.metas.filter fun e => imaged (64 * e.1) }
/-- Poison the lines of n bytes of storage from a location. -/
def poisonRun (m : Store) (loc n : Nat) : Store :=
  (List.range (n / 64)).foldl (fun m i => setLineMeta m (loc / 64 + i) (lineMeta m (loc / 64 + i) ||| 8#8)) m
/-- Every line of a fenced die's stacks and vaults reads poisoned (01 R30). -/
def imageMem (s : State) : Store :=
  (List.range 4).foldl (fun m d =>
    if (getDie s d).fenced then poisonRun (poisonRun m (3 * d * 2 ^ 36) (3 * 2 ^ 36)) (vaultBase d) vaultBytes else m) (imageStore s.mem)
/-- The image of the memory: header, sections, digest and signature. The header's bytes are free (log 36). -/
def takeImage (s : State) : State × Image :=
  let (k, s) := draw s
  let body := imageMem s
  let bytes := (List.range 4096).map (Config.freeByte k) ++ sectionBytes body
  let digest := Config.shake256 bytes
  (s, { body, bytes, digest, sig := Config.mldsaSign (bytesOf 64 digest.toNat), key := none })

/-- Every dirty line goes to its home (01 R26, 03 R84 step 2). -/
def flushAll (s : State) : State :=
  s.clines.foldl (fun s e => writeBack s (e.1 / 2 ^ 64) (e.1 % 2 ^ 64) fun _ => true) s
/-- The slots that still hold a task of a job. -/
def tasksLeft (s : State) : List Nat :=
  (s.slots.filter fun e => !isUnit e.1 && (match e.2.task with | some t => t.job != 0 | none => false)).map (·.1)
/-- Pre-empt every job as far as it can stop now (R84 step 1). -/
def preemptAll (s : State) : State :=
  (tasksLeft s).foldl (fun s k => if (getSlot s k).task.isSome then preempt s k 2 else s) s

/-- The jobs stop; once all have, `go` runs, and the bytes move from then on. A slot in the supervisor makes it wait. -/
def withJobsStopped (s : State) (go : State → State) : State :=
  if s.ckStage = 2 then s
  else
    let s := preemptAll { s with ckbusy := true, ckStage := 1 }
    if !(tasksLeft s).isEmpty then s else go { flushAll s with ckStage := 2, ckAt := s.time }
/-- CHECKPOINT: the jobs stop, dirty lines go home, and the image is taken (R84 steps 1 to 3). The port-1 target needs mode 2 of
the port. -/
def execCheckpoint (s : State) : Host.Outcome State Fault Refusal :=
  .next <|
    match headRequest s with
    | some (.checkpoint t, _) =>
      if s.ckStage = 0 ∧ t = .port1 ∧ s.boot.portMode ≠ 2 then refuse s
      else withJobsStopped s fun s => let (s, i) := takeImage s; reply s (.image i)
    | _ => s

/-- The image is whole and signed by this device, or by the device of a key that the packet names and that chains to the root
(R85). -/
def imageOk (i : Image) : Bool :=
  let key := i.key.getD Config.identityKey
  Config.shake256 i.bytes == i.digest && (i.key.isNone || Config.chains key)
    && Config.mldsaOk key (bytesOf 64 i.digest.toNat) i.sig && i.bytes.drop 4096 == sectionBytes i.body
/-- Storage takes the image, codes and metadata as they stand in it; no cache keeps what was there before. -/
def putImage (s : State) (i : Image) : State :=
  let b := imageStore i.body
  let out (l : Nat) : Bool := !imaged l
  let m : Store :=
    { cells := b.cells.foldl (fun l e => kvSet 0 l e.1 e.2) (s.mem.cells.filter fun e => out e.1)
      syns := b.syns.foldl (fun l e => kvSet 0 l e.1 e.2) (s.mem.syns.filter fun e => out (16 * e.1))
      metas := b.metas.foldl (fun l e => kvSet 0 l e.1 e.2) (s.mem.metas.filter fun e => out (64 * e.1)) }
  let parked := s.parked
  let s := { s with
    mem := m, tlb := [], ptrs := [], drops := [], held := [], parked := [], ranges := []
    clines := s.clines.filter fun e => out (64 * (e.1 % 2 ^ 64))
    ccache := s.ccache.filter fun e => out (64 * (e.1 % 2 ^ 64))
    icache := s.icache.filter fun e => out (16 * (e.1 % 2 ^ 64)) }
  parked.foldl (fun s p => enqueue s (.event (.walkRestart (p.2.1 / 1024) (p.2.1 % 1024) p.2.2))) s
/-- RESTORE: the image is checked before any byte is written, and refused on a mismatch (R85). -/
def execRestore (s : State) : Host.Outcome State Fault Refusal :=
  .next <|
    match headRequest s with
    | some (.restore i, _) => if s.ckStage = 0 ∧ !imageOk i then refuse s else withJobsStopped s fun s => putImage s i
    | _ => s

/-- The code of a status in DETAIL of CKPT_DONE, which the spec does not number: its place in R84's list, as a free value (log 36). -/
def ckptCode : CkptStatus → Nat
  | .ok => 0
  | .targetStall => 1
  | .targetError => 2
/-- A checkpoint or restore ends: CKPT_DONE is posted, its request answered, and jobs resume (R84 steps 4 and 5). -/
def ckptEnd (s : State) (st : CkptStatus) : State :=
  let s := postSup s (unitEvent s 0x0D 81 0 0 (ckptCode st))
  let s := { s with ckbusy := false, ckStage := 0 }
  let s := s.hqueues.foldl (fun s q => enqueue s (.event (.queueSlotAccept q.job q.desc))) s
  enqueue (match st with
    | .ok => answer s 0 0
    | .targetStall => answer s 3 23
    | .targetError => answer s 3 0) .schedule
/-- CKPT_DONE: the target has taken the image, or has failed. -/
def execCkptDone (st : CkptStatus) (s : State) : Host.Outcome State Fault Refusal :=
  .next (if s.running && s.ckStage == 2 then ckptEnd s st else s)
/-- CHECKPOINT_TARGET_STALL: the target has accepted no byte for 1 s since it last did (R85). -/
def execCheckpointTargetStall (s : State) : Host.Outcome State Fault Refusal :=
  .next (if s.running && s.ckStage == 2 && decide (s.ckAt + 1000000000 ≤ s.time) then ckptEnd s .targetStall else s)

/-! ## Attestation and firmware (03 R86-R90) -/

/-- The parts of a quote before its signature: the start record, the measurements, the nonce, and FLAGS with the debug-unlocked state. -/
def quoteBody (s : State) (nonce : List Byte) : List Byte :=
  let flags : Byte := (BitVec.ofNat 8 ((physRead s (s.startrec.toNat + 3) 1).getD 0) &&& 0xFE#8) ||| (if s.dbg then 1 else 0)
  bytesOf 128 ((physRead s s.startrec.toNat 128).getD 0) ++ s.boot.measure.flatMap (fun m => bytesOf 64 m.toNat) ++ nonce ++ [flags]
/-- ATTEST. -/
def execAttest (s : State) : Host.Outcome State Fault Refusal :=
  .next <|
    match headRequest s with
    | some (.attest nonce, _) =>
      if nonce.length ≠ 32 then refuse s
      else
        let q := quoteBody s nonce
        reply (answer s 0 0) (.quote (q ++ Config.mldsaSign q))
    | _ => s

/-- A field of a firmware header. -/
def fwField (img : List Byte) (off n : Nat) : Nat := natOf ((img.drop off).take n)
/-- The image's header and body pass R86 and R87. -/
def fwOk (s : State) (img : List Byte) : Bool :=
  let body := img.drop 3397
  decide (3397 ≤ img.length) && fwField img 0 4 == 0x4C474E34 && decide (fwField img 4 1 ≤ 5) && fwField img 5 3 == 0
    && decide ((s.boot.minSvn.getD (fwField img 4 1) 0).toNat ≤ fwField img 8 8) && fwField img 16 8 == body.length
    && BitVec.ofNat 512 (fwField img 24 64) == Config.shake256 body
    && Config.mldsaOk Config.rootKey (img.take 88) ((img.drop 88).take 3309)
/-- FW_STAGE: the image is verified before it is stored, for the next start. -/
def execFwStage (s : State) : Host.Outcome State Fault Refusal :=
  .next <|
    match headRequest s with
    | some (.fwStage img, _) =>
      if fwOk s img then
        answer { s with boot := { s.boot with staged := kvInsert (fwField img 4 1) img s.boot.staged } } 0 0
      else refuse s
    | _ => s

/-! ## WARM_RESET and FENCE_DIE -/

/-- WARM_RESET: every dirty line goes home, the stacks refresh themselves, and only then the clean-shutdown flag is set (01 R26). -/
def execWarmReset (s : State) : Host.Outcome State Fault Refusal :=
  .next <|
    match headRequest s with
    | some (.warmReset, _) =>
      let s := flushAll (answer s 0 0)
      { s with running := false, boot := { s.boot with clean := true } }
    | _ => s
/-- FENCE_DIE. -/
def execFenceDie (s : State) : Host.Outcome State Fault Refusal :=
  .next <|
    match headRequest s with
    | some (.fenceDie d, _) => if 4 ≤ d then refuse s else answer (fenceDie s d) 0 0
    | _ => s

end Sys2Proof.Machine
end

