-- ==== Sys2Proof/Machine/Fetch.lean ====
section
/-! DEFINITION. Fetching a thread's next word: translation, the sequencer's instruction cache, the code check, and what
becomes of a word that does not decode (07 R169, 14 R340, 04 R104, 12 R305, R306). -/

namespace Sys2Proof.Machine

/-- What fetching one word answers. -/
inductive Fet where
  | ok (w : IWord)
  | fault (k : Kind) (va : Word)
  | bad (b : Bad)
  | stall
  deriving DecidableEq, Repr

/-- Fetch the word at an address for a thread: through its instruction cache of 16 KiB, whose granules were checked as they were
fetched (07 R169, 14 R340; log 7). -/
def fetchWord (s : State) (t : Thread) (va : Word) : State × Fet :=
  match trPage s (fetchCtx s t.slot t.seq) va 4 { x := true } with
  | (s, .fault k a) => (s, .fault k a)
  | (s, .stall) => (s, .stall)
  | (s, .ok sp) =>
    if flipping s [sp] then (s, .stall) else
    match needFar s t.slot [sp] with
    | some s => (s, .stall)
    | none =>
    let core := coreOf t.slot
    let key := fetchKey core t.seq (sp.loc / 16)
    let pick (d : BitVec 128) : IWord := BitVec.ofNat 32 (d.toNat >>> (8 * (sp.loc % 16)))
    match kvFind s.icache key with
    | some d => (s, .ok (pick d))
    | none =>
      let s := countAccess s core (getSlot s t.slot).job sp.area (sp.loc / 64)
      let g := seeGran s (.engine core 0) sp.area (sp.loc / 64) (sp.loc / 16 % 4)
      let poison := poisoned (seeMeta s (.engine core 0) sp.area (sp.loc / 64))
      if g.syn != 0 || poison then (s, .bad (.of poison (seqNum t.seq) va (sp.loc / 16)))
      else
        let (s, icache) := cachePut s s.icache 1024 key g.data
        ({ s with icache }, .ok (pick g.data))

/-- What fetching an instruction answers: its words, decoded or not; or why there are none, and at which word. -/
inductive Fetched where
  | word (i : Instr)
  | undecoded (w x : IWord)
  | fault (k : Kind) (va : Word)
  | bad (b : Bad)
  | stall
  deriving DecidableEq, Repr

/-- Fetch and decode the instruction at an address; a long one is fetched whole (12 R306). -/
def fetchAt (s : State) (t : Thread) (va : Word) : State × Fetched :=
  match fetchWord s t va with
  | (s, .fault k a) => (s, .fault k a)
  | (s, .bad b) => (s, .bad b)
  | (s, .stall) => (s, .stall)
  | (s, .ok w) =>
    let dec (s : State) (x : IWord) : State × Fetched :=
      match decode w x with
      | .ok i => (s, .word i)
      | .error _ => (s, .undecoded w x)
    if opcodeLong (opcodeOf w) then
      match fetchWord s t (va + 4) with
      | (s, .fault k a) => (s, .fault k a)
      | (s, .bad b) => (s, .bad b)
      | (s, .stall) => (s, .stall)
      | (s, .ok x) => dec s x
    else dec s 0

/-- The trap of a word that does not decode (12 R305 steps 1-4). -/
def undecodedTrap (w : IWord) (q : Seq) : Trap :=
  if !opcodeAssigned (opcodeOf w) then { cause := 1 }
  else if !opcodePermits (opcodeOf w) q || queueRoleFails q w then { cause := 2 }
  else { cause := 1 }

/-- What an opcode's words put on a belt where their destination is the belt (07 R180, 12 R307): where the destination field lies, none for
a result that is always pushed, and whether it is a vector. -/
def resultField (w : IWord) : Option (Option (BitVec 6) × Bool) :=
  let op := opcodeOf w
  let p := payloadOf w
  if [0x0A, 0x0B, 0x36, 0x4A, 0x77, 0x78, 0x88, 0x8A, 0x8B, 0x8D, 0x90, 0x93, 0x94, 0x95, 0xED, 0xEE, 0xEF, 0xF0, 0xF1, 0xF2, 0xF9].contains op then
    some (none, false)
  else if [0xA3, 0xAE, 0xB8, 0xC4, 0xC5, 0xC6, 0xC7, 0xC8].contains op then some (none, true)
  else if (0x20 ≤ op && op ≤ 0x35) || (0x6E ≤ op && op ≤ 0x76) || [0x37, 0x38, 0x80, 0x92, 0xB7, 0xBB, 0xBC].contains op then some (some (fd p), false)
  else if (0xA0 ≤ op && op ≤ 0xB4) || [0xB6, 0xB9, 0xC2, 0xCA, 0xCB, 0xCC].contains op then some (some (fd p), true)
  else if (0x60 ≤ op && op ≤ 0x64) || op = 0x42 then some (some (fb p), false)
  else if op = 0xC0 then some (some (fb p), true)
  else if op = 0xBA || ((op = 0x4C || op = 0x4D) && vectorQueue (fq p)) then some (some (fa p), true)
  else if [0x40, 0x41, 0x4C, 0x4D, 0x4E, 0x4F, 0x8E, 0xE6].contains op then some (some (fa p), false)
  else if 0x43 ≤ op && op ≤ 0x49 then some (if (fa p).extractLsb' 4 2 = 0 then none else some (fa p), false)
  else none
/-- The belt that the void of a squashed word goes to (07 R180). -/
def voidDest (w : IWord) : Option RDest :=
  match resultField w with
  | some (f, v) => if f.getD 0 = 0 then some (if v then .vector .push else .scalar .push) else none
  | none => none

/-- A thread at a word that does not decode: squashed, it performs its nibble and its void push and occupies its length (07 R180, 12 R306),
but for a STAGE, which is never squashed (14 R344); else it traps. -/
def issueUndecoded (s : State) (t : Thread) (w ext : IWord) : State :=
  let x := getSlot s t.slot
  let q := x.seq t.seq
  if q.predOn && !q.stg.getLsbD q.predN.toNat && opcodeOf w != 0x10 then
    let n := Nib.ofBits (w.extractLsb' 28 4)
    let ws := waitsOf t.seq n none
    if waitsMet x.tok ws then retireWord (pushVoid s t (voidDest w)) t (w, ext) ws (sigsOf t.seq n none) none else stall s t true
  else takeTrap (stall s t false) t.slot t.seq q.pc (undecodedTrap w t.seq)

/-- The fetch is one that R438 makes final: supervisor code at SVBASE + 0x40. -/
def lastFetch (s : State) (t : Thread) : Bool :=
  let x := getSlot s t.slot
  x.supMode && (x.seq t.seq).pc == (getDie s (dieOfCore (coreOf t.slot))).svbase + 0x40

/-- A fetch that faults traps PAGE: TRAPPC and TRAPADDR both hold the address of the word that could not be fetched, be it an extension
word, while the PC stays on the first word (04 R104, 12 R306); one at SVBASE + 0x40 freezes the slot (18 R438). -/
def fetchFault (s : State) (t : Thread) (k : Kind) (va : Word) : State :=
  if lastFetch s t then freezeSlot s t.slot
  else takeTrap (stall s t false) t.slot t.seq va { cause := 4, kind := k, addr := va }

/-- A fetch that consumes an uncorrectable error (14 R340). -/
def fetchBad (s : State) (t : Thread) (b : Bad) : State :=
  if lastFetch s t then freezeSlot s t.slot
  else wordError (stall s t false) t (getSeq s t).pc s.nextUid b

end Sys2Proof.Machine
end

