-- ==== Sys2Proof/Machine/SysRegs.lean ====
section
/-! DEFINITION. Special registers: RDSR and WRSR (14 R355, R356; 12 R308, R309). -/

namespace Sys2Proof.Machine

/-- The value of a special register for a thread (12 R308). -/
def readSr (s : State) (t : Thread) (n : BitVec 12) : Word :=
  let x := getSlot s t.slot
  let q := x.seq t.seq
  match n.toNat with
  | 0x000 => match x.task with | some k => k.taskid | none => 0
  | 0x001 => BitVec.ofNat 64 (t.slot % 2)
  | 0x002 => BitVec.ofNat 64 (coreOf t.slot)
  | 0x003 => BitVec.ofNat 64 (seqNum t.seq)
  | 0x010 => q.lc
  | 0x011 => q.ec
  | 0x012 => q.rrb.setWidth 64
  | 0x013 => q.stg.setWidth 64
  | 0x020 => x.vtype
  | 0x021 => x.fpstat
  | 0x030 => x.mstat0
  | 0x031 => x.mstat1
  | 0x040 => x.crstat
  | 0x041 => x.subcnt
  | 0x042 => x.corrcnt
  | 0x050 => (vget x.chwp 0).setWidth 64
  | 0x051 => (vget x.chwp 1).setWidth 64
  | 0x052 => (vget x.chwp 2).setWidth 64
  | 0x053 => (vget x.chwp 3).setWidth 64
  | 0x060 => q.segCnt.setWidth 64
  | 0x061 => q.segSig.setWidth 64
  | 0x070 => x.tcause
  | 0x071 => x.taddr
  | 0x072 => x.tpc
  | 0x080 => tokstat x
  | 0x081 => qstat x
  | 0x090 => x.fmtovr
  | 0x0A0 => 1
  | _ => 0

/-- A register after a write to its RW fields: RO fields keep their value (12 R309, 00 R9). -/
def rwFields (old v mask : Word) : Word := (old &&& ~~~mask) ||| (v &&& mask)

/-- TRAPCAUSE's RW fields (18 R435). -/
def tcauseMask : Word := 0x1F3FFF3FFF
/-- Write a special register for a thread; none where the value traps ILLEGAL (16 R389, 10 R275). -/
def writeSr (s : State) (t : Thread) (n : BitVec 12) (v : Word) : Option State :=
  let upd (f : Slot → Slot) : Option State := some (updSlot s t.slot f)
  match n.toNat with
  | 0x010 => some (updSeq s t fun q => { q with lc := v })
  | 0x011 => some (updSeq s t fun q => { q with ec := v })
  | 0x012 => some (updSeq s t fun q => { q with rrb := v.setWidth 4 })
  | 0x013 => some (updSeq s t fun q => { q with stg := v.setWidth 8 })
  | 0x020 => if vtypeFmt (v.setWidth 4) then upd fun x => { x with vtype := rwFields x.vtype v vtypeMask } else none
  | 0x021 => upd fun x => { x with fpstat := rwFields x.fpstat v fpstatMask }
  | 0x030 => upd fun x => { x with mstat0 := rwFields x.mstat0 v mstatMask }
  | 0x031 => upd fun x => { x with mstat1 := rwFields x.mstat1 v mstatMask }
  | 0x040 => upd fun x => { x with crstat := rwFields x.crstat v crstatMask }
  | 0x041 => upd fun x => { x with subcnt := rwFields x.subcnt v countMask }
  | 0x042 => upd fun x => { x with corrcnt := rwFields x.corrcnt v countMask }
  | 0x070 => upd fun x => { x with tcause := rwFields x.tcause v tcauseMask }
  | 0x071 => upd fun x => { x with taddr := v }
  | 0x072 => upd fun x => { x with tpc := v, tpcSet := true }
  | 0x090 =>
    if v.getLsbD 0 && !(v.extractLsb' 4 4).toNat ∈ [4, 5, 6, 7] then none
    else upd fun x => { x with fmtovr := rwFields x.fmtovr v fmtovrMask }
  | _ => some s

/-- RDSR (14 R355). On C a read of a bank's MSTAT observes the bank (10 R274). -/
def execRdsr (n : Nib) (f : Dest) (sr : BitVec 12) (s : State) : Host.Outcome State Fault Refusal :=
  issueWord (.rdsr n f sr) n (some (.scalar f)) {}
    (fun s t =>
      let r : Res := .done (putResult s t f (readSr s t sr))
      if sr = 0x030#12 then observe s t (.mstat false) r
      else if sr = 0x031#12 then observe s t (.mstat true) r else r) s
/-- WRSR (14 R355). -/
def execWrsr (n : Nib) (sr : BitVec 12) (f : Opnd) (s : State) : Host.Outcome State Fault Refusal :=
  issueWord (.wrsr n sr f) n none { scalars := [f] }
    (fun s t =>
      match writeSr s t sr (srcVal s t f) with
      | some s => .done s
      | none => .trap s { cause := 1 }) s

end Sys2Proof.Machine
end

