-- ==== Sys2Proof/Machine/Power.lean ====
section
/-! DEFINITION. Starts, the pins, freeze and scan read-out, and the power and thermal limiters (01 R20-R32, 03 R67, R86-R88, 18
R440). -/

namespace Sys2Proof.Machine

/-! ## Start (01 R26-R28) -/

/-- A field of a staged image's header, or else of the image that the start meets (03 R86, R87). -/
def imageSvn (s : State) (a : StartArgs) (kind : Nat) : Word :=
  match kvFind s.boot.staged kind with
  | some img => BitVec.ofNat 64 (natOf ((img.drop 8).take 8))
  | none => a.svns.getD kind 0
/-- DIGEST of an image. -/
def imageDigest (s : State) (a : StartArgs) (kind : Nat) : BitVec 512 :=
  match kvFind s.boot.staged kind with
  | some img => BitVec.ofNat 512 (natOf ((img.drop 24).take 64))
  | none => a.digests.getD kind 0
/-- The image's SVN is not below the fused minimum (03 R87). -/
def svnOk (s : State) (a : StartArgs) (kind : Nat) : Bool := (s.boot.minSvn.getD kind 0).ule (imageSvn s a kind)
/-- The step at which a die fails, 0 for none: one of steps 2 to 6, of which a warm start skips 5 and 6. -/
def dieFail (s : State) (a : StartArgs) (warm : Bool) (die : Nat) : Nat :=
  let f := a.failStep.getD die 0
  let f := if f < 2 ∨ 6 < f ∨ (warm ∧ 5 ≤ f) then 0 else f
  if (f = 0 ∨ 4 < f) ∧ !([0, 1, 2, 3, 4].all (svnOk s a)) then 4 else f
/-- The supervisor image verifies. -/
def supOk (s : State) (a : StartArgs) : Bool := a.supSigOk && svnOk s a 5
/-- The three values of the image's body let the start complete (18 R440). -/
def entryOk (a : StartArgs) : Bool := a.svbase.toNat % 64 == 0 && canonical a.svbase && upperHalf a.svbase && a.supen
/-- The fenced dies of a start: those that fail, and on a warm start those fenced before. A later cold start tries a die that failed
again, though PWRGOOD never fell (R28, R29; log 99). -/
def startFenced (s : State) (a : StartArgs) (warm : Bool) (die : Nat) : Bool :=
  dieFail s a warm die != 0 || (warm && (getDie s die).fenced)
/-- The dies that go on. -/
def startLive (s : State) (a : StartArgs) (warm : Bool) : List Nat := [0, 1, 2, 3].filter fun d => !startFenced s a warm d

/-- A measurement register after an extension (03 R88). -/
def extendM (m : BitVec 512) (more : List Byte) : BitVec 512 := Config.shake256 (bytesOf 64 m.toNat ++ more)
/-- The measurements after step 4: where a die passes it, each image that verifies extends its register from zero (R88). -/
def startMeasure (s : State) (a : StartArgs) (warm : Bool) : List (BitVec 512) :=
  let passed := [0, 1, 2, 3].any fun d => dieFail s a warm d == 0 || decide (4 < dieFail s a warm d)
  (List.range 8).map fun k =>
    if passed ∧ (k < 5 ∨ (k = 5 ∧ supOk s a)) then extendM 0 (bytesOf 64 (imageDigest s a k).toNat ++ bytesOf 8 (imageSvn s a k).toNat) else 0

/-- The bytes of the start record (03 R67). -/
def startBytes (s : State) (a : StartArgs) (warm dbg ok : Bool) : List Byte :=
  let live := startLive s a warm
  let step (d : Nat) : Nat :=
    let f := dieFail s a warm d
    if live.contains d then (if ok then 10 else 9) else if f = 0 then 0 else f - 1
  [if warm then 1 else 0, BitVec.ofNat 8 ([0, 1, 2, 3].map fun d => bitAt (startFenced s a warm d) d).sum,
   if ok then 0 else 10, BitVec.ofNat 8 (bitAt dbg 0 + bitAt (!supOk s a) 1)]
    ++ [0, 1, 2, 3].map (fun d => BitVec.ofNat 8 (step d))
    ++ bytesOf 2 a.portMode.toNat ++ List.replicate 6 0
    ++ (List.range 8).flatMap (fun k => bytesOf 8 (imageSvn s a k).toNat) ++ List.replicate 48 0

/-- What no cold start touches: host memory. -/
def hostStore (m : Store) : Store :=
  { cells := m.cells.filter fun e => hostLine (e.1 / 64), syns := [], metas := m.metas.filter fun e => hostLine e.1 }
/-- What a warm start keeps: everything but the scratchpads. -/
def warmStore (m : Store) : Store :=
  { cells := m.cells.filter fun e => decide (e.1 < 2 ^ 60), syns := m.syns.filter fun e => decide (16 * e.1 < 2 ^ 60),
    metas := m.metas.filter fun e => decide (64 * e.1 < 2 ^ 60) }

/-- The package after steps 1 to 9: what a start of the kind keeps (R27; log 38). -/
def startBase (s : State) (a : StartArgs) (warm : Bool) : State :=
  let dbg := if warm then s.dbg else s.boot.unlocked
  let die (d : Nat) : Die := { Die.reset with fenced := startFenced s a warm d }
  { State.reset with
    mem := if warm then warmStore s.mem else hostStore s.mem
    time := s.time, turn := s.turn, agenda := s.agenda, nextUid := s.nextUid, draws := s.draws
    dies := #v[die 0, die 1, die 2, die 3]
    jobs := if warm then s.jobs else []
    bias := if warm then s.bias else []
    deadCores := if warm then s.deadCores else []
    mgmt := s.mgmt, replies := s.replies, tx := s.tx, rx := s.rx, hostIn := s.hostIn, devId := s.devId
    warm, dbg, startAt := s.time
    boot := { s.boot with resetN := true, pwrgood := true, held := true, frozen := false, latched := false, clean := false,
                          unlocked := if warm then s.boot.unlocked else false, measure := startMeasure s a warm, portMode := a.portMode } }

/-- Step 10: election, the start record, the supervisor's three values, READY. A bad supervisor image stops it (R28, 18 R440). -/
def startLast (s0 s : State) (a : StartArgs) (warm : Bool) : State :=
  match startLive s0 a warm with
  | [] => s
  | m :: rest =>
    let ok := supOk s0 a && entryOk a
    let rec_ := startBytes s0 a warm s.dbg ok
    let pa := m * 0x30000
    let s := physWrite s pa 128 (natOf rec_)
    let s := { s with
      startrec := BitVec.ofNat 64 pa, master := some m
      beats := (m :: rest).foldl (fun l d => kvInsert d s.time l) []
      boot := { s.boot with measure := s.boot.measure.take 7 ++ [extendM 0 rec_] } }
    if ok then
      let s := (m :: rest).foldl (fun s d => updDie s d fun d =>
        { d with svbase := a.svbase, suproot := a.suproot &&& 0xFFFFFFFFFF000, supen := true }) s
      enqueue { s with running := true } .schedule
    else
      { s with mgmt := s.mgmt ++ [{ type := Config.mgmtType, reply := false, job := 0, source := (unitEvent s 0 81 0 0 0).source,
                                    addr := 0, time := now s, detail := Config.eventDetail Config.mgmtType 10 }] }

/-- START: RESET_N is released while PWRGOOD is high. Warm where the clean-shutdown flag is set and PWRGOOD has stayed high through
the assertion; never after a freeze (R26, R31). -/
def execStart (a : StartArgs) (s : State) : Host.Outcome State Fault Refusal :=
  .next <|
    if s.boot.resetN || s.boot.pin then s
    else
      let warm := s.boot.clean && s.boot.held && !s.boot.frozen
      startLast s (startBase s a warm) a warm

/-- RESET_N falls: the package stops until its release. -/
def execResetNAssertion (s : State) : Host.Outcome State Fault Refusal :=
  .next { s with running := false
                 boot := { s.boot with resetN := false, held := if s.boot.resetN then s.boot.pwrgood else s.boot.held } }
/-- PWRGOOD falls: the rails are lost, and any following start is cold. -/
def execPwrgoodFall (s : State) : Host.Outcome State Fault Refusal :=
  .next { s with running := false, boot := { s.boot with pwrgood := false, held := false } }

/-! ## Freeze and scan (01 R31, R32) -/

/-- The bytes of a granule that a cached line holds. -/
def lineGran (l : List (Nat × CLine)) (key g : Nat) : Nat :=
  match (kvGet .empty l key).gr.toList.getD g none with
  | some y => y.data.toNat
  | none => 0
/-- What a scan access of an unlocked part reads. -/
def scanOpen (s : State) : ScanTarget → Nat
  | .status => statusReg s
  | .ecc d => (getDie s d).sramcorr.toNat + (getDie s d).hbmcorr.toNat * 2 ^ 32
  | .storage l n => readNat s.mem l n
  | .pc k q => (getSeq s ⟨k, q⟩).pc.toNat
  | .main k q m => (vget (getSeq s ⟨k, q⟩).main (BitVec.ofNat 5 m)).val.toNat
  | .short k q n => (vget (getSeq s ⟨k, q⟩).short (BitVec.ofNat 4 n)).val.toNat
  | .belt k q a => (vget (getSeq s ⟨k, q⟩).belt (BitVec.ofNat 4 a)).val.toNat
  | .vmain k m => (vget (getSlot s k).vmain (BitVec.ofNat 5 m)).val.toNat
  | .vshort k n => (vget (getSlot s k).vshort (BitVec.ofNat 4 n)).val.toNat
  | .vbelt k a => (vget (getSlot s k).vbelt (BitVec.ofNat 4 a)).val.toNat
  | .special k q n => (readSr s ⟨k, q⟩ (BitVec.ofNat 12 n)).toNat
  | .acc k bank i => (kvGet 0 (if bank then (getSlot s k).acc1 else (getSlot s k).acc0).elems i).toNat
  | .queue k j i =>
    match (vget (getSlot s k).queues (BitVec.ofNat 3 j))[i]? with
    | some { tag := _, val := some (.s w) } => w.val.toNat
    | some { tag := _, val := some (.v w) } => w.val.toNat
    | _ => 0
  | .snapshot k off n => readNat (snapImage s k (getSlot s k) 0) off n
  | .line c l g => lineGran s.clines (viewKey c l) g
  | .code core q g => (kvGet 0 s.icache (fetchKey core q g)).toNat
  | .const core l g => lineGran s.ccache (viewKey core l) g
  | .control d off => (ctlRead s d off).2.toNat
  | .leaf i => match s.tlb[i]? with | some e => e.2.leaf.toNat | none => 0

/-- FREEZE: every clock stops; all state is held as latched. The test network has a fresh challenge for the holder of a token. -/
def execFreeze (s : State) : Host.Outcome State Fault Refusal :=
  let (n, t) := draw s
  .next (if s.boot.frozen then { s with boot := { s.boot with pin := true } }
    else { t with running := false, boot := { s.boot with pin := true, frozen := true, latched := s.running, nonce := n } })
/-- FREEZE_RELEASE: the clocks stay stopped. -/
def execFreezeRelease (s : State) : Host.Outcome State Fault Refusal := .next { s with boot := { s.boot with pin := false } }

/-- What a scan access of a frozen package reads; what is no status or error register needs an unlocked part. -/
def scanValue (s : State) : ScanTarget → Option Nat
  | .status => some (statusReg s)
  | .ecc d => some ((getDie s d).sramcorr.toNat + (getDie s d).hbmcorr.toNat * 2 ^ 32)
  | t => if s.boot.unlocked then some (scanOpen s t) else none
/-- SCAN_READOUT. -/
def execScanReadout (t : ScanTarget) (s : State) : Host.Outcome State Fault Refusal :=
  .next <|
    if !s.boot.frozen then s else
      match scanValue s t with
      | some v => { s with replies := s.replies ++ [.data v] }
      | none => s
/-- UNLOCK_TOKEN: the token is a signature, by a key that chains to the fused root, that binds it to the package's identity and the
fresh challenge that the freeze drew (R32; log 11). -/
def execUnlockToken (challenge token : List Byte) (s : State) : Host.Outcome State Fault Refusal :=
  let bound := Config.shake256 (bytesOf 64 Config.identityKey.toNat ++ challenge)
  .next (if s.boot.frozen && challenge == Config.challenge s.boot.nonce && Config.chains (Config.tokenKey token)
        && Config.mldsaOk (Config.tokenKey token) (bytesOf 64 bound.toNat) token then
      { s with boot := { s.boot with unlocked := true } }
    else s)

/-! ## Power and temperature (01 R20-R23) -/

/-- The core clock in force, in steps of 100 MHz. -/
def Power.clock (p : Power) : Nat := min p.powerClk p.thermalClk
/-- The temperature last read on a die. -/
def tempOf (s : State) (die : Nat) : Option Nat := kvFind s.power.temps die
/-- A live die reads above 95 degrees. -/
def hotDie (s : State) (d : Nat) : Bool := !(getDie s d).fenced && (tempOf s d).any fun t => decide (95 < t)
/-- Some live die reads above 95 degrees. -/
def anyHot (s : State) : Bool := [0, 1, 2, 3].any (hotDie s)
/-- Every live die reads 90 degrees or below. -/
def allCool (s : State) : Bool :=
  [0, 1, 2, 3].all fun d => (getDie s d).fenced || (tempOf s d).any fun t => decide (t ≤ 90)
/-- Take up the limiters' new settings: power and each die's temperature count as standing over their limits only at the least clock,
from when they last began to. -/
def setPower (s : State) (p : Power) : State :=
  let least := p.clock == Config.clkMin
  let u := { s with power := p }
  { s with power := { p with
      overPower := if least then p.overPower else none
      overTemps := if least then ([0, 1, 2, 3].filter (hotDie u)).map fun d => (d, (kvFind p.overTemps d).getD s.time) else [] } }

/-- At least n ns have passed since a time noted, or none is. -/
def duePast (last : Option Nat) (n now : Nat) : Bool := match last with | some t => decide (t + n ≤ now) | none => true
/-- The power samples of the last 1 ms with a new one at their head. -/
def drawnWith (s : State) (watts : Nat) : List (Nat × Nat) := (s.time, watts) :: s.power.samples.filter fun e => decide (s.time < e.1 + 1000000)
/-- The sum of samples. -/
def drawnSum (l : List (Nat × Nat)) : Nat := (l.map (·.2)).sum
/-- POWER_SAMPLE: the package's power is sampled, 10 µs after the last time, and its average over the last 1 ms moves the power limiter's
clock by a step (R22). -/
def execPowerSample (watts : Nat) (s : State) : Host.Outcome State Fault Refusal :=
  let p := s.power
  let l := drawnWith s watts
  let hot := decide (p.limit * l.length < drawnSum l)
  let c := if hot then max Config.clkMin (p.powerClk - 1)
    else if drawnSum l * 100 ≤ p.limit * l.length * 95 then min Config.clkMax (p.powerClk + 1) else p.powerClk
  .next (if !s.running || !duePast (p.samples.head?.map (·.1)) 10000 s.time then s else
    setPower s { p with powerClk := c, samples := l, overPower := if hot then some (p.overPower.getD s.time) else none })
/-- THERMAL_SAMPLE: a die's hottest junction temperature, read 10 µs after the last time; one that reaches 110 degrees is fenced (R23; log
39). -/
def execThermalSample (die temp : Nat) (s : State) : Host.Outcome State Fault Refusal :=
  .next <|
    if !s.running || decide (4 ≤ die) || !duePast (kvFind s.power.tempAt die) 10000 s.time then s else
      let p := s.power
      let s := setPower s { p with temps := kvInsert die temp p.temps, tempAt := kvInsert die s.time p.tempAt }
      if 110 ≤ temp then fenceDie s die else s
/-- THERMAL_STEP: 1 ms after its last step, the thermal limiter's clock moves by a step from its own setting, which may stand above the
power limiter's (R23; log 98). -/
def execThermalStep (s : State) : Host.Outcome State Fault Refusal :=
  let p := s.power
  let c := if anyHot s then max Config.clkMin (p.thermalClk - 1)
    else if allCool s && decide (p.thermalClk < p.powerClk) then p.thermalClk + 1 else p.thermalClk
  .next (if !s.running || !duePast p.stepAt 1000000 s.time then s else setPower s { p with thermalClk := c, stepAt := some s.time })
/-- POWER_LIMIT: power, or with bit 0 some die's temperature, has stood over its limit for 100 ms at the least clock (R22, R23). -/
def execPowerLimit (thermal : Bool) (s : State) : Host.Outcome State Fault Refusal :=
  let old (t : Nat) : Bool := decide (t + 100000000 ≤ s.time)
  let p := s.power
  let due := if thermal then p.overTemps.any fun e => old e.2 else p.overPower.any old
  let q : Power := if thermal then { p with overTemps := p.overTemps.map fun e => if old e.2 then (e.1, s.time) else e }
    else { p with overPower := some s.time }
  .next (if !s.running || !due then s
    else postSup { s with power := q } { unitEvent s 0x0B 80 0 0 0 with detail := if thermal then 1 else 0 })

end Sys2Proof.Machine
end

