-- ==== Sys2Proof/Machine/Scalar.lean ====
section
/-! DEFINITION. Class 0x20, scalar integer words (14 R348, R349). -/

namespace Sys2Proof.Machine

/-- The sum modulo 2^64. -/
def aluAdd (d : Dest) (a b : Opnd) : Alu := alu2 d a b fun x y => x + y
/-- ADD (14 R348). -/
def execAdd (n : Nib) (d : Dest) (a b : Opnd) (s : State) : Host.Outcome State Fault Refusal :=
  issueAlu (.add n d a b) n (aluAdd d a b) s

/-- The difference modulo 2^64. -/
def aluSub (d : Dest) (a b : Opnd) : Alu := alu2 d a b fun x y => x - y
/-- SUB (14 R348). -/
def execSub (n : Nib) (d : Dest) (a b : Opnd) (s : State) : Host.Outcome State Fault Refusal :=
  issueAlu (.sub n d a b) n (aluSub d a b) s

/-- The low 64 bits of the product. -/
def aluMul (d : Dest) (a b : Opnd) : Alu := alu2 d a b fun x y => x * y
/-- MUL (14 R348). -/
def execMul (n : Nib) (d : Dest) (a b : Opnd) (s : State) : Host.Outcome State Fault Refusal :=
  issueAlu (.mul n d a b) n (aluMul d a b) s

/-- The high 64 bits of the product. -/
def aluMulh (m : MulhMod) (d : Dest) (a b : Opnd) : Alu := alu2 d a b (mulHigh m)
/-- MULH (14 R348). -/
def execMulh (n : Nib) (m : MulhMod) (d : Dest) (a b : Opnd) (s : State) : Host.Outcome State Fault Refusal :=
  issueAlu (.mulh n m d a b) n (aluMulh m d a b) s

/-- The quotient (14 R349). -/
def aluDiv (m : Sgn) (d : Dest) (a b : Opnd) : Alu := alu2 d a b (divWord m)
/-- DIV (14 R348). -/
def execDiv (n : Nib) (m : Sgn) (d : Dest) (a b : Opnd) (s : State) : Host.Outcome State Fault Refusal :=
  issueAlu (.div n m d a b) n (aluDiv m d a b) s

/-- The remainder (14 R349). -/
def aluRem (m : Sgn) (d : Dest) (a b : Opnd) : Alu := alu2 d a b (remWord m)
/-- REM (14 R348). -/
def execRem (n : Nib) (m : Sgn) (d : Dest) (a b : Opnd) (s : State) : Host.Outcome State Fault Refusal :=
  issueAlu (.rem n m d a b) n (aluRem m d a b) s

/-- Bitwise and. -/
def aluAnd (d : Dest) (a b : Opnd) : Alu := alu2 d a b fun x y => x &&& y
/-- AND (14 R348). -/
def execAnd (n : Nib) (d : Dest) (a b : Opnd) (s : State) : Host.Outcome State Fault Refusal :=
  issueAlu (.and n d a b) n (aluAnd d a b) s

/-- Bitwise or. -/
def aluOr (d : Dest) (a b : Opnd) : Alu := alu2 d a b fun x y => x ||| y
/-- OR (14 R348). -/
def execOr (n : Nib) (d : Dest) (a b : Opnd) (s : State) : Host.Outcome State Fault Refusal :=
  issueAlu (.or n d a b) n (aluOr d a b) s

/-- Bitwise exclusive or. -/
def aluXor (d : Dest) (a b : Opnd) : Alu := alu2 d a b fun x y => x ^^^ y
/-- XOR (14 R348). -/
def execXor (n : Nib) (d : Dest) (a b : Opnd) (s : State) : Host.Outcome State Fault Refusal :=
  issueAlu (.xor n d a b) n (aluXor d a b) s

/-- a AND NOT b. -/
def aluAndn (d : Dest) (a b : Opnd) : Alu := alu2 d a b fun x y => x &&& ~~~y
/-- ANDN (14 R348). -/
def execAndn (n : Nib) (d : Dest) (a b : Opnd) (s : State) : Host.Outcome State Fault Refusal :=
  issueAlu (.andn n d a b) n (aluAndn d a b) s

/-- Left shift by b[5:0]. -/
def aluShl (d : Dest) (a b : Opnd) : Alu := alu2 d a b fun x y => x <<< shiftAmt y
/-- SHL (14 R348). -/
def execShl (n : Nib) (d : Dest) (a b : Opnd) (s : State) : Host.Outcome State Fault Refusal :=
  issueAlu (.shl n d a b) n (aluShl d a b) s

/-- Logical right shift by b[5:0]. -/
def aluShr (d : Dest) (a b : Opnd) : Alu := alu2 d a b fun x y => x >>> shiftAmt y
/-- SHR (14 R348). -/
def execShr (n : Nib) (d : Dest) (a b : Opnd) (s : State) : Host.Outcome State Fault Refusal :=
  issueAlu (.shr n d a b) n (aluShr d a b) s

/-- Arithmetic right shift by b[5:0]. -/
def aluSra (d : Dest) (a b : Opnd) : Alu := alu2 d a b fun x y => x.sshiftRight (shiftAmt y)
/-- SRA (14 R348). -/
def execSra (n : Nib) (d : Dest) (a b : Opnd) (s : State) : Host.Outcome State Fault Refusal :=
  issueAlu (.sra n d a b) n (aluSra d a b) s

/-- Left rotation by b[5:0]. -/
def aluRot (d : Dest) (a b : Opnd) : Alu := alu2 d a b fun x y => x.rotateLeft (shiftAmt y)
/-- ROT (14 R348). -/
def execRot (n : Nib) (d : Dest) (a b : Opnd) (s : State) : Host.Outcome State Fault Refusal :=
  issueAlu (.rot n d a b) n (aluRot d a b) s

/-- The lesser. -/
def aluMin (m : Sgn) (d : Dest) (a b : Opnd) : Alu := alu2 d a b (minWord m)
/-- MIN (14 R348). -/
def execMin (n : Nib) (m : Sgn) (d : Dest) (a b : Opnd) (s : State) : Host.Outcome State Fault Refusal :=
  issueAlu (.min n m d a b) n (aluMin m d a b) s

/-- The greater. -/
def aluMax (m : Sgn) (d : Dest) (a b : Opnd) : Alu := alu2 d a b (maxWord m)
/-- MAX (14 R348). -/
def execMax (n : Nib) (m : Sgn) (d : Dest) (a b : Opnd) (s : State) : Host.Outcome State Fault Refusal :=
  issueAlu (.max n m d a b) n (aluMax m d a b) s

/-- Leading zero bits, 64 for zero. -/
def aluClz (d : Dest) (a : Opnd) : Alu := alu1 d a fun x => BitVec.ofNat 64 (leadZeros x 64)
/-- CLZ (14 R348). -/
def execClz (n : Nib) (d : Dest) (a : Opnd) (s : State) : Host.Outcome State Fault Refusal :=
  issueAlu (.clz n d a) n (aluClz d a) s

/-- Trailing zero bits, 64 for zero. -/
def aluCtz (d : Dest) (a : Opnd) : Alu := alu1 d a fun x => BitVec.ofNat 64 (trailZeros x 0 64)
/-- CTZ (14 R348). -/
def execCtz (n : Nib) (d : Dest) (a : Opnd) (s : State) : Host.Outcome State Fault Refusal :=
  issueAlu (.ctz n d a) n (aluCtz d a) s

/-- Set bits. -/
def aluPopc (d : Dest) (a : Opnd) : Alu := alu1 d a fun x => BitVec.ofNat 64 (popCount x 64)
/-- POPC (14 R348). -/
def execPopc (n : Nib) (d : Dest) (a : Opnd) (s : State) : Host.Outcome State Fault Refusal :=
  issueAlu (.popc n d a) n (aluPopc d a) s

/-- A low field sign-extended. -/
def aluSext (m : XWidth) (d : Dest) (a : Opnd) : Alu := alu1 d a (sextWord m)
/-- SEXT (14 R348). -/
def execSext (n : Nib) (m : XWidth) (d : Dest) (a : Opnd) (s : State) : Host.Outcome State Fault Refusal :=
  issueAlu (.sext n m d a) n (aluSext m d a) s

/-- A low field zero-extended. -/
def aluZext (m : XWidth) (d : Dest) (a : Opnd) : Alu := alu1 d a (zextWord m)
/-- ZEXT (14 R348). -/
def execZext (n : Nib) (m : XWidth) (d : Dest) (a : Opnd) (s : State) : Host.Outcome State Fault Refusal :=
  issueAlu (.zext n m d a) n (aluZext m d a) s

/-- 1 where the condition holds, else 0. -/
def aluCmp (m : Cond) (d : Dest) (a b : Opnd) : Alu := alu2 d a b fun x y => flagWord (condHolds m x y)
/-- CMP (14 R348). -/
def execCmp (n : Nib) (m : Cond) (d : Dest) (a b : Opnd) (s : State) : Host.Outcome State Fault Refusal :=
  issueAlu (.cmp n m d a b) n (aluCmp m d a b) s

/-- b where a is not zero, else c. -/
def aluSel (a b c : Opnd) : Alu := alu3 a b c fun x y z => if x = 0 then z else y
/-- SEL (14 R348). -/
def execSel (n : Nib) (a b c : Opnd) (s : State) : Host.Outcome State Fault Refusal :=
  issueAlu (.sel n a b c) n (aluSel a b c) s

/-- a + (b shifted left by the mod). -/
def aluLea (sh : BitVec 2) (d : Dest) (a b : Opnd) : Alu := alu2 d a b fun x y => x + (y <<< sh.toNat)
/-- LEA (14 R348). -/
def execLea (n : Nib) (sh : BitVec 2) (d : Dest) (a b : Opnd) (s : State) : Host.Outcome State Fault Refusal :=
  issueAlu (.lea n sh d a b) n (aluLea sh d a b) s

/-- a. -/
def aluMov (d : Dest) (a : Opnd) : Alu := alu1 d a fun x => x
/-- MOV (14 R348). -/
def execMov (n : Nib) (d : Dest) (a : Opnd) (s : State) : Host.Outcome State Fault Refusal :=
  issueAlu (.mov n d a) n (aluMov d a) s
end Sys2Proof.Machine
end

