-- ==== Sys2Proof/Machine/Tensor.lean ====
section
/-! DEFINITION. The words that name a tensor record: STT and VHIST (15 R369, R370, 16 R410, 10 R265-R276). -/

namespace Sys2Proof.Machine

/-- The element format of the q2 entries of an STT (15 R369). -/
def sttFmt (f : BitVec 2) : Fmt := (Fmt.ofBits (f.setWidth 4)).getD .fp32

/-- The k oldest entries of q2, if all are filled. -/
def oldest (k : Nat) (l : List QEnt) : Option (List VWord) :=
  let vs := (l.take k).filterMap fun e => match e.val with | some (.v w) => some w | _ => none
  if vs.length = k then some vs else none

/-- The elements of vectors, oldest first, as numbers. -/
def vecValues (f : Fmt) (l : List VWord) : List XV :=
  (l.flatMap fun v => elems (fmtWidth f) v.val).map (decodeElem f)

/-- STT's writes and counts once nothing can trap: FPSTAT, the entries taken, the record's counters, and the trap of a
marked STT with its writes performed (10 R273, R274). -/
def sttWrite (s : State) (t : Thread) (va : Word) (rec : Span) (k : Nat) (ws : List TWrite) (o : TOut)
    (xs : List XV) : Res :=
  match slotWrite s t.slot t.seq (getSeq s t).pc s.nextUid (.tensor ws) with
  | .error b => .bad s b
  | .ok s =>
    let s := updSlot s t.slot fun x =>
      { x with fpstat := x.fpstat ||| o.flags, queues := vset x.queues 2 ((vget x.queues 2).drop k) }
    match mergeCounts s (getSlot s t.slot).job rec (countValues xs o.sats) with
    | (s, true) => .trap s { cause := 11, addr := va }
    | (s, false) => .done s

/-- A write of STT into a region's own areas of the scratchpad while the region is open (11 R288). -/
def sttRegion (s : State) (t : Thread) (sps : List Span) : Bool :=
  let x := getSlot s t.slot
  !isSup s t && x.regionOpen && sps.any fun sp => inRegionAreas x t.slot sp.loc sp.len
/-- STT from its resolution on (15 R370), with storage as it was before the resolution: a word that traps or waits before it writes has not
executed, and an override that it made is not kept (04 R104, 10 R276). -/
def sttStore (m : Store) (s : State) (t : Thread) (va : Word) (rec : Span) (r : Nat) (v : Resolution) (src : Fmt) (o : Nat) : Res :=
  let f := fmtOf v.2.1
  let w := fmtWidth f
  let n := 2048 / fmtWidth src
  let k := max 1 (512 / (n * w))
  let back (s : State) : State := { s with mem := m }
  if o * w % 512 ≠ 0 then .trap (back s) { cause := 5, addr := va }
  else
    match oldest k (vget (getSlot s t.slot).queues 2) with
    | none => .wait (back s) true
    | some vs =>
      let e := recExtent r
      if e < o + n * k && !recOobok r then .trap (back s) { cause := 14, addr := va }
      else
        let xs := (vecValues src vs).take (e - o)
        let out := encodeElems f v.2.2 false false xs
        let runs := if xs.isEmpty then [] else
          tensorRuns f (recBase r) (recScales r) (some (BitVec.ofNat 4 v.1)) o out
        match transRuns (slotCtx s t.slot t.seq) s runs with
        | (s, .fault kd a) => .trap (back s) { cause := 4, kind := kd, wr := true, addr := a }
        | (s, .stall) => .wait (back s) false
        | (s, .ok ws) =>
          let sps := ws.map (·.span)
          if flipping s sps then .wait (back s) false
          else if sttRegion s t sps then .trap (back s) { cause := 10 }
          else if vs.any vwBad then .bad (back s) { cause := 1, src := seqNum t.seq, addr := 0 }
          else if pending s t then .wait (back s) false
          else
            match sttWrite s t va rec k ws out xs with
            | .bad s b => .bad (back s) b
            | r => r

/-- STT's effect (15 R370). -/
def sttEff (a b : Opnd) (fmt : BitVec 2) (s : State) (t : Thread) : Res :=
  let va := srcVal s t a
  aligned s va 256 <| access s t va 256 { r := true } fun s sps =>
    match sps with
    | [rec] =>
      match readRecord s (seqNum t.seq) t.slot rec with
      | .error e => .bad s e
      | .ok (s, r) =>
        match resolveRecord s (getSlot s t.slot).job (getSlot s t.slot).fmtovr va rec r with
        | .bad => .trap s { cause := 12, addr := va }
        | .held => .wait s false
        | .skew => .trap s { cause := 13, addr := va }
        | .ok s1 r v => sttStore s.mem s1 t va rec r v (sttFmt fmt) (srcVal s t b).toNat
    | _ => .wait s false
/-- STT (15 R369, R370). -/
def execStt (n : Nib) (a b : Opnd) (fmt : BitVec 2) (s : State) : Host.Outcome State Fault Refusal :=
  issueWord (.stt n a b fmt) n none { scalars := [a, b] } (sttEff a b fmt) s

/-- VHIST's effect (16 R410): in a region the increments are buffered. -/
def vhistEff (a b : Opnd) (s : State) (t : Thread) : Res :=
  let va := srcVal s t b
  let f := vtFmt (getSlot s t.slot).vtype
  if !fmtWide f then .trap s { cause := 15 }
  else aligned s va 256 <| access s t va 256 { r := true, w := true } fun s sps =>
    match sps with
    | [rec] =>
      match readRecord s (seqNum t.seq) t.slot rec with
      | .error e => .bad s e
      | .ok (s, r) =>
        match checkRecord s (getSlot s t.slot).job r with
        | (s, none) => .trap s { cause := 12, addr := va }
        | (s, some _) =>
          match slotWrite s t.slot t.seq (getSeq s t).pc s.nextUid
              (.count rec (countValues (vecValues f [readV (getSlot s t.slot) a]) 0)) with
          | .ok s => .done s
          | .error b => .bad s b
    | _ => .wait s false
/-- VHIST (16 R410). -/
def execVhist (n : Nib) (a b : Opnd) (s : State) : Host.Outcome State Fault Refusal :=
  issueWord (.vhist n a b) n none { scalars := [b], vectors := [a] } (vhistEff a b) s

end Sys2Proof.Machine
end

