-- ==== Sys2Proof/Machine/Vote.lean ====
section
/-! DEFINITION. VOTE: the pair of a VOTE word and the computing word after it (11 R296, 18 R444). -/

namespace Sys2Proof.Machine

/-- The words that VOTE may precede: class 0x20, opcodes 0x40-0x4A and class 0xA0 (11 R296). -/
def aluOf : Instr → Option Alu
  | .add _ d a b => some (aluAdd d a b)
  | .sub _ d a b => some (aluSub d a b)
  | .mul _ d a b => some (aluMul d a b)
  | .mulh _ m d a b => some (aluMulh m d a b)
  | .div _ m d a b => some (aluDiv m d a b)
  | .rem _ m d a b => some (aluRem m d a b)
  | .and _ d a b => some (aluAnd d a b)
  | .or _ d a b => some (aluOr d a b)
  | .xor _ d a b => some (aluXor d a b)
  | .andn _ d a b => some (aluAndn d a b)
  | .shl _ d a b => some (aluShl d a b)
  | .shr _ d a b => some (aluShr d a b)
  | .sra _ d a b => some (aluSra d a b)
  | .rot _ d a b => some (aluRot d a b)
  | .min _ m d a b => some (aluMin m d a b)
  | .max _ m d a b => some (aluMax m d a b)
  | .clz _ d a => some (aluClz d a)
  | .ctz _ d a => some (aluCtz d a)
  | .popc _ d a => some (aluPopc d a)
  | .sext _ m d a => some (aluSext m d a)
  | .zext _ m d a => some (aluZext m d a)
  | .cmp _ m d a b => some (aluCmp m d a b)
  | .sel _ a b c => some (aluSel a b c)
  | .lea _ sh d a b => some (aluLea sh d a b)
  | .mov _ d a => some (aluMov d a)
  | .li _ d imm => some (aluLi d imm)
  | .liw _ d imm => some (aluLiw d imm)
  | .lihi _ d a imm => some (aluLihi d a imm)
  | .addi _ f imm => some (aluAddi f imm)
  | .andi _ f imm => some (aluAndi f imm)
  | .ori _ f imm => some (aluOri f imm)
  | .xori _ f imm => some (aluXori f imm)
  | .shli _ f sh => some (aluShli f sh)
  | .shri _ f sh => some (aluShri f sh)
  | .srai _ f sh => some (aluSrai f sh)
  | .cmpi _ m a imm => some (aluCmpi m a imm)
  | .vadd _ d a b => some (aluVadd d a b)
  | .vsub _ d a b => some (aluVsub d a b)
  | .vmul _ d a b => some (aluVmul d a b)
  | .vdiv _ d a b => some (aluVdiv d a b)
  | .vfma _ m a b c => some (aluVfma m a b c)
  | .vmin _ d a b => some (aluVmin d a b)
  | .vmax _ d a b => some (aluVmax d a b)
  | .vsqrt _ d a => some (aluVsqrt d a)
  | .vrcp _ d a => some (aluVrcp d a)
  | .vrsq _ d a => some (aluVrsq d a)
  | .vexp2 _ d a => some (aluVexp2 d a)
  | .vlog2 _ d a => some (aluVlog2 d a)
  | .vabs _ m d a b => some (aluVabs m d a b)
  | .vcmp _ m d a b => some (aluVcmp m d a b)
  | .vsel _ a b c => some (aluVsel a b c)
  | .viadd _ m d a b => some (aluViadd m d a b)
  | .visub _ m d a b => some (aluVisub m d a b)
  | .vimul _ m d a b => some (aluVimul m d a b)
  | .vlogic _ m d a b => some (aluVlogic m d a b)
  | .vshift _ m d a b => some (aluVshift m d a b)
  | .viminmax _ m d a b => some (aluViminmax m d a b)
  | .vsett _ fmt => some (aluVsett fmt)
  | .vbcast _ d a => some (aluVbcast d a)
  | .vextr _ d a b => some (aluVextr d a b)
  | .vins _ a b c => some (aluVins a b c)
  | .vperm _ d a b => some (aluVperm d a b)
  | .viota _ d imm => some (aluViota d imm)
  | .vreds _ d a => some (aluVreds d a)
  | .vredm _ m d a => some (aluVredm m d a)
  | _ => none

/-- An opcode that VOTE may precede. -/
def votable (op : Nat) : Bool :=
  (decide (0x20 ≤ op) && decide (op < 0x40)) || (decide (0x40 ≤ op) && decide (op ≤ 0x4A))
    || (decide (0xA0 ≤ op) && decide (op < 0xC0))

/-- One of the three results, with the bits that a soft error flipped in it. -/
def upset (v : AVal) (m : BitVec 2048) : AVal :=
  match v with
  | .s w => .s (w ^^^ m.setWidth 64)
  | .v w => .v (w ^^^ m)
  | .vtype w => .vtype (w ^^^ m.setWidth 64)

/-- The vote on three results: the written one, and whether it corrected; none when all differ (11 R296). -/
def majority (a b c : AVal) : Option (AVal × Bool) :=
  if a = b then some (a, c != a) else if a = c then some (a, true) else if b = c then some (b, true) else none

/-- The VOTE word of a pair counts in its segment, and the PC stands at the voted word (11 R297). -/
def passVote (s : State) (t : Thread) : State :=
  updSeq s t fun q => { segCount q (wordsOf .vote) with pc := q.pc + 4 }

/-- A trap at a VOTE. -/
def voteTrap (s : State) (t : Thread) (tr : Trap) : State := takeTrap (stall s t false) t.slot t.seq (getSeq s t).pc tr

/-- The voted word computes three times, and the results are compared (11 R296). -/
def voteRun (s : State) (t : Thread) (i : Instr) (a : Alu) (ws sigs : List (BitVec 3 × Nat)) : State :=
  match a.eval s t with
  | .trap c => voteTrap s t { cause := c }
  | .ok v flags =>
    let (m0, m1, m2) := ((getSlot s t.slot).vote).getD (0, 0, 0)
    let s := updSlot s t.slot fun x => { x with vote := none }
    match majority (upset v m0) (upset v m1) (upset v m2) with
    | none => wordError (stall s t false) t (getSeq s t).pc s.nextUid { cause := 3, src := seqNum t.seq, addr := 0 }
    | some (w, fixed) =>
      let s := if fixed then updSlot s t.slot fun x =>
          { x with corrcnt := BitVec.ofNat 64 (min (x.corrcnt.toNat + 1) 0xFFFFFFFF) } else s
      retireWord (passVote (writeAlu s t a.dst w flags) t) t (wordsOf i) ws sigs none

/-- The stage predicate squashes a VOTE and its word. -/
def voteSquashed (q : SeqSt) : Bool := q.predOn && !q.stg.getLsbD q.predN.toNat

/-- The sync nibble of an instruction's first word. -/
def nibOf (i : Instr) : Nib := Nib.ofBits ((wordsOf i).1.extractLsb' 28 4)

/-- A VOTE before a word that decodes (18 R444): tested for squashing at the VOTE, decode traps raised at the VOTE, the
nibble and the operands those of the voted word. -/
def voteWord (s : State) (t : Thread) (i : Instr) : State :=
  let x := getSlot s t.slot
  let q := x.seq t.seq
  let n := nibOf i
  let ws := waitsOf t.seq n none
  let sigs := sigsOf t.seq n none
  match aluOf i with
  | none => if voteSquashed q then passVote s t else voteTrap s t { cause := 1 }
  | some a =>
    if voteSquashed q then
      (if waitsMet x.tok ws then retireWord (passVote (pushVoid s t a.dst) t) t (wordsOf i) ws sigs none
       else stall s t true)
    else
      match decodeTrap i t.seq x.supMode with
      | some tr => voteTrap s t tr
      | none =>
        let r : Reads := { scalars := a.scalars, vectors := a.vectors }
        if !waitsMet x.tok ws then stall s t true
        else if r.waits q then stall s t false
        else if r.bad x q then
          wordError (stall s t false) t q.pc s.nextUid { cause := 1, src := seqNum t.seq, addr := 0 }
        else voteRun s t i a ws sigs

/-- VOTE's change: the pair issues as one instruction. -/
def voteStep (s : State) : State :=
  let t := s.turn
  if !ready s t then s else
    match fetchAt s t ((getSeq s t).pc + 4) with
    | (s, .word i) => voteWord s t i
    | (s, .undecoded w x) =>
      if voteSquashed (getSeq s t) then issueUndecoded (passVote s t) t w x
      else voteTrap s t (if votable (opcodeOf w) then undecodedTrap w t.seq else { cause := 1 })
    | (s, .fault k a) => fetchFault s t k a
    | (s, .bad b) => fetchBad s t b
    | (s, .stall) => stall s t false

/-- VOTE (11 R296, 18 R444). -/
def execVote (s : State) : Host.Outcome State Fault Refusal := .next (voteStep s)

end Sys2Proof.Machine
end

