-- ==== Sys2Proof/Machine/Dispatch.lean ====
section
/-! DEFINITION. One arm per constructor of Instr: its meaning. -/

namespace Sys2Proof.Machine

/-- The meaning of an instruction or event (spec/95 lists them as the part's steps). -/
def exec (i : Instr) (s : State) : Host.Outcome State Fault Refusal :=
  match i with
  | .start a => Sys2Proof.Machine.execStart a s
  | .scanReadout t => Sys2Proof.Machine.execScanReadout t s
  | .unlockToken challenge token => Sys2Proof.Machine.execUnlockToken challenge token s
  | .powerSample watts => Sys2Proof.Machine.execPowerSample watts s
  | .powerLimit thermal => Sys2Proof.Machine.execPowerLimit thermal s
  | .thermalSample die temp => Sys2Proof.Machine.execThermalSample die temp s
  | .dieFenced cause => Sys2Proof.Machine.execDieFenced cause s
  | .distributorHeartbeat die => Sys2Proof.Machine.execDistributorHeartbeat die s
  | .invalidFlit port f => Sys2Proof.Machine.execInvalidFlit port f s
  | .linkRetry port => Sys2Proof.Machine.execLinkRetry port s
  | .portDown port => Sys2Proof.Machine.execPortDown port s
  | .deviceLost dev => Sys2Proof.Machine.execDeviceLost dev s
  | .relFabricTimeout slot q => Sys2Proof.Machine.execRelFabricTimeout slot q s
  | .collectiveTimeout coll => Sys2Proof.Machine.execCollectiveTimeout coll s
  | .shardComplete coll shard => Sys2Proof.Machine.execShardComplete coll shard s
  | .collectiveComplete coll => Sys2Proof.Machine.execCollectiveComplete coll s
  | .gangTimeout lgid => Sys2Proof.Machine.execGangTimeout lgid s
  | .gangReservationExpiry lgid => Sys2Proof.Machine.execGangReservationExpiry lgid s
  | .killDone job => Sys2Proof.Machine.execKillDone job s
  | .hostCompletionTimeout job => Sys2Proof.Machine.execHostCompletionTimeout job s
  | .ckptDone st => Sys2Proof.Machine.execCkptDone st s
  | .queueSlotAccept job desc => Sys2Proof.Machine.execQueueSlotAccept job desc s
  | .queueStall job desc => Sys2Proof.Machine.execQueueStall job desc s
  | .issuePacket job desc record kind rest => Sys2Proof.Machine.execIssuePacket job desc record kind rest s
  | .collRequest job desc record rest => Sys2Proof.Machine.execCollRequest job desc record rest s
  | .pageWalk die job va => Sys2Proof.Machine.execPageWalk die job va s
  | .walkRestart die job va => Sys2Proof.Machine.execWalkRestart die job va s
  | .engineFault slot eng => Sys2Proof.Machine.execEngineFault slot eng s
  | .engineFaultResume source eng => Sys2Proof.Machine.execEngineFaultResume source eng s
  | .engineFaultAbort source eng => Sys2Proof.Machine.execEngineFaultAbort source eng s
  | .biasFlipToHost region => Sys2Proof.Machine.execBiasFlipToHost region s
  | .biasFlipToDevice region => Sys2Proof.Machine.execBiasFlipToDevice region s
  | .biasFlipComplete region => Sys2Proof.Machine.execBiasFlipComplete region s
  | .migrate die region deviceSide => Sys2Proof.Machine.execMigrate die region deviceSide s
  | .taskEnd slot => Sys2Proof.Machine.execTaskEnd slot s
  | .recordAging cluster job prio => Sys2Proof.Machine.execRecordAging cluster job prio s
  | .gangReservationTimeout gang => Sys2Proof.Machine.execGangReservationTimeout gang s
  | .preemptionDelay cluster => Sys2Proof.Machine.execPreemptionDelay cluster s
  | .barrierForward die bar lost => Sys2Proof.Machine.execBarrierForward die bar lost s
  | .instanceGrant slot => Sys2Proof.Machine.execInstanceGrant slot s
  | .escapementSample graph => Sys2Proof.Machine.execEscapementSample graph s
  | .balanceDecision graph => Sys2Proof.Machine.execBalanceDecision graph s
  | .commandPull slot eng => Sys2Proof.Machine.execCommandPull slot eng s
  | .decoupleDeadlock slot cycles => Sys2Proof.Machine.execDecoupleDeadlock slot cycles s
  | .loadDelivery slot q tag => Sys2Proof.Machine.execLoadDelivery slot q tag s
  | .regionDrainComplete slot => Sys2Proof.Machine.execRegionDrainComplete slot s
  | .copyPacketComplete slot ctx => Sys2Proof.Machine.execCopyPacketComplete slot ctx s
  | .matrixCommandComplete slot => Sys2Proof.Machine.execMatrixCommandComplete slot s
  | .gatherComplete slot => Sys2Proof.Machine.execGatherComplete slot s
  | .streamTile sub => Sys2Proof.Machine.execStreamTile sub s
  | .streamComplete sub => Sys2Proof.Machine.execStreamComplete sub s
  | .fpReduceContribution p => Sys2Proof.Machine.execFpReduceContribution p s
  | .fpReduceTimeout table => Sys2Proof.Machine.execFpReduceTimeout table s
  | .eccCounterRead die => Sys2Proof.Machine.execEccCounterRead die s
  | .nop n => Sys2Proof.Machine.execNop n s
  | .br n off => Sys2Proof.Machine.execBr n off s
  | .beq n a b off => Sys2Proof.Machine.execBeq n a b off s
  | .bne n a b off => Sys2Proof.Machine.execBne n a b off s
  | .blt n a b off => Sys2Proof.Machine.execBlt n a b off s
  | .bge n a b off => Sys2Proof.Machine.execBge n a b off s
  | .bltu n a b off => Sys2Proof.Machine.execBltu n a b off s
  | .bgeu n a b off => Sys2Proof.Machine.execBgeu n a b off s
  | .bz n a off => Sys2Proof.Machine.execBz n a off s
  | .bnz n a off => Sys2Proof.Machine.execBnz n a off s
  | .call n off => Sys2Proof.Machine.execCall n off s
  | .calli n a off => Sys2Proof.Machine.execCalli n a off s
  | .ret n a => Sys2Proof.Machine.execRet n a s
  | .jmpi n a off => Sys2Proof.Machine.execJmpi n a off s
  | .loop n off => Sys2Proof.Machine.execLoop n off s
  | .setlc n a b => Sys2Proof.Machine.execSetlc n a b s
  | .stage k => Sys2Proof.Machine.execStage k s
  | .tend n => Sys2Proof.Machine.execTend n s
  | .yield n => Sys2Proof.Machine.execYield n s
  | .seg n cost sig => Sys2Proof.Machine.execSeg n cost sig s
  | .segend n => Sys2Proof.Machine.execSegend n s
  | .add n d a b => Sys2Proof.Machine.execAdd n d a b s
  | .sub n d a b => Sys2Proof.Machine.execSub n d a b s
  | .mul n d a b => Sys2Proof.Machine.execMul n d a b s
  | .mulh n m d a b => Sys2Proof.Machine.execMulh n m d a b s
  | .div n m d a b => Sys2Proof.Machine.execDiv n m d a b s
  | .rem n m d a b => Sys2Proof.Machine.execRem n m d a b s
  | .and n d a b => Sys2Proof.Machine.execAnd n d a b s
  | .or n d a b => Sys2Proof.Machine.execOr n d a b s
  | .xor n d a b => Sys2Proof.Machine.execXor n d a b s
  | .andn n d a b => Sys2Proof.Machine.execAndn n d a b s
  | .shl n d a b => Sys2Proof.Machine.execShl n d a b s
  | .shr n d a b => Sys2Proof.Machine.execShr n d a b s
  | .sra n d a b => Sys2Proof.Machine.execSra n d a b s
  | .rot n d a b => Sys2Proof.Machine.execRot n d a b s
  | .min n m d a b => Sys2Proof.Machine.execMin n m d a b s
  | .max n m d a b => Sys2Proof.Machine.execMax n m d a b s
  | .clz n d a => Sys2Proof.Machine.execClz n d a s
  | .ctz n d a => Sys2Proof.Machine.execCtz n d a s
  | .popc n d a => Sys2Proof.Machine.execPopc n d a s
  | .sext n m d a => Sys2Proof.Machine.execSext n m d a s
  | .zext n m d a => Sys2Proof.Machine.execZext n m d a s
  | .cmp n m d a b => Sys2Proof.Machine.execCmp n m d a b s
  | .sel n a b c => Sys2Proof.Machine.execSel n a b c s
  | .lea n sh d a b => Sys2Proof.Machine.execLea n sh d a b s
  | .mov n d a => Sys2Proof.Machine.execMov n d a s
  | .li n d imm => Sys2Proof.Machine.execLi n d imm s
  | .liw n d imm => Sys2Proof.Machine.execLiw n d imm s
  | .lihi n d a imm => Sys2Proof.Machine.execLihi n d a imm s
  | .addi n f imm => Sys2Proof.Machine.execAddi n f imm s
  | .andi n f imm => Sys2Proof.Machine.execAndi n f imm s
  | .ori n f imm => Sys2Proof.Machine.execOri n f imm s
  | .xori n f imm => Sys2Proof.Machine.execXori n f imm s
  | .shli n f sh => Sys2Proof.Machine.execShli n f sh s
  | .shri n f sh => Sys2Proof.Machine.execShri n f sh s
  | .srai n f sh => Sys2Proof.Machine.execSrai n f sh s
  | .cmpi n m a imm => Sys2Proof.Machine.execCmpi n m a imm s
  | .qput n k f => Sys2Proof.Machine.execQput n k f s
  | .qget n f k => Sys2Proof.Machine.execQget n f k s
  | .qpeek n f k => Sys2Proof.Machine.execQpeek n f k s
  | .qcnt n f k => Sys2Proof.Machine.execQcnt n f k s
  | .rdsr n f sr => Sys2Proof.Machine.execRdsr n f sr s
  | .wrsr n sr f => Sys2Proof.Machine.execWrsr n sr f s
  | .tsig n cnt pred => Sys2Proof.Machine.execTsig n cnt pred s
  | .twait n cnt pred => Sys2Proof.Machine.execTwait n cnt pred s
  | .ldb n d a off => Sys2Proof.Machine.execLdb n d a off s
  | .ldh n d a off => Sys2Proof.Machine.execLdh n d a off s
  | .ldw n d a off => Sys2Proof.Machine.execLdw n d a off s
  | .ldd n d a off => Sys2Proof.Machine.execLdd n d a off s
  | .ldc n d a off => Sys2Proof.Machine.execLdc n d a off s
  | .ldq n k f off => Sys2Proof.Machine.execLdq n k f off s
  | .ldvq n k f off => Sys2Proof.Machine.execLdvq n k f off s
  | .stb n b a off => Sys2Proof.Machine.execStb n b a off s
  | .sth n b a off => Sys2Proof.Machine.execSth n b a off s
  | .stw n b a off => Sys2Proof.Machine.execStw n b a off s
  | .std n b a off => Sys2Proof.Machine.execStd n b a off s
  | .stvq n k f off => Sys2Proof.Machine.execStvq n k f off s
  | .stt n a b fmt => Sys2Proof.Machine.execStt n a b fmt s
  | .pref n a off => Sys2Proof.Machine.execPref n a off s
  | .aadd n o d a b => Sys2Proof.Machine.execAadd n o d a b s
  | .amin n o d a b => Sys2Proof.Machine.execAmin n o d a b s
  | .amax n o d a b => Sys2Proof.Machine.execAmax n o d a b s
  | .aminu n o d a b => Sys2Proof.Machine.execAminu n o d a b s
  | .amaxu n o d a b => Sys2Proof.Machine.execAmaxu n o d a b s
  | .aand n o d a b => Sys2Proof.Machine.execAand n o d a b s
  | .aor n o d a b => Sys2Proof.Machine.execAor n o d a b s
  | .axor n o d a b => Sys2Proof.Machine.execAxor n o d a b s
  | .aswap n o d a b => Sys2Proof.Machine.execAswap n o d a b s
  | .cas n o a b c => Sys2Proof.Machine.execCas n o a b c s
  | .casw n o a b c => Sys2Proof.Machine.execCasw n o a b c s
  | .red n op o a b => Sys2Proof.Machine.execRed n op o a b s
  | .acq n d a => Sys2Proof.Machine.execAcq n d a s
  | .rel n a b => Sys2Proof.Machine.execRel n a b s
  | .bind n a b c => Sys2Proof.Machine.execBind n a b c s
  | .unbind n a b => Sys2Proof.Machine.execUnbind n a b s
  | .fence n => Sys2Proof.Machine.execFence n s
  | .xfence n src dst => Sys2Proof.Machine.execXfence n src dst s
  | .cflush n a b => Sys2Proof.Machine.execCflush n a b s
  | .cinv n a b => Sys2Proof.Machine.execCinv n a b s
  | .rclaim n rg f => Sys2Proof.Machine.execRclaim n rg f s
  | .rfill n rg f => Sys2Proof.Machine.execRfill n rg f s
  | .rwaitf n rg f => Sys2Proof.Machine.execRwaitf n rg f s
  | .rtake n rg f => Sys2Proof.Machine.execRtake n rg f s
  | .rfree n rg f => Sys2Proof.Machine.execRfree n rg f s
  | .rwaite n rg f => Sys2Proof.Machine.execRwaite n rg f s
  | .rstat n f rg => Sys2Proof.Machine.execRstat n f rg s
  | .rbind n rg f role => Sys2Proof.Machine.execRbind n rg f role s
  | .fwait n a b c => Sys2Proof.Machine.execFwait n a b c s
  | .ffill n a b => Sys2Proof.Machine.execFfill n a b s
  | .ftest n d a => Sys2Proof.Machine.execFtest n d a s
  | .bararr n bn => Sys2Proof.Machine.execBararr n bn s
  | .barwait n f bn => Sys2Proof.Machine.execBarwait n f bn s
  | .barsync n bn => Sys2Proof.Machine.execBarsync n bn s
  | .wpwait n f ctx => Sys2Proof.Machine.execWpwait n f ctx s
  | .vadd n d a b => Sys2Proof.Machine.execVadd n d a b s
  | .vsub n d a b => Sys2Proof.Machine.execVsub n d a b s
  | .vmul n d a b => Sys2Proof.Machine.execVmul n d a b s
  | .vfma n m a b c => Sys2Proof.Machine.execVfma n m a b c s
  | .vmin n d a b => Sys2Proof.Machine.execVmin n d a b s
  | .vmax n d a b => Sys2Proof.Machine.execVmax n d a b s
  | .vabs n m d a b => Sys2Proof.Machine.execVabs n m d a b s
  | .vdiv n d a b => Sys2Proof.Machine.execVdiv n d a b s
  | .vsqrt n d a => Sys2Proof.Machine.execVsqrt n d a s
  | .vrcp n d a => Sys2Proof.Machine.execVrcp n d a s
  | .vrsq n d a => Sys2Proof.Machine.execVrsq n d a s
  | .vexp2 n d a => Sys2Proof.Machine.execVexp2 n d a s
  | .vlog2 n d a => Sys2Proof.Machine.execVlog2 n d a s
  | .vcmp n m d a b => Sys2Proof.Machine.execVcmp n m d a b s
  | .vsel n a b c => Sys2Proof.Machine.execVsel n a b c s
  | .viadd n m d a b => Sys2Proof.Machine.execViadd n m d a b s
  | .visub n m d a b => Sys2Proof.Machine.execVisub n m d a b s
  | .vimul n m d a b => Sys2Proof.Machine.execVimul n m d a b s
  | .vlogic n m d a b => Sys2Proof.Machine.execVlogic n m d a b s
  | .vshift n m d a b => Sys2Proof.Machine.execVshift n m d a b s
  | .viminmax n m d a b => Sys2Proof.Machine.execViminmax n m d a b s
  | .vsett n fmt => Sys2Proof.Machine.execVsett n fmt s
  | .vbcast n d a => Sys2Proof.Machine.execVbcast n d a s
  | .vextr n d a b => Sys2Proof.Machine.execVextr n d a b s
  | .vins n a b c => Sys2Proof.Machine.execVins n a b c s
  | .vperm n d a b => Sys2Proof.Machine.execVperm n d a b s
  | .viota n d imm => Sys2Proof.Machine.execViota n d imm s
  | .vreds n d a => Sys2Proof.Machine.execVreds n d a s
  | .vredm n m d a => Sys2Proof.Machine.execVredm n m d a s
  | .vld n d a off => Sys2Proof.Machine.execVld n d a off s
  | .vst n b a off => Sys2Proof.Machine.execVst n b a off s
  | .vldx n z d a b => Sys2Proof.Machine.execVldx n z d a b s
  | .vstx n z a b c => Sys2Proof.Machine.execVstx n z a b c s
  | .vcvt n a dst src rtz hi => Sys2Proof.Machine.execVcvt n a dst src rtz hi s
  | .vquant n a dst src rtz hi => Sys2Proof.Machine.execVquant n a dst src rtz hi s
  | .vdeq n a dst src rtz hi => Sys2Proof.Machine.execVdeq n a dst src rtz hi s
  | .vresid n a b c => Sys2Proof.Machine.execVresid n a b c s
  | .vtopk n f k => Sys2Proof.Machine.execVtopk n f k s
  | .vhist n a b => Sys2Proof.Machine.execVhist n a b s
  | .vamax n d a => Sys2Proof.Machine.execVamax n d a s
  | .vpack n t d a b => Sys2Proof.Machine.execVpack n t d a b s
  | .vunpk n t d a => Sys2Proof.Machine.execVunpk n t d a s
  | .mma n f => Sys2Proof.Machine.execMma n f s
  | .gmma n f => Sys2Proof.Machine.execGmma n f s
  | .mconv n f => Sys2Proof.Machine.execMconv n f s
  | .mzero n bank clr => Sys2Proof.Machine.execMzero n bank clr s
  | .mswap n => Sys2Proof.Machine.execMswap n s
  | .mepi n f => Sys2Proof.Machine.execMepi n f s
  | .mstatr n f bank => Sys2Proof.Machine.execMstatr n f bank s
  | .copy n f ctx => Sys2Proof.Machine.execCopy n f ctx s
  | .copym n f ctx => Sys2Proof.Machine.execCopym n f ctx s
  | .gath n f => Sys2Proof.Machine.execGath n f s
  | .strsub n f => Sys2Proof.Machine.execStrsub n f s
  | .strdrop n f => Sys2Proof.Machine.execStrdrop n f s
  | .coll n f => Sys2Proof.Machine.execColl n f s
  | .launch n f => Sys2Proof.Machine.execLaunch n f s
  | .gang n f => Sys2Proof.Machine.execGang n f s
  | .spawn n f => Sys2Proof.Machine.execSpawn n f s
  | .jdec n a b => Sys2Proof.Machine.execJdec n a b s
  | .cancel n f => Sys2Proof.Machine.execCancel n f s
  | .phend n f => Sys2Proof.Machine.execPhend n f s
  | .svc n imm => Sys2Proof.Machine.execSvc n imm s
  | .trap n imm => Sys2Proof.Machine.execTrap n imm s
  | .eret n => Sys2Proof.Machine.execEret n s
  | .cropen n off => Sys2Proof.Machine.execCropen n off s
  | .crclose n => Sys2Proof.Machine.execCrclose n s
  | .snap n f => Sys2Proof.Machine.execSnap n f s
  | .snapld n f => Sys2Proof.Machine.execSnapld n f s
  | .tlbinvRange n a b => Sys2Proof.Machine.execTlbinvRange n a b s
  | .tlbinvJob n a => Sys2Proof.Machine.execTlbinvJob n a s
  | .tlbinvAll n => Sys2Proof.Machine.execTlbinvAll n s
  | .storePerformed slot q => Sys2Proof.Machine.execStorePerformed slot q s
  | .softError t => Sys2Proof.Machine.execSoftError t s
  | .wr => Sys2Proof.Machine.execWr s
  | .wrack => Sys2Proof.Machine.execWrack s
  | .rd => Sys2Proof.Machine.execRd s
  | .rdresp => Sys2Proof.Machine.execRdresp s
  | .atom => Sys2Proof.Machine.execAtom s
  | .atomresp => Sys2Proof.Machine.execAtomresp s
  | .relw => Sys2Proof.Machine.execRelw s
  | .filln => Sys2Proof.Machine.execFilln s
  | .freen => Sys2Proof.Machine.execFreen s
  | .smax => Sys2Proof.Machine.execSmax s
  | .smaxres => Sys2Proof.Machine.execSmaxres s
  | .gres => Sys2Proof.Machine.execGres s
  | .gresack => Sys2Proof.Machine.execGresack s
  | .gstart => Sys2Proof.Machine.execGstart s
  | .gstartack => Sys2Proof.Machine.execGstartack s
  | .gcancel => Sys2Proof.Machine.execGcancel s
  | .cwr => Sys2Proof.Machine.execCwr s
  | .hbeat => Sys2Proof.Machine.execHbeat s
  | .srqWrite => Sys2Proof.Machine.execSrqWrite s
  | .sevqWrite => Sys2Proof.Machine.execSevqWrite s
  | .registerWrite => Sys2Proof.Machine.execRegisterWrite s
  | .hostMemRead => Sys2Proof.Machine.execHostMemRead s
  | .hostMemWrite => Sys2Proof.Machine.execHostMemWrite s
  | .hostSnoop => Sys2Proof.Machine.execHostSnoop s
  | .createJob => Sys2Proof.Machine.execCreateJob s
  | .killJob => Sys2Proof.Machine.execKillJob s
  | .createQueue => Sys2Proof.Machine.execCreateQueue s
  | .destroyQueue => Sys2Proof.Machine.execDestroyQueue s
  | .checkpoint => Sys2Proof.Machine.execCheckpoint s
  | .restore => Sys2Proof.Machine.execRestore s
  | .attest => Sys2Proof.Machine.execAttest s
  | .fwStage => Sys2Proof.Machine.execFwStage s
  | .fenceDie => Sys2Proof.Machine.execFenceDie s
  | .freeze => Sys2Proof.Machine.execFreeze s
  | .thermalStep => Sys2Proof.Machine.execThermalStep s
  | .masterElection => Sys2Proof.Machine.execMasterElection s
  | .deviceHeartbeat => Sys2Proof.Machine.execDeviceHeartbeat s
  | .warmReset => Sys2Proof.Machine.execWarmReset s
  | .counterHalving => Sys2Proof.Machine.execCounterHalving s
  | .checkpointTargetStall => Sys2Proof.Machine.execCheckpointTargetStall s
  | .freezeRelease => Sys2Proof.Machine.execFreezeRelease s
  | .resetNAssertion => Sys2Proof.Machine.execResetNAssertion s
  | .pwrgoodFall => Sys2Proof.Machine.execPwrgoodFall s
  | .vote => Sys2Proof.Machine.execVote s

end Sys2Proof.Machine
end

