-- ==== Sys2Proof/Machine/Step.lean ====
section
/-! DEFINITION. One step of the package: what comes about next on the agenda, or else the next word of the thread whose
turn it is (log 3). -/

namespace Sys2Proof.Machine

/-- The threads of a slot in the order of the ring K, L, C, S; after S, the next slot that holds something (log 3). -/
def nextTurn (s : State) (t : Thread) : Thread :=
  match t.seq with
  | .K => ⟨t.slot, .L⟩
  | .L => ⟨t.slot, .C⟩
  | .C => ⟨t.slot, .S⟩
  | .S =>
    match s.slots.find? fun e => t.slot < e.1 with
    | some e => ⟨e.1, .K⟩
    | none => ⟨(s.slots.map (·.1)).headD 0, .K⟩

/-- Change the next state of an outcome. -/
def after (f : State → State) : Host.Outcome State Fault Refusal → Host.Outcome State Fault Refusal
  | .next s => .next (f s)
  | .fault r => .fault r
  | .refused r => .refused r

/-- The turn passes on from a thread. -/
def passTurn (t : Thread) (s : State) : State := { s with turn := nextTurn s t }

/-- The thread that an issue port serves where a thread would issue: it alternates between its core's two slots, so that the other slot goes
first where this one had it last and the other is ready (07 R169). -/
def portTurn (s : State) (t : Thread) : Thread :=
  let o : Thread := ⟨otherSlot t.slot, t.seq⟩
  if kvGet 0 s.served (portPlace (coreOf t.slot) t.seq) = t.slot + 1 ∧ ready s o then o else t

/-- One word of the thread whose turn it is at its port: fetched, decoded, and run by `exec`. A thread that is not ready fetches
nothing. -/
def wordStep (s : State) : Host.Outcome State Fault Refusal :=
  let t := portTurn s s.turn
  if ready s t then
    match fetchAt (serve { s with turn := t } (portPlace (coreOf t.slot) t.seq) t.slot) t (getSeq s t).pc with
    | (s, .word i) => exec i s
    | (s, .undecoded w x) => .next (issueUndecoded s t w x)
    | (s, .fault k a) => .next (fetchFault s t k a)
    | (s, .bad b) => .next (fetchBad s t b)
    | (s, .stall) => .next (stall s t false)
  else .next s

/-- The events that reach a package that does not run: its pins, a start, scan access, and the host's accesses (01 R26, R31, R32, 03
R67). -/
def outside : Instr → Bool
  | .start _ | .freeze | .freezeRelease | .resetNAssertion | .pwrgoodFall | .scanReadout _ | .unlockToken _ _ | .registerWrite
  | .hostMemRead | .hostMemWrite | .hostSnoop => true
  | _ => false
/-- What comes about next on the agenda. A word's row is no event and comes about by `issue` only. While the package does not run, all
but the events of `outside` is held as it stands (01 R31). -/
def happen (s : State) (w : Happening) : Host.Outcome State Fault Refusal :=
  if !s.running && !(match w with | .event i => outside i | _ => false) then .next s else
  match w with
  | .event i => if i.isEvent then exec i s else .next s
  | .issue t => wordStep { s with turn := t }
  | .schedule => .next (scheduleStep s)
  | .evict cluster line => .next (purge s cluster line)
  | .work slot eng uid => .next (workStep s slot eng uid)
  | .preempt slot taskid cause => .next (preemptTask s slot taskid cause)
  | .fill slot => .next (fillStep s slot)
  | .cancelled job hdr => .next (cancelRest s job hdr)
  | .coll uid => .next (collWork s uid)
  | .posting => .next (postWaiting s)
  | .portError line gmask => .next (portError s line gmask false)

/-- One step. -/
def step (s : State) : Host.Outcome State Fault Refusal :=
  match s.agenda with
  | it :: rest => happen { s with agenda := rest, time := s.time + it.dt } it.what
  | [] => after (passTurn s.turn) (wordStep s)

/-- The sequencer that withFetchWord picks for a word: the one whose turn it is if it may issue the opcode, else the
first of K, L, C, S that may. -/
def pickSeq (q : Seq) (op : Nat) : Seq :=
  if opcodePermits op q then q else ([Seq.K, .L, .C, .S].find? fun r => opcodePermits op r).getD q

/-- The translation that withFetchWord caches for the thread's fetches: the 4 KiB page of an address, mapped R, X, U to physical address
0. -/
def fetchEntry (job : Nat) (pc : Word) : TlbEnt :=
  { job, upper := upperHalf pc, base := pc &&& ~~~0xFFF#64, size := 4096, leaf := 0x37, entries := [] }

/-- A state whose next step fetches and runs the instruction of w (log 2): nothing stands on the agenda, the package
runs, the thread is one that may issue the opcode, its slot holds a task that is not stopped, in supervisor mode for a
supervisor opcode; its page is translated, and the instruction's bytes, with valid codes, lie there. -/
def State.withFetchWord (s : State) (nbits w : Nat) : State :=
  let v := w % 2 ^ nbits
  let op := opcodeOf (BitVec.ofNat 32 v)
  let t : Thread := ⟨s.turn.slot, pickSeq s.turn.seq op⟩
  let x := getSlot s t.slot
  let mode : Mode := if opcodeSupervisor op then .supTask else .user
  let x := { x with
    mode, held := false, armed := none
    task := some (x.task.getD { record := 0, taskid := 1, job := 1, prio := 0, need := 1, parent := 0, index := 0,
                                gang := none, graph := none, dealt := false, idem := false, escs := 0,
                                start := 0 }) }
  let q := x.seq t.seq
  let pc := if canonical q.pc ∧ !upperHalf q.pc then q.pc &&& ~~~7#64 else 0
  let x := x.setSeq t.seq { q with pc, tend := false, predOn := false, outst := [] }
  let loc := pc.toNat % 4096
  let m := setLineMeta (setGranSyn (writeNat s.mem loc 8 v) (loc / 16) 0) (loc / 64) 0
  let s := setSlot s t.slot x
  let s := setView { s with mem := m } (clusterOf (coreOf t.slot)) (loc / 64) .empty
  let dead := s.deadCores.filter fun c => c != coreOf t.slot
  let s := updDie s (dieOfCore (coreOf t.slot)) fun d => { d with fenced := false }
  let tlb := (tlbFetch t.slot t.seq, fetchEntry x.job pc) :: s.tlb
  { s with turn := t, agenda := [], running := true, deadCores := dead, tlb, flips := [],
           served := kvErase s.served (portPlace (coreOf t.slot) t.seq),
           icache := kvErase s.icache (fetchKey (coreOf t.slot) t.seq (loc / 16)) }

end Sys2Proof.Machine
end

