-- ==== Sys2Proof/Safety.lean ====
section
/-! DEFINITION. The terms that statements use: a safe run, when a word issues with its own effect, and what a retired
word leaves as it was. -/

namespace Sys2Proof.Machine

/-- The invariant every state of a safe run has: storage is in canonical form. -/
def Safe (s : State) : Prop := Memory.wf s.mem = true

/-- A run of n steps that neither faults nor meets a refusal. -/
def runsSafely : Nat → State → Prop
  | 0, _ => True
  | n + 1, s => ∃ s', step s = .next s' ∧ runsSafely n s'

/-- A word that computes with these scalars. -/
def sources (l : List Opnd) : Reads := { scalars := l }

/-- The slot whose turn it is. -/
def turnSlot (s : State) : Slot := getSlot s s.turn.slot

/-- The word i of the thread whose turn it is issues with its own effect: the thread is ready, no stage predicate squashes
the word, the decoder finds nothing to trap, every token wait is met together, no scalar operand waits for its load, no operand's
code mismatches, and no buffered write of the slot's region waits for a line of another device (07 R171, R173, R183, 12 R305, 14
R337, 02 R42). `w` is TWAIT's own count. -/
def issues (i : Instr) (n : Nib) (w : Option (Bool × Nat)) (r : Reads) (s : State) : Bool :=
  ready s s.turn && !squashed (getSeq s s.turn) i && (decodeTrap i s.turn.seq (turnSlot s).supMode).isNone
    && waitsMet (turnSlot s).tok (waitsOf s.turn.seq n w) && !r.waits (getSeq s s.turn)
    && !r.bad (turnSlot s) (getSeq s s.turn) && (needFar s s.turn.slot (bufMerges (turnSlot s))).isNone

/-- State s1 with the word i retired: its waits taken, the PC past it, its signals made or held in program order, and what
it still has to do kept (07 R173, R174). `g` is TSIG's own count. -/
def retired (i : Instr) (n : Nib) (w g : Option (Bool × Nat)) (s s1 : State) (o : Option (Nat × Work)) : State :=
  retireWord s1 s.turn (wordsOf i) (waitsOf s.turn.seq n w) (sigsOf s.turn.seq n g) o

/-- Where i issues in s, `exec` answers the next state s1 with i retired. -/
def yields (i : Instr) (n : Nib) (r : Reads) (s s1 : State) : Prop :=
  issues i n none r s = true → exec i s = .next (retired i n none none s s1 none)

/-- Where i issues in s, `exec` answers s1 with i retired and the work w still to do under a number. -/
def pends (i : Instr) (n : Nib) (r : Reads) (s s1 : State) (tag : Nat) (w : Work) : Prop :=
  issues i n none r s = true → exec i s = .next (retired i n none none s s1 (some (tag, w)))

/-- Where i issues in s, `exec` answers s1 with i retired, and its sequencer stands at the target, bits 1 and 0 of it
ignored, with no predication (14 R339, R341). -/
def jumps (i : Instr) (n : Nib) (r : Reads) (s s1 : State) (target : Word) : Prop :=
  issues i n none r s = true →
    exec i s = .next (updSeq (retired i n none none s s1 none) s.turn fun q =>
      { q with pc := target &&& ~~~3#64, predOn := false })

/-- Where i issues in s, it is not retired: `exec` answers the entry of its slot into the supervisor from s1 (18 R437). -/
def entersTrap (i : Instr) (n : Nib) (r : Reads) (s s1 : State) (tr : Trap) : Prop :=
  issues i n none r s = true →
    exec i s = .next (takeTrap (stall s1 s.turn false) s.turn.slot s.turn.seq (getSeq s s.turn).pc tr)

/-- The n bytes at va translate for the thread whose turn it is, which leaves s1, and the access is not held by a flip of their region
or for a line of another device (04 R101, R108, 02 R42). -/
def reaches (s : State) (va : Word) (n : Nat) (need : Need) (s1 : State) (sps : List Span) : Prop :=
  translate s (slotCtx s s.turn.slot s.turn.seq) va n need = (s1, .ok sps) ∧ flipping s1 sps = false
    ∧ needFar s1 s.turn.slot (sps.filter fun sp => !need.atHome || decide (sp.sw < 2)) = none

/-- Where i issues in s, it waits, in s1: `exec` answers s1 with its sequencer waiting, in a state of 07 R175 or not. -/
def waitsAt (i : Instr) (n : Nib) (r : Reads) (s s1 : State) (r175 : Bool) : Prop :=
  issues i n none r s = true → exec i s = .next (stall s1 s.turn r175)

/-- Where i issues in s, it meets the uncorrectable error b in s1 (11 R284). -/
def meetsError (i : Instr) (n : Nib) (r : Reads) (s s1 : State) (b : Bad) : Prop :=
  issues i n none r s = true → exec i s = .next (wordError (stall s1 s.turn false) s.turn (getSeq s s.turn).pc s1.nextUid b)

/-- The packet word whose turn it is reads v, the `size` bytes at va, and leaves s2: an address aligned to `align`, in a window
for C and translated for the others, with no earlier access of its sequencer under way in s1 (17 R414). -/
def readsPacket (s : State) (va : Word) (size align : Nat) (s1 s2 : State) (v : Nat) : Prop :=
  let t := s.turn
  va.toNat % align = 0 ∧ pending s1 t = false
    ∧ ∃ sps, (if t.seq = .C then ∃ sp, windowRun s t.slot va size = (s1, .ok sp) ∧ sps = [sp]
        else reaches s va size { r := true } s1 sps)
      ∧ readFor s1 t.slot (isSup s1 t) (fun s => loadSpans (seqNum t.seq) t.slot (coreWho s t.slot) s sps) = .ok (s2, v)

/-- The filler whose turn it is looks at the list of deferred-read nodes from one, as far as `fuel`: each translates and reads, which
leaves u (05 R142, R143). -/
def reachesNodes (t : Thread) : Nat → State → Word → State → Prop
  | 0, s, _, u => u = s
  | fuel + 1, s, node, u =>
    (node = 0 ∧ u = s)
      ∨ (node ≠ 0 ∧ ∃ s1 s2 sp sps v k, translate s (slotCtx s t.slot t.seq) node 16 { r := true } = (s1, .ok (sp :: sps))
        ∧ flipping s1 (sp :: sps) = false ∧ needFar s1 t.slot (sp :: sps) = none
        ∧ homeRead s1 (some (clusterOf (coreOf t.slot))) { sp with len := 16 } 16 = .ok (s2, v, k)
        ∧ reachesNodes t fuel s1 (futureNode (BitVec.ofNat 64 v)) u)

/-- Sequencer b is a but for the words that it has under way. -/
def SeqSt.kept (a b : SeqSt) : Prop := b = { a with outst := b.outst }

/-- Sequencer b is a but for its PC, the count of its segment and the words that it has under way. -/
def SeqSt.moved (a b : SeqSt) : Prop :=
  b = { a with pc := b.pc, segCnt := b.segCnt, segSig := b.segSig, outst := b.outst, waiting := b.waiting }

/-- Slot y is x after a word of sequencer q retired: token counters and reserved queue entries may have changed, and q's PC,
and nothing else: every register, flag, special register, accumulator and exception register is as it was. -/
def Slot.movedOn (q : Seq) (x y : Slot) : Prop :=
  y = { x with k := y.k, l := y.l, c := y.c, s := y.s, ksup := y.ksup, tok := y.tok, queues := y.queues,
               deadlock := y.deadlock, fence := y.fence, relAt := y.relAt }
    ∧ (∀ k : BitVec 3, (vget y.queues k).length = (vget x.queues k).length)
    ∧ (if q = .K ∧ x.mode = .user then SeqSt.moved x.k y.k else SeqSt.kept x.k y.k)
    ∧ (if q = .K ∧ x.mode ≠ .user then SeqSt.moved x.ksup y.ksup else SeqSt.kept x.ksup y.ksup)
    ∧ (if q = .L then SeqSt.moved x.l y.l else SeqSt.kept x.l y.l)
    ∧ (if q = .C then SeqSt.moved x.c y.c else SeqSt.kept x.c y.c)
    ∧ (if q = .S then SeqSt.moved x.s y.s else SeqSt.kept x.s y.s)

/-- State t is s but for one slot, which is y where it was x. -/
def State.onlySlot (k : Nat) (s t : State) : Prop :=
  t = { s with slots := t.slots } ∧ ∀ j, j ≠ k → getSlot t j = getSlot s j

end Sys2Proof.Machine
end

