-- ==== Sys2Proof/Certificates/Slice0/Obligations.lean ====
section
/-! DEFINITION. The statements for the provers, from the numbered rules of spec/. -/

open Sys2Proof Sys2Proof.Machine

/-- 14 R348: the words of two sources of class 0x20 but for DIV and REM write their result, with a fresh word code. Shift counts are b[5:0].
Completes (`exec` answers the next state of the form's own effect, under conditions on the state and the operands alone): add, sub, mul,
mulh, and, or, xor, andn, shl, shr, sra, rot, min, max, cmp, lea. -/
def Obligations.ScalarBinaryResults : Prop :=
  ∀ (n : Nib) (d : Dest) (a b : Opnd) (s : State),
    let x := srcVal s s.turn a
    let y := srcVal s s.turn b
    let r := sources [a, b]
    let put := putResult s s.turn d
    yields (.add n d a b) n r s (put (BitVec.ofNat 64 (x.toNat + y.toNat)))
      ∧ yields (.sub n d a b) n r s (put (BitVec.ofInt 64 ((x.toNat : Int) - y.toNat)))
      ∧ yields (.mul n d a b) n r s (put (BitVec.ofNat 64 (x.toNat * y.toNat)))
      ∧ yields (.mulh n .ss d a b) n r s (put (BitVec.ofInt 64 (x.toInt * y.toInt / 2 ^ 64)))
      ∧ yields (.mulh n .uu d a b) n r s (put (BitVec.ofNat 64 (x.toNat * y.toNat / 2 ^ 64)))
      ∧ yields (.mulh n .su d a b) n r s (put (BitVec.ofInt 64 (x.toInt * y.toNat / 2 ^ 64)))
      ∧ yields (.and n d a b) n r s (put (x &&& y))
      ∧ yields (.or n d a b) n r s (put (x ||| y))
      ∧ yields (.xor n d a b) n r s (put (x ^^^ y))
      ∧ yields (.andn n d a b) n r s (put (x &&& ~~~y))
      ∧ yields (.shl n d a b) n r s (put (BitVec.ofNat 64 (x.toNat * 2 ^ (y.toNat % 64))))
      ∧ yields (.shr n d a b) n r s (put (BitVec.ofNat 64 (x.toNat / 2 ^ (y.toNat % 64))))
      ∧ yields (.sra n d a b) n r s (put (BitVec.ofInt 64 (x.toInt / 2 ^ (y.toNat % 64))))
      ∧ yields (.rot n d a b) n r s (put (x.rotateLeft (y.toNat % 64)))
      ∧ yields (.min n .s d a b) n r s (put (if y.toInt < x.toInt then y else x))
      ∧ yields (.min n .u d a b) n r s (put (if y.toNat < x.toNat then y else x))
      ∧ yields (.max n .s d a b) n r s (put (if x.toInt < y.toInt then y else x))
      ∧ yields (.max n .u d a b) n r s (put (if x.toNat < y.toNat then y else x))
      ∧ yields (.cmp n .eq d a b) n r s (put (if x.toNat = y.toNat then 1 else 0))
      ∧ yields (.cmp n .lt d a b) n r s (put (if x.toInt < y.toInt then 1 else 0))
      ∧ yields (.cmp n .ltu d a b) n r s (put (if x.toNat < y.toNat then 1 else 0))
      ∧ yields (.cmp n .ne d a b) n r s (put (if x.toNat ≠ y.toNat then 1 else 0))
      ∧ ∀ m : BitVec 2, yields (.lea n m d a b) n r s (put (x + y * BitVec.ofNat 64 (2 ^ m.toNat)))

/-- 14 R349: DIV and REM, for every pair of values. Completes (`exec` answers the next state of the form's own effect, under conditions on the
state and the operands alone): div, rem. -/
def Obligations.DivisionResults : Prop :=
  ∀ (n : Nib) (d : Dest) (a b : Opnd) (s : State),
    let x := srcVal s s.turn a
    let y := srcVal s s.turn b
    let r := sources [a, b]
    let put := putResult s s.turn d
    yields (.div n .u d a b) n r s (put (if y = 0 then BitVec.ofNat 64 (2 ^ 64 - 1) else BitVec.ofNat 64 (x.toNat / y.toNat)))
      ∧ yields (.rem n .u d a b) n r s (put (if y = 0 then x else BitVec.ofNat 64 (x.toNat % y.toNat)))
      ∧ yields (.div n .s d a b) n r s
          (put (if y = 0 then BitVec.ofNat 64 (2 ^ 64 - 1) else BitVec.ofInt 64 (x.toInt.tdiv y.toInt)))
      ∧ yields (.rem n .s d a b) n r s (put (if y = 0 then x else BitVec.ofInt 64 (x.toInt.tmod y.toInt)))

/-- 14 R348: the words of class 0x20 of one source, and SEL. CLZ and CTZ give 64 for 0. Completes (`exec` answers the next state of the form's
own effect, under conditions on the state and the operands alone): clz, ctz, popc, sext, zext, sel, mov. -/
def Obligations.ScalarUnaryResults : Prop :=
  ∀ (n : Nib) (d : Dest) (a b c : Opnd) (s : State),
    let x := srcVal s s.turn a
    let r := sources [a]
    let put := putResult s s.turn d
    (∃ z : Nat, yields (.clz n d a) n r s (put (BitVec.ofNat 64 z)) ∧ z ≤ 64 ∧ x.toNat < 2 ^ (64 - z)
        ∧ (x ≠ 0 → 2 ^ (63 - z) ≤ x.toNat))
      ∧ (∃ z : Nat, yields (.ctz n d a) n r s (put (BitVec.ofNat 64 z)) ∧ z ≤ 64 ∧ 2 ^ z ∣ x.toNat
        ∧ (x = 0 → z = 64) ∧ (x ≠ 0 → ¬ 2 ^ (z + 1) ∣ x.toNat))
      ∧ yields (.popc n d a) n r s (put (BitVec.ofNat 64 ((List.range 64).filter fun i => x.getLsbD i).length))
      ∧ yields (.sext n .w8 d a) n r s (put ((x.setWidth 8).signExtend 64))
      ∧ yields (.sext n .w16 d a) n r s (put ((x.setWidth 16).signExtend 64))
      ∧ yields (.sext n .w32 d a) n r s (put ((x.setWidth 32).signExtend 64))
      ∧ yields (.zext n .w8 d a) n r s (put (BitVec.ofNat 64 (x.toNat % 2 ^ 8)))
      ∧ yields (.zext n .w16 d a) n r s (put (BitVec.ofNat 64 (x.toNat % 2 ^ 16)))
      ∧ yields (.zext n .w32 d a) n r s (put (BitVec.ofNat 64 (x.toNat % 2 ^ 32)))
      ∧ yields (.mov n d a) n r s (put x)
      ∧ yields (.sel n a b c) n (sources [a, b, c]) s
          (putResult s s.turn .push (if x ≠ 0 then srcVal s s.turn b else srcVal s s.turn c))

/-- 14 R350, R351, R352: immediates are sign-extended; LIHI replaces the high half; an ADDI to SRAI of a belt entry pushes its result and of a
register rewrites it; CMPI pushes 1 or 0. Completes (`exec` answers the next state of the form's own effect, under conditions on the state
and the operands alone): li, liw, lihi, addi, andi, ori, xori, shli, shri, srai, cmpi. -/
def Obligations.ImmediateResults : Prop :=
  ∀ (n : Nib) (d : Dest) (f : Opnd) (i14 : BitVec 14) (i32 : BitVec 32) (i12 : BitVec 12) (sh : BitVec 6) (s : State),
    let x := srcVal s s.turn f
    let r := sources [f]
    let inPlace : Dest := match f with | .belt _ => .push | .short k => .short k | .main k => .main k
    let put := putResult s s.turn inPlace
    let push := putResult s s.turn .push
    yields (.li n d i14) n {} s (putResult s s.turn d (BitVec.ofInt 64 i14.toInt))
      ∧ yields (.liw n d i32) n {} s (putResult s s.turn d (BitVec.ofInt 64 i32.toInt))
      ∧ yields (.lihi n d f i32) n r s (putResult s s.turn d (BitVec.ofNat 64 (x.toNat % 2 ^ 32 + i32.toNat * 2 ^ 32)))
      ∧ yields (.addi n f i14) n r s (put (BitVec.ofInt 64 (x.toNat + i14.toInt)))
      ∧ yields (.andi n f i14) n r s (put (x &&& BitVec.ofInt 64 i14.toInt))
      ∧ yields (.ori n f i14) n r s (put (x ||| BitVec.ofInt 64 i14.toInt))
      ∧ yields (.xori n f i14) n r s (put (x ^^^ BitVec.ofInt 64 i14.toInt))
      ∧ yields (.shli n f sh) n r s (put (BitVec.ofNat 64 (x.toNat * 2 ^ sh.toNat)))
      ∧ yields (.shri n f sh) n r s (put (BitVec.ofNat 64 (x.toNat / 2 ^ sh.toNat)))
      ∧ yields (.srai n f sh) n r s (put (BitVec.ofInt 64 (x.toInt / 2 ^ sh.toNat)))
      ∧ yields (.cmpi n .eq f i12) n r s (push (if x = BitVec.ofInt 64 i12.toInt then 1 else 0))
      ∧ yields (.cmpi n .lt f i12) n r s (push (if x.toInt < i12.toInt then 1 else 0))
      ∧ yields (.cmpi n .ltu f i12) n r s (push (if x.toNat < (BitVec.ofInt 64 i12.toInt).toNat then 1 else 0))
      ∧ yields (.cmpi n .ne f i12) n r s (push (if x = BitVec.ofInt 64 i12.toInt then 0 else 1))

/-- 14 R339, R341: the transfers. A taken one stands at its target with bits 1 and 0 ignored and ends predication, another goes on past its
word. CALL and CALLI push PC + 4. Completes (`exec` answers the next state of the form's own effect, under conditions on the state and the
operands alone): br, beq, bne, blt, bge, bltu, bgeu, bz, bnz, call, calli, ret, jmpi. -/
def Obligations.TransferResults : Prop :=
  ∀ (n : Nib) (a b : Opnd) (o8 : BitVec 8) (o14 : BitVec 14) (o20 : BitVec 20) (s : State),
    let x := srcVal s s.turn a
    let y := srcVal s s.turn b
    let pc := (getSeq s s.turn).pc
    let to8 := pc + BitVec.ofInt 64 (4 * o8.toInt)
    let to14 := pc + BitVec.ofInt 64 (4 * o14.toInt)
    let to20 := pc + BitVec.ofInt 64 (4 * o20.toInt)
    let two (i : Instr) (c : Prop) : Prop :=
      (c → jumps i n (sources [a, b]) s s to8) ∧ (¬c → yields i n (sources [a, b]) s s)
    let one (i : Instr) (c : Prop) : Prop :=
      (c → jumps i n (sources [a]) s s to14) ∧ (¬c → yields i n (sources [a]) s s)
    let pushed := putResult s s.turn .push (pc + 4)
    jumps (.br n o20) n {} s s to20
      ∧ two (.beq n a b o8) (x.toNat = y.toNat) ∧ two (.bne n a b o8) (x.toNat ≠ y.toNat)
      ∧ two (.blt n a b o8) (x.toInt < y.toInt) ∧ two (.bge n a b o8) (y.toInt ≤ x.toInt)
      ∧ two (.bltu n a b o8) (x.toNat < y.toNat) ∧ two (.bgeu n a b o8) (y.toNat ≤ x.toNat)
      ∧ one (.bz n a o14) (x = 0) ∧ one (.bnz n a o14) (x ≠ 0)
      ∧ jumps (.call n o20) n {} s pushed to20
      ∧ jumps (.calli n a o14) n (sources [a]) s pushed (x + BitVec.ofInt 64 (4 * o14.toInt))
      ∧ jumps (.ret n a) n (sources [a]) s s x
      ∧ jumps (.jmpi n a o14) n (sources [a]) s s (x + BitVec.ofInt 64 (4 * o14.toInt))

/-- 07 R182, 14 R342, R343, R344: LOOP's update of LC, EC, STG and RRB and its transfer, SETLC and STAGE. Completes (`exec` answers the next
state of the form's own effect, under conditions on the state and the operands alone): loop, setlc, stage. -/
def Obligations.LoopWords : Prop :=
  ∀ (n : Nib) (a b : Opnd) (o20 : BitVec 20) (k : BitVec 3) (s : State),
    let q := getSeq s s.turn
    let to20 := q.pc + BitVec.ofInt 64 (4 * o20.toInt)
    let turned (lc ec : Word) (n0 : BitVec 8) : State :=
      updSeq s s.turn fun q => { q with lc := lc, ec := ec, stg := (q.stg <<< 1) ||| n0, rrb := q.rrb - 1, predOn := false }
    (q.lc ≠ 0 → jumps (.loop n o20) n {} s (turned (q.lc - 1) q.ec 1) to20)
      ∧ (q.lc = 0 → q.ec ≠ 0 → jumps (.loop n o20) n {} s (turned 0 (q.ec - 1) 0) to20)
      ∧ (q.lc = 0 → q.ec = 0 → yields (.loop n o20) n {} s (turned 0 0 0))
      ∧ yields (.setlc n a b) n (sources [a, b]) s
          (updSeq s s.turn fun q => { q with lc := srcVal s s.turn a, ec := srcVal s s.turn b, stg := 1 })
      ∧ yields (.stage k) .none {} s (updSeq s s.turn fun q => { q with predOn := true, predN := k })

/-- 14 R345, R346, R347, 11 R297, R298: NOP has no effect; TEND outside a region and a segment ends its sequencer, and in an open region on K it
traps REGION, as YIELD does on any sequencer that may issue it; YIELD asks for the pre-emption of its slot before anything else comes about;
SEG opens a segment and SEGEND closes one whose counters agree. Completes (`exec` answers the next state of the form's own effect, under
conditions on the state and the operands alone): nop, tend, yield, seg, segend. -/
def Obligations.EndingWords : Prop :=
  ∀ (n : Nib) (cost : BitVec 20) (sig : BitVec 32) (s : State),
    let q := getSeq s s.turn
    let x := turnSlot s
    yields (.nop n) n {} s s
      ∧ (¬(s.turn.seq = .K ∧ x.regionOpen = true) → q.segOpen = false → x.marks = [] → issues (.tend n) n none {} s = true →
          ∃ t, exec (.tend n) s = .next t ∧ (getSeq t s.turn).tend = true
            ∧ ∀ a, readByte t.mem a = readByte s.mem a)
      ∧ (s.turn.seq = .K → x.regionOpen = true → entersTrap (.tend n) n {} s s { cause := 10 })
      ∧ (x.supMode = false → x.regionOpen = true → entersTrap (.yield n) n {} s s { cause := 10 })
      ∧ (x.supMode = false → x.regionOpen = false → ∀ k, x.task = some k →
          yields (.yield n) n {} s { s with agenda := ⟨0, .preempt s.turn.slot k.taskid 1⟩ :: s.agenda })
      ∧ (q.segOpen = false ∨ (q.segCnt = q.segExp ∧ q.segSig = q.segXsig) →
          yields (.seg n cost sig) n {} s (updSeq s s.turn fun q =>
            { q with segOpen := true, segExp := cost, segXsig := sig, segCnt := 0, segSig := 0 })
            ∧ yields (.segend n) n {} s (updSeq s s.turn fun q => { q with segOpen := false }))

/-- 14 R353: QPUT reserves the tail entry for its value, carried with its code; QGET takes the oldest filled entry, QPEEK copies it; QCNT counts
the entries and never waits. R357, R358: TSIG adds its count through its own signal and TWAIT takes its count with its nibble's waits: each
is retired with exactly these signals and waits, and nothing else changes before. Completes (`exec` answers the next state of the form's own
effect, under conditions on the state and the operands alone): qput, qget, qpeek, qcnt, tsig, twait. -/
def Obligations.QueueAndTokenWords : Prop :=
  ∀ (n : Nib) (f : Opnd) (d : Dest) (k : BitVec 3) (c : BitVec 4) (pred : Bool) (s : State),
    let x := turnSlot s
    let l := vget x.queues k
    let setQueue (s : State) (l : List QEnt) : State := updSlot s s.turn.slot fun x => { x with queues := vset x.queues k l }
    (vectorQueue k = false → l.length < 16 →
        pends (.qput n k f) n { scalars := [f], checked := false } s
          { setQueue s (l ++ [{ tag := s.nextUid, val := none }]) with nextUid := s.nextUid + 1 } s.nextUid
          (.qput k (.s (readS (getSeq s s.turn) f))))
      ∧ (vectorQueue k = true → l.length < 8 →
        pends (.qput n k f) n { vectors := [f], checked := false } s
          { setQueue s (l ++ [{ tag := s.nextUid, val := none }]) with nextUid := s.nextUid + 1 } s.nextUid
          (.qput k (.v (readV x f))))
      ∧ (∀ tag w r, l = { tag := tag, val := some (.s w) } :: r →
        yields (.qget n d k) n {} s (updSeq (setQueue s r) s.turn fun q => writeS q d w)
          ∧ yields (.qpeek n d k) n {} s (updSeq s s.turn fun q => writeS q d w))
      ∧ (∀ tag w r, l = { tag := tag, val := some (.v w) } :: r →
        yields (.qget n d k) n {} s (updSlot (setQueue s r) s.turn.slot fun x => writeV x d w)
          ∧ yields (.qpeek n d k) n {} s (updSlot s s.turn.slot fun x => writeV x d w))
      ∧ yields (.qcnt n d k) n {} s (putResult s s.turn d (BitVec.ofNat 64 l.length))
      ∧ (issues (.tsig n c pred) n none {} s = true →
        exec (.tsig n c pred) s = .next (retired (.tsig n c pred) n none (some (pred, c.toNat)) s s none))
      ∧ (issues (.twait n c pred) n (some (pred, c.toNat)) {} s = true →
        exec (.twait n c pred) s = .next (retired (.twait n c pred) n (some (pred, c.toNat)) none s s none))

/-- 14 R355, 12 R308, R309: RDSR writes the value of each special register, and WRSR writes its RW fields and leaves the others, for registers
of the sequencer and of the slot. VTYPE with a FMT it cannot hold traps ILLEGAL (16 R389). Completes (`exec` answers the next state of the
form's own effect, under conditions on the state and the operands alone): rdsr, wrsr. -/
def Obligations.SpecialRegisterWords : Prop :=
  ∀ (n : Nib) (d : Dest) (f : Opnd) (s : State),
    let x := turnSlot s
    let q := getSeq s s.turn
    let v := srcVal s s.turn f
    let reads (sr : BitVec 12) (w : Word) : Prop := yields (.rdsr n d sr) n {} s (putResult s s.turn d w)
    let writes (sr : BitVec 12) (g : Slot → Slot) : Prop :=
      yields (.wrsr n sr f) n (sources [f]) s (updSlot s s.turn.slot g)
    let seqWrites (sr : BitVec 12) (g : SeqSt → SeqSt) : Prop :=
      yields (.wrsr n sr f) n (sources [f]) s (updSeq s s.turn g)
    reads 0x001 (BitVec.ofNat 64 (s.turn.slot % 2)) ∧ reads 0x002 (BitVec.ofNat 64 (s.turn.slot / 2))
      ∧ reads 0x003 (match s.turn.seq with | .K => 0 | .L => 1 | .C => 2 | .S => 3)
      ∧ reads 0x010 q.lc ∧ reads 0x011 q.ec ∧ reads 0x012 (q.rrb.setWidth 64) ∧ reads 0x013 (q.stg.setWidth 64)
      ∧ reads 0x020 x.vtype ∧ reads 0x021 x.fpstat ∧ reads 0x040 x.crstat ∧ reads 0x041 x.subcnt ∧ reads 0x042 x.corrcnt
      ∧ reads 0x060 (q.segCnt.setWidth 64) ∧ reads 0x061 (q.segSig.setWidth 64)
      ∧ reads 0x070 x.tcause ∧ reads 0x071 x.taddr ∧ reads 0x072 x.tpc ∧ reads 0x090 x.fmtovr ∧ reads 0x0A0 1
      ∧ (x.marks = [] → reads 0x030 x.mstat0 ∧ reads 0x031 x.mstat1)
      ∧ seqWrites 0x010 (fun q => { q with lc := v }) ∧ seqWrites 0x011 (fun q => { q with ec := v })
      ∧ seqWrites 0x012 (fun q => { q with rrb := v.setWidth 4 }) ∧ seqWrites 0x013 (fun q => { q with stg := v.setWidth 8 })
      ∧ writes 0x021 (fun x => { x with fpstat := (x.fpstat &&& ~~~0x3F#64) ||| (v &&& 0x3F#64) })
      ∧ writes 0x071 (fun x => { x with taddr := v })
      ∧ (v.toNat % 16 ∈ [6, 7, 13, 14, 15] → entersTrap (.wrsr n 0x020 f) n (sources [f]) s s { cause := 1 })
      ∧ (v.toNat % 16 ∈ [0, 1, 2, 3, 4, 5, 8, 9, 10, 11, 12] → writes 0x020 (fun x =>
          { x with vtype := (x.vtype &&& ~~~0x1FFFFFF#64) ||| (v &&& 0x1FFFFFF#64) }))

/-- The words that VOTE may precede, scalar, immediate and vector: they complete with a next state in which only the
destination, FPSTAT (16 R392) or VTYPE (16 R390) of their slot, its token counters and queue reservations and the issuing
sequencer's PC may differ; every other register and special register and every byte of memory is as it was. -/
def Obligations.ComputeFrame : Prop :=
  ∀ (i : Instr) (a : Alu) (v : AVal) (g : Word) (s : State), aluOf i = some a →
    issues i (nibOf i) none { scalars := a.scalars, vectors := a.vectors } s = true → a.eval s s.turn = .ok v g →
    ∃ t, exec i s = .next t
      ∧ State.onlySlot s.turn.slot s t
      ∧ (∀ l, readByte t.mem l = readByte s.mem l)
      ∧ ∃ y, Slot.movedOn s.turn.seq { y with fpstat := (turnSlot s).fpstat ||| g } (getSlot t s.turn.slot)
        ∧ match v, a.dst with
          | .s w, some (.scalar d) => y = (turnSlot s).setSeq s.turn.seq (writeS (getSeq s s.turn) d (.fresh w))
          | .v w, some (.vector d) => y = writeV (turnSlot s) d (.fresh w)
          | .vtype w, _ => y = { turnSlot s with vtype := w }
          | _, _ => y = turnSlot s

/-- 16 R393, R394, R395, 09 R240: the float words of class 0xA0 form each element from the elements of their sources, rounded once in FMT, in
the formats of 16 R391. Completes (`exec` answers the next state of the form's own effect, under conditions on the state and the operands
alone): vadd, vsub, vmul, vfma, vmin, vmax, vabs, vdiv, vsqrt, vrcp, vrsq, vexp2, vlog2, vcmp. -/
def Obligations.VectorFloatResults : Prop :=
  ∀ (n : Nib) (d : Dest) (a b c : Opnd) (s : State),
    let x := turnSlot s
    let f := vtFmt x.vtype
    let w := fmtWidth f
    let el (o : Opnd) (e : Nat) : Nat := (readV x o).val.toNat / 2 ^ (w * e) % 2 ^ w
    let put (d : Dest) (g : Nat → Nat × Word) : State :=
      writeAlu s s.turn (some (.vector d)) (.v (packElems w (((List.range (2048 / w)).map g).map (·.1))))
        (orFlags ((List.range (2048 / w)).map g))
    let x1 (g : XV → XV × Word) (e : Nat) : Nat × Word := onFloat f fun ff => g (ff.decode (el a e))
    let x2 (g : XV → XV → XV × Word) (e : Nat) : Nat × Word := onFloat f fun ff => g (ff.decode (el a e)) (ff.decode (el b e))
    let x3 (g : XV → XV → XV → XV × Word) (e : Nat) : Nat × Word :=
      onFloat f fun ff => g (ff.decode (el a e)) (ff.decode (el b e)) (ff.decode (el c e))
    let r1 : Reads := { vectors := [a] }
    let r2 : Reads := { vectors := [a, b] }
    let r3 : Reads := { vectors := [a, b, c] }
    (f ∈ [.fp32, .bf16, .fp16, .fp64] →
      yields (.vadd n d a b) n r2 s (put d (x2 xAdd)) ∧ yields (.vsub n d a b) n r2 s (put d (x2 xSub))
        ∧ yields (.vmul n d a b) n r2 s (put d (x2 xMul)) ∧ yields (.vdiv n d a b) n r2 s (put d (x2 xDiv))
        ∧ yields (.vmin n d a b) n r2 s (put d (x2 (xMin false))) ∧ yields (.vmax n d a b) n r2 s (put d (x2 (xMin true)))
        ∧ yields (.vsqrt n d a) n r1 s (put d (x1 xSqrt)) ∧ yields (.vrcp n d a) n r1 s (put d (x1 (xDiv (.fin false 1 0))))
        ∧ yields (.vrsq n d a) n r1 s (put d (x1 xRsq))
        ∧ yields (.vfma n .fma a b c) n r3 s (put .push (x3 (xFma false false)))
        ∧ yields (.vfma n .fms a b c) n r3 s (put .push (x3 (xFma false true)))
        ∧ yields (.vfma n .fnma a b c) n r3 s (put .push (x3 (xFma true false)))
        ∧ yields (.vfma n .fnms a b c) n r3 s (put .push (x3 (xFma true true))))
      ∧ (f ∈ [.fp32, .bf16, .fp16] →
        yields (.vexp2 n d a) n r1 s (put d (x1 xExp2)) ∧ yields (.vlog2 n d a) n r1 s (put d (x1 xLog2)))
      ∧ (f ∈ [.fp32, .bf16, .fp16, .fp64, .e4m3, .e5m2] →
        yields (.vabs n .abs d a b) n r1 s (put d fun e => (el a e % 2 ^ (w - 1), 0))
          ∧ yields (.vabs n .neg d a b) n r1 s
            (put d fun e => (if el a e < 2 ^ (w - 1) then el a e + 2 ^ (w - 1) else el a e - 2 ^ (w - 1), 0))
          ∧ yields (.vabs n .csgn d a b) n r2 s
            (put d fun e => (el a e % 2 ^ (w - 1) + el b e / 2 ^ (w - 1) * 2 ^ (w - 1), 0)))
      ∧ (f ∈ [.fp32, .bf16, .fp16, .fp64, .int8, .uint8, .int16, .int32, .int64] → ∀ m,
        yields (.vcmp n m d a b) n r2 s (put d fun e => cmpElem m f (el a e) (el b e)))

/-- 16 R396, R397, R390: the integer words of class 0xA0 on each element, wrapped or saturated, and the words that move elements; VSETT sets FMT
alone. Completes (`exec` answers the next state of the form's own effect, under conditions on the state and the operands alone): vsel,
viadd, visub, vimul, vlogic, vshift, viminmax, vsett, vbcast, vextr, vins, vperm, viota. -/
def Obligations.VectorIntegerResults : Prop :=
  ∀ (n : Nib) (d : Dest) (a b c : Opnd) (imm : BitVec 14) (fmt : BitVec 4) (s : State),
    let x := turnSlot s
    let f := vtFmt x.vtype
    let w := fmtWidth f
    let n_ := 2048 / w
    let el (o : Opnd) (e : Nat) : Nat := (readV x o).val.toNat / 2 ^ (w * e) % 2 ^ w
    let put (d : Dest) (g : Nat → Nat) : State :=
      writeAlu s s.turn (some (.vector d)) (.v (packElems w ((List.range n_).map g))) 0
    let whole (v : Vec) : State := writeAlu s s.turn (some (.vector d)) (.v v) 0
    let va := (readV x a).val
    let vb := (readV x b).val
    let r2 : Reads := { vectors := [a, b] }
    (fmtInt f = true →
      (∀ m : SatMod, yields (.viadd n m d a b) n r2 s (put d fun e => satOp m w (· + ·) (el a e) (el b e))
        ∧ yields (.visub n m d a b) n r2 s (put d fun e => satOp m w (· - ·) (el a e) (el b e))
        ∧ yields (.vimul n m d a b) n r2 s (put d fun e => satOp m w (· * ·) (el a e) (el b e)))
      ∧ (∀ m, yields (.vshift n m d a b) n r2 s (put d fun e => shiftElem m w (el a e) (el b e % w)))
      ∧ (∀ m, yields (.viminmax n m d a b) n r2 s (put d fun e => minMaxElem m w (el a e) (el b e)))
      ∧ yields (.viota n d imm) n {} s (put d fun e => ((imm.toInt + e) % 2 ^ w).toNat))
      ∧ yields (.vlogic n .and d a b) n r2 s (whole (va &&& vb)) ∧ yields (.vlogic n .or d a b) n r2 s (whole (va ||| vb))
      ∧ yields (.vlogic n .xor d a b) n r2 s (whole (va ^^^ vb))
      ∧ yields (.vlogic n .andn d a b) n r2 s (whole (va &&& ~~~vb))
      ∧ yields (.vsel n a b c) n { vectors := [a, b, c] } s
          (put .push fun e => if el a e ≠ 0 then el b e else el c e)
      ∧ yields (.vbcast n d a) n (sources [a]) s (put d fun _ => (srcVal s s.turn a).toNat % 2 ^ w)
      ∧ yields (.vextr n d a b) n { scalars := [b], vectors := [a] } s
          (putResult s s.turn d (BitVec.ofNat 64 (el a ((srcVal s s.turn b).toNat % n_))))
      ∧ yields (.vins n a b c) n { scalars := [b, c], vectors := [a] } s
          (put .push fun e => if e = (srcVal s s.turn b).toNat % n_ then (srcVal s s.turn c).toNat % 2 ^ w else el a e)
      ∧ yields (.vperm n d a b) n r2 s (put d fun e => el a (el b e % n_))
      ∧ yields (.vsett n fmt) n {} s
          (updSlot s s.turn.slot fun x => { x with vtype := (x.vtype &&& ~~~0xF#64) ||| fmt.setWidth 64 })

/-- 16 R398, R399, R403 to R409, R411: reductions, conversions, quantisation, thinning masks, residuals, block maxima and packing write their
function of the source elements and of VTYPE. Completes (`exec` answers the next state of the form's own effect, under conditions on the
state and the operands alone): vreds, vredm, vcvt, vquant, vdeq, vresid, vtopk, vamax, vpack, vunpk. -/
def Obligations.VectorConversionResults : Prop :=
  ∀ (n : Nib) (d : Dest) (a b c : Opnd) (dst src : Fmt) (rtz hi : Bool) (k : BitVec 5) (s : State),
    let x := turnSlot s
    let f := vtFmt x.vtype
    let w := fmtWidth f
    let els (w : Nat) (o : Opnd) : List Nat := (List.range (2048 / w)).map fun e => (readV x o).val.toNat / 2 ^ (w * e) % 2 ^ w
    let ran (i : Instr) (al : Alu) (dd : RDest) : Prop := ∀ v g, al.eval s s.turn = .ok v g →
      yields i n { scalars := al.scalars, vectors := al.vectors } s (writeAlu s s.turn (some dd) v g)
    let put (dd : RDest) (v : AVal) (g : Word) : State := writeAlu s s.turn (some dd) v g
    (fmtNum f = true →
      yields (.vreds n d a) n { vectors := [a] } s
          (put (.scalar d) (.s (BitVec.ofNat 64 (redSum f (els w a)).1)) (redSum f (els w a)).2)
        ∧ ∀ m, yields (.vredm n m d a) n { vectors := [a] } s
          (put (.scalar d) (.s (BitVec.ofNat 64 (redExtreme m f (els w a)).1)) (redExtreme m f (els w a)).2))
      ∧ ran (.vcvt n a dst src rtz hi) (aluVcvt a dst src rtz hi) (.vector .push)
      ∧ ran (.vquant n a dst src rtz hi) (aluVquant a dst src rtz hi) (.vector .push)
      ∧ ran (.vdeq n a dst src rtz hi) (aluVdeq a dst src hi) (.vector .push)
      ∧ ran (.vresid n a b c) (aluVresid a b c) (.vector .push)
      ∧ ran (.vtopk n a k) (aluVtopk a k) (.vector .push)
      ∧ (fmtWide f = true → yields (.vamax n d a) n { vectors := [a] } s
          (let l := (List.range (2048 / w / 32)).map fun i => redExtreme .amax f (((els w a).drop (32 * i)).take 32)
           put (.vector d) (.v (packElems w (l.map (·.1)))) (orFlags l)))
      ∧ (∀ t, yields (.vpack n t d a b) n { vectors := [a, b] } s
          (put (.vector d) (.v (packElems (packWidth t) (els (2 * packWidth t) a ++ els (2 * packWidth t) b))) 0))
      ∧ (∀ t, yields (.vunpk n t d a) n { vectors := [a] } s
          (put (.vector d) (.v (packElems (2 * packWidth t) (((els (packWidth t) a).take (1024 / packWidth t)).map fun c =>
            if fmtInt f = true ∧ f ≠ .uint8 then ofSigned (2 * packWidth t) (toSigned (packWidth t) c) else c))) 0))

/-- 16 R391: a vector word in a format that it does not take traps ELEMTYPE and writes nothing. -/
def Obligations.ElemTypeTraps : Prop :=
  ∀ (n : Nib) (d : Dest) (a b c : Opnd) (imm : BitVec 14) (s : State),
    let f := vtFmt (turnSlot s).vtype
    let r1 : Reads := { vectors := [a] }
    let r2 : Reads := { vectors := [a, b] }
    let r3 : Reads := { vectors := [a, b, c] }
    let et (i : Instr) (r : Reads) : Prop := entersTrap i n r s s { cause := 15 }
    (f ∉ [.fp32, .bf16, .fp16, .fp64] →
      et (.vadd n d a b) r2 ∧ et (.vsub n d a b) r2 ∧ et (.vmul n d a b) r2 ∧ et (.vdiv n d a b) r2
        ∧ et (.vmin n d a b) r2 ∧ et (.vmax n d a b) r2 ∧ et (.vsqrt n d a) r1 ∧ et (.vrcp n d a) r1 ∧ et (.vrsq n d a) r1
        ∧ et (.vamax n d a) r1 ∧ (∀ m, et (.vfma n m a b c) r3) ∧ (∀ k, et (.vtopk n a k) r1) ∧ et (.vresid n a b c) r3)
      ∧ (f ∉ [.fp32, .bf16, .fp16] → et (.vexp2 n d a) r1 ∧ et (.vlog2 n d a) r1)
      ∧ (f ∉ [.fp32, .bf16, .fp16, .fp64, .int8, .uint8, .int16, .int32, .int64] →
        (∀ m, et (.vcmp n m d a b) r2) ∧ et (.vreds n d a) r1 ∧ ∀ m, et (.vredm n m d a) r1)
      ∧ (f ∉ [.int8, .uint8, .int16, .int32, .int64] →
        (∀ m, et (.viadd n m d a b) r2 ∧ et (.visub n m d a b) r2 ∧ et (.vimul n m d a b) r2)
          ∧ (∀ m, et (.vshift n m d a b) r2) ∧ (∀ m, et (.viminmax n m d a b) r2) ∧ et (.viota n d imm) {})

/-! ## Steps, decoding and traps -/

/-- With nothing on the agenda, the thread that the port of the turn serves, where it is ready, steps by running the word that its bytes
decode to, long or short, and the turn then passes (07 R169, R170, 12 R306; log 3). -/
def Obligations.StepRunsWord : Prop :=
  ∀ (s s1 s2 : State) (w x : IWord) (i : Instr),
    let t := portTurn s s.turn
    let pc := (getSeq s t).pc
    let served := serve { s with turn := t } (portPlace (coreOf t.slot) t.seq) t.slot
    s.agenda = [] → ready s t = true → fetchWord served t pc = (s1, .ok w) →
      (opcodeLong (opcodeOf w) = false → decode w 0 = .ok i → step s = after (passTurn s.turn) (exec i s1))
        ∧ (opcodeLong (opcodeOf w) = true → fetchWord s1 t (pc + 4) = (s2, .ok x) → decode w x = .ok i →
          step s = after (passTurn s.turn) (exec i s2))

/-- 07 R169, 14 R340, 12 R300: a word that no instruction cache holds is the four bytes at its translated address, least
significant first, where the granule's code matches and neither a flip of its region (04 R108) nor a line of another device (02 R42)
is awaited; fetching changes no storage. -/
def Obligations.FetchReadsStorage : Prop :=
  ∀ (s s1 : State) (t : Thread) (pc : Word) (sp : Span),
    trPage s (fetchCtx s t.slot t.seq) pc 4 { x := true } = (s1, .ok sp) → flipping s1 [sp] = false →
    needFar s1 t.slot [sp] = none →
    kvFind s1.icache (fetchKey (coreOf t.slot) t.seq (sp.loc / 16)) = none →
    getView s1 (clusterOf (coreOf t.slot)) (sp.loc / 64) = .empty →
    granSyn s1.mem (sp.loc / 16) = 0 → poisoned (homeMeta s1 (sp.loc / 64)) = false → sp.loc % 4 = 0 →
    ∃ u, fetchWord s t pc = (u, .ok (BitVec.ofNat 32 (readNat s1.mem sp.loc 4))) ∧ ∀ a, readByte u.mem a = readByte s.mem a

/-- 04 R104, 12 R305, R306: a fetch that faults traps PAGE, with TRAPPC and TRAPADDR at the word that could not be fetched, an extension
word's own where that faulted; a word that does not decode traps ILLEGAL or SEQCLASS at the word, where no stage predicate squashes
it. -/
def Obligations.FetchStops : Prop :=
  ∀ (s s1 : State),
    let t := portTurn s s.turn
    let pc := (getSeq s t).pc
    let served := serve { s with turn := t } (portPlace (coreOf t.slot) t.seq) t.slot
    s.agenda = [] → ready s t = true →
      (∀ k a, fetchAt served t pc = (s1, .fault k a) → lastFetch s1 t = false →
        step s = .next (passTurn s.turn (takeTrap (stall s1 t false) t.slot t.seq a { cause := 4, kind := k, addr := a })))
        ∧ (∀ w x, fetchAt served t pc = (s1, .undecoded w x) → (getSeq s1 t).predOn = false →
          step s = .next (passTurn s.turn (takeTrap (stall s1 t false) t.slot t.seq (getSeq s1 t).pc
            { cause := if opcodeAssigned (opcodeOf w) && (!opcodePermits (opcodeOf w) t.seq || queueRoleFails t.seq w)
                then 2 else 1 })))

/-- What stands first on the agenda comes about, at its time: an event row by its meaning, and a word by its thread's turn
(log 3). -/
def Obligations.AgendaStep : Prop :=
  ∀ (s : State) (it : Item) (rest : List Item), s.agenda = it :: rest →
    let s1 := { s with agenda := rest, time := s.time + it.dt }
    (∀ i : Instr, it.what = .event i → i.isEvent = true → step s = exec i s1)
      ∧ ∀ t, it.what = .issue t → step s = wordStep { s1 with turn := t }

/-- 12 R305, 07 R173, R183, R171: every word but VOTE, on a thread that is not ready, changes nothing; squashed, it performs its
nibble and pushes at most a void; else the first check that fails traps at the word: SEQCLASS for its sequencer or a queue's
role, ILLEGAL for its encoding, PRIVILEGE for a supervisor's word or register in user mode; then, with a token missing, it
waits. -/
def Obligations.WordGates : Prop :=
  ∀ (i : Instr) (s : State), i.isWord = true → i ≠ .vote →
    let t := s.turn
    let x := turnSlot s
    let q := getSeq s t
    let w := (wordsOf i).1
    let n := nibOf i
    let ws := waitsOf t.seq n none
    let trapped (c : Nat) : Prop := exec i s = .next (takeTrap (stall s t false) t.slot t.seq q.pc { cause := c })
    (ready s t = false → exec i s = .next s)
      ∧ (ready s t = true → squashed q i = true →
        (waitsMet x.tok ws = true →
          ∃ d, exec i s = .next (retireWord (pushVoid s t d) t (wordsOf i) ws (sigsOf t.seq n none) none))
        ∧ (waitsMet x.tok ws = false → exec i s = .next (stall s t true)))
      ∧ (ready s t = true → squashed q i = false →
        (opcodePermits (opcodeOf w) t.seq = false → trapped 2)
        ∧ (opcodePermits (opcodeOf w) t.seq = true → queueRoleFails t.seq w = true → trapped 2)
        ∧ (opcodePermits (opcodeOf w) t.seq = true → queueRoleFails t.seq w = false →
          ((i.wellFormed && queueKindOk t.seq i && !srIllegal i) = false → trapped 1)
          ∧ ((i.wellFormed && queueKindOk t.seq i && !srIllegal i) = true →
            ((opcodeSupervisor (opcodeOf w) || srPrivileged i) = true → x.supMode = false → trapped 3)
            ∧ ((opcodeSupervisor (opcodeOf w) || srPrivileged i) = false ∨ x.supMode = true →
              waitsMet x.tok ws = false → exec i s = .next (stall s t true)))))

/-- 18 R435, R437, R438, R440: a trap writes its cause, address and PC, and enters the supervisor: from user mode at SVBASE with
s0-s7 taken from m8-m15 and the user bank kept, in supervisor mode at SVBASE + 0x40 with NEST set and the bank kept; with SVBASE
zero the slot freezes and its core is fenced. No other slot and no byte of memory changes. -/
def Obligations.TrapEntry : Prop :=
  ∀ (s : State) (slot : Nat) (q : Seq) (pc : Word) (tr : Trap), tr.cause < 256 →
    let x := getSlot s slot
    let base := (getDie s (dieOfCore (coreOf slot))).svbase
    let t := takeTrap s slot q pc tr
    let y := getSlot t slot
    y.taddr = tr.addr ∧ y.tpc = (if tr.after then pc + 4 else pc)
      ∧ y.tcause.extractLsb' 0 8 = BitVec.ofNat 8 tr.cause ∧ y.tcause.extractLsb' 8 3 = tr.kind ∧ y.tcause.getLsbD 11 = tr.wr
      ∧ y.tcause.extractLsb' 12 2 = BitVec.ofNat 2 (seqNum q) ∧ y.tcause.extractLsb' 14 2 = 0
      ∧ y.tcause.extractLsb' 16 14 = tr.num ∧ y.tcause.extractLsb' 30 2 = 0 ∧ y.tcause.extractLsb' 32 4 = tr.mcc
      ∧ y.tcause.getLsbD 36 = x.supMode ∧ y.tcause.extractLsb' 37 27 = 0
      ∧ y.k = x.k ∧ y.l = x.l ∧ y.c = x.c ∧ y.s = x.s
      ∧ (x.supMode = false → base ≠ 0 → y.mode = .handler ∧ y.ksup.pc = base
          ∧ (∀ i, i < 8 → y.ksup.short.toList.getD i .zero = x.k.main.toList.getD (8 + i) .zero)
          ∧ (∀ i, 8 ≤ i → y.ksup.short.toList.getD i .zero = x.ksup.short.toList.getD i .zero)
          ∧ y.ksup.main = x.ksup.main ∧ y.ksup.belt = x.ksup.belt)
      ∧ (x.supMode = true → base ≠ 0 → y.mode = x.mode ∧ y.ksup = { x.ksup with pc := base + 0x40 })
      ∧ (base = 0 → y.mode = .frozen ∧ coreOf slot ∈ t.deadCores)
      ∧ (∀ k, k ≠ slot → getSlot t k = getSlot s k)
      ∧ ∀ a, readByte t.mem a = readByte s.mem a

/-- 18 R441, R442, R448: SVC and TRAP issue and enter the supervisor with their number; ERET traps ILLEGAL with a nibble or without an
interrupted context, and else gives K back its user bank at TRAPPC, with m8 and m9 from s0 and s1 after an SVC; TLBINV removes the cached
leaves it names and every pointer entry, where no access is under way, and traps PAGE where its range leaves a half. Completes (`exec`
answers the next state of the form's own effect, under conditions on the state and the operands alone): svc, trap, eret, tlbinvRange,
tlbinvJob, tlbinvAll. -/
def Obligations.SupervisorWords : Prop :=
  ∀ (n : Nib) (num : BitVec 14) (a b : Opnd) (s : State),
    let t := s.turn
    let x := turnSlot s
    let pc := (getSeq s t).pc
    let enters (i : Instr) (c : Nat) : Prop := issues i n none {} s = true →
      exec i s = .next (takeTrap (retired i n none none s s none) t.slot t.seq pc { cause := c, num := num, after := true })
    let va := srcVal s t a
    let len := (srcVal s t b).toNat
    let keep (f : TlbEnt → Bool) : State := { s with tlb := s.tlb.filter (fun e => f e.2), ptrs := [] }
    enters (.svc n num) 6 ∧ enters (.trap n num) 7
      ∧ (x.mode ≠ .handler ∨ n ≠ .none → entersTrap (.eret n) n {} s s { cause := 1 })
      ∧ (x.mode = .handler → x.snapped = true → issues (.eret .none) .none none {} s = true →
          ∃ u, exec (.eret .none) s = .next u ∧ (getSlot u t.slot).task = none ∧ (getSlot u t.slot).mode = .user)
      ∧ (x.mode = .handler → x.snapped = false → slotClosing s t.slot = false → issues (.eret .none) .none none {} s = true →
          let y := { returnUser x with deadlock := 0 }
          exec (.eret .none) s = .next (kickSlot (checkEnd (resumeStores (setSlot s t.slot y) t.slot) t.slot) t.slot)
            ∧ y.mode = .user ∧ y.l = x.l ∧ y.c = x.c ∧ y.s = x.s
            ∧ (x.tcause.extractLsb' 12 2 = 0 ∨ x.tpcSet = true → y.k.pc = x.tpc)
            ∧ (x.tcause.extractLsb' 0 8 = 6 → ∀ i : BitVec 5, vget y.k.main i =
                if i = 8 then x.ksup.short.toList.getD 0 .zero else if i = 9 then x.ksup.short.toList.getD 1 .zero
                else vget x.k.main i)
            ∧ (x.tcause.extractLsb' 0 8 ≠ 6 → y.k.main = x.k.main))
      ∧ (accessesLeft s = false → yields (.tlbinvAll n) n {} s { s with tlb := [], ptrs := [] }
          ∧ (va.toNat = 0 ∨ 1023 < va.toNat → yields (.tlbinvJob n a) n (sources [a]) s s)
          ∧ (0 < va.toNat → va.toNat ≤ 1023 → yields (.tlbinvJob n a) n (sources [a]) s
              (keep fun e => !(e.job == va.toNat && !e.leaf.getLsbD 53)))
          ∧ (len = 0 → yields (.tlbinvRange n a b) n (sources [a, b]) s s)
          ∧ (len ≠ 0 → leavesHalf va len = none → yields (.tlbinvRange n a b) n (sources [a, b]) s
              (keep fun e => !((e.job == (if x.mode = .supTask then 0 else x.job) || e.leaf.getLsbD 53)
                && e.upper == upperHalf va && decide (e.base.toNat < va.toNat + len)
                && decide (va.toNat < e.base.toNat + e.size)))))
      ∧ (∀ bad, len ≠ 0 → leavesHalf va len = some bad →
          entersTrap (.tlbinvRange n a b) n (sources [a, b]) s s { cause := 4, kind := 4, addr := bad })

/-- 12 R303, R307 and the examples of 14 to 18: words of each class decode to the instruction that they stand for. -/
def Obligations.DecodeWords : Prop :=
  let n : Nib := ⟨false, false, false, false⟩
  decode 0x001FFFF6 0 = .ok (.br n (-10)) ∧ decode 0x00F92500 0 = .ok (.setlc n (.main 4) (.main 5))
    ∧ decode 0x02081190 0 = .ok (.add n (.main 4) (.main 0) (.short 1))
    ∧ decode 0x0379A7AB 0 = .ok (.lea n 3 (.main 10) (.main 6) (.main 7))
    ∧ decode 0x04296500 0x9ABCDEF0 = .ok (.lihi n (.main 5) (.main 5) 0x9ABCDEF0)
    ∧ decode 0x04F8C148 0 = .ok (.rdsr n (.main 3) 0x052)
    ∧ decode 0x06182426 0 = .ok (.ldh n (.main 4) (.main 0) 38)
    ∧ decode 0x06EA68AB 0 = .ok (.aadd n .acqrel (.main 10) (.main 9) (.main 8))
    ∧ decode 0x080A80AC 0 = .ok (.acq n (.main 11) (.main 10))
    ∧ decode 0x8850_0002 0 = .ok (.xfence ⟨true, false, false, false⟩ .matrix .core)
    ∧ decode 0x0A302345 0 = .ok (.vfma n .fms (.belt 0) (.main 3) (.short 1))
    ∧ decode 0x0C1922FF 0 = .ok (.vst n (.main 2) (.main 4) (-1))
    ∧ decode 0x0E798002 0 = .ok (.copy n (.main 6) 2)
    ∧ decode 0x4F600000 8 = .ok (.cropen ⟨false, true, false, false⟩ 8)
    ∧ (decode 0x02081193 0).toOption = none

/-- 12 R300 to R307: every well-formed instruction, with every operand at every value, is read back by the decoder from the words
that the encoder makes of it; the event rows have no words. -/
def Obligations.DecodeEncode : Prop :=
  ∀ i : Instr,
    (i.isWord = true → i.wellFormed = true → ∃ w x, encode i = some (w, x) ∧ decode w x = .ok i
      ∧ (i.isLong = false → x = 0) ∧ opcodeLong (opcodeOf w) = i.isLong ∧ opcodeAssigned (opcodeOf w) = true)
    ∧ (i.isEvent = true → encode i = none)

/-- Every instruction and every step answers a next state, from every state, but for a host access of device memory that names
an address outside the one range that the host sees (03 R63): that alone faults, and nothing is refused. -/
def Obligations.NothingElseStops : Prop :=
  (∀ (i : Instr) (s : State), (∃ t, exec i s = .next t)
      ∨ ∃ pa, exec i s = .fault (.noStorage pa) ∧ (i = .hostMemRead ∨ i = .hostMemWrite))
    ∧ ∀ s : State, (∃ t, step s = .next t)
      ∨ ∃ pa it rest, step s = .fault (.noStorage pa) ∧ s.agenda = it :: rest
          ∧ (it.what = .event .hostMemRead ∨ it.what = .event .hostMemWrite)

/-- Storage stays in its canonical form: every step from a state whose storage has it leaves it so (the model's own form of
memory, log 1). -/
def Obligations.StorageStaysCanonical : Prop :=
  ∀ s t : State, Safe s → step s = .next t → Safe t

/-- 01 R25 to R27, 03 R64, R88, 18 R439: what reset leaves. The package does not run, no job, task, queue, request or cached translation
exists, the measurement registers are zero, SVBASE is zero on every die, and storage, in canonical form, lists nothing. -/
def Obligations.ResetState : Prop :=
  let s := State.reset
  Safe s ∧ s.running = false ∧ s.slots = [] ∧ s.jobs = [] ∧ s.hqueues = [] ∧ s.requests = [] ∧ s.tlb = [] ∧ s.agenda = []
    ∧ s.sevq = 0 ∧ s.srq = 0 ∧ s.boot.measure = List.replicate 8 0
    ∧ (∀ d, d < 4 → (getDie s d).svbase = 0 ∧ (getDie s d).supen = false ∧ (getDie s d).fenced = false)
    ∧ ∀ a, readByte s.mem a = 0

/-! ## Memory -/

/-- 15 R362, R363, R365, R366, R367, 04 R104, R474: where its access translates, no earlier word of its sequencer has still to reach its lines
and it meets no error, a load issues with its destination or queue entry reserved, its word under way and its delivery to come; one that
would meet an uncorrectable error takes it and does not issue; LDC goes by the constant path; an LDD of a device control register completes
at once; PREF brings its line in or has no effect. Completes (`exec` answers the next state of the form's own effect, under conditions on
the state and the operands alone): ldb, ldh, ldw, ldd, ldc, ldq, ldvq, pref. -/
def Obligations.LoadWords : Prop :=
  ∀ (n : Nib) (d : Dest) (a : Opnd) (k : BitVec 3) (off : BitVec 8) (s s1 : State) (sps : List Span),
    let t := s.turn
    let va (z : Nat) : Word := srcVal s t a + BitVec.ofInt 64 (off.toInt * z)
    let need : Need := { r := true, sys := true }
    let ctl : Need := { need with ctl := (va 8).toNat % 8 == 0 }
    let tag := s1.nextUid
    let taken : State := { s1 with nextUid := tag + 1 }
    let later (s2 : State) : State := enqueue s2 (.event (.loadDelivery t.slot t.seq tag))
    let found (w : QVal → Work) := loadValue s1 t.slot t.seq (isSup s1 t) (w (.s .zero))
    let issued (i : Instr) (w : QVal → Work) (s2 : State) : Prop :=
      (ownPending s1 t sps = true → waitsAt i n (sources [a]) s s1 false)
        ∧ (ownPending s1 t sps = false →
          (∀ u q v, found w = .ok (u, q, v) → pends i n (sources [a]) s (later s2) tag (w v))
          ∧ ∀ e, found w = .error e → meetsError i n (sources [a]) s s1 e)
    let load (i : Instr) (w : QVal → Work) : Prop := issued i w (putBusy taken t d tag)
    let queued (i : Instr) : Prop := queueFull (getSlot s1 t.slot) k = false →
      issued i (.ldq k sps (vectorQueue k)) (updSlot taken t.slot fun x => reserve x k tag none)
    ((∀ sp ∈ sps, sp.area ≠ .control) →
      (reaches s (va 1) 1 need s1 sps → load (.ldb n d a off) (.load sps))
        ∧ (reaches s (va 2) 2 need s1 sps → load (.ldh n d a off) (.load sps))
        ∧ (reaches s (va 4) 4 need s1 sps → load (.ldw n d a off) (.load sps))
        ∧ (reaches s (va 8) 8 ctl s1 sps → load (.ldd n d a off) (.load sps))
        ∧ ((va 8).toNat % 8 = 0 → reaches s (va 8) 8 need s1 sps →
            load (.ldc n d a off) (.const sps) ∧ queued (.ldq n k a off))
        ∧ ((va 256).toNat % 16 = 0 → reaches s (va 256) 256 need s1 sps → queued (.ldvq n k a off)))
      ∧ (∀ sp r s2 v, sps = sp :: r → sp.area = .control → reaches s (va 8) 8 ctl s1 sps →
          ctlRead s1 (dieOfCore (coreOf t.slot)) (sp.loc - ctlBase) = (s2, v) →
          yields (.ldd n d a off) n (sources [a]) s (putResult s2 t d v))
      ∧ ((va 8).toNat % 8 = 0 →
          (∀ sp, trPage s (slotCtx s t.slot t.seq) (va 8) 8 { r := true } = (s1, .ok sp) →
            yields (.pref n a off) n (sources [a]) s (touchLine s1 (coreWho s1 t.slot) sp.area (sp.loc / 64)))
          ∧ (∀ kd ad, trPage s (slotCtx s t.slot t.seq) (va 8) 8 { r := true } = (s1, .fault kd ad) →
            yields (.pref n a off) n (sources [a]) s s1))

/-- 15 R362, R364, R368, R371, 11 R288, 04 R104, R474: where its access translates, outside a region's own areas, no earlier word of its
sequencer has still to reach its lines and no draining region holds them, a store issues with its write under way and its performance to
come, or, where that write would meet an uncorrectable error, takes it and does not issue; a RED issues without meeting it; a write into a
region's areas traps REGION; an STD of a device control register writes it at once. Completes (`exec` answers the next state of the form's
own effect, under conditions on the state and the operands alone): stb, sth, stw, std, stvq, red. -/
def Obligations.StoreWords : Prop :=
  ∀ (n : Nib) (b a : Opnd) (k : BitVec 3) (off : BitVec 8) (op : RedOp) (o : MemOrd) (s s1 : State) (sps : List Span),
    let t := s.turn
    let x := getSlot s1 t.slot
    let va (z : Nat) : Word := srcVal s t a + BitVec.ofInt 64 (off.toInt * z)
    let val (z : Nat) : Nat := (srcVal s t b).toNat % 2 ^ (8 * z)
    let need : Need := { w := true }
    let ctl : Need := { w := true, ctl := (va 8).toNat % 8 == 0 }
    let inside : Bool := !isSup s1 t && x.regionOpen && sps.any fun sp => inRegionAreas x t.slot sp.loc sp.len
    let later (s2 : State) : State := enqueue { s2 with nextUid := s2.nextUid + 1 } (.event (.storePerformed t.slot t.seq))
    let store (i : Instr) (r : Reads) (s2 : State) (w : StoreOp) : Prop :=
      let tried := if isSup s2 t then performOp s2 t.slot w else slotWrite s2 t.slot t.seq 0 s2.nextUid w
      (inside = true → entersTrap i n r s s1 { cause := 10 })
        ∧ (inside = false → ownPending s2 t w.spans = false → heldByDrain (getSlot s2 t.slot) s2.nextUid w = false →
          (∀ u, tried = .ok u → pends i n r s (later s2) s2.nextUid (.store w))
          ∧ ∀ e, tried = .error e → meetsError i n r s s1 e)
    let rw : Need := { r := true, w := true, atHome := true }
    let red : StoreOp := .red { span := sps.headD { va := 0, loc := 0, len := 0, area := .hbm, sw := 0, et := false, tt := false, cst := false },
                                op := op, ord := o, val := srcVal s t b }
    ((∀ sp ∈ sps, sp.area ≠ .control) →
      (reaches s (va 1) 1 need s1 sps → store (.stb n b a off) (sources [b, a]) s1 (.plain sps (val 1)))
        ∧ (reaches s (va 2) 2 need s1 sps → store (.sth n b a off) (sources [b, a]) s1 (.plain sps (val 2)))
        ∧ (reaches s (va 4) 4 need s1 sps → store (.stw n b a off) (sources [b, a]) s1 (.plain sps (val 4)))
        ∧ (reaches s (va 8) 8 ctl s1 sps → store (.std n b a off) (sources [b, a]) s1 (.plain sps (val 8)))
        ∧ (∀ tag w l, vget x.queues k = { tag := tag, val := some (.v w) } :: l → (va 256).toNat % 16 = 0 →
            reaches s (va 256) 256 need s1 sps → store (.stvq n k a off) (sources [a])
              (updSlot s1 t.slot fun x => { x with queues := vset x.queues k l }) (.vec sps w))
        ∧ (sps.length = 1 → (srcVal s t a).toNat % 8 = 0 → reaches s (srcVal s t a) 8 rw s1 sps →
            (inside = true → entersTrap (.red n op o a b) n (sources [a, b]) s s1 { cause := 10 })
              ∧ (inside = false → pends (.red n op o a b) n (sources [a, b]) s (later s1) s1.nextUid (.store red))))
      ∧ (∀ sp r, sps = sp :: r → sp.area = .control → reaches s (va 8) 8 ctl s1 sps → pending s1 t = false →
          yields (.std n b a off) n (sources [b, a]) s
            (ctlWrite s1 (dieOfCore (coreOf t.slot)) (sp.loc - ctlBase) (BitVec.ofNat 64 (val 8))))

/-- 15 R371, R372, R373, 04 R100, 02 R37, R43: where its word translates, outside a region's own areas, with no earlier access under way and no
posted write to wait for, an atomic on this device performs at its home as it issues and puts the old value in its destination (on a line of
a table it is complete once the accesses in flight under it are); on another device that can be reached its flit goes to the home and its
destination waits for the answer. The nine updates of one operand and the two compare-and-swaps. Completes (`exec` answers the next state of
the form's own effect, under conditions on the state and the operands alone): aadd, amin, amax, aminu, amaxu, aand, aor, axor, aswap, cas,
casw. -/
def Obligations.AtomicWords : Prop :=
  ∀ (n : Nib) (o : MemOrd) (d : Dest) (a b c : Opnd) (s s1 s2 s3 : State) (sp : Span) (v : Nat) (dst : BitVec 12) (pa : Nat),
    let t := s.turn
    let x := getSlot s1 t.slot
    let va := srcVal s t a
    let y := srcVal s t b
    let z := srcVal s t c
    let rw : Need := { r := true, w := true, atHome := true }
    (isSup s1 t || !x.regionOpen || !inRegionAreas x t.slot sp.loc sp.len) = true → pending s1 t = false →
    relGate s1 t sp o = none → escaping s1 t escAtom [sp] = .ok s2 →
    let freed := if ordReleases o then releaseSteps s2 t.slot sp else s2
    let gone := purge freed (clusterOf (coreOf t.slot)) (sp.loc / 64)
    let tag := gone.nextUid
    let sent (op w : Nat) (a b : Word) (d : Dest) : State :=
      let u : State := { gone with nextUid := tag + 1 }
      putBusy (sendFlit u (atomFlit u dst (BitVec.ofNat 12 tag) (slotTag s1 t.slot) pa op a b (w == 4) false)) t d tag
    let runs (i : Instr) (l : List Opnd) (w op : Nat) (d : Dest) (a b : Word) (f : Nat → Option Nat) : Prop :=
      va.toNat % w = 0 → reaches s va w rw s1 [sp] →
        (sp.area ≠ .remote → atomicAt s2 t.slot sp w o f = .ok (s3, v) →
          let u := putResult s3 t d (BitVec.ofNat 64 v)
          (freshDrops s1 u = [] → yields i n (sources l) s u)
            ∧ (freshDrops s1 u ≠ [] →
              pends i n (sources l) s { u with nextUid := u.nextUid + 1 } u.nextUid (.await (freshDrops s1 u))))
        ∧ (sp.area = .remote → farAddr freed sp.loc = some (dst, pa) → unreachable freed dst = false →
          pends i n (sources l) s (sent op w a b d) tag (.far sp (BitVec.ofNat 12 tag) o))
    let does (i : Instr) (op : Nat) (f : Nat → Nat) : Prop := runs i [a, b] 8 op d y y fun m => some (f m)
    let swaps (i : Instr) (w : Nat) : Prop := runs i [a, b, c] w 9 .push y z fun m =>
      if m = y.toNat % 2 ^ (8 * w) then some (z.toNat % 2 ^ (8 * w)) else none
    let w64 (m : Nat) : Word := BitVec.ofNat 64 m
    does (.aadd n o d a b) 0 (fun m => (w64 m + y).toNat)
      ∧ does (.amin n o d a b) 1 (fun m => if (w64 m).toInt < y.toInt then (w64 m).toNat else y.toNat)
      ∧ does (.amax n o d a b) 2 (fun m => if (w64 m).toInt < y.toInt then y.toNat else (w64 m).toNat)
      ∧ does (.aminu n o d a b) 3 (fun m => if (w64 m).toNat < y.toNat then (w64 m).toNat else y.toNat)
      ∧ does (.amaxu n o d a b) 4 (fun m => if (w64 m).toNat < y.toNat then y.toNat else (w64 m).toNat)
      ∧ does (.aand n o d a b) 5 (fun m => (w64 m &&& y).toNat) ∧ does (.aor n o d a b) 6 (fun m => (w64 m ||| y).toNat)
      ∧ does (.axor n o d a b) 7 (fun m => (w64 m ^^^ y).toNat) ∧ does (.aswap n o d a b) 8 (fun _ => y.toNat)
      ∧ swaps (.cas n o a b c) 8 ∧ swaps (.casw n o a b c) 4

/-- 15 R371, R373, 08 R216: an atomic at the home of storage that no cache holds answers the old value and stores the new one at its own bytes; every other byte is as
it was, and with no new value all are. -/
def Obligations.AtomicAtHome : Prop :=
  ∀ (s : State) (slot : Nat) (sp : Span) (z : Nat) (f : Nat → Option Nat),
    sp.area.cached = false → z ∈ [4, 8] → sp.loc % z = 0 → granSyn s.mem (sp.loc / 16) = 0 →
    poisoned (homeMeta s (sp.loc / 64)) = false →
    ∃ u, atomicAt s slot sp z .rlx f = .ok (u, readNat s.mem sp.loc z)
      ∧ ∀ l, readByte u.mem l = (match f (readNat s.mem sp.loc z) with
          | some v => if sp.loc ≤ l ∧ l < sp.loc + z then BitVec.ofNat 8 (v / 256 ^ (l - sp.loc)) else readByte s.mem l
          | none => readByte s.mem l)

/-- 15 R361, 04 R101, R102, R104: a misaligned address traps MISALIGNED before translation; an access that does not translate traps PAGE at
the lowest byte that faults, with its kind and whether it writes. -/
def Obligations.MemoryTraps : Prop :=
  ∀ (n : Nib) (d : Dest) (a b c : Opnd) (k : BitVec 3) (off : BitVec 8) (op : RedOp) (o : MemOrd) (s s1 : State)
      (kd : Kind) (ad : Word),
    let t := s.turn
    let va (z : Nat) : Word := srcVal s t a + BitVec.ofInt 64 (off.toInt * z)
    let here := srcVal s t a
    let mis (i : Instr) (r : Reads) (v : Word) (m : Nat) : Prop := v.toNat % m ≠ 0 → entersTrap i n r s s { cause := 5, addr := v }
    let page (i : Instr) (r : Reads) (v : Word) (z m : Nat) (need : Need) : Prop :=
      v.toNat % m = 0 → translate s (slotCtx s t.slot t.seq) v z need = (s1, .fault kd ad) →
        entersTrap i n r s s1 { cause := 4, kind := kd, wr := need.w, addr := ad }
    let ld : Need := { r := true, sys := true }
    let st : Need := { w := true }
    let rw : Need := { r := true, w := true, atHome := true }
    let at8 : Bool := (va 8).toNat % 8 == 0
    page (.ldb n d a off) (sources [a]) (va 1) 1 1 ld ∧ page (.ldh n d a off) (sources [a]) (va 2) 2 1 ld
      ∧ page (.ldw n d a off) (sources [a]) (va 4) 4 1 ld ∧ page (.ldd n d a off) (sources [a]) (va 8) 8 1 { ld with ctl := at8 }
      ∧ mis (.ldc n d a off) (sources [a]) (va 8) 8 ∧ page (.ldc n d a off) (sources [a]) (va 8) 8 8 ld
      ∧ mis (.ldq n k a off) (sources [a]) (va 8) 8 ∧ page (.ldq n k a off) (sources [a]) (va 8) 8 8 ld
      ∧ mis (.ldvq n k a off) (sources [a]) (va 256) 16 ∧ page (.ldvq n k a off) (sources [a]) (va 256) 256 16 ld
      ∧ mis (.pref n a off) (sources [a]) (va 8) 8
      ∧ page (.stb n b a off) (sources [b, a]) (va 1) 1 1 st ∧ page (.sth n b a off) (sources [b, a]) (va 2) 2 1 st
      ∧ page (.stw n b a off) (sources [b, a]) (va 4) 4 1 st
      ∧ page (.std n b a off) (sources [b, a]) (va 8) 8 1 { st with ctl := at8 }
      ∧ mis (.stvq n k a off) (sources [a]) (va 256) 16 ∧ page (.stvq n k a off) (sources [a]) (va 256) 256 16 st
      ∧ mis (.aadd n o d a b) (sources [a, b]) here 8 ∧ page (.aadd n o d a b) (sources [a, b]) here 8 8 rw
      ∧ mis (.aswap n o d a b) (sources [a, b]) here 8 ∧ page (.aswap n o d a b) (sources [a, b]) here 8 8 rw
      ∧ mis (.cas n o a b c) (sources [a, b, c]) here 8 ∧ page (.cas n o a b c) (sources [a, b, c]) here 8 8 rw
      ∧ mis (.casw n o a b c) (sources [a, b, c]) here 4 ∧ page (.casw n o a b c) (sources [a, b, c]) here 4 4 rw
      ∧ mis (.red n op o a b) (sources [a, b]) here 8 ∧ page (.red n op o a b) (sources [a, b]) here 8 8 rw
      ∧ mis (.acq n d a) (sources [a]) here 8 ∧ page (.acq n d a) (sources [a]) here 8 8 { ld with atHome := true }
      ∧ mis (.rel n a b) (sources [a, b]) here 8 ∧ page (.rel n a b) (sources [a, b]) here 8 8 { st with atHome := true }
      ∧ mis (.vld n d a off) (sources [a]) (va 256) 16 ∧ mis (.vst n b a off) (sources [a]) (va 256) 16

/-- 15 R363, R364, 07 R174, 08 R205, 04 R100, R104: LOAD_DELIVERY brings a load's value to its destination and makes the word complete (the
value found at issue where its bytes have turned bad since, log 9); STORE_PERFORMED performs the one write under way of a sequencer and
makes its word complete, at once or, where it wrote a line of a table, once the accesses in flight under it are. Completes (`exec` answers
the next state of the form's own effect, under conditions on the state and the operands alone): loadDelivery, storePerformed. -/
def Obligations.DeliveredAndPerformed : Prop :=
  ∀ (slot tag : Nat) (q : Seq) (o : Outst) (sps : List Span) (old : QVal) (op : StoreOp) (s s1 : State) (v : Nat) (w : SWord) (b : Bad),
    let x := getSlot s slot
    let l := x.issued q
    (l.find? (fun e => e.2.tag == tag && !e.2.done && e.2.work.isLoad) = some (false, o) → o.work = .load sps old → sps ≠ [] →
      x.region = none → blockedBy l o = false →
      (loadSpans (seqNum q) slot (coreWho s slot) s sps = .ok (s1, v) →
        exec (.loadDelivery slot q tag) s = .next (checkEnd (updSlot s1 slot fun x =>
          settle (markDone (x.onBanks q fun r => deliver r tag (BitVec.ofNat 64 v)) q tag)) slot))
      ∧ (loadSpans (seqNum q) slot (coreWho s slot) s sps = .error b → old = .s w →
        exec (.loadDelivery slot q tag) s = .next (checkEnd (updSlot s slot fun x =>
          settle (markDone (x.onBanks q fun r => deliver r tag w.val) q tag)) slot)))
      ∧ (l.filter (fun e => !e.2.done && e.2.work.isStore) = [(false, o)] → o.work = .store op → x.region = none →
        blockedBy l o = false → needFar s slot op.merges = none → farRelHeld s slot o.tag op = false →
        farRelease x o.tag op = false → performOp s slot op = .ok s1 →
        (freshDrops s s1 = [] →
          exec (.storePerformed slot q) s = .next (checkEnd (updSlot s1 slot fun x => settle (markDone x q o.tag)) slot))
        ∧ (freshDrops s s1 ≠ [] →
          exec (.storePerformed slot q) s = .next (checkEnd (updSlot s1 slot fun x => markAwait x q o.tag (freshDrops s s1)) slot)))

/-- 08 R200, 11 R280, R281, 00 R4: on storage that no cache holds and whose granules are good, a load answers the bytes at its
location, least significant first, and changes nothing; a store writes the bytes of its value at its location, and every other
byte is as it was. -/
def Obligations.AccessedBytes : Prop :=
  ∀ (src slot : Nat) (sp : Span) (v : Nat) (s : State),
    sp.area.cached = false →
    (∀ g, sp.loc / 16 ≤ g → 16 * g < sp.loc + sp.len → granSyn s.mem g = 0 ∧ poisoned (homeMeta s (g / 4)) = false) →
    loadSpans src slot (coreWho s slot) s [sp] = .ok (s, readNat s.mem sp.loc sp.len)
      ∧ ∃ u, performOp s slot (.plain [sp] v) = .ok u
        ∧ ∀ a, readByte u.mem a =
          if sp.loc ≤ a ∧ a < sp.loc + sp.len then BitVec.ofNat 8 (v / 256 ^ (a - sp.loc)) else readByte s.mem a

/-- 16 R400, R401, R402: VLD, VST, VLDX and VSTX reach a window of the scratchpads only, and trap PAGE with kind WINDOW at the lowest byte
outside; inside, with no earlier access under way, they complete as they issue, VLD and VST moving granules with their codes and VLDX and
VSTX elements at base plus index times size. Completes (`exec` answers the next state of the form's own effect, under conditions on the
state and the operands alone): vld, vst, vldx, vstx. -/
def Obligations.VectorMemoryWords : Prop :=
  ∀ (n : Nib) (z : ESize) (d : Dest) (a b c : Opnd) (off : BitVec 8) (s s1 s2 : State) (sp : Span) (sps : List Span)
      (v y : Nat) (bad : Word),
    let t := s.turn
    let va := srcVal s t a + BitVec.ofInt 64 (off.toInt * 256)
    let base := srcVal s t a
    let size := esize z
    let addrs : List Word := (List.range (256 / size)).map fun e =>
      base + BitVec.ofNat 64 ((readV (turnSlot s) b).val.toNat / 2 ^ (8 * size * e) % 2 ^ (8 * size) * size)
    let put (w : VWord) : State := updSlot s2 t.slot fun x => writeV x d w
    let ix : Reads := { scalars := [a], vectors := [b] }
    let ix3 : Reads := { scalars := [a], vectors := [b, c] }
    let clear (l : List Span) : Prop :=
      (!isSup s1 t && (getSlot s1 t.slot).regionOpen
        && l.any fun sp => inRegionAreas (getSlot s1 t.slot) t.slot sp.loc sp.len) = false
    (va.toNat % 16 = 0 → windowRun s t.slot va 256 = (s1, .ok sp) → pending s1 t = false →
      (readFor s1 t.slot false (fun s => moveSpans (seqNum t.seq) t.slot (coreWho s t.slot) s [sp]) = .ok (s2, v, y) →
        yields (.vld n d a off) n (sources [a]) s (put { val := BitVec.ofNat 2048 v, syn := BitVec.ofNat 256 y }))
      ∧ (clear [sp] → slotWrite s1 t.slot t.seq (getSeq s1 t).pc s1.nextUid (.vec [sp] (readV (getSlot s1 t.slot) b)) = .ok s2 →
        yields (.vst n b a off) n (sources [a]) s s2))
      ∧ (base.toNat % size = 0 → elemSpans t.slot size s addrs = (s1, .ok sps) → pending s1 t = false →
        (readFor s1 t.slot false (fun s => loadSpans (seqNum t.seq) t.slot (coreWho s t.slot) s sps) = .ok (s2, v) →
          yields (.vldx n z d a b) n ix s (put (.fresh (BitVec.ofNat 2048 v))))
        ∧ (clear sps → writeElems t s1 (sps.zip ((List.range (256 / size)).map fun e =>
            (readV (turnSlot s) c).val.toNat / 2 ^ (8 * size * e) % 2 ^ (8 * size))) = .ok s2 →
          yields (.vstx n z a b c) n ix3 s s2))
      ∧ (va.toNat % 16 = 0 → windowRun s t.slot va 256 = (s1, .error bad) →
        entersTrap (.vld n d a off) n (sources [a]) s s1 { cause := 4, kind := 5, addr := bad }
          ∧ entersTrap (.vst n b a off) n (sources [a]) s s1 { cause := 4, kind := 5, wr := true, addr := bad })
      ∧ (base.toNat % size ≠ 0 → entersTrap (.vldx n z d a b) n ix s s { cause := 5, addr := base }
          ∧ entersTrap (.vstx n z a b c) n ix3 s s { cause := 5, addr := base })

/-- 15 R369, R370, 16 R410, 10 R265, R273: STT takes the oldest entries of q2, writes their elements encoded through its record and counts them
in it; VHIST counts the elements of a vector; a record that fails its checks traps TENSOR_RECORD, one that another command holds makes STT
wait, a version mismatch traps TENSOR_SKEW, and a write past the record's extent traps OOB, with the record as it was. Completes (`exec`
answers the next state of the form's own effect, under conditions on the state and the operands alone): stt, vhist. -/
def Obligations.TensorWords : Prop :=
  ∀ (n : Nib) (a b : Opnd) (fmt : BitVec 2) (s s0 s1 s2 s3 s4 s5 : State) (rec : Span) (raw r : Nat) (v : Resolution)
      (vs : List VWord) (ws : List TWrite),
    let t := s.turn
    let x := turnSlot s
    let va := srcVal s t a
    let o := (srcVal s t b).toNat
    let job := (getSlot s1 t.slot).job
    let src := sttFmt fmt
    let f := fmtOf v.2.1
    let w := fmtWidth f
    let k := max 1 (512 / (2048 / fmtWidth src * w))
    let xs := (vecValues src vs).take (recExtent r - o)
    let out := encodeElems f v.2.2 false false xs
    let runs := if xs.isEmpty then [] else tensorRuns f (recBase r) (recScales r) (some (BitVec.ofNat 4 v.1)) o out
    let stt : Instr := .stt n a b fmt
    let reads := sources [a, b]
    let read : Prop := readRecord s0 (seqNum t.seq) t.slot rec = .ok (s1, raw)
    let found : Prop := va.toNat % 256 = 0 ∧ reaches s va 256 { r := true } s0 [rec] ∧ read
    let resolved := resolveRecord s1 job (getSlot s1 t.slot).fmtovr va rec raw
    (found → resolved = .bad → entersTrap stt n reads s s1 { cause := 12, addr := va })
      ∧ (found → resolved = .held → waitsAt stt n reads s s1 false)
      ∧ (found → resolved = .skew → entersTrap stt n reads s s1 { cause := 13, addr := va })
      ∧ (found → resolved = .ok s2 r v →
          (o * w % 512 ≠ 0 → entersTrap stt n reads s { s2 with mem := s1.mem } { cause := 5, addr := va })
          ∧ (o * w % 512 = 0 → oldest k (vget (getSlot s2 t.slot).queues 2) = some vs →
            (recExtent r < o + 2048 / fmtWidth src * k → recOobok r = false →
              entersTrap stt n reads s { s2 with mem := s1.mem } { cause := 14, addr := va })
            ∧ (o + 2048 / fmtWidth src * k ≤ recExtent r ∨ recOobok r = true →
              transRuns (slotCtx s2 t.slot t.seq) s2 runs = (s3, .ok ws) → flipping s3 (ws.map (·.span)) = false →
              sttRegion s3 t (ws.map (·.span)) = false → vs.any vwBad = false → pending s3 t = false →
              slotWrite s3 t.slot t.seq (getSeq s3 t).pc s3.nextUid (.tensor ws) = .ok s4 →
              mergeCounts (updSlot s4 t.slot fun x =>
                  { x with fpstat := x.fpstat ||| out.flags, queues := vset x.queues 2 ((vget x.queues 2).drop k) })
                (getSlot s4 t.slot).job rec (countValues xs out.sats) = (s5, false) →
              yields stt n reads s s5)))
      ∧ (fmtWide (vtFmt x.vtype) = true → (srcVal s t b).toNat % 256 = 0 →
          reaches s (srcVal s t b) 256 { r := true, w := true } s0 [rec] → read →
          (∀ m, checkRecord s1 job raw = (s2, some m) →
            slotWrite s2 t.slot t.seq (getSeq s2 t).pc s2.nextUid
              (.count rec (countValues (vecValues (vtFmt x.vtype) [readV (getSlot s2 t.slot) a]) 0)) = .ok s3 →
            yields (.vhist n a b) n { scalars := [b], vectors := [a] } s s3)
          ∧ (checkRecord s1 job raw = (s2, none) →
            entersTrap (.vhist n a b) n { scalars := [b], vectors := [a] } s s2 { cause := 12, addr := srcVal s t b }))

/-! ## Synchronisation -/

/-- 15 R374, R375, 08 R208, R209, R210, R212: with no earlier access under way, ACQ and FTEST acquire and put the sync word in their
destination, an ACQ of width 2 to 5 on another device once the home has answered; REL issues with its release to come, or takes the error
that it would meet, and traps PAGE on a CONST page; BIND sets the length of the entry of its word and base, or fills a free one, and traps
BIND with a length of 0 or over 2^48 or no free entry; UNBIND zeroes its entries. Completes (`exec` answers the next state of the form's own
effect, under conditions on the state and the operands alone): acq, rel, bind, unbind, ftest. -/
def Obligations.SyncWords : Prop :=
  ∀ (n : Nib) (d : Dest) (a b c : Opnd) (s s1 s2 : State) (sp : Span) (v : Word) (dst : BitVec 12) (pa : Nat),
    let t := s.turn
    let va := srcVal s t a
    let key := (BitVec.ofNat 57 (va.toNat % 2 ^ 57)).signExtend 64
    let ub := (srcVal s t b).toNat
    let base := ub / 64 * 64
    let len := (ub + (srcVal s t c).toNat + 63) / 64 * 64 - base
    let r2 := sources [a, b]
    let r3 := sources [a, b, c]
    let l := bindings s t.slot
    let mine (e : Nat × Option (Word × Nat × Nat)) : Bool := e.2.any fun v => v.1 == key && v.2.1 == base
    va.toNat % 8 = 0 →
      (pending s1 t = false → acquireRead s1 t.slot (isSup s1 t) sp = .ok (s2, v) →
        (reaches s va 8 { r := true } s1 [sp] → yields (.ftest n d a) n (sources [a]) s (putResult s2 t d v))
        ∧ (reaches s va 8 { r := true, sys := true, atHome := true } s1 [sp] → sp.area ≠ .remote ∨ sp.sw < 2 →
          (((getSlot s2 t.slot).marks.find? fun m => (Observe.done sp.va v).sees t.seq m) = none →
            yields (.acq n d a) n (sources [a]) s (putResult s2 t d v))
          ∧ (∀ m, ((getSlot s2 t.slot).marks.find? fun m => (Observe.done sp.va v).sees t.seq m) = some m →
            entersTrap (.acq n d a) n (sources [a]) s
              (setSlot s2 t.slot { getSlot s2 t.slot with marks := (getSlot s2 t.slot).marks.erase m })
              { cause := 11, addr := m.record })))
      ∧ (pending s1 t = false → reaches s va 8 { r := true, sys := true, atHome := true } s1 [sp] → sp.area = .remote → 2 ≤ sp.sw →
        farAddr s1 sp.loc = some (dst, pa) → unreachable s1 dst = false →
        let gone := purge s1 (clusterOf (coreOf t.slot)) (sp.loc / 64)
        let tag := gone.nextUid
        let u : State := { gone with nextUid := tag + 1 }
        pends (.acq n d a) n (sources [a]) s
          (putBusy (sendFlit u (readFlit u dst (BitVec.ofNat 12 tag) (slotTag s1 t.slot) pa)) t d tag) tag
          (.far sp (BitVec.ofNat 12 tag) .acq))
      ∧ (reaches s va 8 { w := true, atHome := true } s1 [sp] → (getSlot s1 t.slot).regionOpen = false →
        let op : StoreOp := .rel sp (srcVal s t b)
        let tried := if isSup s1 t then performOp s1 t.slot op else slotWrite s1 t.slot t.seq 0 s1.nextUid op
        (sp.cst = true → entersTrap (.rel n a b) n r2 s s1 { cause := 4, kind := 3, wr := true, addr := va })
        ∧ (sp.cst = false → ownPending s1 t [sp] = false → heldByDrain (getSlot s1 t.slot) s1.nextUid op = false →
          (∀ u, tried = .ok u →
            pends (.rel n a b) n r2 s (enqueue { s1 with nextUid := s1.nextUid + 1 } (.event (.storePerformed t.slot t.seq)))
              s1.nextUid (.store op))
          ∧ ∀ e, tried = .error e → meetsError (.rel n a b) n r2 s s1 e))
      ∧ (srcVal s t c = 0 ∨ 2 ^ 48 < len ∨ (turnSlot s).need = 0 → entersTrap (.bind n a b c) n r3 s s { cause := 19, addr := va })
      ∧ (srcVal s t c ≠ 0 → len ≤ 2 ^ 48 → (turnSlot s).need ≠ 0 → pending s t = false →
        (∀ e, l.find? mine = some e → tableWrite s t (32 * e.1 + 16) 8 len = .ok s2 → yields (.bind n a b c) n r3 s s2)
        ∧ (l.find? mine = none →
          (∀ e, (l.find? fun e => e.2.isNone) = some e →
            tableWrite s t (32 * e.1) 32 (va.toNat % 2 ^ 57 + 1 + base * 2 ^ 64 + len * 2 ^ 128) = .ok s2 →
            yields (.bind n a b c) n r3 s s2)
          ∧ ((l.find? fun e => e.2.isNone) = none → entersTrap (.bind n a b c) n r3 s s { cause := 19, addr := va })))
      ∧ (pending s t = false → (turnSlot s).need ≠ 0 →
        invalidate t s ((l.filter fun e => e.2.any fun v => v.1 == key
          && (srcVal s t b == BitVec.allOnes 64 || v.2.1 == base)).map (·.1)) = .ok s2 →
        yields (.unbind n a b) n r2 s s2)
      ∧ (pending s t = false → (turnSlot s).need = 0 → yields (.unbind n a b) n r2 s s)

/-- 08 R206, R220, R223, 15 R377, R387, 05 R139, 02 R43: FENCE and XFENCE complete once what came before them has, and wait until then; CFLUSH,
once the posted writes that a width of 4 or 5 covers are acknowledged, writes the core's dirty lines of its range back and CINV drops its
clean ones, a length of 0 has no effect and a range that leaves a half traps PAGE; WPWAIT completes once the pointer has reached its value,
and traps ARM_RANGE half the range away. Completes (`exec` answers the next state of the form's own effect, under conditions on the state
and the operands alone): fence, xfence, cflush, cinv, wpwait. -/
def Obligations.FenceAndCacheWords : Prop :=
  ∀ (n : Nib) (a b : Opnd) (src dst : Path) (ctx : BitVec 2) (s s1 : State) (w : Nat),
    let t := s.turn
    let x := turnSlot s
    let va := srcVal s t a
    let len := (srcVal s t b).toNat
    let job := (getSlot s1 t.slot).job
    let r2 := sources [a, b]
    let core := coreOf t.slot
    let noted : State := setSlot s t.slot { x with fence := x.fence ++ [(t.seq, s.nextUid)] }
    let v : BitVec 32 := (srcVal s t a).setWidth 32
    let p := vget x.chwp ctx
    (pending s t = false → yields (.fence n) n {} s s) ∧ (pending s t = true → waitsAt (.fence n) n {} s s false)
      ∧ ((x.fence.find? fun f => f.1 == t.seq) = none → x.marks = [] →
        ((pending noted t || pathBusy noted t.slot src s.nextUid) = false → yields (.xfence n src dst) n {} s noted)
        ∧ ((pending noted t || pathBusy noted t.slot src s.nextUid) = true → waitsAt (.xfence n src dst) n {} s noted false))
      ∧ (len = 0 → yields (.cflush n a b) n r2 s s ∧ yields (.cinv n a b) n r2 s s)
      ∧ (∀ bad, len ≠ 0 → leavesHalf va len = some bad →
        entersTrap (.cflush n a b) n r2 s s { cause := 4, kind := 4, addr := bad }
          ∧ entersTrap (.cinv n a b) n r2 s s { cause := 4, kind := 4, addr := bad })
      ∧ (len ≠ 0 → leavesHalf va len = none → pageWidth s t va = (s1, w) →
        yields (.cinv n a b) n r2 s (dropRange s1 core job w [(va.toNat, len)])
        ∧ (pending s t = false → 4 ≤ w → (coveredWrs s1 t.slot [(va.toNat, len)]).any (fun o => !o.lost) = true →
          waitsAt (.cflush n a b) n r2 s s1 false)
        ∧ (pending s t = false → (4 ≤ w → (coveredWrs s1 t.slot [(va.toNat, len)]).any (fun o => !o.lost) = false) →
          (getSlot s1 t.slot).region = none →
          yields (.cflush n a b) n r2 s ((viewLines s1 s1.clines (clusterOf core) (dieOfCore core) job [(va.toNat, len)]).foldl
            (fun u line => writeBack u (clusterOf core) line fun o =>
              o == BitVec.ofNat 4 (core % 8) || (decide (2 ≤ w) && o == 8)) s1)))
      ∧ (v - p = 0x80000000#32 → entersTrap (.wpwait n a ctx) n (sources [a]) s s { cause := 18 })
      ∧ (v - p ≠ 0x80000000#32 → (p - v).toNat < 2 ^ 31 → x.marks = [] → yields (.wpwait n a ctx) n (sources [a]) s s)
      ∧ (v - p ≠ 0x80000000#32 → 2 ^ 31 ≤ (p - v).toNat → waitsAt (.wpwait n a ctx) n (sources [a]) s s false)

/-- 15 R379, R381, R382, 07 R189, R190: RCLAIM and RTAKE take the next slots of their ring where enough are free or filled, answer CLOSED or
PARTNER_LOST, and else wait; RFILL and RFREE mark the handle's next slots and have the ring unit advance, RFILL of 0 closes; a handle of
another role, a count outside the ring or slots that the handle does not hold trap RING. Completes (`exec` answers the next state of the
form's own effect, under conditions on the state and the operands alone): rclaim, rfill, rtake, rfree. -/
def Obligations.RingMoves : Prop :=
  ∀ (n : Nib) (rg : BitVec 5) (f : Opnd) (s s1 s2 s3 : State) (sp : Span) (r : RDesc),
    let t := s.turn
    let h := getHandle s t.slot rg
    let k := (srcVal s t f).toNat
    let reads := sources [f]
    let trap (i : Instr) (u : State) (va : Word) : Prop := entersTrap i n reads s u { cause := 16, addr := va }
    let claim (role : Role) : Instr := match role with | .producer => .rclaim n rg f | .consumer => .rtake n rg f
    let publish (role : Role) : Instr := match role with | .producer => .rfill n rg f | .consumer => .rfree n rg f
    let first (role : Role) : BitVec 32 := match role with | .producer => r.claim | .consumer => r.take
    (∀ role, h.role ≠ some role → trap (claim role) s (if h.role.isNone then 0 else h.va)
        ∧ trap (publish role) s (if h.role.isNone then 0 else h.va))
      ∧ (∀ role, h.role = some role → 65535 < k ∨ k = 0 ∨ h.flags.getLsbD 0 = true → trap (claim role) s h.va)
      ∧ (∀ role, h.role = some role → 65535 < k ∨ (k = 0 ∧ role = .consumer) → trap (publish role) s h.va)
      ∧ (∀ role, h.role = some role → reaches s h.va 32 { r := true, w := true } s1 [sp] → readDesc s1 t.slot sp = .ok (s2, r) →
        k ≤ 65535 →
        (r.n < k → (k ≠ 0 → h.flags.getLsbD 0 = false → trap (claim role) s2 h.va) ∧ trap (publish role) s2 h.va)
        ∧ (k ≤ r.n → 0 < k → h.flags.getLsbD 0 = false →
          (h.done ≠ h.count → trap (claim role) s2 h.va)
          ∧ (h.done = h.count →
            (claimStatus role r (ringLost s2 sp.loc r role) k = none →
              waitsAt (claim role) n reads s (setHandle s2 t.slot rg (h.saw r)) false)
            ∧ (claimStatus role r (ringLost s2 sp.loc r role) k = some 1 →
              yields (claim role) n reads s (putResult (setHandle s2 t.slot rg { h.saw r with status := 1 }) t .push
                (BitVec.ofNat 64 (h.first.toNat + 2 ^ 32))))
            ∧ (claimStatus role r (ringLost s2 sp.loc r role) k = some 2 →
              yields (claim role) n reads s (putResult (setHandle (touchLost s2 t.slot) t.slot rg { h.saw r with status := 2 }) t .push
                (BitVec.ofNat 64 (h.first.toNat + 2 * 2 ^ 32))))
            ∧ (claimStatus role r (ringLost s2 sp.loc r role) k = some 0 → pending s2 t = false →
              ringEscape s2 t sp = .ok s3 →
              let u := setDescField s3 (some (clusterOf (coreOf t.slot))) sp (match role with | .producer => 20 | .consumer => 16) 4
                (first role + BitVec.ofNat 32 k).toNat
              let u := match role with
                | .producer => acquireStep u t.slot { sp with va := sp.va + 12, loc := sp.loc + 12 }
                | .consumer => dropRange u (coreOf t.slot) (getSlot u t.slot).job sp.sw (slotRanges r (first role) k)
              yields (claim role) n reads s (putResult (setHandle u t.slot rg
                { h.saw r with first := first role, count := BitVec.ofNat 16 k, done := 0, status := 0 }) t .push
                (BitVec.ofNat 64 (first role).toNat)))))
        ∧ (k ≤ r.n → (0 < k ∨ role = .producer) →
          (h.count.toNat - h.done.toNat < k → trap (publish role) s2 h.va)
          ∧ (k ≤ h.count.toNat - h.done.toNat → pending s2 t = false → ringEscape s2 t sp = .ok s3 →
            (k = 0 → yields (publish role) n reads s
              (ringAdvance (setMarks s3 sp.loc { marksOf s3 sp.loc with closing := true }) sp.loc (slotTag s3 t.slot)))
            ∧ (0 < k →
              let u := match role with
                | .producer => writeBackRange s3 (coreOf t.slot) (getSlot s3 t.slot).job sp.sw
                    (slotRanges r (h.first + h.done.setWidth 32) k)
                | .consumer => s3
              let u := setHandle (markSlots u sp.loc role (h.next k)) t.slot rg { h.saw r with done := h.done + BitVec.ofNat 16 k }
              yields (publish role) n reads s (ringAdvance u sp.loc (slotTag u t.slot))))))

/-- 15 R380, R383: RWAITF and RWAITE push what is filled or free once it is enough, at a closed ring or with the partner lost, and else wait;
RSTAT never waits and gives 0 for an unbound handle; RBIND of 0 unbinds and of a sound descriptor binds, and traps RING on a handle with
slots outstanding or an unsound or graph ring. Completes (`exec` answers the next state of the form's own effect, under conditions on the
state and the operands alone): rwaitf, rwaite, rstat, rbind. -/
def Obligations.RingWaits : Prop :=
  ∀ (n : Nib) (rg : BitVec 5) (f : Opnd) (d : Dest) (s s1 s2 : State) (sp : Span) (r : RDesc),
    let t := s.turn
    let h := getHandle s t.slot rg
    let k := (srcVal s t f).toNat
    let va := srcVal s t f
    let reads := sources [f]
    let look (role : Role) : Instr := match role with | .producer => .rwaite n rg f | .consumer => .rwaitf n rg f
    let desc (va : Word) : Prop := reaches s va 32 { r := true } s1 [sp]
      ∧ readFor s1 t.slot (isSup s1 t) (fun s => readDesc s t.slot sp) = .ok (s2, r)
    (∀ role, h.role = some role → 0 < k → k ≤ 65535 → desc h.va → k ≤ r.n →
      (waitStatus role r (ringLost s2 sp.loc r role) k = none →
        waitsAt (look role) n reads s (setHandle s2 t.slot rg (h.saw r)) false)
      ∧ (∀ st, waitStatus role r (ringLost s2 sp.loc r role) k = some st →
        let u := if st = 2 then touchLost s2 t.slot else s2
        yields (look role) n reads s (putResult (setHandle u t.slot rg { h.saw r with status := BitVec.ofNat 8 st }) t .push
          (ringResult (BitVec.ofNat 32 (r.avail role)) st))))
      ∧ (h.role = none → yields (.rstat n d rg) n {} s (putResult s t d 0))
      ∧ (∀ role, h.role = some role → desc h.va →
        yields (.rstat n d rg) n {} s (putResult (setHandle s2 t.slot rg (h.saw r)) t d (rstatWord (h.saw r) role r)))
      ∧ (∀ role, (h.done ≠ h.count ∨ stageBound (turnSlot s) rg = true →
          entersTrap (.rbind n rg f role) n reads s s { cause := 16, addr := h.va })
        ∧ (h.done = h.count → stageBound (turnSlot s) rg = false →
          (va = 0 → yields (.rbind n rg f role) n reads s (setHandle s t.slot rg .unbound))
          ∧ (va ≠ 0 → va.toNat % 32 = 0 → desc va →
            (r.ok = true → r.graph = false → yields (.rbind n rg f role) n reads s (setHandle s2 t.slot rg (boundHandle va role r)))
            ∧ (r.ok = false ∨ r.graph = true → entersTrap (.rbind n rg f role) n reads s s2 { cause := 16, addr := va }))))

/-- 05 R142, R143, 15 R385: FWAIT of a full future pushes its value; of an empty one, outside a region, it stores its node, puts it at the head
of the list and parks its task; FFILL of an empty future whose nodes are in reach fills it and goes on to push the continuations, and of a
full one traps FUTURE_FULL; a malformed empty future traps FUTURE_FORMAT. R121: an FFILL under way pushes the continuation of its next node
where its queue has room and goes on to the node after it; with a full queue or a node that does not translate it waits, its node kept; with
no node left its word is complete. Completes (`exec` answers the next state of the form's own effect, under conditions on the state and the
operands alone): fwait, ffill. -/
def Obligations.FutureWords : Prop :=
  (∀ (n : Nib) (a b c : Opnd) (s s1 s2 s3 s4 s5 s6 : State) (sp : Span) (nsp : List Span) (v : Word),
     let t := s.turn
     let va := srcVal s t a
     let node := srcVal s t b
     let r2 := sources [a, b]
     let r3 := sources [a, b, c]
     let filled := srcVal s t b ||| 0x8000000000000000#64
     va.toNat % 8 = 0 → reaches s va 8 { r := true, w := true } s1 [sp] → pending s1 t = false →
       (acquireRead s1 t.slot (isSup s1 t) sp = .ok (s2, v) →
         (v.msb = true → yields (.fwait n a b c) n r3 s (putResult s2 t .push (v &&& 0x7FFFFFFFFFFFFFFF#64)))
         ∧ (futureBad v = true → entersTrap (.fwait n a b c) n r3 s s1 { cause := 20, addr := sp.va })
         ∧ (v.msb = false → futureBad v = false → isSup s1 t = false →
           ((getSlot s1 t.slot).regionOpen = true → entersTrap (.fwait n a b c) n r3 s s1 { cause := 10 })
           ∧ ((getSlot s1 t.slot).regionOpen = false → node.toNat % 16 = 0 →
             reaches s1 node 16 { w := true } s3 nsp →
             storeNode s3 t.slot nsp node v (srcVal s t c) = .ok s4 →
             casRelease s4 t.slot sp v ((node.extractLsb' 4 53 ++ 0#4).setWidth 64) = .ok (s5, true) →
             yields (.fwait n a b c) n r3 s (parkTask s5 t.slot))))
       ∧ ((if isSup s1 t then .ok s1 else escape s1 t.slot s1.nextUid escSig) = .ok s3 →
         acquireRead s3 t.slot true sp = .ok (s4, v) →
         (v.msb = true → entersTrap (.ffill n a b) n r2 s s1 { cause := 21, addr := sp.va })
         ∧ (futureBad v = true → entersTrap (.ffill n a b) n r2 s s1 { cause := 20, addr := sp.va })
         ∧ (v.msb = false → futureBad v = false → reachesNodes t 4096 s4 (futureNode v) s5 →
           casRelease s5 t.slot sp v filled = .ok (s6, true) →
           pends (.ffill n a b) n r2 s (enqueue { s6 with nextUid := s6.nextUid + 1 } (.fill t.slot)) s6.nextUid (.fill (futureNode v)))))
  ∧ ∀ (s s1 s2 s3 : State) (it : Item) (rest : List Item) (slot tag : Nat) (sup : Bool) (node next va : Word),
    s.agenda = it :: rest → it.what = .fill slot → s.running = true →
    let u := { s with agenda := rest, time := s.time + it.dt }
    fillOf (getSlot u slot) = some (tag, sup, node) →
      (node = 0 → step s = .next (checkEnd (updSlot u slot fun x => settle (markDone x .K tag)) slot))
        ∧ (node ≠ 0 → nodeAt u slot node = (s1, none) → step s = .next (hold s1 (.fill slot)))
        ∧ (node ≠ 0 → nodeAt u slot node = (s1, some (.ok (s2, next, va))) →
          (slotPush s2 slot va = .ok s3 → step s = .next (enqueue (updSlot s3 slot fun x => setFill x tag next) (.fill slot)))
          ∧ (slotPush s2 slot va = .full s3 → step s = .next (hold s1 (.fill slot))))

/-- 05 R138, R139, R140, 15 R386: at an unmapped bn the barrier words trap BARRIER; BARARR and BARSYNC arrive, the last arrival advances the
phase, and BARARR pushes the next phase; BARWAIT and BARSYNC push OK or PARTNER_LOST where their phase has come, else their task waits with
the word under way, and a phase half the range away traps ARM_RANGE. Completes (`exec` answers the next state of the form's own effect,
under conditions on the state and the operands alone): bararr, barwait, barsync. -/
def Obligations.BarrierWords : Prop :=
  ∀ (n : Nib) (f : Opnd) (bn : BitVec 4) (s s1 : State),
    let t := s.turn
    let die := dieOfCore (coreOf t.slot)
    let v : BitVec 32 := (srcVal s t f).setWidth 32
    let armed (u : State) (p : BitVec 32) : State :=
      updSlot { u with nextUid := u.nextUid + 1 } t.slot fun x => { x with armed := some (bn, p) }
    (barOf (turnSlot s) bn = none →
      entersTrap (.bararr n bn) n {} s s { cause := 17 } ∧ entersTrap (.barwait n f bn) n (sources [f]) s s { cause := 17 }
        ∧ entersTrap (.barsync n bn) n {} s s { cause := 17 })
      ∧ ∀ i, barOf (turnSlot s) bn = some i →
        let b := getBar s (barKey die i)
        (v - b.ph = 0x80000000#32 → entersTrap (.barwait n f bn) n (sources [f]) s s { cause := 18 })
        ∧ (v - b.ph ≠ 0x80000000#32 →
          ((b.ph - v).toNat < 2 ^ 31 → b.lost = false →
            yields (.barwait n f bn) n (sources [f]) s (putResult s t .push 0))
          ∧ (b.lost = true → yields (.barwait n f bn) n (sources [f]) s (putResult (touchLost s t.slot) t .push 1))
          ∧ (2 ^ 31 ≤ (b.ph - v).toNat → b.lost = false → isSup s t = false →
            pends (.barwait n f bn) n (sources [f]) s (armed s v) s.nextUid .none))
        ∧ (pending s t = false → (if isSup s t then .ok s else escape s t.slot s.nextUid escSig) = .ok s1 →
          yields (.bararr n bn) n {} s (putResult (arriveLocal s1 t.slot i) t .push ((b.ph + 1).setWidth 64))
          ∧ (isSup s t = false →
            let u := arriveLocal s1 t.slot i
            let e := getBar u (barKey die i)
            isSup u t = false → e.lost = false → (b.ph + 1 - e.ph ≠ 0x80000000#32) →
              ((e.ph - (b.ph + 1)).toNat < 2 ^ 31 → yields (.barsync n bn) n {} s (putResult u t .push 0))
              ∧ (2 ^ 31 ≤ (e.ph - (b.ph + 1)).toNat → pends (.barsync n bn) n {} s (armed u (b.ph + 1)) u.nextUid .none)))

/-- 05 R139: an arrival at a barrier counts one, and the last of its participants begins the next phase with no arrival;
no other barrier and no byte of memory changes. -/
def Obligations.BarrierArrival : Prop :=
  ∀ (s : State) (die i : Nat),
    let b := getBar s (barKey die i)
    (b.a + 1 < b.p → arrive s die i = setBar s (barKey die i) { b with a := b.a + 1 }
        ∧ getBar (arrive s die i) (barKey die i) = { b with a := b.a + 1 })
      ∧ (b.p ≤ b.a + 1 → getBar (arrive s die i) (barKey die i) = { b with a := 0, ph := b.ph + 1 })
      ∧ (∀ k, k ≠ barKey die i → getBar (arrive s die i) k = getBar s k)
      ∧ ∀ a, readByte (arrive s die i).mem a = readByte s.mem a

/-! ## Engines, launches, regions and snapshots -/

/-- 17 R414, R416, R420, R423, 13 R317, R318: a packet word that reads its packet while its engine has room queues it as its checks answer:
accepted with what it resolved and its RELOC assertion checked (06 R163), or rejected with its fault code; it waits without room, and a trap
of its checks is taken at the word, with no record changed. An accepted command of an open region that names an architectural bank marks it.
Completes (`exec` answers the next state of the form's own effect, under conditions on the state and the operands alone): mma, gmma, mconv,
mepi, copy, gath. -/
def Obligations.PacketWords : Prop :=
  ∀ (n : Nib) (f : Opnd) (ctx : BitVec 2) (s s1 s2 s3 : State) (p fc : Nat) (r : Resolved) (tr : Trap),
    let t := s.turn
    let va := srcVal s t f
    let reads := sources [f]
    let wide (v : Nat) : BitVec 512 := BitVec.ofNat 512 v
    let takes (i : Instr) (eng size ext : Nat) (c : Chk) (pk : Nat) : Prop :=
      readsPacket s va size size s1 s2 p →
        (roomFor s1 t.slot eng 1 = false → waitsAt i n reads s s1 false)
        ∧ (roomFor s1 t.slot eng 1 = true →
          (c = .ok s3 r →
            let a := addCmd s3 t.slot eng t.seq (.packet (wide pk) (wide ext) r none) none none
            let u := checkAssertion a.1 t.slot eng a.2
            yields i n reads s (if eng = 5 ∧ mxClosed pk = false then setDirty u t.slot else u))
          ∧ (c = .reject s3 fc →
            yields i n reads s (addCmd s3 t.slot eng t.seq (.packet (wide pk) 0 (.plain .fp32 .fp32) none) none (some fc)).1)
          ∧ (c = .trap s3 tr → entersTrap i n reads s { s3 with mem := s2.mem } tr))
    let lo := p % 2 ^ 512
    let hi := p / 2 ^ 512
    takes (.copy n f ctx) ctx.toNat 64 0 (acceptCopy s2 t p) p ∧ takes (.gath n f) 4 64 0 (acceptGather s2 p) p
      ∧ takes (.mma n f) 5 64 hi (acceptMatrix s2 t [5] lo hi (mxM lo)) lo
      ∧ takes (.mconv n f) 5 128 hi (acceptMatrix s2 t [7] lo hi (mxM lo)) lo
      ∧ takes (.mepi n f) 5 64 hi (acceptMatrix s2 t [11] lo hi (mxM lo)) lo
      ∧ ((turnSlot s).regionOpen = true → entersTrap (.gmma n f) n reads s s { cause := 10 })
      ∧ ((turnSlot s).regionOpen = false → gangSlots s t.slot = [] → takes (.gmma n f) 5 64 0 (acceptMatrix s2 t [6] p 0 (mxM p)) p)

/-- 17 R417, R418, R421, R424, R425: GMMA of a gang puts one part on every member's engine together; MZERO and MSWAP queue their bank command;
MSTATR reads the status of its bank once the slot's matrix queue is empty; COPYM queues a copy and its follow-on, or rejects both where the
follow-on has no engine; STRSUB subscribes outside a region, and STRDROP ends a live subscription. Completes (`exec` answers the next state
of the form's own effect, under conditions on the state and the operands alone): gmma, mzero, mswap, mstatr, copym, strsub, strdrop. -/
def Obligations.OtherEngineWords : Prop :=
  ∀ (n : Nib) (f : Opnd) (d : Dest) (bank clr : Bool) (ctx : BitVec 2) (s s1 s2 s3 s4 : State) (p : Nat) (r : Resolved)
      (parts : List (Nat × Nat × Resolved)),
    let t := s.turn
    let x := turnSlot s
    let va := srcVal s t f
    let reads := sources [f]
    let ms := (gangSlots s t.slot).filter (fun m => m.1 == t.slot) ++ (gangSlots s t.slot).filter fun m => m.1 != t.slot
    let lo := p % 2 ^ 512
    let hi := p / 2 ^ 512
    let c := ctx.toNat
    let queued (b : CmdBody) : State := setDirty (addCmd s t.slot 5 t.seq b none none).1 t.slot
    (x.regionOpen = false → ms ≠ [] → readsPacket s va 64 64 s1 s2 p → (roomFor s1 t.slot 5 1 && ms.all fun m => roomFor s1 m.1 5 1) = true →
      acceptParts t p (if inLocal (mxDaddr p) then mxM p else ms.length * mxM p) (inLocal (mxDaddr p)) ms s2 = .ok (s3, parts) →
      issues (.gmma n f) n none reads s = true →
      ∃ u, exec (.gmma n f) s = .next u
        ∧ (∃ g, u.gcmds = s3.gcmds ++ [g] ∧ g.gid = s3.nextUid ∧ g.owner = t.slot ∧ g.pkt = BitVec.ofNat 512 p ∧ g.fails = [])
        ∧ (pkReloc p = false → ∀ a, readByte u.mem a = readByte s3.mem a))
      ∧ (roomFor s t.slot 5 1 = true → yields (.mzero n bank clr) n {} s (queued (.mzero bank clr))
        ∧ yields (.mswap n) n {} s (queued .mswap))
      ∧ (roomFor s t.slot 5 1 = false → waitsAt (.mzero n bank clr) n {} s s false ∧ waitsAt (.mswap n) n {} s s false)
      ∧ (x.mq ≠ [] → waitsAt (.mstatr n d bank) n {} s s false)
      ∧ (x.mq = [] → (x.marks.find? fun m => (Observe.mstat bank).sees t.seq m) = none →
        yields (.mstatr n d bank) n {} s (putResult s t d (if bank then x.mstat1 else x.mstat0)))
      ∧ (readsPacket s va 128 64 s1 s2 p → followEngine c (pkKind hi) = none →
        yields (.copym n f ctx) n reads s (addCmd (addCmd s2 t.slot c t.seq (packetBody lo) none (some fcKind)).1 t.slot c t.seq
          (packetBody hi) none (some fcKind)).1)
      ∧ (∀ eng, readsPacket s va 128 64 s1 s2 p → followEngine c (pkKind hi) = some eng →
        (if eng = c then roomFor s2 t.slot c 2 else roomFor s2 t.slot c 1 && roomFor s2 t.slot eng 1) = true →
        acceptCopy s2 t lo = .ok s3 r →
        (let a := addCmd s3 t.slot c t.seq (.packet (BitVec.ofNat 512 lo) 0 r none) none none
         queueFollow (checkAssertion a.1 t.slot c a.2) t eng hi (some a.2) = .done s4) →
        yields (.copym n f ctx) n reads s s4)
      ∧ (x.regionOpen = true → entersTrap (.strsub n f) n reads s s { cause := 10 })
      ∧ (x.regionOpen = false → readsPacket s va 64 64 s1 s2 p →
        yields (.strsub n f) n reads s (addSub s2 t.slot (getSlot s2 t.slot).job t.seq va p (.record (pkCrec p))))
      ∧ (let live := s.subs.find? fun b => b.slot == t.slot && b.addr == va && b.status.isNone && !b.drop
         (live = none → yields (.strdrop n f) n reads s s)
          ∧ ∀ b, live = some b →
            yields (.strdrop n f) n reads s (enqueue (setSub s { b with drop := true }) (.event (.streamTile b.uid))))

/-- 07 R184, R185, 17 R414: a queued command stands last in its engine's queue, with a number of its own, its body, nothing done, and its
rejection's status and fault code if it was rejected; no other queue and no byte of memory changes. -/
def Obligations.QueuedCommand : Prop :=
  ∀ (s : State) (slot eng : Nat) (q : Seq) (body : CmdBody) (after reject : Option Nat), eng < 6 →
    let u := (addCmd s slot eng q body after reject).1
    (addCmd s slot eng q body after reject).2 = s.nextUid ∧ u.nextUid = s.nextUid + 1
      ∧ (∃ c, engQueue (getSlot u slot) eng = engQueue (getSlot s slot) eng ++ [c] ∧ c.uid = s.nextUid ∧ c.body = body
        ∧ c.progress = 0 ∧ c.started = false ∧ c.by_ = q ∧ c.status = reject.map (fun _ => 2) ∧ c.fcode = reject.getD 0)
      ∧ (∀ e, e < 6 → e ≠ eng → engQueue (getSlot u slot) e = engQueue (getSlot s slot) e)
      ∧ (∀ k, k ≠ slot → getSlot u k = getSlot s k)
      ∧ ∀ a, readByte u.mem a = readByte s.mem a

/-- 17 R426: COLL waits while its slot has four outstanding, and else joins the collective its descriptor gives to the unit, accepted or ended
with the status that a failed check answers. Completes (`exec` answers the next state of the form's own effect, under conditions on the
state and the operands alone): coll. -/
def Obligations.CollectiveWord : Prop :=
  ∀ (n : Nib) (f : Opnd) (s s1 s2 s3 s4 : State) (d : Nat) (c : Coll) (tr : Trap),
    let t := s.turn
    let va := srcVal s t f
    let reads := sources [f]
    let accepted := acceptColl s2 (slotCtx s2 t.slot t.seq) (getSlot s2 t.slot).fmtovr t.slot (slotJob s2 t.slot) (coreOf t.slot) va d none
    readsPacket s va 256 64 s1 s2 d →
      (4 ≤ (s1.colls.filter fun c => c.slot == t.slot).length → waitsAt (.coll n f) n reads s s1 false)
      ∧ ((s1.colls.filter fun c => c.slot == t.slot).length < 4 →
        (accepted = .trap s3 tr → entersTrap (.coll n f) n reads s s3 tr)
        ∧ (accepted = .ok s3 c → (if isSup s3 t then .ok s3 else escape s3 t.slot s3.nextUid escColl) = .ok s4 →
          yields (.coll n f) n reads s (enqueue { s4 with colls := s4.colls ++ [c] }
            (if c.status.isSome then .event (.collectiveComplete c.uid) else .coll c.uid))
          ∧ c.slot = t.slot ∧ c.addr = va ∧ (checkColl d = none ∨ c.status = some 1)))

/-- 17 R427 to R432, 05 R118, R120, R122: with its record reached and no earlier access under way, a launch word pushes 0 once its launch, gang,
task, join, cancel or phase is made, 1 for a join that others still hold, and 2 where the job drops it; it traps RECORD, QUEUE_FULL,
LEVEL_LIMIT or JOIN_UNDERFLOW, with nothing changed. Completes (`exec` answers the next state of the form's own effect, under conditions on
the state and the operands alone): launch, gang, spawn, jdec, cancel, phend. -/
def Obligations.LaunchWords : Prop :=
  ∀ (n : Nib) (f a b : Opnd) (s s1 s2 s3 s4 : State) (sps : List Span) (sp : Span) (c old h : Nat),
    let t := s.turn
    let va := srcVal s t f
    let reads := sources [f]
    let r2 := sources [a, b]
    let job := slotJob s1 t.slot
    let done (i : Instr) (r : Reads) (u : State) (v : Word) : Prop := yields i n r s (putResult u t .push v)
    let trap (i : Instr) (r : Reads) (c : Nat) (va : Word) : Prop := entersTrap i n r s s1 { cause := c, addr := va }
    let drained : Prop := (if isSup s1 t then .ok s1 else escape s1 t.slot s1.nextUid escLaunch) = .ok s2
    let level (i : Instr) (gang : Bool) : Prop :=
      let made := issueLevel s2 (some (clusterOf (coreOf t.slot))) (dieOfCore (coreOf t.slot)) job va gang
      (made = .ok s3 → done i reads (releaseAll s3 t.slot va) 0) ∧ (made = .dropped s3 → done i reads s3 2)
        ∧ (made = .bad c → trap i reads c va)
    (reaches s va 64 { r := true, w := true } s1 sps → pending s1 t = false → drained →
      level (.launch n f) false ∧ level (.gang n f) true)
      ∧ (reaches s va 64 { r := true } s1 sps → pending s1 t = false → drained →
        (slotPush s2 t.slot va = .ok s3 → done (.spawn n f) reads s3 0)
        ∧ (slotPush s2 t.slot va = .dropped s3 → done (.spawn n f) reads s3 2)
        ∧ (slotPush s2 t.slot va = .bad s3 → trap (.spawn n f) reads 26 va)
        ∧ (slotPush s2 t.slot va = .full s3 → trap (.spawn n f) reads 23 va))
      ∧ (reaches s va 32 { r := true, w := true } s1 sps → pending s1 t = false → drained →
        let u := ownRange s2 (clusterOf (coreOf t.slot)) (slotJob s2 t.slot) va 32
        (unitRead u (jobCtx u (slotJob s2 t.slot)) va 32 = (s3, none) → trap (.cancel n f) reads 26 va)
        ∧ (unitRead u (jobCtx u (slotJob s2 t.slot)) va 32 = (s3, some h) →
          va.toNat % 8 = 0 → va ≠ 0 → (hdKind h ≠ 3 → va.toNat % 64 = 0) → 1 ≤ hdKind h → hdKind h ≤ 4 → hdJob h = slotJob s2 t.slot →
          (hdState h ≠ 0 → done (.cancel n f) reads s3 0)
          ∧ (hdState h = 0 →
            let set := descendants (s3.levels.filter fun l => l.job == slotJob s2 t.slot) (s3.levels.length + 1) [va]
            let u := set.foldl (fun s h => (levelWord s (slotJob s2 t.slot) h 25 1 fun v => some (if v = 0 then 1 else v)).1) s3
            done (.cancel n f) reads { u with agenda := ⟨0, .cancelled (slotJob s2 t.slot) va⟩ :: u.agenda } 0)))
      ∧ (reaches s va 64 { r := true, w := true } s1 sps → pending s1 t = false → drained →
        (getJob s (slotJob s t.slot)).closed = [] → va ≠ 0 →
        let job := slotJob s t.slot
        let v := ownRange s2 (clusterOf (coreOf t.slot)) job va 64
        (unitRead v (jobCtx v job) va 64 = (s3, none) → trap (.phend n f) reads 26 va)
        ∧ (unitRead v (jobCtx v job) va 64 = (s3, some h) →
          let sound : Prop := va.toNat % 64 = 0 ∧ hdKind h = 4 ∧ hdParent h = 0 ∧ rf h 40 24 = 0 ∧ (hdSync h).toNat % 8 = 0
          (¬ sound → trap (.phend n f) reads 26 va)
          ∧ (sound → 3 ≤ (getJob s3 job).state → done (.phend n f) reads s3 2)
          ∧ (sound → (getJob s3 job).state < 3 → Config.maxLevels ≤ s3.levels.length → trap (.phend n f) reads 24 va)
          ∧ (sound → (getJob s3 job).state < 3 → s3.levels.length < Config.maxLevels →
            let no := (getJob s3 job).phaseno + 1
            let m := makeLive (setJob s3 job { getJob s3 job with phaseno := no }) job va 0 4 1
            let u := (unitWrite m.1 (jobCtx m.1 job) (va + 32) 8 no).1
            done (.phend n f) reads (releaseAll (closePhase u job (if m.2 then va else 0)) t.slot va) 0)))
      ∧ ((getJob s (slotJob s t.slot)).closed ≠ [] → waitsAt (.phend n f) n reads s s false)
      ∧ ((getJob s (slotJob s t.slot)).closed = [] → va = 0 → pending s t = false →
        (if isSup s t then .ok s else escape s t.slot s.nextUid escLaunch) = .ok s2 →
        done (.phend n f) reads (closePhase s2 (slotJob s t.slot) 0) 0)
      ∧ (let ca := srcVal s t a
         let task := srcVal s t b
         ca.toNat % 8 = 0 → reaches s ca 8 { r := true, w := true } s4 [sp] →
         reaches s4 task 64 { r := true } s1 sps → pending s1 t = false → drained →
         (∀ u, slotPush s2 t.slot task = .bad u → trap (.jdec n a b) r2 26 task)
          ∧ (∀ u, slotPush s2 t.slot task = .full u →
            atomicAt s2 t.slot sp 8 .acqrel (fun m => if m = 0 ∨ m = 1 then none else some (m - 1)) = .ok (s3, old) →
            (old = 0 → trap (.jdec n a b) r2 22 ca) ∧ (old = 1 → trap (.jdec n a b) r2 23 task)
              ∧ (1 < old → done (.jdec n a b) r2 s3 1))
          ∧ (∀ u, slotPush s2 t.slot task = .dropped u →
            atomicAt s2 t.slot sp 8 .acqrel (fun m => if m = 0 then none else some (m - 1)) = .ok (s3, old) →
            (old = 0 → trap (.jdec n a b) r2 22 ca) ∧ (1 < old → done (.jdec n a b) r2 s3 1)
              ∧ (∀ u, old = 1 → slotPush s3 t.slot task = .dropped u → done (.jdec n a b) r2 u 2))
          ∧ (∀ u, slotPush s2 t.slot task = .ok u →
            atomicAt s2 t.slot sp 8 .acqrel (fun m => if m = 0 then none else some (m - 1)) = .ok (s3, old) →
            (old = 0 → trap (.jdec n a b) r2 22 ca) ∧ (1 < old → done (.jdec n a b) r2 s3 1)
              ∧ (∀ u, old = 1 → slotPush s3 t.slot task = .ok u → done (.jdec n a b) r2 u 0)))

/-- 11 R287, R288, R292, R294, 18 R443: CROPEN opens a region once the engine work and the words of its slot are complete, with AUTO from its
offset, its handler relative to the word and its resume point after it; CRCLOSE has it drain, with STATE 2; CROPEN in a region or in a slot
of less than two units, and CRCLOSE with none open, trap REGION. Completes (`exec` answers the next state of the form's own effect, under
conditions on the state and the operands alone): cropen, crclose. -/
def Obligations.RegionWords : Prop :=
  ∀ (n : Nib) (off : BitVec 32) (s : State),
    let t := s.turn
    let x := turnSlot s
    let pc := (getSeq s t).pc
    let noted : State := setSlot s t.slot { x with fence := x.fence ++ [(t.seq, s.nextUid)] }
    (x.region.isSome = true ∨ isSup s t = true ∨ x.need < 2 → entersTrap (.cropen n off) n {} s s { cause := 10 })
      ∧ (x.region = none → isSup s t = false → 2 ≤ x.need → (x.fence.find? fun f => f.1 == t.seq) = none →
        let busy := [Path.copy, .matrix, .gather].any (fun p => pathBusy noted t.slot p s.nextUid) || slotPending (getSlot noted t.slot)
        (busy = true → waitsAt (.cropen n off) n {} s noted false)
        ∧ (busy = false → issues (.cropen n off) n none {} s = true → ∃ u r, exec (.cropen n off) s = .next u
          ∧ (getSlot u t.slot).region = some r ∧ r.buf = [] ∧ r.phase = .opened ∧ r.resume = pc + 8
          ∧ r.handler = pc + BitVec.ofInt 64 (4 * off.toInt)
          ∧ (getSlot u t.slot).crstat = (if off = 0 then 9 else 1)
          ∧ (getSeq u t).pc = pc + 8))
      ∧ (x.region = none ∨ isSup s t = true → entersTrap (.crclose n) n {} s s { cause := 10 })
      ∧ (∀ r, x.region = some r → isSup s t = false →
        (r.phase ≠ .opened → entersTrap (.crclose n) n {} s s { cause := 10 })
        ∧ (r.phase = .opened → pends (.crclose n) n {} s
          (enqueue (updSlot { s with nextUid := s.nextUid + 1 } t.slot fun x =>
              { x with region := some { r with phase := .draining, closePc := pc, closeUid := s.nextUid },
                       crstat := (x.crstat &&& ~~~3#64) ||| 2 })
            (.event (.regionDrainComplete t.slot))) s.nextUid .none))

/-- 07 R192, R193, 18 R446, R447: SNAP, in a trap handler, writes the slot's image with CAUSE 3 and its allocation at the save area, and the
slot is then saved; elsewhere it traps ILLEGAL and off 4 KiB MISALIGNED. SNAPLD of an image that fails a check pushes its status and loads
nothing; else the other slot of the core holds the task of the image and 0 is pushed. Completes (`exec` answers the next state of the form's
own effect, under conditions on the state and the operands alone): snap, snapld. -/
def Obligations.SnapshotWords : Prop :=
  ∀ (n : Nib) (f : Opnd) (s s1 s2 s3 s4 s5 s6 : State) (sps aps hps : List Span) (head img alloc : Store),
    let t := s.turn
    let x := turnSlot s
    let va := srcVal s t f
    let reads := sources [f]
    (x.mode ≠ .handler ∨ x.task = none → entersTrap (.snap n f) n reads s s { cause := 1 })
      ∧ (x.mode = .handler → x.task ≠ none → va.toNat % 4096 ≠ 0 → entersTrap (.snap n f) n reads s s { cause := 5, addr := va })
      ∧ (x.mode = .handler → x.task ≠ none → va.toNat % 4096 = 0 →
        reaches s va (imageSize x.region.isSome) { w := true } s1 sps →
        reaches s1 (va + 0x40000) (allocSize x) { w := true } s2 aps → pending s2 t = false →
        let w := runPulled 100000 (stopWords s2 t.slot) t.slot
        let z := getSlot w t.slot
        pulledLeft z = false → (undone z).any (fun e => e.2.work != .none) = false →
        let y := savedForm z
        putStore t.slot (snapImage w t.slot y 3) w (pageSpans sps) 0 = .ok s3 →
        putStore t.slot (extract s3.mem (allocLoc z t.slot 0) (allocSize z)) s3 (pageSpans aps) 0 = .ok s4 →
        issues (.snap n f) n none reads s = true →
        ∃ u, exec (.snap n f) s = .next u ∧ (getSlot u t.slot).snapped = true ∧ (getSlot u t.slot).mq = []
          ∧ (getSlot u t.slot).gq = [] ∧ ∃ k ∈ u.snaps, k.slot = y ∧ k.cause = 3 ∧ k.place = t.slot)
      ∧ (va.toNat % 4096 = 0 → reaches s va 0x1000 { r := true } s1 hps → pending s1 t = false →
        takeStore t.slot s1 (pageSpans hps) 0 .empty = .ok (s2, head) →
        (readNat head 0 2 ≠ 1 → yields (.snapld n f) n reads s (putResult s2 t .push 1))
        ∧ (readNat head 0 2 = 1 → reaches s2 va (imageSize (readNat head 2 2 % 2 == 1)) { r := true } s3 sps →
          takeStore t.slot s3 (pageSpans sps) 0 .empty = .ok (s4, img) →
          (snapldStatus s4 t img ≠ 0 →
            yields (.snapld n f) n reads s (putResult s4 t .push (BitVec.ofNat 64 (snapldStatus s4 t img))))
          ∧ (snapldStatus s4 t img = 0 → reaches s4 (va + 0x40000) (max 1 (readNat img 27 1) * 65536) { r := true } s5 aps →
            takeStore t.slot s5 (pageSpans aps) 0 .empty = .ok (s6, alloc) →
            let other := otherSlot t.slot
            let kept := keptFor s6 img
            let u := match kept with | some k => moveGang s6 k (dieOfCore (coreOf other)) | none => s6
            let kept := keptFor u img
            let u := loadImage u other img kept
            let y := getSlot u other
            let u := dropRange { u with mem := blit u.mem alloc (allocLoc y other 0) (allocSize y) } (coreOf other) (readNat img 24 2) 5
              [wholeRange]
            let u := match kept with | some k => rejoin u other k | none => u
            yields (.snapld n f) n reads s
              (putResult (resumeMembers u other (readNat img 24 2) (y.task.bind (·.gang))) t .push 0))))

/-! ## The package: start, pins, power, dies -/

/-- 01 R25 to R28, R31, R32, 03 R87, 18 R440: START, with RESET_N low and no FREEZE, is warm where the clean-shutdown flag stands, PWRGOOD held
and no freeze came between; the dies that fail are fenced, the lowest that is left is master, and the package runs where one is left and the
supervisor image verifies with its three values sound; then every live die's SVBASE is the image's. No byte of host memory changes. RESET_N,
PWRGOOD and FREEZE stop the package; scan reads the status and error registers of a locked part and everything of an unlocked one; a token
signed over the fresh challenge of the freeze unlocks it. Completes (`exec` answers the next state of the form's own effect, under
conditions on the state and the operands alone): start, scanReadout, unlockToken, freeze, freezeRelease, resetNAssertion, pwrgoodFall. -/
def Obligations.StartAndPins : Prop :=
  ∀ (a : StartArgs) (tg : ScanTarget) (ch tk : List Byte) (v : Nat) (s : State),
    let warm := s.boot.clean && s.boot.held && !s.boot.frozen
    let live := startLive s a warm
    (s.boot.resetN = false → s.boot.pin = false → ∃ t, exec (.start a) s = .next t
        ∧ t.warm = warm ∧ t.dbg = (if warm then s.dbg else s.boot.unlocked) ∧ t.slots = [] ∧ t.requests = [] ∧ t.hqueues = []
        ∧ t.jobs = (if warm then s.jobs else []) ∧ t.boot.resetN = true ∧ t.boot.pwrgood = true ∧ t.boot.clean = false
        ∧ t.boot.frozen = false ∧ t.master = live.head?
        ∧ (t.running = true ↔ live ≠ [] ∧ supOk s a = true ∧ entryOk a = true)
        ∧ (∀ d, d < 4 → (getDie t d).fenced = startFenced s a warm d)
        ∧ (t.running = true → ∀ d, d ∈ live → (getDie t d).svbase = a.svbase ∧ (getDie t d).supen = true)
        ∧ ∀ x, hostLine (x / 64) = true → readByte t.mem x = readByte s.mem x)
      ∧ (s.boot.resetN = true ∨ s.boot.pin = true → exec (.start a) s = .next s)
      ∧ (∃ t, exec .resetNAssertion s = .next t ∧ t.running = false ∧ t.boot.resetN = false ∧ t.mem = s.mem ∧ t.slots = s.slots
        ∧ (s.boot.resetN = true → t.boot.held = s.boot.pwrgood))
      ∧ (∃ t, exec .pwrgoodFall s = .next t ∧ t.running = false ∧ t.boot.pwrgood = false ∧ t.boot.held = false)
      ∧ (s.boot.frozen = false → exec .freeze s = .next
          { s with running := false, draws := s.draws + 1,
                   boot := { s.boot with pin := true, frozen := true, latched := s.running, nonce := (draw s).1 } })
      ∧ exec .freezeRelease s = .next { s with boot := { s.boot with pin := false } }
      ∧ (s.boot.frozen = true → scanValue s tg = some v → exec (.scanReadout tg) s = .next { s with replies := s.replies ++ [.data v] })
      ∧ (s.boot.frozen = false ∨ scanValue s tg = none → exec (.scanReadout tg) s = .next s)
      ∧ (scanValue s .status = some (statusReg s))
      ∧ (s.boot.unlocked = false → tg ≠ .status → (∀ d, tg ≠ .ecc d) → scanValue s tg = none)
      ∧ (s.boot.unlocked = true → scanValue s tg = some (scanOpen s tg))
      ∧ (let bound := Config.shake256 (bytesOf 64 Config.identityKey.toNat ++ ch)
         let key := Config.tokenKey tk
         let signed := ch == Config.challenge s.boot.nonce && Config.chains key && Config.mldsaOk key (bytesOf 64 bound.toNat) tk
         (s.boot.frozen = true → signed = true →
           exec (.unlockToken ch tk) s = .next { s with boot := { s.boot with unlocked := true } })
         ∧ (s.boot.frozen = false ∨ signed = false → exec (.unlockToken ch tk) s = .next s))

/-- 01 R20 to R23, R29, R30, 05 R132, R136: in a package that runs, a power sample, 10 µs after the last, whose average over the last 1 ms
stands over the limit lowers the power limiter's clock by a step, down to the least, and at or under 95 % of it raises it, up to the most; a
temperature sample, 10 µs after the die's last, is kept, and one of 110 degrees fences its die; 1 ms after its last step the thermal
limiter's clock falls a step while a live die reads over 95 degrees and rises one, up to the power limiter's, once all read 90 or less (its
own setting, log 98); an alarm goes out 100 ms after the time noted for its limit. A distributor's heartbeat is noted, and the election
takes the lowest live die with a current one. A lost link, a failed rail and a heartbeat 5 µs old fence their die, which takes its slots,
translations and collectives from it, reports it and has the election made again. Completes (`exec` answers the next state of the form's own
effect, under conditions on the state and the operands alone): powerSample, powerLimit, thermalSample, dieFenced, distributorHeartbeat,
thermalStep, masterElection. -/
def Obligations.PowerAndDies : Prop :=
  ∀ (w die e temp : Nat) (s : State), s.running = true →
    let p := s.power
    let near : List (Nat × Nat) := (s.time, w) :: p.samples.filter fun e => decide (s.time < e.1 + 1000000)
    let sum := (near.map (·.2)).sum
    let above := p.limit * near.length < sum
    let fenced (i : Instr) : Prop := die < 4 → (getDie s die).fenced = false →
      exec i s = .next (fenceDie s die)
        ∧ ∃ t, fenceDie s die = enqueue (enqueue (postSup t (unitEvent t 0x0C (64 + die) 0 0 die)) (.event .masterElection)) .schedule
    ((∀ r, p.samples.head? = some r → r.1 + 10000 ≤ s.time) → ∃ t, exec (.powerSample w) s = .next t ∧ t = { s with power := t.power }
        ∧ t.power.thermalClk = p.thermalClk ∧ t.power.limit = p.limit ∧ t.power.temps = p.temps ∧ t.power.samples = near
        ∧ t.power.powerClk = (if above then max Config.clkMin (p.powerClk - 1)
            else if sum * 100 ≤ p.limit * near.length * 95 then min Config.clkMax (p.powerClk + 1) else p.powerClk)
        ∧ (¬ above → t.power.overPower = none))
      ∧ (∀ r l, p.samples = r :: l → s.time < r.1 + 10000 → exec (.powerSample w) s = .next s)
      ∧ (die < 4 → duePast (kvFind p.tempAt die) 10000 s.time = true →
          (temp < 110 → ∃ t, exec (.thermalSample die temp) s = .next t ∧ t = { s with power := t.power }
            ∧ tempOf t die = some temp ∧ (∀ d, d ≠ die → tempOf t d = tempOf s d)
            ∧ t.power.powerClk = p.powerClk ∧ t.power.thermalClk = p.thermalClk)
          ∧ (110 ≤ temp → ∃ t, exec (.thermalSample die temp) s = .next (fenceDie t die) ∧ t = { s with power := t.power }))
      ∧ ((∀ r, p.stepAt = some r → r + 1000000 ≤ s.time) → ∃ t, exec .thermalStep s = .next t ∧ t = { s with power := t.power }
          ∧ t.power.powerClk = p.powerClk ∧ t.power.stepAt = some s.time
          ∧ ((∃ d, d < 4 ∧ (getDie s d).fenced = false ∧ ∃ c, tempOf s d = some c ∧ 95 < c) →
              t.power.thermalClk = max Config.clkMin (p.thermalClk - 1))
          ∧ ((∀ d, d < 4 → (getDie s d).fenced = false → ∃ c, tempOf s d = some c ∧ c ≤ 90) →
              t.power.thermalClk = if p.thermalClk < p.powerClk then p.thermalClk + 1 else p.thermalClk))
      ∧ (∀ since, p.overPower = some since → since + 100000000 ≤ s.time → exec (.powerLimit false) s =
          .next (postSup { s with power := { p with overPower := some s.time } } { unitEvent s 0x0B 80 0 0 0 with detail := 0 }))
      ∧ (∀ d since, (d, since) ∈ p.overTemps → since + 100000000 ≤ s.time → ∃ q, exec (.powerLimit true) s =
          .next (postSup { s with power := q } { unitEvent s 0x0B 80 0 0 0 with detail := 1 })
          ∧ q.overTemps = p.overTemps.map fun e => if e.2 + 100000000 ≤ s.time then (e.1, s.time) else e)
      ∧ (die < 4 → (getDie s die).fenced = false → ∃ t, exec (.distributorHeartbeat die) s = .next t
          ∧ t = { s with beats := t.beats } ∧ kvFind t.beats die = some s.time ∧ ∀ d, d ≠ die → kvFind t.beats d = kvFind s.beats d)
      ∧ (∃ t, exec .masterElection s = .next t ∧ t.slots = s.slots ∧ t.mem = s.mem
          ∧ (∀ d, t.master = some d ↔ d < 4 ∧ beatCurrent s d = true ∧ ∀ e, e < d → beatCurrent s e = false)
          ∧ (t.master = none ↔ ∀ d, d < 4 → beatCurrent s d = false))
      ∧ (beatMissing s die = false → exec (.dieFenced (.heartbeat die)) s = .next s)
      ∧ fenced (.dieFenced (.rail die))
      ∧ (beatMissing s die = true → fenced (.dieFenced (.heartbeat die)))
      ∧ (e < 4 → e ≠ die → (getDie s e).fenced = false → fenced (.dieFenced (.link die e)))
      ∧ (die < 4 → (getDie s die).fenced = false →
          let u := clearDie (updDie (poisonLines s die) die fun d => { d with fenced := true }) die
          (getDie u die).fenced = true ∧ (∀ e ∈ u.tlb, tlbHome e.1 ≠ die) ∧ (∀ c ∈ u.colls, c.die ≠ die)
            ∧ (∀ l, 64 * l < 2 ^ 60 → dieOf (64 * l) = some die → poisoned (homeMeta u l) = true)
            ∧ ∀ k, isUnit k = false → dieOfCore (coreOf k) = die → getSlot u k = .vacant)

/-! ## The fabric -/

/-- 02 R37 to R43, R46: a request that arrives and passes the home check performs there, and is answered with its TAG: WR and CWR write their
granules and are acknowledged, RD answers the stored bytes, ATOM and RELW act on their word, FILLN and FREEN advance a ring, where the codes
that their data carries match; one that fails the check is dropped, answered REJECT and reported. WR changes exactly the bytes of the
granules that its mask names. Completes (`exec` answers the next state of the form's own effect, under conditions on the state and the
operands alone): wr, rd, atom, relw, filln, freen, cwr. -/
def Obligations.FabricRequests : Prop :=
  ∀ (s : State) (port : Nat) (f : Flit) (rest : List (Nat × Flit)) (loc : Loc) (area : Area) (lines : List (BitVec 512)),
    let u := heardFrom { s with rx := rest } port f
    let refusedAt (i : Instr) (n : Nat) : Prop := windowOk u f n = false →
      exec i s = .next (postSup (sendFlit u (answerFlit u f (answerKind f.kind) true))
        (unitEvent u 0x09 1 ((tagJob u f.jobtag).getD 0) (f.addr.setWidth 64 <<< 7) f.src.toNat))
    let performs (i : Instr) (n : Nat) (t : State) : Prop := windowOk u f n = true → exec i s = .next t
    let sound (c : Prop) : Prop := flitCodes f.data = f.codes → c
    s.running = true → s.rx = (port, f) :: rest → flitBad f = false →
      (f.kind = 1 → refusedAt .wr 128 ∧ performs .wr 128 (wrHome u f)
        ∧ (locate (f.addr.toNat * 128) = some (loc, area) →
          (wrHome u f).tx = (sendFlit u (answerFlit u f 2 false)).tx
          ∧ (∀ i, i < 128 → readByte (wrHome u f).mem (loc + i) =
              if f.gmask.getLsbD (i / 16) then f.data.extractLsb' (8 * i) 8 else readByte s.mem (loc + i))
          ∧ ∀ x, x < loc ∨ loc + 128 ≤ x → readByte (wrHome u f).mem x = readByte s.mem x))
      ∧ (f.kind = 3 → refusedAt .rd 128 ∧ performs .rd 128 (rdHome u f) ∧ (rdHome u f).mem = s.mem
        ∧ (locate (f.addr.toNat * 128) = some (loc, area) → ∀ p, routePort u f.src 1 = some p →
          ∃ g, (rdHome u f).tx = s.tx ++ [(p, g)] ∧ g.kind = 4 ∧ g.tag = f.tag ∧ g.dst = f.src ∧ g.reject = false
            ∧ ∀ i, i < 128 → g.data.extractLsb' (8 * i) 8 = readByte s.mem (loc + i)))
      ∧ (f.kind = 5 → refusedAt .atom 128 ∧ sound (performs .atom 128 (atomHome u f)))
      ∧ (f.kind = 7 → refusedAt .relw 128 ∧ sound (performs .relw 128 (relwHome u f)))
      ∧ (f.kind = 8 → refusedAt .filln 128 ∧ sound (performs .filln 128 (fillnHome u f)))
      ∧ (f.kind = 9 → (freenShadow u f = none → refusedAt .freen 128 ∧ sound (performs .freen 128 (freenHome u f)))
        ∧ (∀ key, freenShadow u f = some key → sound (∃ t, exec .freen s = .next t
            ∧ (shadowOf t key).1 = (shadowOf u key).1
            ∧ (shadowOf t key).2 = if newer (f.data.extractLsb' 0 32) (shadowOf u key).2 then f.data.extractLsb' 0 32
                else (shadowOf u key).2)))
      ∧ (f.kind = 0x11 →
        let n := f.gmask.toNat % 4 + 1
        (Config.decompress n (f.data.extractLsb' 128 880) = some lines → lines.length = n →
          refusedAt .cwr (64 * n) ∧ performs .cwr (64 * n) (cwrHome lines u f))
        ∧ (Config.decompress n (f.data.extractLsb' 128 880) = none →
          exec .cwr s = .next (enqueue { u with rx := (port, f) :: u.rx } (.event (.linkRetry port)))))

/-- 02 R35, R37, R42, R43, R47, R48, R58, R61, 08 R208: an answer that arrives goes to what awaits it: the lines of a read into the L1 that
asked for them, the old value of an atomic to its destination, an acknowledgement to the posted write; one that nothing awaits and a
heartbeat change only what was heard from their device; a refused write ends its collective FABRIC_REJECT; SMAX and SMAXRES bring a
collective's fold, with a code mismatch reported and carried on (log 104); a flit with a reserved field set is dropped, counted and
reported; a port retries and goes down at eight; HBEAT goes out each 1 µs on every port that carries flits; a silent device is lost after 20
µs; a release that no home has answered ends PARTNER_LOST. Completes (`exec` answers the next state of the form's own effect, under
conditions on the state and the operands alone): invalidFlit, linkRetry, portDown, deviceLost, relFabricTimeout, wrack, rdresp, atomresp,
smax, smaxres, hbeat, deviceHeartbeat. -/
def Obligations.LinkEvents : Prop :=
  ∀ (s : State) (port : Nat) (f : Flit) (rest : List (Nat × Flit)) (dev : BitVec 12) (slot : Nat) (q : Seq) (o : Outst) (c : Coll),
    let u := heardFrom { s with rx := rest } port f
    let acked := ackFar u f
    let quiet := match getJobOfTag acked f.jobtag with
      | some j => if (getJob acked j).state = 3 then enqueue acked (.event (.killDone j)) else acked
      | none => acked
    let drops (i : Instr) : Prop := exec i s = .next (dropFlit { s with rx := rest } port)
    let p := kvGet Port.up s.ports port
    s.running = true →
      (s.rx = (port, f) :: rest → flitBad f = false →
        (f.kind = 4 → u.farReads = [] → farWord u f.src f.tag = none → exec .rdresp s = .next u)
        ∧ (f.kind = 4 → ∀ r, (u.farReads.find? fun r => r.tag == f.tag && r.dst == f.src) = some r → f.reject = false →
          let v := fillFar { u with farReads := u.farReads.erase r } r.core r.line (f.data.extractLsb' 0 512) f.codes.toNat (flitMeta f 0)
          exec .rdresp s = .next (kickAll (unhold
            (fillFar v r.core (r.line + 1) (f.data.extractLsb' 512 512) (f.codes.toNat / 2 ^ 64) (flitMeta f 1)))))
        ∧ (f.kind = 6 → u.outWrs = [] → farWord u f.src f.tag = none → exec .atomresp s = .next u)
        ∧ (f.kind = 6 → u.outWrs = [] → f.reject = false → f.codes.extractLsb' 0 16 = granuleCode (f.data.extractLsb' 0 128) →
          ∀ sp ord, farWord u f.src f.tag = some (slot, q, o) → o.work = .far sp f.tag ord →
            let v := updSlot u slot fun x =>
              settle (markDone (x.onBanks q fun r => deliver r o.tag (f.data.extractLsb' 0 64)) q o.tag)
            exec .atomresp s = .next (checkEnd (if ordAcquires ord then acquireStep v slot sp else v) slot))
        ∧ (f.kind = 0x12 → exec .hbeat s = .next u)
        ∧ kvFind u.heard f.src.toNat = some s.time ∧ u.mem = s.mem ∧ u.slots = s.slots ∧ u.rx = rest
        ∧ (f.kind = 2 → ∀ w, (u.outWrs.find? fun w => w.dst == f.src && w.tag == f.tag) = some w →
          acked = unhold { u with outWrs := u.outWrs.erase w })
        ∧ (f.kind = 2 → u.outWrs = [] → farWord u f.src f.tag = none → acked = u)
        ∧ (f.kind = 2 → f.reject = false → exec .wrack s = .next quiet)
        ∧ (f.kind = 2 → f.reject = true → exec .wrack s = .next
          ((quiet.colls.filter fun c => c.uid % 4096 == f.tag.toNat && (getJob quiet c.job).jobtag == f.jobtag
            && c.mems.any fun m => m % 4096 == f.src.toNat).foldl (fun s c => endColl s c 6 0) quiet))
        ∧ (f.kind = 0x0A → (smaxMember s f).isSome = true → smaxMember u f = some c →
          let d := foldOf (fullNum c.got f.tag.toNat) f
          let v := enqueue (setColl u { c with folds := c.folds ++ [d], got := c.got ++ [d.num] }) (.coll c.uid)
          (flitCodes f.data = f.codes → exec .smax s = .next v)
          ∧ (flitCodes f.data ≠ f.codes → exec .smax s = .next (postUncorrectable v c.job c.source 0
              (badDetail (getSlot v c.place) { cause := 1, src := 8, addr := 0 } false))))
        ∧ (f.kind = 0x0B → exec .smaxres s = .next ((agreers u f.addr).foldl (fun s c =>
            takeAgreed s c (foldOf (fullNum (c.agreed.map (·.1)) f.tag.toNat) f)) u)))
      ∧ (s.rx = (port, f) :: rest → flitBad f = true →
        (f.kind = 1 → drops .wr) ∧ (f.kind = 2 → drops .wrack) ∧ (f.kind = 3 → drops .rd) ∧ (f.kind = 7 → drops .relw)
          ∧ (f.kind = 0x0A → drops .smax) ∧ (f.kind = 0x11 → drops .cwr) ∧ (f.kind = 0x12 → drops .hbeat))
      ∧ (flitBad f = true → port < 18 → exec (.invalidFlit port f) s = .next (dropFlit s port))
      ∧ (port < 18 → p.retries < 8 → ∃ t, t = { s with ports := t.ports }
          ∧ exec (.linkRetry port) s = .next (if p.retries = 7 then enqueue t (.event (.portDown port)) else t)
          ∧ kvGet Port.up t.ports port = { p with retries := p.retries + 1 }
          ∧ ∀ k, k ≠ port → kvGet Port.up t.ports k = kvGet Port.up s.ports k)
      ∧ (8 ≤ p.retries → ∃ t, exec (.portDown port) s = .next (unhold t) ∧ t = { s with ports := t.ports }
          ∧ kvGet Port.up t.ports port = { p with down := true } ∧ portUp t port = false)
      ∧ (p.retries < 8 → exec (.portDown port) s = .next s)
      ∧ ((∀ r, s.hbAt = some r → r + 1000 ≤ s.time) → ∃ t, exec .deviceHeartbeat s = .next t
          ∧ t = { s with tx := t.tx, hbAt := some s.time }
          ∧ ∀ k, k < 18 → portUp s k = true → ∃ g, (k, g) ∈ t.tx ∧ g.kind = 0x12 ∧ g.src = s.devId)
      ∧ (∀ r, s.hbAt = some r → s.time < r + 1000 → exec .deviceHeartbeat s = .next s)
      ∧ ((kvGet 0 s.routes dev.toNat ≠ 0 ∨ (kvFind s.heard dev.toNat).isSome = true) → dev ≠ s.devId → dev ∉ s.lostDevs →
          (s.time < kvGet 0 s.heard dev.toNat + 20000 → exec (.deviceLost dev) s = .next s)
          ∧ (kvGet 0 s.heard dev.toNat + 20000 ≤ s.time →
            let a := loseFar { s with lostDevs := s.lostDevs ++ [dev] } dev
            let b := (a.colls.filter fun c => c.status.isNone && c.mems.any fun m => m % 4096 == dev.toNat).foldl
              (fun s c => endColl s c 3 0) a
            let d := b.lgangs.foldl (loseMember dev) b
            let t := (d.jobs.filter fun e => e.2.state == 3).foldl (fun s e => enqueue s (.event (.killDone e.1))) d
            exec (.deviceLost dev) s = .next (enqueue (postSup t (unitEvent t 0x0A 0 0 0 dev.toNat)) .schedule)))
      ∧ (∀ sp l, relTimedOut s slot q = some o → o.work.spans = sp :: l → exec (.relFabricTimeout slot q) s =
          .next (takeTrap (updSlot s slot fun x => dropIssued x q o.tag) slot q o.pc { cause := 27, addr := sp.va }))
      ∧ (relTimedOut s slot q = none → exec (.relFabricTimeout slot q) s = .next s)

/-- 02 R55, R57 to R61, 05 R129, R130, R141: a member places or reserves at GRES and refuses where it can do neither, answers GSTART, and
GCANCEL frees or cancels it; the coordinator counts what answers in time, starts once all have accepted and withdraws on a refusal; a gang
timeout withdraws what waits and, of a started one, loses its barriers; a reservation ends at its time. A barrier takes another device's
arrival. A collective writes its shards and its record, and at its descriptor's time all its local members end TIMEOUT. Completes (`exec`
answers the next state of the form's own effect, under conditions on the state and the operands alone): collectiveTimeout, shardComplete,
collectiveComplete, gangTimeout, gangReservationExpiry, gangReservationTimeout, barrierForward, gres, gresack, gstart, gstartack, gcancel. -/
def Obligations.GangAndCollectiveEvents : Prop :=
  ∀ (s t1 : State) (port : Nat) (f : Flit) (rest : List (Nat × Flit)) (o : LGang) (g : GangReq) (slots : List Nat) (c : Coll)
      (lgid : BitVec 32) (uid j die bar : Nat) (r : Nat × Nat × Nat),
    let u := heardFrom { s with rx := rest } port f
    let l := flitLgid f
    let b := getBar s (barKey die bar)
    (s.running = true → s.rx = (port, f) :: rest → flitBad f = false →
        (f.kind = 0x0C → (memberGang u f = none → exec .gres s = .next (gangAnswer u f 0x0D false))
          ∧ (memberGang u f = some (t1, g) →
            (freePosition t1 g = none → bestPosition t1 g = none → exec .gres s = .next (gangAnswer u f 0x0D false))
            ∧ ((freePosition t1 g).isSome = true ∨ (bestPosition t1 g).isSome = true →
              exec .gres s = .next (enqueue (gangTurn t1 g) .schedule))))
        ∧ (f.kind = 0x0E → findLgang u l = none → exec .gstart s = .next (gangAnswer u f 0x0F false))
        ∧ (f.kind = 0x0E → findLgang u l = some o → lgangReq u l = some g → o.coord = false → o.phase = 0 → heldSlots u g = some slots →
          exec .gstart s = .next (gangAnswer (startLinked u o g slots) f 0x0F (findLgang (startLinked u o g slots) o.lgid).isSome))
        ∧ (f.kind = 0x10 → findLgang u l = none → exec .gcancel s = .next u)
        ∧ (f.kind = 0x10 → findLgang u l = some o → o.coord = false →
          (o.phase = 0 → exec .gcancel s = .next (dropLgang u o.lgid))
          ∧ (o.phase ≠ 0 → exec .gcancel s = .next
            (cancelLevel (loseBars (setLgang u { o with phase := 4, starts := o.acks ++ [u.devId] }) o.lgid) o.job o.hdr)))
        ∧ (f.kind = 0x0D → findLgang u l = some o → o.coord = true → o.phase = 0 → o.at_ ≠ 0 → (o.devs.any fun d => d.1 == f.src) = true →
          let o1 : LGang := { o with acks := if o.acks.contains f.src then o.acks else o.acks ++ [f.src] }
          (f.tag.getLsbD 0 = false ∨ o.at_ + o.limit ≤ s.time → exec .gresack s = .next (withdrawLinked u o))
          ∧ (f.tag.getLsbD 0 = true → s.time < o.at_ + o.limit → (∀ d ∈ o1.devs, d.1 ∈ o1.acks) → exec .gresack s = .next (startAll (setLgang u o1) o1))
          ∧ (f.tag.getLsbD 0 = true → s.time < o.at_ + o.limit → (∃ d ∈ o1.devs, d.1 ∉ o1.acks) → exec .gresack s = .next (setLgang u o1)))
        ∧ (f.kind = 0x0F → findLgang u l = some o → o.coord = true → o.phase = 1 → f.tag.getLsbD 0 = true → f.src ∉ o.starts →
          exec .gstartack s = .next (setLgang u { o with starts := o.starts ++ [f.src] })))
      ∧ (s.running = true → findLgang s lgid = some o →
        (o.phase = 3 → exec (.gangTimeout lgid) s = .next (failLinked s o))
        ∧ (o.coord = true → o.at_ ≠ 0 → o.at_ + o.limit ≤ s.time →
          (o.phase = 0 → exec (.gangTimeout lgid) s = .next (withdrawLinked s o))
          ∧ (o.phase = 1 → (∃ d ∈ o.devs, d.1 ∉ o.starts) → exec (.gangTimeout lgid) s = .next (watchdog s o))
          ∧ (o.phase = 1 → (∀ d ∈ o.devs, d.1 ∈ o.starts) → exec (.gangTimeout lgid) s = .next s))
        ∧ (o.coord = false → o.phase = 0 → o.at_ ≠ 0 → o.at_ + 2 * o.limit ≤ s.time →
          ∃ t, exec (.gangReservationExpiry lgid) s = .next t ∧ findLgang t lgid = none ∧ lgangReq t lgid = none ∧ t.slots = s.slots)
        ∧ (s.time < o.at_ + 2 * o.limit → exec (.gangReservationExpiry lgid) s = .next s))
      ∧ (s.running = true → (s.gangs.find? fun g => g.uid == uid) = some g → g.resv = some r → g.lgid = none →
        (r.2.2 + 200000 ≤ s.time → exec (.gangReservationTimeout uid) s = .next (gangYield s g))
        ∧ (s.time < r.2.2 + 200000 → exec (.gangReservationTimeout uid) s = .next s))
      ∧ (b.p ≠ 0 → b.lgid ≠ none → exec (.barrierForward die bar false) s = .next (arrive s die bar)
        ∧ ∃ t, exec (.barrierForward die bar true) s = .next t
          ∧ getBar t (barKey die bar) = { b with a := 0, ph := b.ph + 1, lost := true })
      ∧ (findColl s uid = some c →
        (collUp s c = true → c.at_ + cdTmo c.d ≤ s.time → c.expects = true → exec (.collectiveTimeout uid) s =
          .next ((s.colls.filter fun o => o.same c && o.status.isNone).foldl (fun s o => endColl s o 3 0) s))
        ∧ (collUp s c = true → s.time < c.at_ + cdTmo c.d → exec (.collectiveTimeout uid) s = .next s)
        ∧ (collUp s c = true → (∀ e v t, (c.ready.find? fun e => e.1 == j) = some e → shardWrite c j e.2 s = .ok v t →
            let c' : Coll := { c with ready := c.ready.filter fun e => e.1 != j, shards := c.shards ++ [j] }
            exec (.shardComplete uid j) s = .next (settleColl (setColl t c') c'))
          ∧ ((c.ready.find? fun e => e.1 == j) = none → exec (.shardComplete uid j) s = .next s))
        ∧ (s.running = true → (getDie s c.die).fenced = false → c.status.isSome = true → c.paused = none →
          ∀ v t, collReport c s = .ok v t → exec (.collectiveComplete uid) s = .next (retireColl t c)))

/-! ## Requests, queues and the host -/

/-- 03 R68 to R70, R76, R77, R81 to R87, R90, 01 R26, R29: the supervisor takes the request at the head. CREATE_JOB makes a live job of a free
id with the fields of its record; KILL_JOB stops a live job, waits for a checkpoint, and answers at once for one that is dead; its end
clears what was the job's and leaves it dead; queues are enabled where their descriptor holds and disabled at their claimed end; a
checkpoint and a restore move bytes only once every job has stopped, and a restore only of an image that verifies; a quote, a staged image,
the warm reset and a fence answer as they say. A request that came by no queue leaves no record. Completes (`exec` answers the next state of
the form's own effect, under conditions on the state and the operands alone): killDone, hostCompletionTimeout, ckptDone, createJob, killJob,
createQueue, destroyQueue, checkpoint, restore, attest, fwStage, fenceDie, warmReset, checkpointTargetStall. -/
def Obligations.RequestEvents : Prop :=
  ∀ (s s1 : State) (by_ : Option (Nat × Word)) (rest : List (Request × Option (Nat × Word))) (r : JobReq) (j die : Nat) (desc : Word)
      (d : QDesc) (q : HQueue) (im : Image) (nonce img : List Byte) (st : CkptStatus) (tg : CkptTarget), s.running = true →
    let asks (x : Request) : Prop := s.requests = (x, by_) :: rest
    let stopped := preemptAll { s with ckbusy := true, ckStage := 1 }
    let moving (u : State) : State := { flushAll u with ckStage := 2, ckAt := u.time }
    let sound := descOk j desc d && mappedWide s1 j desc 64 && mappedWide s1 j d.base (64 * 2 ^ d.log2n)
      && mappedWide s1 j d.cbase (32 * 2 ^ d.clog)
    (asks (.createJob r) →
        (r.weight = 0 ∨ 255 < r.weight → exec .createJob s = .next (refuse s))
        ∧ (1 ≤ r.weight → r.weight ≤ 255 → (∃ k, jobIdFree s k = true) → (∃ g, tagFree s g = true) → by_ = none →
          ∃ t k g, exec .createJob s = .next t ∧ jobIdFree s k = true ∧ tagFree s g = true
            ∧ getJob t k = { Job.free with
                jobtag := g, state := 2, weight := r.weight, maxprio := r.maxprio, flags := r.flags.setWidth 8,
                ptroot := r.ptroot, evq := r.evq, jobsync := r.jobsync, policy := r.policy, migth := r.migth, spill := r.spill,
                save := r.save }
            ∧ (∀ i, i ≠ k → getJob t i = getJob s i) ∧ t.replies = s.replies ++ [.job k g] ∧ t.requests = rest ∧ t.mem = s.mem))
      ∧ (by_ = none → ∀ x a b, asks x → answer s a b = kickRequests { s with requests := rest })
      ∧ (asks (.killJob j) → (s.ckbusy = true → exec .killJob s = .next s)
        ∧ (s.ckbusy = false → ((getJob s j).state = 2 → exec .killJob s = .next (answer (killJob s j) 0 0))
          ∧ ((getJob s j).state = 3 ∨ (getJob s j).state = 4 → exec .killJob s = .next (answer s 0 0))
          ∧ ((getJob s j).state < 2 ∨ 4 < (getJob s j).state → exec .killJob s = .next (refuse s))))
      ∧ ((getJob s j).state = 3 → exec (.hostCompletionTimeout j) s = .next (enqueue s (.event (.killDone j)))
        ∧ (killQuiet s j = false → exec (.killDone j) s = .next s)
        ∧ (killQuiet s j = true → ∃ t, exec (.killDone j) s = .next t ∧ (getJob t j).state = 4 ∧ (∀ e ∈ t.tlb, e.2.job ≠ j)
            ∧ (∀ q ∈ t.hqueues, q.job ≠ j) ∧ (∀ w ∈ t.windows, w.2.tag ≠ (getJob s j).jobtag) ∧ ∀ c ∈ t.colls, c.job ≠ j))
      ∧ (asks (.createQueue j desc) →
        ((getJob s j).state ≠ 2 ∨ (findQueue s j desc).isSome = true → exec .createQueue s = .next (refuse s))
        ∧ ((getJob s j).state = 2 → findQueue s j desc = none →
          (queueDesc s j desc = (s1, none) → exec .createQueue s = .next (refuse s1))
          ∧ (queueDesc s j desc = (s1, some d) → sound = false → exec .createQueue s = .next (refuse s1))
          ∧ (queueDesc s j desc = (s1, some d) → sound = true →
            let u := queueSet s1 j desc 14 1 (d.flags ||| 1#8).toNat
            exec .createQueue s = .next (answer (enqueue { u with
              hqueues := u.hqueues ++ [{ desc, job := j, kind := d.kind, since := none, upto := none }] }
              (.event (.queueSlotAccept j desc))) 0 0))))
      ∧ (asks (.destroyQueue j desc) → (findQueue s j desc = none → exec .destroyQueue s = .next (refuse s))
        ∧ (findQueue s j desc = some q → queueDesc s j desc = (s1, some d) → exec .destroyQueue s =
          .next (answer (enqueue (setHqueue s1 { q with upto := some (q.upto.getD d.wridx) }) (.event (.queueSlotAccept j desc))) 0 0)))
      ∧ (asks (.checkpoint tg) →
        (s.ckStage = 0 → tg = .port1 → s.boot.portMode ≠ 2 → exec .checkpoint s = .next (refuse s))
        ∧ (s.ckStage = 2 → exec .checkpoint s = .next s)
        ∧ (s.ckStage < 2 → (s.ckStage = 0 → tg ≠ .port1 ∨ s.boot.portMode = 2) →
          (tasksLeft stopped ≠ [] → exec .checkpoint s = .next stopped)
          ∧ (tasksLeft stopped = [] → exec .checkpoint s =
            .next (reply (takeImage (moving stopped)).1 (.image (takeImage (moving stopped)).2)))))
      ∧ (asks (.restore im) →
        (s.ckStage = 0 → imageOk im = false → exec .restore s = .next (refuse s))
        ∧ (s.ckStage < 2 → (s.ckStage = 0 → imageOk im = true) →
          (tasksLeft stopped ≠ [] → exec .restore s = .next stopped)
          ∧ (tasksLeft stopped = [] → exec .restore s = .next (putImage (moving stopped) im))))
      ∧ (s.ckStage = 2 → exec (.ckptDone st) s = .next (ckptEnd s st)
        ∧ (s.ckAt + 1000000000 ≤ s.time → exec .checkpointTargetStall s = .next (ckptEnd s .targetStall))
        ∧ (s.time < s.ckAt + 1000000000 → exec .checkpointTargetStall s = .next s))
      ∧ (asks (.attest nonce) → (nonce.length ≠ 32 → exec .attest s = .next (refuse s))
        ∧ (nonce.length = 32 → exec .attest s =
          .next (reply (answer s 0 0) (.quote (quoteBody s nonce ++ Config.mldsaSign (quoteBody s nonce))))))
      ∧ (asks (.fwStage img) → (fwOk s img = false → exec .fwStage s = .next (refuse s))
        ∧ (fwOk s img = true → by_ = none → ∃ t, exec .fwStage s = .next t ∧ kvFind t.boot.staged (fwField img 4 1) = some img
            ∧ ∀ k, k ≠ fwField img 4 1 → kvFind t.boot.staged k = kvFind s.boot.staged k))
      ∧ (asks .warmReset → ∃ t, exec .warmReset s = .next t ∧ t.running = false ∧ t.boot.clean = true
          ∧ t.mem = (flushAll (answer s 0 0)).mem)
      ∧ (asks (.fenceDie die) → (4 ≤ die → exec .fenceDie s = .next (refuse s))
        ∧ (die < 4 → exec .fenceDie s = .next (answer (fenceDie s die) 0 0)))

/-- 01 R22, 02 R34, R41, R61, 03 R65, R66, R71 to R78, R85, R87, 04 R100, R107, R108, 05 R145, 11 R281, 13 R336, R475: a queue's consumer takes
the published head slot, rejects a reserved one and times one that is not published, which it skips at the stall limit; it stops at the
queue's end and waits while it is idle; an issue packet and a COLL request run as they were held. The host's register writes, its reads and
writes of the device memory that it sees, and its snoops take effect in the order in which they came; a read answers the stored bytes, past
the host-interface block of BAR0 it answers zero, and an address outside faults; an access waits for a flip of its region asked for before.
Completes (`exec` answers the next state of the form's own effect, under conditions on the state and the operands alone): queueSlotAccept,
queueStall, issuePacket, collRequest, srqWrite, sevqWrite, registerWrite, hostMemRead, hostMemWrite, hostSnoop. -/
def Obligations.QueueAndHostEvents : Prop :=
  ∀ (s s1 s2 s3 : State) (j v pa n die off i : Nat) (desc record w : Word) (kind : Byte) (more : List Byte) (q : HQueue) (d : QDesc)
      (h : HostIn) (rest : List HostIn) (sps : List Span) (c : Coll) (dst : BitVec 12) (mask : BitVec 18) (win : Option Window)
      (data : Option (BitVec 512)) (ow : Option OutWin) (sig : List Byte) (replay : Bool), s.running = true →
    let u : State := { s with hostIn := rest }
    (findQueue s j desc = none → exec (.queueSlotAccept j desc) s = .next s ∧ exec (.queueStall j desc) s = .next s)
      ∧ (findQueue s j desc = some q → queueUp s q = true → queueDesc s j desc = (s1, some d) →
        (2 ^ 56 ≤ d.wridx → exec (.queueSlotAccept j desc) s = .next (postJob (disableQueue s1 q d) j (unitEvent s1 0x07 81 j desc 0)))
        ∧ (d.wridx < 2 ^ 56 → (∃ m, q.upto = some m ∧ m ≤ d.rdidx) → exec (.queueSlotAccept j desc) s = .next (disableQueue s1 q d))
        ∧ (d.wridx < 2 ^ 56 → (∀ m, q.upto = some m → d.rdidx < m) →
          (d.idle = true → exec (.queueSlotAccept j desc) s = .next (setHqueue s1 { q with since := none }))
          ∧ (d.idle = false → queueLine s1 q d = (s2, some v) →
            (seenSlot d v = false →
              exec (.queueSlotAccept j desc) s = .next (setHqueue s2 { q with since := some (q.since.getD s2.time) })
              ∧ ((∃ a, q.since = some a ∧ a + d.limit ≤ s2.time) → (ordered q.kind && inFlight s2 q) = false →
                exec (.queueStall j desc) s = .next (nextSlot (reportSlot s2 j desc 1 0) j desc d))
              ∧ ((∀ a, q.since = some a → s2.time < a + d.limit) → exec (.queueStall j desc) s = .next s2))
            ∧ (seenSlot d v = true → exec (.queueStall j desc) s = .next s2
              ∧ (rf v 63 1 = 1 → (∀ t, takeSlot s2 q d v = some t → exec (.queueSlotAccept j desc) s = .next t)
                ∧ (takeSlot s2 q d v = none → exec (.queueSlotAccept j desc) s = .next s2))
              ∧ (rf v 63 1 ≠ 1 → (ordered q.kind && inFlight s2 q) = false →
                exec (.queueSlotAccept j desc) s = .next (nextSlot (reportSlot s2 j desc 2 17) j desc d))))))
      ∧ (findQueue s j desc = some q → s.master ≠ none → (getJob s j).state = 2 → q.pkt = some (record, kind, more) → q.kind = 1 →
        let t := issueRecord (setHqueue s { q with pkt := none }) j record kind more
        exec (.issuePacket j desc record kind more) s = .next (reportSlot t.1 j desc t.2.1 t.2.2))
      ∧ (findQueue s j desc = some q → (getDie s (queueDie s q)).fenced = false → (getJob s j).state = 2 →
        q.pkt = some (record, 0, more) → q.kind = 2 →
        let at_ := queueDie s q
        let freed (u : State) : State := setHqueue u { q with pkt := none }
        ((∃ b ∈ more, b ≠ 0) → exec (.collRequest j desc record more) s = .next (rejectColl (freed s) j desc 17))
        ∧ ((∀ b ∈ more, b = 0) → record.toNat % 64 ≠ 0 → exec (.collRequest j desc record more) s = .next (rejectColl (freed s) j desc 19))
        ∧ ((∀ b ∈ more, b = 0) → record.toNat % 64 = 0 →
          translate s (unitCtx at_ j false) record 256 { r := true } = (s1, .ok sps) →
          loadSpans 7 (unitSlot at_ j) .home s1 sps = .ok (s3, v) →
          acceptColl s3 (unitCtx at_ j false) 0 (unitSlot at_ j) j (at_ * 256) record v (some desc) = .ok s2 c →
          exec (.collRequest j desc record more) s = .next (addColl (freed s2) c)))
      ∧ (s.hostIn = h :: rest →
        (h = .srq w → exec .srqWrite s = .next (setSrq u w) ∧ (setSrq u w).srq = paField w)
        ∧ (h = .sevq w → exec .sevqWrite s = .next (setSevq u w) ∧ (setSevq u w).sevq = paField w)
        ∧ (h = .reg die off w → exec .registerWrite s = .next (if off < 0x1000 then ctlWrite u die off w else u))
        ∧ (h = .route dst mask → exec .registerWrite s = .next (loadRoute u dst mask)
            ∧ kvGet 0 (loadRoute u dst mask).routes dst.toNat = mask
            ∧ (dst ∈ s.lostDevs → dst ∈ s.freshWins → dst ∉ (loadRoute u dst mask).lostDevs)
            ∧ (dst ∉ s.freshWins → (loadRoute u dst mask).lostDevs = s.lostDevs))
        ∧ (h = .window i win → exec .registerWrite s = .next (loadWindow u i win))
        ∧ (h = .outWindow i ow → exec .registerWrite s = .next (loadOutWindow u i ow))
        ∧ (h = .device dst → exec .registerWrite s = .next { u with devId := dst })
        ∧ (h = .limit n → Config.boardLimit = true → exec .registerWrite s = .next { u with power := { u.power with limit := n } })
        ∧ (h = .limit n → Config.boardLimit = false → exec .registerWrite s = .next u)
        ∧ (h = .progress → exec .registerWrite s = .next (if s.ckStage = 2 then { u with ckAt := s.time } else u))
        ∧ (h = .minimum i w sig → exec .registerWrite s = .next (raiseMinimum u i w sig))
        ∧ (h = .delay n → 10000 ≤ n → n ≤ 10000000 → exec .registerWrite s = .next { u with delay := n })
        ∧ (h = .delay n → n < 10000 ∨ 10000000 < n → exec .registerWrite s = .next u)
        ∧ (h = .dispose i replay → exec .registerWrite s = .next (disposeTask u i replay))
        ∧ (h = .bar die off → (off < 0x1000 → exec .hostMemRead s =
              .next { (ctlRead u die off).1 with replies := (ctlRead u die off).1.replies ++ [.data (ctlRead u die off).2.toNat] })
            ∧ (0x1000 ≤ off → exec .hostMemRead s = .next { u with replies := s.replies ++ [.data 0] }))
        ∧ (h = .read pa n → pa + n ≤ 0xC000000000 → hostWaits s pa n = true → exec .hostMemRead s = .next (hold s (.event .hostMemRead)))
        ∧ (h = .read pa n → pa + n ≤ 0xC000000000 → hostWaits s pa n = false → ∃ t before bytes bad, exec .hostMemRead s = .next t
            ∧ t.replies = before ++ [.read bytes bad] ∧ bytes.length = n
            ∧ ∀ k, k < n → ∃ loc, locate (pa + k) = some (loc, .hbm) ∧ bytes.getD k 0 = readByte t.mem loc)
        ∧ (h = .read pa n → 0xC000000000 < pa + n → exec .hostMemRead s = .fault (.noStorage (BitVec.ofNat 64 pa)))
        ∧ (h = .write pa n v → pa + n ≤ 0xC000000000 → hostWaits s pa n = true →
            exec .hostMemWrite s = .next (hold s (.event .hostMemWrite)))
        ∧ (h = .write pa n v → pa + n ≤ 0xC000000000 → hostWaits s pa n = false →
            exec .hostMemWrite s = .next (hostWriteRuns (hdmRuns (n / 65536 + 2) pa n) v u))
        ∧ (h = .write pa n v → 0xC000000000 < pa + n → exec .hostMemWrite s = .fault (.noStorage (BitVec.ofNat 64 pa)))
        ∧ (h = .snoop pa data → hostLine (pa / 64) = false → exec .hostSnoop s = .next u)
        ∧ (h = .snoop pa data → hostLine (pa / 64) = true → ∃ t, exec .hostSnoop s = .next t
            ∧ (∀ e ∈ t.clines, e.1 % 2 ^ 64 ≠ pa / 64) ∧ (∀ e ∈ t.ccache, e.1 % 2 ^ 64 ≠ pa / 64)
            ∧ (∀ e ∈ t.tlb, pa / 64 ∉ e.2.entries)
            ∧ ∀ b, data = some b → ∀ k, k < 64 → readByte t.mem (pa / 64 * 64 + k) = b.extractLsb' (8 * k) 8))

/-! ## What comes about without a word -/

/-- 04 R93, R98, R105 to R111, 11 R281, R283: a walk caches the leaf that it finds, and parks on a migrating page; a channel that faults pauses
and goes on or ends as its reply says; a region's bias flips once the copies of the other side are gone; a count that reaches its threshold
is posted and starts again; a read of the correction counters clears them; a soft error flips the stored bit that it names, or poisons its
line, which in a system region fences the die (01 R29), and leaves all else. Completes (`exec` answers the next state of the form's own
effect, under conditions on the state and the operands alone): pageWalk, walkRestart, engineFault, engineFaultResume, engineFaultAbort,
biasFlipToHost, biasFlipToDevice, biasFlipComplete, migrate, eccCounterRead, softError, counterHalving. -/
def Obligations.MemoryEvents : Prop :=
  ∀ (s s1 : State) (die job slot eng l bit region size : Nat) (va : Word) (lines : List Nat) (leaf : Word) (base line : Nat)
      (source : BitVec 32) (c : Cmd) (kd : Kind) (wr : Bool) (b : Sub) (co : Coll) (f : Flip) (rg : BitVec 36) (cn : Counter)
      (q : Seq) (m : Nat) (x y z : BitVec 2048) (gm : GCmd), s.running = true →
    let posted (v : Nat) : Event :=
      { type := 0x03, reply := false, job := cn.job, source := (unitEvent s 0x03 1 cn.job 0 0).source,
        addr := BitVec.ofNat 64 (physOf (region * 65536)), time := now s, detail := BitVec.ofNat 64 v }
    let mine := [tlbDie die]
    let parkedAt := s.parked.find? fun p => p.2 == (die * 1024 + job, walkPage va)
    (die < 4 → (getDie s die).fenced = false →
        (canonical va = true → inWindow va = false → upperHalf va = false ∨ (getDie s die).supen = true → tlbHit s mine job va = none →
          (parkedAt = none → walksHeld s die < 4096 →
            (walk s die job va = .leaf leaf base size lines → ∃ t, exec (.pageWalk die job va) s = .next t
              ∧ t = { s with tlb := t.tlb, ptrs := t.ptrs, draws := t.draws }
              ∧ (tlbDie die, { job, upper := upperHalf va, base := BitVec.ofNat 64 base, size, leaf, entries := lines }) ∈ t.tlb)
            ∧ (walk s die job va = .mig line → ∃ t, exec (.pageWalk die job va) s = .next t
              ∧ t = { s with parked := t.parked, ptrs := t.ptrs, draws := t.draws }
              ∧ t.parked = s.parked ++ [(line, die * 1024 + job, walkPage va)])
            ∧ (walk s die job va = .fault kd → ∃ t, exec (.pageWalk die job va) s = .next t
              ∧ t = { s with ptrs := t.ptrs, draws := t.draws }))
          ∧ (parkedAt ≠ none ∨ 4096 ≤ walksHeld s die → exec (.pageWalk die job va) s = .next s))
        ∧ (tlbHit s mine job va ≠ none → exec (.pageWalk die job va) s = .next s
          ∧ exec (.walkRestart die job va) s = .next (kickAll s))
        ∧ (upperHalf va = true → (getDie s die).supen = false → exec (.pageWalk die job va) s = .next s)
        ∧ (tlbHit s mine job va = none → exec (.walkRestart die job va) s = .next (kickAll (walkFill s mine die job va).1)))
      ∧ (eng < 6 → faultNow s slot eng = some (s1, c, kd, va, wr) →
        let u := updCmd s1 slot eng c.uid fun c => { c with paused := some (kd, va, wr) }
        exec (.engineFault slot eng) s = .next (postEngineFault { u with
          gcmds := u.gcmds.map fun (g : GCmd) => if g.gid = c.uid then { g with paused := some (kd, va, wr) } else g }
          (slotJob u slot) (c.source slot) eng (pkTag c.pkt) kd va wr))
      ∧ (eng < 6 → faultNow s slot eng = none → exec (.engineFault slot eng) s = .next (kick s slot eng))
      ∧ (taskFinished s slot = true → (getSlot s slot).rpause = none →
        (∀ u, closeHandles slot (slotJob s slot) (closing (getSlot s slot)) s = .fault u kd va →
          exec (.engineFault slot 6) s = .next (pauseRings u slot kd va))
        ∧ (∀ u, closeHandles slot (slotJob s slot) (closing (getSlot s slot)) s = .done u → exec (.engineFault slot 6) s = .next s))
      ∧ (taskFinished s slot = false → exec (.engineFault slot 6) s = .next s)
      ∧ (exec (.engineFault slot 7) s = .next (pauseSub s slot) ∧ exec (.engineFault slot 8) s = .next (pauseColl s slot))
      ∧ (eng < 6 → pausedCmd s source eng = some (slot, c) →
        exec (.engineFaultResume source (BitVec.ofNat 8 eng)) s =
          .next (kickPlace (updCmd s slot eng c.uid fun c => { c with paused := none }) (c.place slot eng))
        ∧ exec (.engineFaultAbort source (BitVec.ofNat 8 eng)) s = .next (abortCmd s slot eng c))
      ∧ (pausedCmd s source 5 = none → pausedGmma s source = some gm →
        exec (.engineFaultResume source 5) s = .next (enqueue { s with
          gcmds := s.gcmds.map fun (o : GCmd) => if o.gid = gm.gid then { o with paused := none } else o }
          (.event (.matrixCommandComplete gm.owner)))
        ∧ exec (.engineFaultAbort source 5) s = .next (checkEnd { s with gcmds := s.gcmds.filter fun o => o.gid != gm.gid } gm.owner))
      ∧ (pausedRing s source = some slot →
        exec (.engineFaultResume source 6) s =
          .next (enqueue (updSlot s slot fun x => { x with rpause := none }) (.event (.taskEnd slot)))
        ∧ exec (.engineFaultAbort source 6) s = .next (abortRing s slot))
      ∧ (pausedSub s source = some b → exec (.engineFaultResume source 7) s = .next (enqueue (setSub s { b with paused := none })
          (.event (if b.status.isSome then .streamComplete b.uid else .streamTile b.uid)))
        ∧ exec (.engineFaultAbort source 7) s = .next (abortSub s b))
      ∧ (pausedColl s source = some co → exec (.engineFaultResume source 8) s = .next (kickJob (setColl s { co with paused := none }) co.job)
        ∧ exec (.engineFaultAbort source 8) s = .next (if co.status.isSome then giveUp s co else endColl s co 3 (pauseCode co.paused)))
      ∧ (hbmRegion rg = some region → firstFlip s region = some f → f.begun = false →
        (accessing s s.nextUid fun sp => sp.loc / 65536 == region) = true →
        (if f.host then exec (.biasFlipToHost rg) s else exec (.biasFlipToDevice rg) s) = .next (hold s (.event (flipEvent f))))
      ∧ (hbmRegion rg = some region → firstFlip s region = some f → f.begun = false →
        (accessing s s.nextUid fun sp => sp.loc / 65536 == region) = false →
        (f.host = true → exec (.biasFlipToHost rg) s =
          .next (enqueue { recallRegion s region with flips := { f with begun := true } :: (recallRegion s region).flips.erase f }
            (.event (.biasFlipComplete region))) ∧ exec (.biasFlipToDevice rg) s = .next s)
        ∧ (f.host = false → exec (.biasFlipToDevice rg) s =
          .next (enqueue { s with flips := { f with begun := true } :: s.flips.erase f } (.event (.biasFlipComplete region)))
          ∧ exec (.biasFlipToHost rg) s = .next s))
      ∧ (firstFlip s region = some f → f.begun = true → ∃ t, exec (.biasFlipComplete region) s = .next t
          ∧ hostBias t region = f.host ∧ (∀ r, r ≠ region → hostBias t r = hostBias s r)
          ∧ (∀ d, f.by_ = some d → d < 4 → (getDie t d).bbusy = false)
          ∧ (f.host = true → ∀ e ∈ t.clines, e.1 % 2 ^ 64 / 1024 ≠ region))
      ∧ (kvFind s.counts (countKey die region) = some cn →
        (let th := migThreshold s cn true
         0 < th → th ≤ cn.dev → ∃ u, u = { s with counts := u.counts } ∧ kvFind u.counts (countKey die region) = some { cn with dev := 0 }
          ∧ exec (.migrate die region true) s = .next (postSup u (posted (1 + th * 65536))))
        ∧ (let th := migThreshold s cn false
           0 < th → th ≤ cn.host → ∃ u, u = { s with counts := u.counts } ∧ kvFind u.counts (countKey die region) = some { cn with host := 0 }
            ∧ exec (.migrate die region false) s = .next (postSup u (posted (th * 65536)))))
      ∧ (∃ t, exec .counterHalving s = .next t ∧ t = { s with counts := t.counts }
          ∧ ∀ k, kvFind t.counts k = (kvFind s.counts k).map fun c => { c with host := c.host / 2, dev := c.dev / 2 })
      ∧ (die < 4 → ∃ t, exec (.eccCounterRead die) s = .next t
          ∧ t.replies = s.replies ++ [.data ((getDie s die).sramcorr.toNat + 2 ^ 32 * (getDie s die).hbmcorr.toNat)]
          ∧ (getDie t die).sramcorr = 0 ∧ (getDie t die).hbmcorr = 0 ∧ t.mem = s.mem)
      ∧ (∃ t, exec (.softError (.dataBit l bit)) s = .next t ∧ t = { s with mem := t.mem }
          ∧ readByte t.mem l = readByte s.mem l ^^^ (1#8 <<< (bit % 8)) ∧ (∀ a, a ≠ l → readByte t.mem a = readByte s.mem a))
      ∧ (∀ d, inSysRegion l = some d → exec (.softError (.uncorrectable l)) s =
          .next (fenceDie { s with mem := setLineMeta s.mem (l / 64) (lineMeta s.mem (l / 64) ||| 8#8) } d))
      ∧ (inSysRegion l = none → ∃ t, exec (.softError (.uncorrectable l)) s = .next t ∧ t = { s with mem := t.mem }
          ∧ poisoned (lineMeta t.mem (l / 64)) = true ∧ ∀ a, readByte t.mem a = readByte s.mem a)
      ∧ (∃ t, exec (.softError (.mainReg slot q m bit)) s = .next t ∧ t = { s with slots := t.slots }
          ∧ (vget (getSeq t ⟨slot, q⟩).main (BitVec.ofNat 5 m)).val
              = (vget (getSeq s ⟨slot, q⟩).main (BitVec.ofNat 5 m)).val ^^^ (1#64 <<< (bit % 64))
          ∧ ∀ k, k ≠ slot → getSlot t k = getSlot s k)
      ∧ (∃ t, exec (.softError (.voted slot x y z)) s = .next t ∧ t = { s with slots := t.slots } ∧ (getSlot t slot).vote = some (x, y, z))

/-- 05 R116, R125, R145, R146, 06 R158, R161 to R166, 07 R171, R175, 11 R292: a task whose sequencers have ended and whose work is complete
ends; a record that has waited 1 ms moves up once; a record that has waited the pre-emption delay has the victim pre-empted; an instance
starts with the slots that it was granted; samples are taken at their times and a core moves by them; an idle engine pulls a command; 2^20
cycles of waiting trap the slot; a region's drain goes on as its words and commands complete, and waits for a line of another device that a
buffered write needs (02 R42). Completes (`exec` answers the next state of the form's own effect, under conditions on the state and the
operands alone): taskEnd, recordAging, preemptionDelay, instanceGrant, escapementSample, balanceDecision, commandPull, decoupleDeadlock,
regionDrainComplete. -/
def Obligations.SchedulingEvents : Prop :=
  ∀ (s : State) (slot cluster job prio k n p v eng : Nat) (e : WorkEnt) (g : Graph) (r : Region) (c : Cmd)
      (i hi lo core : Nat) (st : Stage) (a b : Option (Span × RDesc)) (gq : GangReq), s.running = true →
    (taskFinished s slot = true → (getSlot s slot).rpause = none →
        (endHeld s slot = true → exec (.taskEnd slot) s = .next (hold s (.event (.taskEnd slot))))
        ∧ (endHeld s slot = false → ∀ u,
          (closeHandles slot (slotJob s slot) (closing (getSlot s slot)) s = .done u →
            exec (.taskEnd slot) s = .next (endTask u slot false false))
          ∧ (∀ k va, closeHandles slot (slotJob s slot) (closing (getSlot s slot)) s = .fault u k va →
            exec (.taskEnd slot) s = .next (enqueue u (.event (.engineFault slot 6))))
          ∧ (closeHandles slot (slotJob s slot) (closing (getSlot s slot)) s = .stall u →
            exec (.taskEnd slot) s = .next (hold u (.event (.taskEnd slot))))))
      ∧ (taskFinished s slot = false ∨ (getSlot s slot).rpause ≠ none → exec (.taskEnd slot) s = .next s)
      ∧ (let key := workKey cluster job prio
         let up := workKey cluster job (prio + 1)
         let old (e : WorkEnt) : Bool := !e.aged && decide (e.at_ + 1000000 ≤ s.time)
         let oldGang (g : GangReq) : Bool := g.job == job && g.prio == prio && gangCovers g cluster && !g.aged
           && decide (g.at_ + 1000000 ≤ s.time)
         prio < 3 → job ≤ 1023 →
         ((getWork s key).find? old = some e → ∃ t, exec (.recordAging cluster job prio) s = .next t ∧ t.slots = s.slots
            ∧ getWork t key = (getWork s key).erase e
            ∧ getWork t up = getWork s up ++ [{ e with at_ := s.time, aged := true, ord := s.nextUid, since := none }])
         ∧ ((getWork s key).find? old = none → s.gangs.find? oldGang = none → exec (.recordAging cluster job prio) s = .next s)
         ∧ ((getWork s key).find? old = none → s.gangs.find? oldGang = some gq →
            ∃ t, exec (.recordAging cluster job prio) s = .next t ∧ t.work = s.work
              ∧ t.gangs = (s.gangs.filter fun o => o.uid != gq.uid)
                  ++ [{ gq with prio := prio + 1, at_ := s.time, aged := true, ord := s.nextUid, since := none }]))
      ∧ (let due (p : Nat) : Bool := pressed s cluster p && (victim s cluster p).isSome
         s.ckbusy = false →
         ((∀ p, 1 ≤ p → p ≤ 3 → due p = false) → exec (.preemptionDelay cluster) s = .next s)
         ∧ (1 ≤ p → p ≤ 3 → pressed s cluster p = true → victim s cluster p = some v → (∀ o, p < o → o ≤ 3 → due o = false) →
            exec (.preemptionDelay cluster) s = .next (preempt s v 0)))
      ∧ (grantable s slot = none → exec (.instanceGrant slot) s = .next s)
      ∧ (grantable s slot = some (g, i, st, a, b) → ∃ t k, exec (.instanceGrant slot) s = .next t
          ∧ (getSlot t slot).task = some k ∧ k.job = g.job ∧ k.parent = g.hdr ∧ k.graph = some (g.hdr, i)
          ∧ k.index = BitVec.ofNat 32 st.started ∧ k.record = st.tva
          ∧ (getSlot t slot).k.pc = trEntry st.tmpl.toNat .K
          ∧ vget (getSlot t slot).handles 0
              = (match a with | some (_, d) => grantHandle st.inr d .consumer st.inneed | none => .unbound)
          ∧ vget (getSlot t slot).handles 1
              = (match b with | some (_, d) => grantHandle st.outr d .producer st.outneed | none => .unbound))
      ∧ (graphByTag s n = some g → escapementUp s g = true →
        (g.samples.length < 8 → g.at_ + g.samples.length * g.interval * 125 ≤ s.time → exec (.escapementSample n) s =
          .next (setGraph s { g with samples := g.samples ++ [g.stages.map (stageSample s)] }))
        ∧ (s.time < g.at_ + g.samples.length * g.interval * 125 → exec (.escapementSample n) s = .next s)
        ∧ (g.samples.length = 8 → g.at_ + g.interval * 1000 ≤ s.time →
          levelClosing s g.job g.hdr = true ∨ balanceMove s g = none →
          let t := setGraph s { g with samples := [], at_ := g.at_ + g.interval * 1000 }
          exec (.balanceDecision n) s =
            .next (enqueue (g.stages.zipIdx.foldl (fun u e => writeStatus u g e.2 e.1) t) .schedule))
        ∧ (g.samples.length = 8 → g.at_ + g.interval * 1000 ≤ s.time → levelClosing s g.job g.hdr = false →
          balanceMove s g = some (hi, lo, core) →
          let moved : Graph := { g with
            stages := g.stages.zipIdx.map fun (st, i) =>
              if i = lo then { st with cores := st.cores.filter fun o => o != core }
              else if i = hi then { st with cores := st.cores ++ [core] } else st
            moves := (g.moves.filter fun m => m.1 != core) ++ [(core, lo)] }
          let t := setGraph s { moved with samples := [], at_ := g.at_ + g.interval * 1000 }
          exec (.balanceDecision n) s = .next (enqueue
            (moved.stages.zipIdx.foldl (fun u e => writeStatus u moved e.2 e.1) t) .schedule))
        ∧ (g.samples.length < 8 → exec (.balanceDecision n) s = .next s))
      ∧ (isUnit slot = false → eng < 6 → engineIdle s (coreOf slot) eng = true →
        ((List.range 8).any fun j => (classOf eng).any fun e => let c := coreOf slot / 8 * 8 + j
          decide (c * 8 + e < coreOf slot * 8 + eng) && engineIdle s c e && (pullSource s c e).isSome) = false →
        (pullSource s (coreOf slot) eng = none → exec (.commandPull slot eng) s = .next s)
        ∧ (pullSource s (coreOf slot) eng = some (k, n, c) → exec (.commandPull slot eng) s =
          .next (enqueue (updCmd s k n c.uid fun c => { c with pulled := some (coreOf slot * 8 + eng) }) (.work k n c.uid))))
      ∧ (let x := getSlot s slot
         let qs := [x.k, x.l, x.c, x.s]
         isUnit slot = false → coreLive s (coreOf slot) = true → x.task ≠ none → x.mode = .user → x.held = false → x.armed = none →
         qs.all (counted x) = true → qs.all (·.tend) = false →
         (x.deadlock + n < 2 ^ 20 → exec (.decoupleDeadlock slot n) s =
            .next (updSlot s slot fun x => { x with deadlock := x.deadlock + n }))
         ∧ (2 ^ 20 ≤ x.deadlock + n → exec (.decoupleDeadlock slot n) s =
            .next (takeTrap (updSlot s slot fun x => { x with deadlock := 2 ^ 20 }) slot .K x.k.pc { cause := 9 })))
      ∧ ((getSlot s slot).region = none → exec (.regionDrainComplete slot) s = .next s)
      ∧ ((getSlot s slot).region = some r →
        (r.phase = .performing → needFar s slot (bufMerges (getSlot s slot)) = none →
          exec (.regionDrainComplete slot) s = .next (drainAll s slot r))
        ∧ (∀ u, r.phase = .performing → needFar s slot (bufMerges (getSlot s slot)) = some u →
          exec (.regionDrainComplete slot) s = .next (hold u (.event (.regionDrainComplete slot))))
        ∧ (r.phase = .draining → regionQuiet (getSlot s slot) r = true → exec (.regionDrainComplete slot) s =
          .next (enqueue (updSlot s slot fun x => { x with region := some { r with phase := .performing } })
            (.event (.regionDrainComplete slot))))
        ∧ (r.phase = .draining → regionQuiet (getSlot s slot) r = false → exec (.regionDrainComplete slot) s = .next s))

/-- 06 R163, R166, 07 R184, R186, 08 R226, R227, 13 R321, R330, 17 R416, R417, R420, R423 to R425: an engine of a slot writes the completion
record of a command that has ended and retires it; the matrix engine runs its next command in its slot's turn; a GMMA part counts and its
GMMA's record follows the last part; a streamer waits for its ring, takes its next tile, publishes or releases its slot and writes its
record; a contribution joins the pass of its table, and a pass that waits 100 µs ends with TIMEOUT for all that it holds. An engine that
does not work does nothing. Completes (`exec` answers the next state of the form's own effect, under conditions on the state and the
operands alone): copyPacketComplete, matrixCommandComplete, gatherComplete, streamTile, streamComplete, fpReduceContribution,
fpReduceTimeout. -/
def Obligations.EngineEvents : Prop :=
  ∀ (s s1 s2 v : State) (slot eng uid : Nat) (c : Cmd) (rest : List Cmd) (g : GPart) (gc : GCmd) (b : Sub) (sp tsp dsp : Span) (i : BitVec 32)
      (crec : Word) (n : Nat) (p : RedPacket) (pass : RedPass) (loc : Loc),
    let ends (eng : Nat) : Instr := if eng < 4 then .copyPacketComplete slot eng else if eng = 4 then .gatherComplete slot
      else .matrixCommandComplete slot
    let pk := b.pkt.toNat
    let b1 : Sub := { b with ring := sp.loc }
    let u := setSub s1 b1
    let r := descAt u sp.loc
    let b2 : Sub := { b1 with tiles := b.tiles + 1, held := none }
    let moved (v : State) (i : BitVec 32) := ringAdvance (markSlots (setSub v b2) sp.loc (stRole pk) [i.toNat]) sp.loc (getJob v b.job).jobtag
    let tile (v : State) (i : BitVec 32) : State := if stTiles pk ≤ b.tiles + 1 then endSub (moved v i) b2 0 0
      else if b.drop then endSub (moved v i) b2 4 0 else enqueue (moved v i) (.event (.streamTile b.uid))
    let first := if stDrain pk then r.take else r.claim
    let put := putDesc u sp.loc (if stDrain pk then 16 else 20) 4 (first + 1).toNat
    let took := if stDrain pk = true ∧ isUnit b.slot = false then dropRange put (coreOf b.slot) b.job sp.sw (slotRanges r first 1) else put
    let held := setSub took { b1 with held := some first }
    let slotVa (u : State) (i : BitVec 32) : Word := (descAt u sp.loc).base + BitVec.ofNat 64 (i.toNat % (descAt u sp.loc).n * (descAt u sp.loc).size)
    let gone : State := { s1 with subs := s1.subs.filter fun o => o.uid != b.uid }
    eng < 6 →
    (engineUp s slot = false → exec (ends eng) s = .next s)
      ∧ (engineUp s slot = true → finishing (getSlot s slot) eng = some c →
        let tag := pkTag c.pkt
        let rver := match c.res with | some r => r.rver.toNat | none => 0
        (c.part = some g → ∀ t, endPart s slot c g = .next t → exec (ends eng) s = .next (churn slot eng c t))
        ∧ (c.part = none → ∀ desc, c.queue = some desc →
          exec (ends eng) s = .next (churn slot eng c (retireCmd (queueDone s (slotJob s slot) desc
            (queueRecord (c.status.getD 0) c.finalCode (pkKind c.pkt) rver tag (doneBytes eng c) c.sats 0)) slot eng c 0)))
        ∧ (c.part = none → c.queue = none → (∃ v, engRecord (c.eng slot eng) (pkCrec c.pkt)
            (recordBytes (c.status.getD 0) c.finalCode (pkKind c.pkt) rver tag (doneBytes eng c) c.sats) tag (cmdRange eng c) s = .ok s1 v) →
          exec (ends eng) s = .next (churn slot eng c (retireCmd s1 slot eng c c.progress))))
      ∧ (engineUp s slot = true → finishing (getSlot s slot) eng = none → eng < 5 → exec (ends eng) s = .next s)
      ∧ (engineUp s slot = true → finishing (getSlot s slot) 5 = none →
        let whole := s.gcmds.find? fun g => g.owner == slot && g.paused.isNone && !partsLeft s g.gid
        (whole = some gc → ∀ t, finishGmma s gc.gid = .next t → exec (.matrixCommandComplete slot) s = .next t)
        ∧ (whole = none →
          (runnable s slot 5 = c :: rest → engTurn s (c.place slot 5) slot = true →
            exec (.matrixCommandComplete slot) s =
              .next (churn slot 5 c (raise slot 5 (matrixStep (serve s (c.place slot 5) slot) slot c))))
          ∧ (runnable s slot 5 = c :: rest → engTurn s (c.place slot 5) slot = false →
            ∃ t, exec (.matrixCommandComplete slot) s = .next t ∧ t = { s with agenda := t.agenda })
          ∧ (runnable s slot 5 = [] → exec (.matrixCommandComplete slot) s = .next s)))
      ∧ ((s.subs.find? fun b => b.uid == uid && b.status.isNone) = some b →
        (subUp s b = false → exec (.streamTile uid) s = .next s)
        ∧ (subUp s b = true → engSpans b.eng true false (stRing pk) 32 s = .ok s1 [sp] →
          (b.held = none → b.drop = true → exec (.streamTile uid) s = .next (endSub u b1 4 0))
          ∧ (b.held = none → b.drop = false →
            (claimStatus (stRole pk) r (ringLost u sp.loc r (stRole pk)) 1 = none → exec (.streamTile uid) s = .next u)
            ∧ (claimStatus (stRole pk) r (ringLost u sp.loc r (stRole pk)) 1 = some 0 →
              tileCopy b1.eng pk b.tiles (slotVa held first) (stRows pk) 0 held = .ok v () →
              exec (.streamTile uid) s = .next (tile v first))
            ∧ (claimStatus (stRole pk) r (ringLost u sp.loc r (stRole pk)) 1 = some (n + 1) →
              exec (.streamTile uid) s = .next (endSub u b1 4 0)))
          ∧ (b.held = some i →
            tileCopy b1.eng pk b.tiles (slotVa u i) (stRows pk) 0 u = .ok v () → exec (.streamTile uid) s = .next (tile v i)))
        ∧ (subUp s b = true → ∀ t k va wr, engSpans b.eng true false (stRing pk) 32 s = .fault t k va wr →
          exec (.streamTile uid) s = .next (enqueue t (.event (.engineFault uid 7)))))
      ∧ ((s.subs.find? fun b => b.uid == uid && b.status.isSome) = some b → subUp s b = true → b.origin = .record crec →
        (∃ x, engRecord b.eng crec (recordBytes (b.status.getD 0) b.fcode (pkKind pk) 0 (pkTag pk) (subBytes b) 0) (pkTag pk)
          (subRange s b) s = .ok s1 x) →
        exec (.streamComplete uid) s = .next (if isUnit b.slot then gone else checkEnd gone b.slot))
      ∧ ((s.subs.find? fun b => b.uid == uid && b.status.isSome) = some b → subUp s b = true →
        ∀ t, subFinish s b = .next t → exec (.streamComplete uid) s = .next t)
      ∧ (redCmd s p = none → exec (.fpReduceContribution p) s = .next s)
      ∧ (redCmd s p = some (eng, c) → engSpans (c.eng p.slot eng) false false p.table 512 s = .ok s1 [tsp] →
        engSpans (c.eng p.slot eng) true false p.dst 1 s1 = .ok s2 [dsp] →
        (s2.passes.find? fun q => q.table == tsp.loc && q.home == dsp.loc / 2 ^ 36) = some pass →
        let q : RedPass := { pass with held := pass.held ++ [p] }
        let listed := pass.entries.any fun ent => redIdent c p == ent % 2 ^ 48
        (listed = false → exec (.fpReduceContribution p) s = .next (setPass (endCmd s2 p.slot eng c.uid 2 fcTable) pass))
        ∧ (listed = true → pass.active = false → exec (.fpReduceContribution p) s = .next (setPass s2 q))
        ∧ (listed = true → pass.active = true → exec (.fpReduceContribution p) s = .next (runPass 65 s2 q)))
      ∧ ((s.passes.find? fun q => q.table == loc && q.active && decide (q.since + 100000 ≤ s.time)) = none →
        exec (.fpReduceTimeout loc) s = .next s)
      ∧ ((s.passes.find? fun q => q.table == loc && q.active && decide (q.since + 100000 ≤ s.time)) = some pass →
        let u := pass.held.foldl (fun u p => match redCmd u p with | some (eng, c) => endCmd u p.slot eng c.uid 5 23 | none => u) s
        exec (.fpReduceTimeout loc) s = .next (endPass u { pass with held := [] }))

/-! ## VOTE -/

/-- 11 R296, 18 R444: VOTE and the computing word after it issue as one instruction, with the operands and the nibble of that word: three equal
results are written, two equal ones are written and counted in CORRCNT, and three that differ are the error RECOVERY takes as a vote that
failed; before any other word VOTE traps ILLEGAL; squashed, the pair is passed over and pushes its void. Completes (`exec` answers the next
state of the form's own effect, under conditions on the state and the operands alone): vote. -/
def Obligations.VotePairs : Prop :=
  ∀ (s s1 : State) (i : Instr) (a : Alu) (v w : AVal) (g : Word) (tr : Trap) (c : Nat),
    let t := s.turn
    let x := getSlot s1 t.slot
    let q := x.seq t.seq
    let n := nibOf i
    let ws := waitsOf t.seq n none
    let sigs := sigsOf t.seq n none
    let m := x.vote.getD (0, 0, 0)
    let r0 := upset v m.1
    let r1 := upset v m.2.1
    let r2 := upset v m.2.2
    let s2 := updSlot s1 t.slot fun x => { x with vote := none }
    let counted := updSlot s2 t.slot fun x => { x with corrcnt := BitVec.ofNat 64 (min (x.corrcnt.toNat + 1) 0xFFFFFFFF) }
    let writes (u : State) (w : AVal) : State := retireWord (passVote (writeAlu u t a.dst w g) t) t (wordsOf i) ws sigs none
    let reads : Reads := { scalars := a.scalars, vectors := a.vectors }
    (ready s t = false → exec .vote s = .next s)
      ∧ (ready s t = true → fetchAt s t ((getSeq s t).pc + 4) = (s1, .word i) →
        (aluOf i = none → exec .vote s = .next (if voteSquashed q then passVote s1 t else voteTrap s1 t { cause := 1 }))
        ∧ (aluOf i = some a → voteSquashed q = true →
          (waitsMet x.tok ws = true → exec .vote s = .next (retireWord (passVote (pushVoid s1 t a.dst) t) t (wordsOf i) ws sigs none))
          ∧ (waitsMet x.tok ws = false → exec .vote s = .next (stall s1 t true)))
        ∧ (aluOf i = some a → voteSquashed q = false → decodeTrap i t.seq x.supMode = some tr → exec .vote s = .next (voteTrap s1 t tr))
        ∧ (aluOf i = some a → voteSquashed q = false → decodeTrap i t.seq x.supMode = none →
          (waitsMet x.tok ws = false → exec .vote s = .next (stall s1 t true))
          ∧ (waitsMet x.tok ws = true → reads.waits q = false → reads.bad x q = false →
            (a.eval s1 t = .trap c → exec .vote s = .next (voteTrap s1 t { cause := c }))
            ∧ (a.eval s1 t = .ok v g →
              (r0 = r1 → r0 = r2 → exec .vote s = .next (writes s2 r0))
              ∧ (r0 = w ∧ r1 = w ∧ r2 ≠ w ∨ r0 = w ∧ r2 = w ∧ r1 ≠ w ∨ r1 = w ∧ r2 = w ∧ r0 ≠ w →
                exec .vote s = .next (writes counted w))
              ∧ (r0 ≠ r1 → r0 ≠ r2 → r1 ≠ r2 → exec .vote s =
                .next (wordError (stall s2 t false) t (getSeq s2 t).pc s2.nextUid { cause := 3, src := seqNum t.seq, addr := 0 }))))))
end

