-- ==== Sys2Proof/Laws/Assoc.lean ====
section
/-! SUPPORT. Laws of sparse lists and of storage: reads after writes, and the canonical form. -/

namespace Sys2Proof.Machine

/-- An inserted key reads its value, another key reads as before. -/
theorem kvGet_kvInsert {α : Type} (d : α) (a : Nat) (v : α) (l : List (Nat × α)) (b : Nat) :
    kvGet d (kvInsert a v l) b = if b = a then v else kvGet d l b := by
  induction l with
  | nil => simp [kvInsert, kvGet]
  | cons e t ih =>
    obtain ⟨k, x⟩ := e
    by_cases h1 : a < k
    · simp [kvInsert, h1, kvGet]
    · by_cases h2 : a = k
      · subst h2; by_cases hb : b = a <;> simp [kvInsert, kvGet, hb]
      · simp only [kvInsert, h1, h2, if_false, kvGet, ih]
        by_cases hb : b = k
        · subst hb; simp [Ne.symm h2]
        · simp [hb]

/-- An erased key reads the default, another key reads as before. -/
theorem kvGet_kvErase {α : Type} (d : α) (l : List (Nat × α)) (a b : Nat) :
    kvGet d (kvErase l a) b = if b = a then d else kvGet d l b := by
  induction l with
  | nil => simp [kvErase, kvGet]
  | cons e t ih =>
    obtain ⟨k, x⟩ := e
    unfold kvErase at ih ⊢
    by_cases h : k = a
    · subst h
      rw [List.filter_cons_of_neg (by simp)]
      rw [ih]; by_cases hb : b = k <;> simp [kvGet, hb]
    · rw [List.filter_cons_of_pos (by simpa using h)]
      simp only [kvGet, ih]
      by_cases hb : b = k
      · subst hb; simp [h]
      · simp [hb]

/-- A set key reads its value, another key reads as before. -/
@[simp] theorem kvGet_kvSet {α : Type} [DecidableEq α] (d : α) (l : List (Nat × α)) (a : Nat) (v : α) (b : Nat) :
    kvGet d (kvSet d l a v) b = if b = a then v else kvGet d l b := by
  unfold kvSet
  split
  · next h => rw [kvGet_kvErase, h]
  · rw [kvGet_kvInsert]

/-- A strictly rising list, said through every pair. -/
theorem kvSorted_iff {α : Type} (l : List (Nat × α)) :
    kvSorted l = true ↔ l.Pairwise fun a b => a.1 < b.1 := by
  induction l with
  | nil => simp [kvSorted]
  | cons e t ih =>
    obtain ⟨k, x⟩ := e
    cases t with
    | nil => simp [kvSorted]
    | cons f t =>
      obtain ⟨k2, y⟩ := f
      simp only [kvSorted, Bool.and_eq_true, decide_eq_true_eq, ih, List.pairwise_cons (a := (k, x))]
      constructor
      · rintro ⟨h1, h2⟩
        refine ⟨?_, h2⟩
        intro z hz
        rcases List.mem_cons.1 hz with rfl | hz
        · exact h1
        · exact lt_trans h1 ((List.pairwise_cons.1 h2).1 z hz)
      · rintro ⟨h1, h2⟩
        exact ⟨h1 _ (List.mem_cons_self ..), h2⟩

/-- A member of a list after an insertion is the inserted entry or stood there before. -/
theorem mem_kvInsert {α : Type} (a : Nat) (v : α) (l : List (Nat × α)) (e : Nat × α) (h : e ∈ kvInsert a v l) :
    e = (a, v) ∨ e ∈ l := by
  induction l with
  | nil => simpa [kvInsert] using h
  | cons f t ih =>
    obtain ⟨k, x⟩ := f
    simp only [kvInsert] at h
    split at h
    · rcases List.mem_cons.1 h with h | h
      · exact .inl h
      · exact .inr h
    · split at h
      · rcases List.mem_cons.1 h with h | h
        · exact .inl h
        · exact .inr (List.mem_cons_of_mem _ h)
      · rcases List.mem_cons.1 h with h | h
        · exact .inr (h ▸ List.mem_cons_self ..)
        · rcases ih h with h | h
          · exact .inl h
          · exact .inr (List.mem_cons_of_mem _ h)

/-- Insertion keeps keys rising. -/
theorem kvSorted_kvInsert {α : Type} (a : Nat) (v : α) (l : List (Nat × α)) (h : kvSorted l = true) :
    kvSorted (kvInsert a v l) = true := by
  rw [kvSorted_iff] at h ⊢
  induction l with
  | nil => simp [kvInsert]
  | cons f t ih =>
    obtain ⟨k, x⟩ := f
    obtain ⟨h1, h2⟩ := List.pairwise_cons.1 h
    simp only [kvInsert]
    split
    · next hlt =>
      refine List.pairwise_cons.2 ⟨?_, h⟩
      intro z hz
      rcases List.mem_cons.1 hz with rfl | hz
      · exact hlt
      · exact lt_trans hlt (h1 z hz)
    · next hlt =>
      split
      · next heq => subst heq; exact List.pairwise_cons.2 ⟨h1, h2⟩
      · next hne =>
        refine List.pairwise_cons.2 ⟨?_, ih h2⟩
        intro z hz
        rcases mem_kvInsert a v t z hz with rfl | hz
        · exact lt_of_le_of_ne (Nat.le_of_not_lt hlt) (Ne.symm hne)
        · exact h1 z hz

/-- Setting a key keeps the canonical form. -/
theorem kvWf_kvSet {α : Type} [DecidableEq α] (d : α) (l : List (Nat × α)) (a : Nat) (v : α) (h : kvWf d l = true) :
    kvWf d (kvSet d l a v) = true := by
  simp only [kvWf, Bool.and_eq_true, List.all_eq_true, bne_iff_ne] at h ⊢
  obtain ⟨h1, h2⟩ := h
  unfold kvSet
  split
  · refine ⟨?_, fun e he => h2 e (List.mem_of_mem_filter he)⟩
    rw [kvSorted_iff] at h1 ⊢
    exact h1.filter _
  · next hv =>
    refine ⟨kvSorted_kvInsert a v l h1, fun e he => ?_⟩
    rcases mem_kvInsert a v l e he with rfl | he
    · exact hv
    · exact h2 e he

/-! ## Storage -/

/-- A byte after one byte is written. -/
@[simp] theorem readByte_writeByte (m : Store) (a b : Loc) (v : Byte) :
    readByte (writeByte m a v) b = if b = a then v else readByte m b := by
  simp [readByte, writeByte]

/-- Bytes outside a written run read as before. -/
theorem readByte_writeNat_of_not_mem (m : Store) (a b : Nat) (n v : Nat) (h : b < a ∨ a + n ≤ b) :
    readByte (writeNat m a n v) b = readByte m b := by
  induction n generalizing m a v with
  | zero => rfl
  | succ n ih =>
    have hne : b ≠ a := by omega
    simp only [writeNat]
    rw [ih _ _ _ (by omega), readByte_writeByte, if_neg hne]

/-- A written run reads back as its value, modulo its width. -/
theorem readNat_writeNat (m : Store) (a : Nat) (n v : Nat) :
    readNat (writeNat m a n v) a n = v % 256 ^ n := by
  induction n generalizing m a v with
  | zero => simp [readNat, Nat.mod_one]
  | succ n ih =>
    simp only [readNat, writeNat]
    rw [readByte_writeNat_of_not_mem _ _ _ _ _ (by omega), readByte_writeByte, if_pos rfl, ih]
    have h : (BitVec.ofNat 8 v).toNat = v % 256 := BitVec.toNat_ofNat ..
    rw [h, Nat.pow_succ', Nat.mod_mul]

/-- Every write to storage keeps its canonical form. -/
theorem wf_writeByte (m : Store) (a : Loc) (v : Byte) (h : Memory.wf m = true) : Memory.wf (writeByte m a v) = true := by
  simp only [Memory.wf, Bool.and_eq_true, writeByte] at h ⊢
  exact ⟨⟨kvWf_kvSet _ _ _ _ h.1.1, h.1.2⟩, h.2⟩
/-- Writing a run of bytes keeps the canonical form. -/
theorem wf_writeNat (m : Store) (a : Loc) (n v : Nat) (h : Memory.wf m = true) : Memory.wf (writeNat m a n v) = true := by
  induction n generalizing m a v with
  | zero => exact h
  | succ n ih => exact ih _ _ _ (wf_writeByte m a _ h)
/-- Setting a granule's code keeps the canonical form. -/
theorem wf_setGranSyn (m : Store) (g : Nat) (x : BitVec 16) (h : Memory.wf m = true) :
    Memory.wf (setGranSyn m g x) = true := by
  simp only [Memory.wf, Bool.and_eq_true, setGranSyn] at h ⊢
  exact ⟨⟨h.1.1, kvWf_kvSet _ _ _ _ h.1.2⟩, h.2⟩
/-- Setting a line's metadata keeps the canonical form. -/
theorem wf_setLineMeta (m : Store) (l : Nat) (x : Byte) (h : Memory.wf m = true) :
    Memory.wf (setLineMeta m l x) = true := by
  simp only [Memory.wf, Bool.and_eq_true, setLineMeta] at h ⊢
  exact ⟨⟨h.1.1, h.1.2⟩, kvWf_kvSet _ _ _ _ h.2⟩
/-- Storage right after reset is in canonical form. -/
theorem wf_reset : Memory.wf State.reset.mem = true := rfl

end Sys2Proof.Machine
end

