-- ==== Sys2Proof/Laws/State.lean ====
section
/-! SUPPORT. What the named updates of State change and leave, one lemma a field and update. -/

namespace Sys2Proof.Machine

/-- A slot after one slot is written. -/
@[simp] theorem getSlot_setSlot (s : State) (k j : Nat) (x : Slot) :
    getSlot (setSlot s k x) j = if j = k then x else getSlot s j := by
  simp [getSlot, setSlot]
@[simp] theorem setSlot_mem (s : State) (k : Nat) (x : Slot) : (setSlot s k x).mem = s.mem := rfl
@[simp] theorem setSlot_turn (s : State) (k : Nat) (x : Slot) : (setSlot s k x).turn = s.turn := rfl
@[simp] theorem setSlot_time (s : State) (k : Nat) (x : Slot) : (setSlot s k x).time = s.time := rfl
@[simp] theorem setSlot_agenda (s : State) (k : Nat) (x : Slot) : (setSlot s k x).agenda = s.agenda := rfl
@[simp] theorem setSlot_dies (s : State) (k : Nat) (x : Slot) : (setSlot s k x).dies = s.dies := rfl
@[simp] theorem setSlot_jobs (s : State) (k : Nat) (x : Slot) : (setSlot s k x).jobs = s.jobs := rfl
@[simp] theorem setSlot_nextUid (s : State) (k : Nat) (x : Slot) : (setSlot s k x).nextUid = s.nextUid := rfl
@[simp] theorem getSlot_updSlot (s : State) (k j : Nat) (f : Slot → Slot) :
    getSlot (updSlot s k f) j = if j = k then f (getSlot s k) else getSlot s j := by simp [updSlot]
@[simp] theorem updSlot_mem (s : State) (k : Nat) (f : Slot → Slot) : (updSlot s k f).mem = s.mem := rfl
@[simp] theorem updSlot_turn (s : State) (k : Nat) (f : Slot → Slot) : (updSlot s k f).turn = s.turn := rfl
@[simp] theorem updSlot_time (s : State) (k : Nat) (f : Slot → Slot) : (updSlot s k f).time = s.time := rfl
@[simp] theorem updSlot_agenda (s : State) (k : Nat) (f : Slot → Slot) : (updSlot s k f).agenda = s.agenda := rfl
@[simp] theorem updSlot_dies (s : State) (k : Nat) (f : Slot → Slot) : (updSlot s k f).dies = s.dies := rfl
@[simp] theorem updSlot_jobs (s : State) (k : Nat) (f : Slot → Slot) : (updSlot s k f).jobs = s.jobs := rfl
@[simp] theorem updSeq_mem (s : State) (t : Thread) (f : SeqSt → SeqSt) : (updSeq s t f).mem = s.mem := rfl
@[simp] theorem updSeq_turn (s : State) (t : Thread) (f : SeqSt → SeqSt) : (updSeq s t f).turn = s.turn := rfl
@[simp] theorem updSeq_agenda (s : State) (t : Thread) (f : SeqSt → SeqSt) : (updSeq s t f).agenda = s.agenda := rfl
@[simp] theorem enqueue_mem (s : State) (w : Happening) : (enqueue s w).mem = s.mem := rfl
@[simp] theorem enqueue_slots (s : State) (w : Happening) : (enqueue s w).slots = s.slots := rfl
@[simp] theorem enqueue_turn (s : State) (w : Happening) : (enqueue s w).turn = s.turn := rfl
@[simp] theorem enqueue_agenda (s : State) (w : Happening) : (enqueue s w).agenda = s.agenda ++ [⟨0, w⟩] := rfl
@[simp] theorem getSlot_enqueue (s : State) (w : Happening) (k : Nat) : getSlot (enqueue s w) k = getSlot s k := rfl
@[simp] theorem draw_mem (s : State) : (draw s).2.mem = s.mem := rfl
@[simp] theorem draw_slots (s : State) : (draw s).2.slots = s.slots := rfl
@[simp] theorem draw_draws (s : State) : (draw s).2.draws = s.draws + 1 := rfl
@[simp] theorem takeUid_mem (s : State) : (takeUid s).2.mem = s.mem := rfl
@[simp] theorem takeUid_slots (s : State) : (takeUid s).2.slots = s.slots := rfl
@[simp] theorem takeUid_nextUid (s : State) : (takeUid s).2.nextUid = s.nextUid + 1 := rfl
@[simp] theorem takeUid_fst (s : State) : (takeUid s).1 = s.nextUid := rfl
@[simp] theorem setJob_mem (s : State) (j : Nat) (x : Job) : (setJob s j x).mem = s.mem := rfl
@[simp] theorem setJob_slots (s : State) (j : Nat) (x : Job) : (setJob s j x).slots = s.slots := rfl
@[simp] theorem getJob_setJob (s : State) (k j : Nat) (x : Job) :
    getJob (setJob s k x) j = if j = k then x else getJob s j := by simp [getJob, setJob]
@[simp] theorem setView_mem (s : State) (c l : Nat) (v : CLine) : (setView s c l v).mem = s.mem := rfl
@[simp] theorem setView_slots (s : State) (c l : Nat) (v : CLine) : (setView s c l v).slots = s.slots := rfl
@[simp] theorem setSeq_mem (s : State) (t : Thread) (v : SeqSt) : (setSeq s t v).mem = s.mem := rfl

/-- A written sequencer is read back, in every mode. -/
@[simp] theorem seq_setSeq (x : Slot) (q : Seq) (v : SeqSt) : (x.setSeq q v).seq q = v := by
  cases q <;> (simp only [Slot.setSeq, Slot.seq]; try (split <;> simp_all))
/-- Writing a sequencer leaves the mode. -/
@[simp] theorem setSeq_mode (x : Slot) (q : Seq) (v : SeqSt) : (x.setSeq q v).mode = x.mode := by
  cases q <;> (simp only [Slot.setSeq]; try (split <;> rfl))
/-- A thread's sequencer after a change of it. -/
@[simp] theorem getSeq_updSeq (s : State) (t : Thread) (f : SeqSt → SeqSt) :
    getSeq (updSeq s t f) t = f (getSeq s t) := by
  simp [updSeq, setSeq, getSeq]

end Sys2Proof.Machine
end

