-- ==== Sys2Proof/Laws/Issue.lean ====
section
/-! SUPPORT. What the shared operations of an issuing word do: one lemma each, to be cited instead of unfolding. -/

namespace Sys2Proof.Machine

/-- A word that issues has its effect put into effect. -/
theorem issueFull_of_issues {i : Instr} {n : Nib} {w g : Option (Bool × Nat)} {d : Option RDest} {r : Reads}
    {eff : State → Thread → Res} {s : State} (h : issues i n w r s = true) :
    issueFull i n w g d r eff s =
      finish s s.turn (wordsOf i) (waitsOf s.turn.seq n w) (sigsOf s.turn.seq n g) (eff s s.turn) := by
  simp only [issues, Bool.and_eq_true, Bool.not_eq_true', turnSlot, getSeq, Option.isNone_iff_eq_none] at h
  obtain ⟨⟨⟨⟨⟨⟨h1, h2⟩, h3⟩, h4⟩, h5⟩, h6⟩, h7⟩ := h
  simp [issueFull, h1, h2, h3, h4, h5, h6, h7]

/-- A word that issues and is done at once. -/
theorem yields_of_done {i : Instr} {n : Nib} {d : Option RDest} {r : Reads} {eff : State → Thread → Res} {s s1 : State}
    (he : exec i s = issueWord i n d r eff s) (h : eff s s.turn = .done s1) : yields i n r s s1 := by
  intro hi
  rw [he, issueWord, issueFull_of_issues hi, h]; rfl

/-- A word that issues and is a taken transfer. -/
theorem jumps_of_jump {i : Instr} {n : Nib} {d : Option RDest} {r : Reads} {eff : State → Thread → Res} {s s1 : State}
    {a : Word} (he : exec i s = issueWord i n d r eff s) (h : eff s s.turn = .jump s1 a) : jumps i n r s s1 a := by
  intro hi
  rw [he, issueWord, issueFull_of_issues hi, h]; rfl

/-- A word that issues and has work left. -/
theorem pends_of_pend {i : Instr} {n : Nib} {d : Option RDest} {r : Reads} {eff : State → Thread → Res} {s s1 : State}
    {tag : Nat} {w : Work} (he : exec i s = issueWord i n d r eff s) (h : eff s s.turn = .pend s1 tag w) :
    pends i n r s s1 tag w := by
  intro hi
  rw [he, issueWord, issueFull_of_issues hi, h]; rfl

/-- A word that traps at its effect. -/
theorem entersTrap_of_trap {i : Instr} {n : Nib} {d : Option RDest} {r : Reads} {eff : State → Thread → Res}
    {s s1 : State} {tr : Trap} (he : exec i s = issueWord i n d r eff s) (h : eff s s.turn = .trap s1 tr) :
    entersTrap i n r s s1 tr := by
  intro hi
  rw [he, issueWord, issueFull_of_issues hi, h]; rfl

/-- A word whose effect answers `wait` waits. -/
theorem waitsAt_of_wait {i : Instr} {n : Nib} {d : Option RDest} {r : Reads} {eff : State → Thread → Res} {s s1 : State}
    {b : Bool} (he : exec i s = issueWord i n d r eff s) (h : eff s s.turn = .wait s1 b) : waitsAt i n r s s1 b := by
  intro hi
  rw [he, issueWord, issueFull_of_issues hi, h]; rfl

/-- A word whose effect answers `bad` meets that error. -/
theorem meetsError_of_bad {i : Instr} {n : Nib} {d : Option RDest} {r : Reads} {eff : State → Thread → Res} {s s1 : State}
    {b : Bad} (he : exec i s = issueWord i n d r eff s) (h : eff s s.turn = .bad s1 b) : meetsError i n r s s1 b := by
  intro hi
  rw [he, issueWord, issueFull_of_issues hi, h]; rfl

/-- A computing word that does not trap. -/
theorem yields_of_eval {i : Instr} {n : Nib} {a : Alu} {s : State} {v : AVal} {f : Word}
    (he : exec i s = issueAlu i n a s) (h : a.eval s s.turn = .ok v f) :
    yields i n { scalars := a.scalars, vectors := a.vectors } s (writeAlu s s.turn a.dst v f) :=
  yields_of_done (d := a.dst) (eff := aluEff a) he (by simp [aluEff, h])

/-- A reserved entry's filling keeps the number of entries of every queue. -/
theorem fillQueue_length (x : Slot) (k j : BitVec 3) (tag : Nat) (v : QVal) :
    (vget (fillQueue x k tag v).queues j).length = (vget x.queues j).length := by
  unfold fillQueue vset vget
  simp only [Vector.getElem_set]
  split
  · next h => simp [h]
  · rfl

/-- Slot y is x but for token counters and the entries of its queues, as many as before. -/
def Slot.tokOnly (x y : Slot) : Prop :=
  y = { x with tok := y.tok, queues := y.queues } ∧ ∀ k : BitVec 3, (vget y.queues k).length = (vget x.queues k).length

theorem Slot.tokOnly_refl (x : Slot) : Slot.tokOnly x x := ⟨rfl, fun _ => rfl⟩
theorem Slot.tokOnly_trans {x y z : Slot} (h : Slot.tokOnly x y) (g : Slot.tokOnly y z) : Slot.tokOnly x z := by
  refine ⟨?_, fun k => (g.2 k).trans (h.2 k)⟩
  rw [g.1, h.1]

/-- Retirement changes token counters and fills reserved entries. -/
theorem retire_tokOnly (l : List Outst) (x : Slot) (b : List (BitVec 3)) (st : Bool) :
    Slot.tokOnly x (retire x b st l).1 := by
  induction l generalizing x b st with
  | nil => exact Slot.tokOnly_refl x
  | cons o t ih =>
    simp only [retire]
    split
    · next k v h1 h2 =>
      split
      · exact Slot.tokOnly_trans ⟨rfl, fun j => fillQueue_length x k j o.tag v⟩
          (Slot.tokOnly_trans ⟨rfl, fun _ => rfl⟩ (ih _ _ _))
      · exact Slot.tokOnly_trans ⟨rfl, fun j => fillQueue_length x k j o.tag v⟩ (ih _ _ _)
    · split
      · exact Slot.tokOnly_trans ⟨rfl, fun _ => rfl⟩ (ih _ _ _)
      · exact ih _ _ _

theorem SeqSt.kept_refl (a : SeqSt) : SeqSt.kept a a := rfl
theorem SeqSt.kept_trans {a b c : SeqSt} (h : SeqSt.kept a b) (g : SeqSt.kept b c) : SeqSt.kept a c := by
  unfold SeqSt.kept at *
  rw [g, h]
theorem SeqSt.moved_kept {a b c : SeqSt} (h : SeqSt.moved a b) (g : SeqSt.kept b c) : SeqSt.moved a c := by
  unfold SeqSt.kept SeqSt.moved at *
  rw [g, h]

/-- Slot y is x but for token counters, the filling of reserved entries, and the words under way. -/
def Slot.quiet (x y : Slot) : Prop :=
  y = { x with k := y.k, ksup := y.ksup, l := y.l, c := y.c, s := y.s, tok := y.tok, queues := y.queues }
    ∧ (∀ k : BitVec 3, (vget y.queues k).length = (vget x.queues k).length)
    ∧ SeqSt.kept x.k y.k ∧ SeqSt.kept x.ksup y.ksup ∧ SeqSt.kept x.l y.l ∧ SeqSt.kept x.c y.c ∧ SeqSt.kept x.s y.s

theorem Slot.quiet_trans {x y z : Slot} (h : Slot.quiet x y) (g : Slot.quiet y z) : Slot.quiet x z := by
  obtain ⟨h0, h1, h2, h3, h4, h5, h6⟩ := h
  obtain ⟨g0, g1, g2, g3, g4, g5, g6⟩ := g
  refine ⟨?_, fun k => (g1 k).trans (h1 k), SeqSt.kept_trans h2 g2, SeqSt.kept_trans h3 g3, SeqSt.kept_trans h4 g4,
    SeqSt.kept_trans h5 g5, SeqSt.kept_trans h6 g6⟩
  rw [g0, h0]

theorem Slot.quiet_of_tokOnly {x y : Slot} (h : Slot.tokOnly x y) : Slot.quiet x y := by
  obtain ⟨h1, h2⟩ := h
  refine ⟨?_, h2, ?_, ?_, ?_, ?_, ?_⟩
  · rw [h1]
  all_goals rw [h1]; exact SeqSt.kept_refl _

theorem quiet_k (x : Slot) (l : List Outst) : Slot.quiet x { x with k := { x.k with outst := l } } :=
  ⟨rfl, fun _ => rfl, rfl, rfl, rfl, rfl, rfl⟩
theorem quiet_ksup (x : Slot) (l : List Outst) : Slot.quiet x { x with ksup := { x.ksup with outst := l } } :=
  ⟨rfl, fun _ => rfl, rfl, rfl, rfl, rfl, rfl⟩
theorem quiet_l (x : Slot) (l : List Outst) : Slot.quiet x { x with l := { x.l with outst := l } } :=
  ⟨rfl, fun _ => rfl, rfl, rfl, rfl, rfl, rfl⟩
theorem quiet_c (x : Slot) (l : List Outst) : Slot.quiet x { x with c := { x.c with outst := l } } :=
  ⟨rfl, fun _ => rfl, rfl, rfl, rfl, rfl, rfl⟩
theorem quiet_s (x : Slot) (l : List Outst) : Slot.quiet x { x with s := { x.s with outst := l } } :=
  ⟨rfl, fun _ => rfl, rfl, rfl, rfl, rfl, rfl⟩

theorem quiet_retireSeq (x : Slot) (get : Slot → SeqSt) (put : Slot → SeqSt → Slot)
    (h : ∀ (y : Slot) (l : List Outst), Slot.quiet y (put y { get y with outst := l })) :
    Slot.quiet x (retireSeq x get put) :=
  Slot.quiet_trans (Slot.quiet_of_tokOnly (retire_tokOnly (get x).outst x [] false)) (h _ _)

/-- A slot's settling: token counters, reserved entries, and the words under way of each sequencer. -/
theorem settle_quiet (x : Slot) : Slot.quiet x (settle x) := by
  unfold settle
  refine Slot.quiet_trans (quiet_retireSeq x (·.k) (fun x v => { x with k := v }) quiet_k) ?_
  refine Slot.quiet_trans (quiet_retireSeq _ (·.ksup) (fun x v => { x with ksup := v }) quiet_ksup) ?_
  refine Slot.quiet_trans (quiet_retireSeq _ (·.l) (fun x v => { x with l := v }) quiet_l) ?_
  refine Slot.quiet_trans (quiet_retireSeq _ (·.c) (fun x v => { x with c := v }) quiet_c) ?_
  exact quiet_retireSeq _ (·.s) (fun x v => { x with s := v }) quiet_s

/-- Counting a word in its segment leaves the sequencer but for the count. -/
theorem segCount_frame (q : SeqSt) (e : Enc) :
    segCount q e = { q with segCnt := (segCount q e).segCnt, segSig := (segCount q e).segSig } := by
  by_cases h : (q.segOpen && opcodeOf e.1 != 0x14 && opcodeOf e.1 != 0x15) = true
  · have e1 : segCount q e = _ := if_pos h
    rw [e1]
  · have e1 : segCount q e = q := if_neg h
    rw [e1]

/-- A slot settled after its thread's sequencer moved on. -/
theorem movedOn_of_quiet {x z : Slot} {q : Seq} {v : SeqSt} {tok : Vector (BitVec 4) (2 ^ 3)} {f g : List (Seq × Nat)}
    (hv : SeqSt.moved (x.seq q) v) (hz : Slot.quiet { x.setSeq q v with tok := tok, deadlock := 0, fence := f, relAt := g } z) :
    Slot.movedOn q x z := by
  have frame : ∀ y : Slot, y.deadlock = 0 → y.fence = f → y.relAt = g → Slot.quiet y z →
      y = { x with k := y.k, l := y.l, c := y.c, s := y.s, ksup := y.ksup, tok := y.tok, deadlock := 0, fence := f,
                   relAt := g } →
      z = { x with k := z.k, l := z.l, c := z.c, s := z.s, ksup := z.ksup, tok := z.tok, queues := z.queues,
                   deadlock := z.deadlock, fence := z.fence, relAt := z.relAt } := by
    intro y h1 h2 h2' h3 h4
    have d : z.deadlock = 0 := by rw [h3.1]; exact h1
    have e : z.fence = f := by rw [h3.1]; exact h2
    have e' : z.relAt = g := by rw [h3.1]; exact h2'
    have g := h3.1
    rw [h4] at g
    rw [d, e, e']
    exact g
  cases q with
  | K =>
    by_cases hm : x.mode = .user
    · have e : x.setSeq .K v = { x with k := v } := if_pos hm
      have e' : x.seq .K = x.k := if_pos hm
      rw [e] at hz
      rw [e'] at hv
      have hz' := hz
      obtain ⟨_, z1, z2, z3, z4, z5, z6⟩ := hz
      exact ⟨frame _ rfl rfl rfl hz' rfl, z1, by rw [if_pos ⟨rfl, hm⟩]; exact SeqSt.moved_kept hv z2,
        by rw [if_neg (fun h => h.2 hm)]; exact z3, z4, z5, z6⟩
    · have e : x.setSeq .K v = { x with ksup := v } := if_neg hm
      have e' : x.seq .K = x.ksup := if_neg hm
      rw [e] at hz
      rw [e'] at hv
      have hz' := hz
      obtain ⟨_, z1, z2, z3, z4, z5, z6⟩ := hz
      exact ⟨frame _ rfl rfl rfl hz' rfl, z1, by rw [if_neg (fun h => hm h.2)]; exact z2,
        by rw [if_pos ⟨rfl, hm⟩]; exact SeqSt.moved_kept hv z3, z4, z5, z6⟩
  | L =>
    have hz' := hz
    obtain ⟨_, z1, z2, z3, z4, z5, z6⟩ := hz
    exact ⟨frame _ rfl rfl rfl hz' rfl, z1, z2, z3, SeqSt.moved_kept hv z4, z5, z6⟩
  | C =>
    have hz' := hz
    obtain ⟨_, z1, z2, z3, z4, z5, z6⟩ := hz
    exact ⟨frame _ rfl rfl rfl hz' rfl, z1, z2, z3, z4, SeqSt.moved_kept hv z5, z6⟩
  | S =>
    have hz' := hz
    obtain ⟨_, z1, z2, z3, z4, z5, z6⟩ := hz
    exact ⟨frame _ rfl rfl rfl hz' rfl, z1, z2, z3, z4, z5, SeqSt.moved_kept hv z6⟩

/-- A change of a slot changes the slots alone. -/
theorem updSlot_slots (s : State) (k : Nat) (f : Slot → Slot) : updSlot s k f = { s with slots := (updSlot s k f).slots } :=
  rfl

/-- A retired word's slot and state: everything but what `movedOn` names is as it was. -/
theorem retireWord_frame (s : State) (t : Thread) (e : Enc) (ws sigs : List (BitVec 3 × Nat)) (o : Option (Nat × Work)) :
    State.onlySlot t.slot s (retireWord s t e ws sigs o)
      ∧ Slot.movedOn t.seq (getSlot s t.slot) (getSlot (retireWord s t e ws sigs o) t.slot) := by
  refine ⟨⟨updSlot_slots _ _ _, fun j hj => ?_⟩, ?_⟩
  · rw [retireWord, getSlot_updSlot, if_neg hj]
  · simp only [retireWord, getSlot_updSlot, if_true]
    refine movedOn_of_quiet ?_ (settle_quiet _)
    rw [segCount_frame]
    rfl

end Sys2Proof.Machine
end

