-- ==== Sys2Proof/Laws/PerInstr.lean ====
section
/-! SUPPORT. One lemma per constructor: the encoder answers words exactly for the rows that a sequencer fetches. -/

namespace Sys2Proof

/-- An instruction has an encoding where it is a word of a sequencer, and only there (12 R303, R307). -/
def Laws.EncodesIffWord.Statement (i : Instr) : Prop := (encode i).isSome = i.isWord

theorem Laws.EncodesIffWord.start (a : StartArgs) : Laws.EncodesIffWord.Statement (.start a) := rfl
theorem Laws.EncodesIffWord.scanReadout (t : ScanTarget) : Laws.EncodesIffWord.Statement (.scanReadout t) := rfl
theorem Laws.EncodesIffWord.unlockToken (challenge token : List Byte) : Laws.EncodesIffWord.Statement (.unlockToken challenge token) := rfl
theorem Laws.EncodesIffWord.powerSample (watts : Nat) : Laws.EncodesIffWord.Statement (.powerSample watts) := rfl
theorem Laws.EncodesIffWord.powerLimit (thermal : Bool) : Laws.EncodesIffWord.Statement (.powerLimit thermal) := rfl
theorem Laws.EncodesIffWord.thermalSample (die : Nat) (temp : Nat) : Laws.EncodesIffWord.Statement (.thermalSample die temp) := rfl
theorem Laws.EncodesIffWord.dieFenced (cause : FenceCause) : Laws.EncodesIffWord.Statement (.dieFenced cause) := rfl
theorem Laws.EncodesIffWord.distributorHeartbeat (die : Nat) : Laws.EncodesIffWord.Statement (.distributorHeartbeat die) := rfl
theorem Laws.EncodesIffWord.invalidFlit (port : Nat) (f : Flit) : Laws.EncodesIffWord.Statement (.invalidFlit port f) := rfl
theorem Laws.EncodesIffWord.linkRetry (port : Nat) : Laws.EncodesIffWord.Statement (.linkRetry port) := rfl
theorem Laws.EncodesIffWord.portDown (port : Nat) : Laws.EncodesIffWord.Statement (.portDown port) := rfl
theorem Laws.EncodesIffWord.deviceLost (dev : BitVec 12) : Laws.EncodesIffWord.Statement (.deviceLost dev) := rfl
theorem Laws.EncodesIffWord.relFabricTimeout (slot : Nat) (q : Seq) : Laws.EncodesIffWord.Statement (.relFabricTimeout slot q) := rfl
theorem Laws.EncodesIffWord.collectiveTimeout (coll : Nat) : Laws.EncodesIffWord.Statement (.collectiveTimeout coll) := rfl
theorem Laws.EncodesIffWord.shardComplete (coll : Nat) (shard : Nat) : Laws.EncodesIffWord.Statement (.shardComplete coll shard) := rfl
theorem Laws.EncodesIffWord.collectiveComplete (coll : Nat) : Laws.EncodesIffWord.Statement (.collectiveComplete coll) := rfl
theorem Laws.EncodesIffWord.gangTimeout (lgid : BitVec 32) : Laws.EncodesIffWord.Statement (.gangTimeout lgid) := rfl
theorem Laws.EncodesIffWord.gangReservationExpiry (lgid : BitVec 32) : Laws.EncodesIffWord.Statement (.gangReservationExpiry lgid) := rfl
theorem Laws.EncodesIffWord.killDone (job : Nat) : Laws.EncodesIffWord.Statement (.killDone job) := rfl
theorem Laws.EncodesIffWord.hostCompletionTimeout (job : Nat) : Laws.EncodesIffWord.Statement (.hostCompletionTimeout job) := rfl
theorem Laws.EncodesIffWord.ckptDone (st : CkptStatus) : Laws.EncodesIffWord.Statement (.ckptDone st) := rfl
theorem Laws.EncodesIffWord.queueSlotAccept (job : Nat) (desc : Word) : Laws.EncodesIffWord.Statement (.queueSlotAccept job desc) := rfl
theorem Laws.EncodesIffWord.queueStall (job : Nat) (desc : Word) : Laws.EncodesIffWord.Statement (.queueStall job desc) := rfl
theorem Laws.EncodesIffWord.issuePacket (job : Nat) (desc : Word) (record : Word) (kind : Byte) (rest : List Byte) : Laws.EncodesIffWord.Statement (.issuePacket job desc record kind rest) := rfl
theorem Laws.EncodesIffWord.collRequest (job : Nat) (desc : Word) (record : Word) (rest : List Byte) : Laws.EncodesIffWord.Statement (.collRequest job desc record rest) := rfl
theorem Laws.EncodesIffWord.pageWalk (die : Nat) (job : Nat) (va : Word) : Laws.EncodesIffWord.Statement (.pageWalk die job va) := rfl
theorem Laws.EncodesIffWord.walkRestart (die : Nat) (job : Nat) (va : Word) : Laws.EncodesIffWord.Statement (.walkRestart die job va) := rfl
theorem Laws.EncodesIffWord.engineFault (slot : Nat) (eng : Nat) : Laws.EncodesIffWord.Statement (.engineFault slot eng) := rfl
theorem Laws.EncodesIffWord.engineFaultResume (source : BitVec 32) (eng : BitVec 8) : Laws.EncodesIffWord.Statement (.engineFaultResume source eng) := rfl
theorem Laws.EncodesIffWord.engineFaultAbort (source : BitVec 32) (eng : BitVec 8) : Laws.EncodesIffWord.Statement (.engineFaultAbort source eng) := rfl
theorem Laws.EncodesIffWord.biasFlipToHost (region : BitVec 36) : Laws.EncodesIffWord.Statement (.biasFlipToHost region) := rfl
theorem Laws.EncodesIffWord.biasFlipToDevice (region : BitVec 36) : Laws.EncodesIffWord.Statement (.biasFlipToDevice region) := rfl
theorem Laws.EncodesIffWord.biasFlipComplete (region : Nat) : Laws.EncodesIffWord.Statement (.biasFlipComplete region) := rfl
theorem Laws.EncodesIffWord.migrate (die : Nat) (region : Nat) (deviceSide : Bool) : Laws.EncodesIffWord.Statement (.migrate die region deviceSide) := rfl
theorem Laws.EncodesIffWord.taskEnd (slot : Nat) : Laws.EncodesIffWord.Statement (.taskEnd slot) := rfl
theorem Laws.EncodesIffWord.recordAging (cluster : Nat) (job : Nat) (prio : Nat) : Laws.EncodesIffWord.Statement (.recordAging cluster job prio) := rfl
theorem Laws.EncodesIffWord.gangReservationTimeout (gang : Nat) : Laws.EncodesIffWord.Statement (.gangReservationTimeout gang) := rfl
theorem Laws.EncodesIffWord.preemptionDelay (cluster : Nat) : Laws.EncodesIffWord.Statement (.preemptionDelay cluster) := rfl
theorem Laws.EncodesIffWord.barrierForward (die : Nat) (bar : Nat) (lost : Bool) : Laws.EncodesIffWord.Statement (.barrierForward die bar lost) := rfl
theorem Laws.EncodesIffWord.instanceGrant (slot : Nat) : Laws.EncodesIffWord.Statement (.instanceGrant slot) := rfl
theorem Laws.EncodesIffWord.escapementSample (graph : Nat) : Laws.EncodesIffWord.Statement (.escapementSample graph) := rfl
theorem Laws.EncodesIffWord.balanceDecision (graph : Nat) : Laws.EncodesIffWord.Statement (.balanceDecision graph) := rfl
theorem Laws.EncodesIffWord.commandPull (slot : Nat) (eng : Nat) : Laws.EncodesIffWord.Statement (.commandPull slot eng) := rfl
theorem Laws.EncodesIffWord.decoupleDeadlock (slot : Nat) (cycles : Nat) : Laws.EncodesIffWord.Statement (.decoupleDeadlock slot cycles) := rfl
theorem Laws.EncodesIffWord.loadDelivery (slot : Nat) (q : Seq) (tag : Nat) : Laws.EncodesIffWord.Statement (.loadDelivery slot q tag) := rfl
theorem Laws.EncodesIffWord.regionDrainComplete (slot : Nat) : Laws.EncodesIffWord.Statement (.regionDrainComplete slot) := rfl
theorem Laws.EncodesIffWord.copyPacketComplete (slot : Nat) (ctx : Nat) : Laws.EncodesIffWord.Statement (.copyPacketComplete slot ctx) := rfl
theorem Laws.EncodesIffWord.matrixCommandComplete (slot : Nat) : Laws.EncodesIffWord.Statement (.matrixCommandComplete slot) := rfl
theorem Laws.EncodesIffWord.gatherComplete (slot : Nat) : Laws.EncodesIffWord.Statement (.gatherComplete slot) := rfl
theorem Laws.EncodesIffWord.streamTile (sub : Nat) : Laws.EncodesIffWord.Statement (.streamTile sub) := rfl
theorem Laws.EncodesIffWord.streamComplete (sub : Nat) : Laws.EncodesIffWord.Statement (.streamComplete sub) := rfl
theorem Laws.EncodesIffWord.fpReduceContribution (p : RedPacket) : Laws.EncodesIffWord.Statement (.fpReduceContribution p) := rfl
theorem Laws.EncodesIffWord.fpReduceTimeout (table : Loc) : Laws.EncodesIffWord.Statement (.fpReduceTimeout table) := rfl
theorem Laws.EncodesIffWord.eccCounterRead (die : Nat) : Laws.EncodesIffWord.Statement (.eccCounterRead die) := rfl
theorem Laws.EncodesIffWord.nop (n : Nib) : Laws.EncodesIffWord.Statement (.nop n) := rfl
theorem Laws.EncodesIffWord.br (n : Nib) (off : BitVec 20) : Laws.EncodesIffWord.Statement (.br n off) := rfl
theorem Laws.EncodesIffWord.beq (n : Nib) (a b : Opnd) (off : BitVec 8) : Laws.EncodesIffWord.Statement (.beq n a b off) := rfl
theorem Laws.EncodesIffWord.bne (n : Nib) (a b : Opnd) (off : BitVec 8) : Laws.EncodesIffWord.Statement (.bne n a b off) := rfl
theorem Laws.EncodesIffWord.blt (n : Nib) (a b : Opnd) (off : BitVec 8) : Laws.EncodesIffWord.Statement (.blt n a b off) := rfl
theorem Laws.EncodesIffWord.bge (n : Nib) (a b : Opnd) (off : BitVec 8) : Laws.EncodesIffWord.Statement (.bge n a b off) := rfl
theorem Laws.EncodesIffWord.bltu (n : Nib) (a b : Opnd) (off : BitVec 8) : Laws.EncodesIffWord.Statement (.bltu n a b off) := rfl
theorem Laws.EncodesIffWord.bgeu (n : Nib) (a b : Opnd) (off : BitVec 8) : Laws.EncodesIffWord.Statement (.bgeu n a b off) := rfl
theorem Laws.EncodesIffWord.bz (n : Nib) (a : Opnd) (off : BitVec 14) : Laws.EncodesIffWord.Statement (.bz n a off) := rfl
theorem Laws.EncodesIffWord.bnz (n : Nib) (a : Opnd) (off : BitVec 14) : Laws.EncodesIffWord.Statement (.bnz n a off) := rfl
theorem Laws.EncodesIffWord.call (n : Nib) (off : BitVec 20) : Laws.EncodesIffWord.Statement (.call n off) := rfl
theorem Laws.EncodesIffWord.calli (n : Nib) (a : Opnd) (off : BitVec 14) : Laws.EncodesIffWord.Statement (.calli n a off) := rfl
theorem Laws.EncodesIffWord.ret (n : Nib) (a : Opnd) : Laws.EncodesIffWord.Statement (.ret n a) := rfl
theorem Laws.EncodesIffWord.jmpi (n : Nib) (a : Opnd) (off : BitVec 14) : Laws.EncodesIffWord.Statement (.jmpi n a off) := rfl
theorem Laws.EncodesIffWord.loop (n : Nib) (off : BitVec 20) : Laws.EncodesIffWord.Statement (.loop n off) := rfl
theorem Laws.EncodesIffWord.setlc (n : Nib) (a b : Opnd) : Laws.EncodesIffWord.Statement (.setlc n a b) := rfl
theorem Laws.EncodesIffWord.stage (k : BitVec 3) : Laws.EncodesIffWord.Statement (.stage k) := rfl
theorem Laws.EncodesIffWord.tend (n : Nib) : Laws.EncodesIffWord.Statement (.tend n) := rfl
theorem Laws.EncodesIffWord.yield (n : Nib) : Laws.EncodesIffWord.Statement (.yield n) := rfl
theorem Laws.EncodesIffWord.seg (n : Nib) (cost : BitVec 20) (sig : BitVec 32) : Laws.EncodesIffWord.Statement (.seg n cost sig) := rfl
theorem Laws.EncodesIffWord.segend (n : Nib) : Laws.EncodesIffWord.Statement (.segend n) := rfl
theorem Laws.EncodesIffWord.add (n : Nib) (d : Dest) (a b : Opnd) : Laws.EncodesIffWord.Statement (.add n d a b) := rfl
theorem Laws.EncodesIffWord.sub (n : Nib) (d : Dest) (a b : Opnd) : Laws.EncodesIffWord.Statement (.sub n d a b) := rfl
theorem Laws.EncodesIffWord.mul (n : Nib) (d : Dest) (a b : Opnd) : Laws.EncodesIffWord.Statement (.mul n d a b) := rfl
theorem Laws.EncodesIffWord.mulh (n : Nib) (m : MulhMod) (d : Dest) (a b : Opnd) : Laws.EncodesIffWord.Statement (.mulh n m d a b) := rfl
theorem Laws.EncodesIffWord.div (n : Nib) (m : Sgn) (d : Dest) (a b : Opnd) : Laws.EncodesIffWord.Statement (.div n m d a b) := rfl
theorem Laws.EncodesIffWord.rem (n : Nib) (m : Sgn) (d : Dest) (a b : Opnd) : Laws.EncodesIffWord.Statement (.rem n m d a b) := rfl
theorem Laws.EncodesIffWord.and (n : Nib) (d : Dest) (a b : Opnd) : Laws.EncodesIffWord.Statement (.and n d a b) := rfl
theorem Laws.EncodesIffWord.or (n : Nib) (d : Dest) (a b : Opnd) : Laws.EncodesIffWord.Statement (.or n d a b) := rfl
theorem Laws.EncodesIffWord.xor (n : Nib) (d : Dest) (a b : Opnd) : Laws.EncodesIffWord.Statement (.xor n d a b) := rfl
theorem Laws.EncodesIffWord.andn (n : Nib) (d : Dest) (a b : Opnd) : Laws.EncodesIffWord.Statement (.andn n d a b) := rfl
theorem Laws.EncodesIffWord.shl (n : Nib) (d : Dest) (a b : Opnd) : Laws.EncodesIffWord.Statement (.shl n d a b) := rfl
theorem Laws.EncodesIffWord.shr (n : Nib) (d : Dest) (a b : Opnd) : Laws.EncodesIffWord.Statement (.shr n d a b) := rfl
theorem Laws.EncodesIffWord.sra (n : Nib) (d : Dest) (a b : Opnd) : Laws.EncodesIffWord.Statement (.sra n d a b) := rfl
theorem Laws.EncodesIffWord.rot (n : Nib) (d : Dest) (a b : Opnd) : Laws.EncodesIffWord.Statement (.rot n d a b) := rfl
theorem Laws.EncodesIffWord.min (n : Nib) (m : Sgn) (d : Dest) (a b : Opnd) : Laws.EncodesIffWord.Statement (.min n m d a b) := rfl
theorem Laws.EncodesIffWord.max (n : Nib) (m : Sgn) (d : Dest) (a b : Opnd) : Laws.EncodesIffWord.Statement (.max n m d a b) := rfl
theorem Laws.EncodesIffWord.clz (n : Nib) (d : Dest) (a : Opnd) : Laws.EncodesIffWord.Statement (.clz n d a) := rfl
theorem Laws.EncodesIffWord.ctz (n : Nib) (d : Dest) (a : Opnd) : Laws.EncodesIffWord.Statement (.ctz n d a) := rfl
theorem Laws.EncodesIffWord.popc (n : Nib) (d : Dest) (a : Opnd) : Laws.EncodesIffWord.Statement (.popc n d a) := rfl
theorem Laws.EncodesIffWord.sext (n : Nib) (m : XWidth) (d : Dest) (a : Opnd) : Laws.EncodesIffWord.Statement (.sext n m d a) := rfl
theorem Laws.EncodesIffWord.zext (n : Nib) (m : XWidth) (d : Dest) (a : Opnd) : Laws.EncodesIffWord.Statement (.zext n m d a) := rfl
theorem Laws.EncodesIffWord.cmp (n : Nib) (m : Cond) (d : Dest) (a b : Opnd) : Laws.EncodesIffWord.Statement (.cmp n m d a b) := rfl
theorem Laws.EncodesIffWord.sel (n : Nib) (a b c : Opnd) : Laws.EncodesIffWord.Statement (.sel n a b c) := rfl
theorem Laws.EncodesIffWord.lea (n : Nib) (sh : BitVec 2) (d : Dest) (a b : Opnd) : Laws.EncodesIffWord.Statement (.lea n sh d a b) := rfl
theorem Laws.EncodesIffWord.mov (n : Nib) (d : Dest) (a : Opnd) : Laws.EncodesIffWord.Statement (.mov n d a) := rfl
theorem Laws.EncodesIffWord.li (n : Nib) (d : Dest) (imm : BitVec 14) : Laws.EncodesIffWord.Statement (.li n d imm) := rfl
theorem Laws.EncodesIffWord.liw (n : Nib) (d : Dest) (imm : BitVec 32) : Laws.EncodesIffWord.Statement (.liw n d imm) := rfl
theorem Laws.EncodesIffWord.lihi (n : Nib) (d : Dest) (a : Opnd) (imm : BitVec 32) : Laws.EncodesIffWord.Statement (.lihi n d a imm) := rfl
theorem Laws.EncodesIffWord.addi (n : Nib) (f : Opnd) (imm : BitVec 14) : Laws.EncodesIffWord.Statement (.addi n f imm) := rfl
theorem Laws.EncodesIffWord.andi (n : Nib) (f : Opnd) (imm : BitVec 14) : Laws.EncodesIffWord.Statement (.andi n f imm) := rfl
theorem Laws.EncodesIffWord.ori (n : Nib) (f : Opnd) (imm : BitVec 14) : Laws.EncodesIffWord.Statement (.ori n f imm) := rfl
theorem Laws.EncodesIffWord.xori (n : Nib) (f : Opnd) (imm : BitVec 14) : Laws.EncodesIffWord.Statement (.xori n f imm) := rfl
theorem Laws.EncodesIffWord.shli (n : Nib) (f : Opnd) (sh : BitVec 6) : Laws.EncodesIffWord.Statement (.shli n f sh) := rfl
theorem Laws.EncodesIffWord.shri (n : Nib) (f : Opnd) (sh : BitVec 6) : Laws.EncodesIffWord.Statement (.shri n f sh) := rfl
theorem Laws.EncodesIffWord.srai (n : Nib) (f : Opnd) (sh : BitVec 6) : Laws.EncodesIffWord.Statement (.srai n f sh) := rfl
theorem Laws.EncodesIffWord.cmpi (n : Nib) (m : Cond) (a : Opnd) (imm : BitVec 12) : Laws.EncodesIffWord.Statement (.cmpi n m a imm) := rfl
theorem Laws.EncodesIffWord.qput (n : Nib) (k : BitVec 3) (f : Opnd) : Laws.EncodesIffWord.Statement (.qput n k f) := rfl
theorem Laws.EncodesIffWord.qget (n : Nib) (f : Dest) (k : BitVec 3) : Laws.EncodesIffWord.Statement (.qget n f k) := rfl
theorem Laws.EncodesIffWord.qpeek (n : Nib) (f : Dest) (k : BitVec 3) : Laws.EncodesIffWord.Statement (.qpeek n f k) := rfl
theorem Laws.EncodesIffWord.qcnt (n : Nib) (f : Dest) (k : BitVec 3) : Laws.EncodesIffWord.Statement (.qcnt n f k) := rfl
theorem Laws.EncodesIffWord.rdsr (n : Nib) (f : Dest) (sr : BitVec 12) : Laws.EncodesIffWord.Statement (.rdsr n f sr) := rfl
theorem Laws.EncodesIffWord.wrsr (n : Nib) (sr : BitVec 12) (f : Opnd) : Laws.EncodesIffWord.Statement (.wrsr n sr f) := rfl
theorem Laws.EncodesIffWord.tsig (n : Nib) (cnt : BitVec 4) (pred : Bool) : Laws.EncodesIffWord.Statement (.tsig n cnt pred) := rfl
theorem Laws.EncodesIffWord.twait (n : Nib) (cnt : BitVec 4) (pred : Bool) : Laws.EncodesIffWord.Statement (.twait n cnt pred) := rfl
theorem Laws.EncodesIffWord.ldb (n : Nib) (d : Dest) (a : Opnd) (off : BitVec 8) : Laws.EncodesIffWord.Statement (.ldb n d a off) := rfl
theorem Laws.EncodesIffWord.ldh (n : Nib) (d : Dest) (a : Opnd) (off : BitVec 8) : Laws.EncodesIffWord.Statement (.ldh n d a off) := rfl
theorem Laws.EncodesIffWord.ldw (n : Nib) (d : Dest) (a : Opnd) (off : BitVec 8) : Laws.EncodesIffWord.Statement (.ldw n d a off) := rfl
theorem Laws.EncodesIffWord.ldd (n : Nib) (d : Dest) (a : Opnd) (off : BitVec 8) : Laws.EncodesIffWord.Statement (.ldd n d a off) := rfl
theorem Laws.EncodesIffWord.ldc (n : Nib) (d : Dest) (a : Opnd) (off : BitVec 8) : Laws.EncodesIffWord.Statement (.ldc n d a off) := rfl
theorem Laws.EncodesIffWord.ldq (n : Nib) (k : BitVec 3) (f : Opnd) (off : BitVec 8) : Laws.EncodesIffWord.Statement (.ldq n k f off) := rfl
theorem Laws.EncodesIffWord.ldvq (n : Nib) (k : BitVec 3) (f : Opnd) (off : BitVec 8) : Laws.EncodesIffWord.Statement (.ldvq n k f off) := rfl
theorem Laws.EncodesIffWord.stb (n : Nib) (b a : Opnd) (off : BitVec 8) : Laws.EncodesIffWord.Statement (.stb n b a off) := rfl
theorem Laws.EncodesIffWord.sth (n : Nib) (b a : Opnd) (off : BitVec 8) : Laws.EncodesIffWord.Statement (.sth n b a off) := rfl
theorem Laws.EncodesIffWord.stw (n : Nib) (b a : Opnd) (off : BitVec 8) : Laws.EncodesIffWord.Statement (.stw n b a off) := rfl
theorem Laws.EncodesIffWord.std (n : Nib) (b a : Opnd) (off : BitVec 8) : Laws.EncodesIffWord.Statement (.std n b a off) := rfl
theorem Laws.EncodesIffWord.stvq (n : Nib) (k : BitVec 3) (f : Opnd) (off : BitVec 8) : Laws.EncodesIffWord.Statement (.stvq n k f off) := rfl
theorem Laws.EncodesIffWord.stt (n : Nib) (a b : Opnd) (fmt : BitVec 2) : Laws.EncodesIffWord.Statement (.stt n a b fmt) := rfl
theorem Laws.EncodesIffWord.pref (n : Nib) (a : Opnd) (off : BitVec 8) : Laws.EncodesIffWord.Statement (.pref n a off) := rfl
theorem Laws.EncodesIffWord.aadd (n : Nib) (o : MemOrd) (d : Dest) (a b : Opnd) : Laws.EncodesIffWord.Statement (.aadd n o d a b) := rfl
theorem Laws.EncodesIffWord.amin (n : Nib) (o : MemOrd) (d : Dest) (a b : Opnd) : Laws.EncodesIffWord.Statement (.amin n o d a b) := rfl
theorem Laws.EncodesIffWord.amax (n : Nib) (o : MemOrd) (d : Dest) (a b : Opnd) : Laws.EncodesIffWord.Statement (.amax n o d a b) := rfl
theorem Laws.EncodesIffWord.aminu (n : Nib) (o : MemOrd) (d : Dest) (a b : Opnd) : Laws.EncodesIffWord.Statement (.aminu n o d a b) := rfl
theorem Laws.EncodesIffWord.amaxu (n : Nib) (o : MemOrd) (d : Dest) (a b : Opnd) : Laws.EncodesIffWord.Statement (.amaxu n o d a b) := rfl
theorem Laws.EncodesIffWord.aand (n : Nib) (o : MemOrd) (d : Dest) (a b : Opnd) : Laws.EncodesIffWord.Statement (.aand n o d a b) := rfl
theorem Laws.EncodesIffWord.aor (n : Nib) (o : MemOrd) (d : Dest) (a b : Opnd) : Laws.EncodesIffWord.Statement (.aor n o d a b) := rfl
theorem Laws.EncodesIffWord.axor (n : Nib) (o : MemOrd) (d : Dest) (a b : Opnd) : Laws.EncodesIffWord.Statement (.axor n o d a b) := rfl
theorem Laws.EncodesIffWord.aswap (n : Nib) (o : MemOrd) (d : Dest) (a b : Opnd) : Laws.EncodesIffWord.Statement (.aswap n o d a b) := rfl
theorem Laws.EncodesIffWord.cas (n : Nib) (o : MemOrd) (a b c : Opnd) : Laws.EncodesIffWord.Statement (.cas n o a b c) := rfl
theorem Laws.EncodesIffWord.casw (n : Nib) (o : MemOrd) (a b c : Opnd) : Laws.EncodesIffWord.Statement (.casw n o a b c) := rfl
theorem Laws.EncodesIffWord.red (n : Nib) (op : RedOp) (o : MemOrd) (a b : Opnd) : Laws.EncodesIffWord.Statement (.red n op o a b) := rfl
theorem Laws.EncodesIffWord.acq (n : Nib) (d : Dest) (a : Opnd) : Laws.EncodesIffWord.Statement (.acq n d a) := rfl
theorem Laws.EncodesIffWord.rel (n : Nib) (a b : Opnd) : Laws.EncodesIffWord.Statement (.rel n a b) := rfl
theorem Laws.EncodesIffWord.bind (n : Nib) (a b c : Opnd) : Laws.EncodesIffWord.Statement (.bind n a b c) := rfl
theorem Laws.EncodesIffWord.unbind (n : Nib) (a b : Opnd) : Laws.EncodesIffWord.Statement (.unbind n a b) := rfl
theorem Laws.EncodesIffWord.fence (n : Nib) : Laws.EncodesIffWord.Statement (.fence n) := rfl
theorem Laws.EncodesIffWord.xfence (n : Nib) (src dst : Path) : Laws.EncodesIffWord.Statement (.xfence n src dst) := rfl
theorem Laws.EncodesIffWord.cflush (n : Nib) (a b : Opnd) : Laws.EncodesIffWord.Statement (.cflush n a b) := rfl
theorem Laws.EncodesIffWord.cinv (n : Nib) (a b : Opnd) : Laws.EncodesIffWord.Statement (.cinv n a b) := rfl
theorem Laws.EncodesIffWord.rclaim (n : Nib) (rg : BitVec 5) (f : Opnd) : Laws.EncodesIffWord.Statement (.rclaim n rg f) := rfl
theorem Laws.EncodesIffWord.rfill (n : Nib) (rg : BitVec 5) (f : Opnd) : Laws.EncodesIffWord.Statement (.rfill n rg f) := rfl
theorem Laws.EncodesIffWord.rwaitf (n : Nib) (rg : BitVec 5) (f : Opnd) : Laws.EncodesIffWord.Statement (.rwaitf n rg f) := rfl
theorem Laws.EncodesIffWord.rtake (n : Nib) (rg : BitVec 5) (f : Opnd) : Laws.EncodesIffWord.Statement (.rtake n rg f) := rfl
theorem Laws.EncodesIffWord.rfree (n : Nib) (rg : BitVec 5) (f : Opnd) : Laws.EncodesIffWord.Statement (.rfree n rg f) := rfl
theorem Laws.EncodesIffWord.rwaite (n : Nib) (rg : BitVec 5) (f : Opnd) : Laws.EncodesIffWord.Statement (.rwaite n rg f) := rfl
theorem Laws.EncodesIffWord.rstat (n : Nib) (f : Dest) (rg : BitVec 5) : Laws.EncodesIffWord.Statement (.rstat n f rg) := rfl
theorem Laws.EncodesIffWord.rbind (n : Nib) (rg : BitVec 5) (f : Opnd) (role : Role) : Laws.EncodesIffWord.Statement (.rbind n rg f role) := rfl
theorem Laws.EncodesIffWord.fwait (n : Nib) (a b c : Opnd) : Laws.EncodesIffWord.Statement (.fwait n a b c) := rfl
theorem Laws.EncodesIffWord.ffill (n : Nib) (a b : Opnd) : Laws.EncodesIffWord.Statement (.ffill n a b) := rfl
theorem Laws.EncodesIffWord.ftest (n : Nib) (d : Dest) (a : Opnd) : Laws.EncodesIffWord.Statement (.ftest n d a) := rfl
theorem Laws.EncodesIffWord.bararr (n : Nib) (bn : BitVec 4) : Laws.EncodesIffWord.Statement (.bararr n bn) := rfl
theorem Laws.EncodesIffWord.barwait (n : Nib) (f : Opnd) (bn : BitVec 4) : Laws.EncodesIffWord.Statement (.barwait n f bn) := rfl
theorem Laws.EncodesIffWord.barsync (n : Nib) (bn : BitVec 4) : Laws.EncodesIffWord.Statement (.barsync n bn) := rfl
theorem Laws.EncodesIffWord.wpwait (n : Nib) (f : Opnd) (ctx : BitVec 2) : Laws.EncodesIffWord.Statement (.wpwait n f ctx) := rfl
theorem Laws.EncodesIffWord.vadd (n : Nib) (d : Dest) (a b : Opnd) : Laws.EncodesIffWord.Statement (.vadd n d a b) := rfl
theorem Laws.EncodesIffWord.vsub (n : Nib) (d : Dest) (a b : Opnd) : Laws.EncodesIffWord.Statement (.vsub n d a b) := rfl
theorem Laws.EncodesIffWord.vmul (n : Nib) (d : Dest) (a b : Opnd) : Laws.EncodesIffWord.Statement (.vmul n d a b) := rfl
theorem Laws.EncodesIffWord.vfma (n : Nib) (m : FmaMod) (a b c : Opnd) : Laws.EncodesIffWord.Statement (.vfma n m a b c) := rfl
theorem Laws.EncodesIffWord.vmin (n : Nib) (d : Dest) (a b : Opnd) : Laws.EncodesIffWord.Statement (.vmin n d a b) := rfl
theorem Laws.EncodesIffWord.vmax (n : Nib) (d : Dest) (a b : Opnd) : Laws.EncodesIffWord.Statement (.vmax n d a b) := rfl
theorem Laws.EncodesIffWord.vabs (n : Nib) (m : AbsMod) (d : Dest) (a b : Opnd) : Laws.EncodesIffWord.Statement (.vabs n m d a b) := rfl
theorem Laws.EncodesIffWord.vdiv (n : Nib) (d : Dest) (a b : Opnd) : Laws.EncodesIffWord.Statement (.vdiv n d a b) := rfl
theorem Laws.EncodesIffWord.vsqrt (n : Nib) (d : Dest) (a : Opnd) : Laws.EncodesIffWord.Statement (.vsqrt n d a) := rfl
theorem Laws.EncodesIffWord.vrcp (n : Nib) (d : Dest) (a : Opnd) : Laws.EncodesIffWord.Statement (.vrcp n d a) := rfl
theorem Laws.EncodesIffWord.vrsq (n : Nib) (d : Dest) (a : Opnd) : Laws.EncodesIffWord.Statement (.vrsq n d a) := rfl
theorem Laws.EncodesIffWord.vexp2 (n : Nib) (d : Dest) (a : Opnd) : Laws.EncodesIffWord.Statement (.vexp2 n d a) := rfl
theorem Laws.EncodesIffWord.vlog2 (n : Nib) (d : Dest) (a : Opnd) : Laws.EncodesIffWord.Statement (.vlog2 n d a) := rfl
theorem Laws.EncodesIffWord.vcmp (n : Nib) (m : VCond) (d : Dest) (a b : Opnd) : Laws.EncodesIffWord.Statement (.vcmp n m d a b) := rfl
theorem Laws.EncodesIffWord.vsel (n : Nib) (a b c : Opnd) : Laws.EncodesIffWord.Statement (.vsel n a b c) := rfl
theorem Laws.EncodesIffWord.viadd (n : Nib) (m : SatMod) (d : Dest) (a b : Opnd) : Laws.EncodesIffWord.Statement (.viadd n m d a b) := rfl
theorem Laws.EncodesIffWord.visub (n : Nib) (m : SatMod) (d : Dest) (a b : Opnd) : Laws.EncodesIffWord.Statement (.visub n m d a b) := rfl
theorem Laws.EncodesIffWord.vimul (n : Nib) (m : SatMod) (d : Dest) (a b : Opnd) : Laws.EncodesIffWord.Statement (.vimul n m d a b) := rfl
theorem Laws.EncodesIffWord.vlogic (n : Nib) (m : LogicOp) (d : Dest) (a b : Opnd) : Laws.EncodesIffWord.Statement (.vlogic n m d a b) := rfl
theorem Laws.EncodesIffWord.vshift (n : Nib) (m : ShiftOp) (d : Dest) (a b : Opnd) : Laws.EncodesIffWord.Statement (.vshift n m d a b) := rfl
theorem Laws.EncodesIffWord.viminmax (n : Nib) (m : MinMaxOp) (d : Dest) (a b : Opnd) : Laws.EncodesIffWord.Statement (.viminmax n m d a b) := rfl
theorem Laws.EncodesIffWord.vsett (n : Nib) (fmt : BitVec 4) : Laws.EncodesIffWord.Statement (.vsett n fmt) := rfl
theorem Laws.EncodesIffWord.vbcast (n : Nib) (d : Dest) (a : Opnd) : Laws.EncodesIffWord.Statement (.vbcast n d a) := rfl
theorem Laws.EncodesIffWord.vextr (n : Nib) (d : Dest) (a b : Opnd) : Laws.EncodesIffWord.Statement (.vextr n d a b) := rfl
theorem Laws.EncodesIffWord.vins (n : Nib) (a b c : Opnd) : Laws.EncodesIffWord.Statement (.vins n a b c) := rfl
theorem Laws.EncodesIffWord.vperm (n : Nib) (d : Dest) (a b : Opnd) : Laws.EncodesIffWord.Statement (.vperm n d a b) := rfl
theorem Laws.EncodesIffWord.viota (n : Nib) (d : Dest) (imm : BitVec 14) : Laws.EncodesIffWord.Statement (.viota n d imm) := rfl
theorem Laws.EncodesIffWord.vreds (n : Nib) (d : Dest) (a : Opnd) : Laws.EncodesIffWord.Statement (.vreds n d a) := rfl
theorem Laws.EncodesIffWord.vredm (n : Nib) (m : RedmOp) (d : Dest) (a : Opnd) : Laws.EncodesIffWord.Statement (.vredm n m d a) := rfl
theorem Laws.EncodesIffWord.vld (n : Nib) (d : Dest) (a : Opnd) (off : BitVec 8) : Laws.EncodesIffWord.Statement (.vld n d a off) := rfl
theorem Laws.EncodesIffWord.vst (n : Nib) (b a : Opnd) (off : BitVec 8) : Laws.EncodesIffWord.Statement (.vst n b a off) := rfl
theorem Laws.EncodesIffWord.vldx (n : Nib) (z : ESize) (d : Dest) (a b : Opnd) : Laws.EncodesIffWord.Statement (.vldx n z d a b) := rfl
theorem Laws.EncodesIffWord.vstx (n : Nib) (z : ESize) (a b c : Opnd) : Laws.EncodesIffWord.Statement (.vstx n z a b c) := rfl
theorem Laws.EncodesIffWord.vcvt (n : Nib) (a : Opnd) (dst src : Fmt) (rtz hi : Bool) : Laws.EncodesIffWord.Statement (.vcvt n a dst src rtz hi) := rfl
theorem Laws.EncodesIffWord.vquant (n : Nib) (a : Opnd) (dst src : Fmt) (rtz hi : Bool) : Laws.EncodesIffWord.Statement (.vquant n a dst src rtz hi) := rfl
theorem Laws.EncodesIffWord.vdeq (n : Nib) (a : Opnd) (dst src : Fmt) (rtz hi : Bool) : Laws.EncodesIffWord.Statement (.vdeq n a dst src rtz hi) := rfl
theorem Laws.EncodesIffWord.vresid (n : Nib) (a b c : Opnd) : Laws.EncodesIffWord.Statement (.vresid n a b c) := rfl
theorem Laws.EncodesIffWord.vtopk (n : Nib) (f : Opnd) (k : BitVec 5) : Laws.EncodesIffWord.Statement (.vtopk n f k) := rfl
theorem Laws.EncodesIffWord.vhist (n : Nib) (a b : Opnd) : Laws.EncodesIffWord.Statement (.vhist n a b) := rfl
theorem Laws.EncodesIffWord.vamax (n : Nib) (d : Dest) (a : Opnd) : Laws.EncodesIffWord.Statement (.vamax n d a) := rfl
theorem Laws.EncodesIffWord.vpack (n : Nib) (t : PackT) (d : Dest) (a b : Opnd) : Laws.EncodesIffWord.Statement (.vpack n t d a b) := rfl
theorem Laws.EncodesIffWord.vunpk (n : Nib) (t : PackT) (d : Dest) (a : Opnd) : Laws.EncodesIffWord.Statement (.vunpk n t d a) := rfl
theorem Laws.EncodesIffWord.mma (n : Nib) (f : Opnd) : Laws.EncodesIffWord.Statement (.mma n f) := rfl
theorem Laws.EncodesIffWord.gmma (n : Nib) (f : Opnd) : Laws.EncodesIffWord.Statement (.gmma n f) := rfl
theorem Laws.EncodesIffWord.mconv (n : Nib) (f : Opnd) : Laws.EncodesIffWord.Statement (.mconv n f) := rfl
theorem Laws.EncodesIffWord.mzero (n : Nib) (bank clr : Bool) : Laws.EncodesIffWord.Statement (.mzero n bank clr) := rfl
theorem Laws.EncodesIffWord.mswap (n : Nib) : Laws.EncodesIffWord.Statement (.mswap n) := rfl
theorem Laws.EncodesIffWord.mepi (n : Nib) (f : Opnd) : Laws.EncodesIffWord.Statement (.mepi n f) := rfl
theorem Laws.EncodesIffWord.mstatr (n : Nib) (f : Dest) (bank : Bool) : Laws.EncodesIffWord.Statement (.mstatr n f bank) := rfl
theorem Laws.EncodesIffWord.copy (n : Nib) (f : Opnd) (ctx : BitVec 2) : Laws.EncodesIffWord.Statement (.copy n f ctx) := rfl
theorem Laws.EncodesIffWord.copym (n : Nib) (f : Opnd) (ctx : BitVec 2) : Laws.EncodesIffWord.Statement (.copym n f ctx) := rfl
theorem Laws.EncodesIffWord.gath (n : Nib) (f : Opnd) : Laws.EncodesIffWord.Statement (.gath n f) := rfl
theorem Laws.EncodesIffWord.strsub (n : Nib) (f : Opnd) : Laws.EncodesIffWord.Statement (.strsub n f) := rfl
theorem Laws.EncodesIffWord.strdrop (n : Nib) (f : Opnd) : Laws.EncodesIffWord.Statement (.strdrop n f) := rfl
theorem Laws.EncodesIffWord.coll (n : Nib) (f : Opnd) : Laws.EncodesIffWord.Statement (.coll n f) := rfl
theorem Laws.EncodesIffWord.launch (n : Nib) (f : Opnd) : Laws.EncodesIffWord.Statement (.launch n f) := rfl
theorem Laws.EncodesIffWord.gang (n : Nib) (f : Opnd) : Laws.EncodesIffWord.Statement (.gang n f) := rfl
theorem Laws.EncodesIffWord.spawn (n : Nib) (f : Opnd) : Laws.EncodesIffWord.Statement (.spawn n f) := rfl
theorem Laws.EncodesIffWord.jdec (n : Nib) (a b : Opnd) : Laws.EncodesIffWord.Statement (.jdec n a b) := rfl
theorem Laws.EncodesIffWord.cancel (n : Nib) (f : Opnd) : Laws.EncodesIffWord.Statement (.cancel n f) := rfl
theorem Laws.EncodesIffWord.phend (n : Nib) (f : Opnd) : Laws.EncodesIffWord.Statement (.phend n f) := rfl
theorem Laws.EncodesIffWord.svc (n : Nib) (imm : BitVec 14) : Laws.EncodesIffWord.Statement (.svc n imm) := rfl
theorem Laws.EncodesIffWord.trap (n : Nib) (imm : BitVec 14) : Laws.EncodesIffWord.Statement (.trap n imm) := rfl
theorem Laws.EncodesIffWord.eret (n : Nib) : Laws.EncodesIffWord.Statement (.eret n) := rfl
theorem Laws.EncodesIffWord.cropen (n : Nib) (off : BitVec 32) : Laws.EncodesIffWord.Statement (.cropen n off) := rfl
theorem Laws.EncodesIffWord.crclose (n : Nib) : Laws.EncodesIffWord.Statement (.crclose n) := rfl
theorem Laws.EncodesIffWord.snap (n : Nib) (f : Opnd) : Laws.EncodesIffWord.Statement (.snap n f) := rfl
theorem Laws.EncodesIffWord.snapld (n : Nib) (f : Opnd) : Laws.EncodesIffWord.Statement (.snapld n f) := rfl
theorem Laws.EncodesIffWord.tlbinvRange (n : Nib) (a b : Opnd) : Laws.EncodesIffWord.Statement (.tlbinvRange n a b) := rfl
theorem Laws.EncodesIffWord.tlbinvJob (n : Nib) (a : Opnd) : Laws.EncodesIffWord.Statement (.tlbinvJob n a) := rfl
theorem Laws.EncodesIffWord.tlbinvAll (n : Nib) : Laws.EncodesIffWord.Statement (.tlbinvAll n) := rfl
theorem Laws.EncodesIffWord.storePerformed (slot : Nat) (q : Seq) : Laws.EncodesIffWord.Statement (.storePerformed slot q) := rfl
theorem Laws.EncodesIffWord.softError (t : UpsetTarget) : Laws.EncodesIffWord.Statement (.softError t) := rfl
theorem Laws.EncodesIffWord.wr : Laws.EncodesIffWord.Statement (.wr) := rfl
theorem Laws.EncodesIffWord.wrack : Laws.EncodesIffWord.Statement (.wrack) := rfl
theorem Laws.EncodesIffWord.rd : Laws.EncodesIffWord.Statement (.rd) := rfl
theorem Laws.EncodesIffWord.rdresp : Laws.EncodesIffWord.Statement (.rdresp) := rfl
theorem Laws.EncodesIffWord.atom : Laws.EncodesIffWord.Statement (.atom) := rfl
theorem Laws.EncodesIffWord.atomresp : Laws.EncodesIffWord.Statement (.atomresp) := rfl
theorem Laws.EncodesIffWord.relw : Laws.EncodesIffWord.Statement (.relw) := rfl
theorem Laws.EncodesIffWord.filln : Laws.EncodesIffWord.Statement (.filln) := rfl
theorem Laws.EncodesIffWord.freen : Laws.EncodesIffWord.Statement (.freen) := rfl
theorem Laws.EncodesIffWord.smax : Laws.EncodesIffWord.Statement (.smax) := rfl
theorem Laws.EncodesIffWord.smaxres : Laws.EncodesIffWord.Statement (.smaxres) := rfl
theorem Laws.EncodesIffWord.gres : Laws.EncodesIffWord.Statement (.gres) := rfl
theorem Laws.EncodesIffWord.gresack : Laws.EncodesIffWord.Statement (.gresack) := rfl
theorem Laws.EncodesIffWord.gstart : Laws.EncodesIffWord.Statement (.gstart) := rfl
theorem Laws.EncodesIffWord.gstartack : Laws.EncodesIffWord.Statement (.gstartack) := rfl
theorem Laws.EncodesIffWord.gcancel : Laws.EncodesIffWord.Statement (.gcancel) := rfl
theorem Laws.EncodesIffWord.cwr : Laws.EncodesIffWord.Statement (.cwr) := rfl
theorem Laws.EncodesIffWord.hbeat : Laws.EncodesIffWord.Statement (.hbeat) := rfl
theorem Laws.EncodesIffWord.srqWrite : Laws.EncodesIffWord.Statement (.srqWrite) := rfl
theorem Laws.EncodesIffWord.sevqWrite : Laws.EncodesIffWord.Statement (.sevqWrite) := rfl
theorem Laws.EncodesIffWord.registerWrite : Laws.EncodesIffWord.Statement (.registerWrite) := rfl
theorem Laws.EncodesIffWord.hostMemRead : Laws.EncodesIffWord.Statement (.hostMemRead) := rfl
theorem Laws.EncodesIffWord.hostMemWrite : Laws.EncodesIffWord.Statement (.hostMemWrite) := rfl
theorem Laws.EncodesIffWord.hostSnoop : Laws.EncodesIffWord.Statement (.hostSnoop) := rfl
theorem Laws.EncodesIffWord.createJob : Laws.EncodesIffWord.Statement (.createJob) := rfl
theorem Laws.EncodesIffWord.killJob : Laws.EncodesIffWord.Statement (.killJob) := rfl
theorem Laws.EncodesIffWord.createQueue : Laws.EncodesIffWord.Statement (.createQueue) := rfl
theorem Laws.EncodesIffWord.destroyQueue : Laws.EncodesIffWord.Statement (.destroyQueue) := rfl
theorem Laws.EncodesIffWord.checkpoint : Laws.EncodesIffWord.Statement (.checkpoint) := rfl
theorem Laws.EncodesIffWord.restore : Laws.EncodesIffWord.Statement (.restore) := rfl
theorem Laws.EncodesIffWord.attest : Laws.EncodesIffWord.Statement (.attest) := rfl
theorem Laws.EncodesIffWord.fwStage : Laws.EncodesIffWord.Statement (.fwStage) := rfl
theorem Laws.EncodesIffWord.fenceDie : Laws.EncodesIffWord.Statement (.fenceDie) := rfl
theorem Laws.EncodesIffWord.freeze : Laws.EncodesIffWord.Statement (.freeze) := rfl
theorem Laws.EncodesIffWord.thermalStep : Laws.EncodesIffWord.Statement (.thermalStep) := rfl
theorem Laws.EncodesIffWord.masterElection : Laws.EncodesIffWord.Statement (.masterElection) := rfl
theorem Laws.EncodesIffWord.deviceHeartbeat : Laws.EncodesIffWord.Statement (.deviceHeartbeat) := rfl
theorem Laws.EncodesIffWord.warmReset : Laws.EncodesIffWord.Statement (.warmReset) := rfl
theorem Laws.EncodesIffWord.counterHalving : Laws.EncodesIffWord.Statement (.counterHalving) := rfl
theorem Laws.EncodesIffWord.checkpointTargetStall : Laws.EncodesIffWord.Statement (.checkpointTargetStall) := rfl
theorem Laws.EncodesIffWord.freezeRelease : Laws.EncodesIffWord.Statement (.freezeRelease) := rfl
theorem Laws.EncodesIffWord.resetNAssertion : Laws.EncodesIffWord.Statement (.resetNAssertion) := rfl
theorem Laws.EncodesIffWord.pwrgoodFall : Laws.EncodesIffWord.Statement (.pwrgoodFall) := rfl
theorem Laws.EncodesIffWord.vote : Laws.EncodesIffWord.Statement (.vote) := rfl

end Sys2Proof
end

