-- ==== Sys2Proof/Tests/Slice0.lean ====
section
/-! SUPPORT. Tests: ill-formed terms that the checks refuse, words written out from the encodings of spec/12 and the examples
of spec/14 to spec/18, steps of a small machine, and a witness for each statement that has hypotheses. -/

open Sys2Proof Sys2Proof.Machine

namespace Sys2Proof.Tests

/-- No wait and no signal. -/
abbrev N0 : Nib := ⟨false, false, false, false⟩
/-- A wait on the predecessor. -/
abbrev NWp : Nib := ⟨true, false, false, false⟩
/-- A wait on the successor. -/
abbrev NWn : Nib := ⟨false, true, false, false⟩
/-- A signal to the predecessor. -/
abbrev NSp : Nib := ⟨false, false, true, false⟩
/-- A signal to the successor. -/
abbrev NSn : Nib := ⟨false, false, false, true⟩

/-- The decoder reads i from these words. -/
def readsAs (w x : IWord) (i : Instr) : Bool := match decode w x with | .ok j => j == i | .error _ => false

/-! Words of the spec's own examples, or written out from 12 R303 and R307. -/
theorem test_decode_stt : readsAs 0x06C92500 0x3 (.stt N0 (.main 4) (.main 5) 3) = true := by decide
theorem test_decode_vst : readsAs 0x0C1922FF 0x0 (.vst N0 (.main 2) (.main 4) (-1)) = true := by decide
theorem test_decode_mma : readsAs 0x8E0A0000 0x0 (.mma NWp (.main 8)) = true := by decide
theorem test_decode_gmma : readsAs 0x0E194000 0x0 (.gmma N0 (.main 5)) = true := by decide
theorem test_decode_mzero_clr : readsAs 0x0E300003 0x0 (.mzero N0 true true) = true := by decide
theorem test_decode_mstatr : readsAs 0x0E68C001 0x0 (.mstatr N0 (.main 3) true) = true := by decide
theorem test_decode_copy : readsAs 0x0E798002 0x0 (.copy N0 (.main 6) 2) = true := by decide
theorem test_decode_copym : readsAs 0x1E890000 0x0 (.copym NSn (.main 4) 0) = true := by decide
theorem test_decode_launch : readsAs 0x0ED88000 0x0 (.launch N0 (.main 2)) = true := by decide
theorem test_decode_coll : readsAs 0x0EC80000 0x0 (.coll N0 (.main 0)) = true := by decide
theorem test_decode_jdec : readsAs 0x0F08A300 0x0 (.jdec N0 (.main 2) (.main 3)) = true := by decide
theorem test_decode_svc : readsAs 0x0F300005 0x0 (.svc N0 5) = true := by decide
theorem test_decode_cropen : readsAs 0x4F600000 0x8 (.cropen NWn 8) = true := by decide
theorem test_decode_crclose : readsAs 0x0F700000 0x0 (.crclose N0) = true := by decide
theorem test_decode_vote : readsAs 0x01300000 0x0 (.vote) = true := by decide
theorem test_decode_li : readsAs 0x04044040 0x0 (.li N0 (.short 1) 64) = true := by decide
theorem test_decode_liw : readsAs 0x04194000 0x12345678 (.liw N0 (.main 5) 0x12345678) = true := by decide
theorem test_decode_lihi : readsAs 0x04296500 0x9ABCDEF0 (.lihi N0 (.main 5) (.main 5) 0x9ABCDEF0) = true := by decide
theorem test_decode_cmpi : readsAs 0x04A9C002 0x0 (.cmpi N0 .eq (.main 7) 2) = true := by decide
theorem test_decode_shri : readsAs 0x048A8008 0x0 (.shri N0 (.main 10) 8) = true := by decide
theorem test_decode_ori : readsAs 0x045B0051 0x0 (.ori N0 (.main 12) 0x51) = true := by decide
theorem test_decode_qget : readsAs 0x04C9C000 0x0 (.qget N0 (.main 7) 0) = true := by decide
theorem test_decode_qput : readsAs 0x04B42000 0x0 (.qput N0 4 (.short 0)) = true := by decide
theorem test_decode_rdsr : readsAs 0x04F8C148 0x0 (.rdsr N0 (.main 3) 0x052) = true := by decide
theorem test_decode_wrsr : readsAs 0x050B0240 0x0 (.wrsr N0 0x090 (.main 12)) = true := by decide
theorem test_decode_tsig : readsAs 0x05100013 0x0 (.tsig N0 3 true) = true := by decide
theorem test_decode_add : readsAs 0x02081190 0x0 (.add N0 (.main 4) (.main 0) (.short 1)) = true := by decide
theorem test_decode_mul : readsAs 0x0228E394 0x0 (.mul N0 (.main 5) (.main 3) (.main 3)) = true := by decide
theorem test_decode_shl : readsAs 0x02A4E494 0x0 (.shl N0 (.main 5) (.short 3) (.main 4)) = true := by decide
theorem test_decode_lea : readsAs 0x0379A7AB 0x0 (.lea N0 3 (.main 10) (.main 6) (.main 7)) = true := by decide
theorem test_decode_bnz : readsAs 0x00984006 0x0 (.bnz N0 (.main 1) 6) = true := by decide
theorem test_decode_br : readsAs 0x001FFFF6 0x0 (.br N0 (-10)) = true := by decide
theorem test_decode_loop : readsAs 0x00EFFFFB 0x0 (.loop N0 (-5)) = true := by decide
theorem test_decode_setlc : readsAs 0x00F92500 0x0 (.setlc N0 (.main 4) (.main 5)) = true := by decide
theorem test_decode_stage : readsAs 0x01000001 0x0 (.stage 1) = true := by decide
theorem test_decode_tend : readsAs 0x01100000 0x0 (.tend N0) = true := by decide
theorem test_decode_ldd : readsAs 0x06382300 0x0 (.ldd N0 (.main 3) (.main 0) 0) = true := by decide
theorem test_decode_ldh : readsAs 0x06182426 0x0 (.ldh N0 (.main 4) (.main 0) 38) = true := by decide
theorem test_decode_std : readsAs 0x06A82501 0x0 (.std N0 (.main 5) (.main 0) 1) = true := by decide
theorem test_decode_aadd : readsAs 0x06EA68AB 0x0 (.aadd N0 .acqrel (.main 10) (.main 9) (.main 8)) = true := by decide
theorem test_decode_acq : readsAs 0x080A80AC 0x0 (.acq N0 (.main 11) (.main 10)) = true := by decide
theorem test_decode_xfence : readsAs 0x88500002 0x0 (.xfence NWp .matrix .core) = true := by decide
theorem test_decode_barwait : readsAs 0x09448000 0x0 (.barwait N0 (.short 2) 0) = true := by decide
theorem test_decode_barsync : readsAs 0x49500001 0x0 (.barsync NWn 1) = true := by decide
theorem test_decode_wpwait : readsAs 0x29698000 0x0 (.wpwait NSp (.main 6) 0) = true := by decide
theorem test_decode_vfma : readsAs 0x0A302345 0x0 (.vfma N0 .fms (.belt 0) (.main 3) (.short 1)) = true := by decide
theorem test_decode_vsett : readsAs 0x0B500001 0x0 (.vsett N0 1) = true := by decide
theorem test_decode_vld : readsAs 0x0C094000 0x0 (.vld N0 .push (.main 5) 0) = true := by decide

/-! Terms that a check refuses (12 R305 step 4). -/
theorem test_wellFormed_refuses_tsig : (.tsig N0 0 true : Instr).wellFormed = false := by decide
theorem test_wellFormed_refuses_twait : (.twait N0 0 false : Instr).wellFormed = false := by decide
theorem test_wellFormed_refuses_vtopk : (.vtopk N0 (.main 1) 0 : Instr).wellFormed = false := by decide
theorem test_wellFormed_refuses_vabs : (.vabs N0 .abs .push (.main 1) (.main 2) : Instr).wellFormed = false := by decide
theorem test_wellFormed_refuses_vneg : (.vabs N0 .neg .push (.main 1) (.main 2) : Instr).wellFormed = false := by decide
theorem test_wellFormed_refuses_vsett : (.vsett N0 6 : Instr).wellFormed = false := by decide
theorem test_wellFormed_refuses_vcvt : (.vcvt N0 (.main 1) .e2m1 .fp32 false false : Instr).wellFormed = false := by decide
theorem test_wellFormed_refuses_vcvt_hi : (.vcvt N0 (.main 1) .int32 .fp32 false true : Instr).wellFormed = false := by decide
theorem test_wellFormed_refuses_vquant : (.vquant N0 (.main 1) .fp32 .fp32 false false : Instr).wellFormed = false := by decide
theorem test_wellFormed_refuses_vdeq : (.vdeq N0 (.main 1) .fp32 .int8 true false : Instr).wellFormed = false := by decide
theorem test_wellFormed_refuses_ldq : (.ldq N0 1 (.main 1) 0 : Instr).wellFormed = false := by decide
theorem test_wellFormed_refuses_ldvq : (.ldvq N0 0 (.main 1) 0 : Instr).wellFormed = false := by decide
theorem test_wellFormed_refuses_stvq : (.stvq N0 3 (.main 1) 0 : Instr).wellFormed = false := by decide
theorem test_wellFormed_accepts_vdeq : (Instr.vdeq N0 (.main 1) .fp32 .int8 false true).wellFormed = true := by decide


/-! States for witnesses. -/

-- one at a time: every waiting theorem would hold a thread
set_option Elab.async false


/-- The package runs; slot 0 holds a user task of job 1, and sequencer q of it has the turn; page 0 is mapped R, W, X, U. -/
abbrev atSeq (q : Seq) : State :=
  let s := { State.reset with turn := ⟨0, q⟩ }.withFetchWord 32 0
  { s with tlb := [(0, { fetchEntry 1 0 with leaf := 0x3F })] }
/-- The same, with its slot changed. -/
abbrev onWith (q : Seq) (g : Slot → Slot) : State := updSlot (atSeq q) 0 g
/-- The same, with its sequencer changed. -/
abbrev onSeq (q : Seq) (g : SeqSt → SeqSt) : State := updSeq (atSeq q) ⟨0, q⟩ g
/-- The state with a main register of the sequencer whose turn it is set. -/
abbrev reg (k : Nat) (v : Word) (s : State) : State :=
  updSeq s s.turn fun q => { q with main := vset q.main (BitVec.ofNat 5 k) (.fresh v) }
/-- A main register. -/
abbrev M (k : Nat) : Opnd := .main (BitVec.ofNat 5 k)
/-- An open region. -/
abbrev opened : Region :=
  { buf := [], handler := 0, resume := 0, phase := .opened, closePc := 0, closeUid := 0, failed := none }
/-- Every word of the list, which reads r, issues in s. -/
abbrev allIssue (r : Reads) (l : List Instr) (s : State) : Bool := l.all fun i => issues i (nibOf i) none r s
/-- The n bytes at va translate to one span that lies in an area and reads as good. -/
abbrev reached (s : State) (va : Word) (n : Nat) (need : Need) : Bool :=
  match translate s (slotCtx s s.turn.slot s.turn.seq) va n need with
  | (_, .ok [sp]) => sp.area == .hbm
  | _ => false
/-- A window on device 5 is mapped at address 0, with sharing width w, and a port leads there. -/
abbrev farAt (w : Nat) (q : Seq) : State := { atSeq q with
  outWins := [(0, { base := 2 ^ 50, size := 65536, dev := 5, pa := 0 })], routes := [(5, 1)]
  tlb := [(0, { fetchEntry 1 0 with leaf := BitVec.ofNat 64 (2 ^ 50 + 0x3F + w * 64) })] }
/-- Sequencer q of slot 0 has a word under way. -/
abbrev busyWith (q : Seq) (w : Work) (s : State) : State :=
  updSeq { s with nextUid := 9 } ⟨0, q⟩ fun q => { q with outst := [{ tag := 3, pc := 0, work := w, done := false, sigs := [] }] }
/-- The first 8 bytes of storage. -/
abbrev low8 : Span := { va := 0, loc := 0, len := 8, area := .hbm, sw := 0, et := false, tt := false, cst := false }
/-- All of them. -/
abbrev allOk (l : List Bool) : Bool := l.all id
/-- A value that a read of bytes may answer. -/
abbrev okAnd {α : Type} (r : Risk α) (p : α → Bool) : Bool := match r with | .ok a => p a | .error _ => false


/-! A witness for each statement that has hypotheses: a state and operands that meet them together. -/
theorem witness_ScalarBinaryResults : allIssue (sources [M 0, M 1])
    [.add N0 .push (M 0) (M 1), .sub N0 (.main 3) (M 0) (M 1), .mul N0 (.short 1) (M 0) (M 1), .mulh N0 .ss .push (M 0) (M 1),
      .mulh N0 .uu .push (M 0) (M 1), .mulh N0 .su .push (M 0) (M 1), .and N0 .push (M 0) (M 1), .or N0 .push (M 0) (M 1),
      .xor N0 .push (M 0) (M 1), .andn N0 .push (M 0) (M 1), .shl N0 .push (M 0) (M 1), .shr N0 .push (M 0) (M 1),
      .sra N0 .push (M 0) (M 1), .rot N0 .push (M 0) (M 1), .min N0 .s .push (M 0) (M 1), .max N0 .u .push (M 0) (M 1),
      .cmp N0 .eq .push (M 0) (M 1), .cmp N0 .ne .push (M 0) (M 1), .lea N0 3 .push (M 0) (M 1)] (atSeq .K) = true := by decide +kernel
theorem witness_DivisionResults : allIssue (sources [M 0, M 1])
    [.div N0 .u .push (M 0) (M 1), .rem N0 .u .push (M 0) (M 1), .div N0 .s .push (M 0) (M 1), .rem N0 .s .push (M 0) (M 1)]
    (atSeq .L) = true := by decide +kernel
theorem witness_ScalarUnaryResults : (allIssue (sources [M 0, M 1, M 2]) [.sel N0 (M 0) (M 1) (M 2)] (atSeq .S)
    && allIssue (sources [M 0]) [.clz N0 .push (M 0), .ctz N0 .push (M 0), .popc N0 .push (M 0), .sext N0 .w8 .push (M 0),
      .zext N0 .w32 .push (M 0), .mov N0 .push (M 0)] (atSeq .S)) = true := by decide +kernel
theorem witness_ImmediateResults : (allIssue {} [.li N0 .push 0x2000, .liw N0 .push 0x80000000] (atSeq .C)
    && allIssue (sources [M 0]) [.lihi N0 .push (M 0) 1, .addi N0 (M 0) (-1), .andi N0 (M 0) 1, .ori N0 (M 0) 1, .xori N0 (M 0) 1,
      .shli N0 (M 0) 63, .shri N0 (M 0) 63, .srai N0 (M 0) 63, .cmpi N0 .eq (M 0) (-1), .cmpi N0 .ltu (M 0) (-1)] (atSeq .C)
    && allIssue (sources [.belt 15]) [.addi N0 (.belt 15) 1] (atSeq .C)) = true := by decide +kernel
theorem witness_TransferResults : (allIssue {} [.br N0 1, .call N0 (-1)] (atSeq .K)
    && allIssue (sources [M 0, M 1]) [.beq N0 (M 0) (M 1) 1, .bne N0 (M 0) (M 1) 1, .blt N0 (M 0) (M 1) 1, .bge N0 (M 0) (M 1) 1,
      .bltu N0 (M 0) (M 1) 1, .bgeu N0 (M 0) (M 1) 1] (reg 1 (-1) (atSeq .K))
    && allIssue (sources [M 0, M 1]) [.beq N0 (M 0) (M 1) 1, .bne N0 (M 0) (M 1) 1] (atSeq .K)
    && allIssue (sources [M 0]) [.bz N0 (M 0) 1, .bnz N0 (M 0) 1, .calli N0 (M 0) 1, .ret N0 (M 0), .jmpi N0 (M 0) 1]
      (atSeq .K)) = true := by decide +kernel
theorem witness_LoopWords : (allIssue {} [.loop N0 1] (onSeq .C fun q => { q with lc := 1 })
    && allIssue {} [.loop N0 1] (onSeq .C fun q => { q with ec := 1 }) && allIssue {} [.loop N0 1, .stage 7] (atSeq .C)
    && allIssue (sources [M 0, M 1]) [.setlc N0 (M 0) (M 1)] (atSeq .C)) = true := by decide +kernel
theorem witness_EndingWords : (allIssue {} [.nop N0, .tend N0, .seg N0 1 1, .segend N0, .yield N0] (atSeq .K)
    && allIssue {} [.tend N0, .yield N0] (onWith .K fun x => { x with region := some opened })
    && allIssue {} [.segend N0, .tend N0] (atSeq .S)) = true := by decide +kernel
/-- A queue with one filled entry. -/
abbrev filledWith (q : Seq) (k : BitVec 3) (v : QVal) : State :=
  onWith q fun x => { x with queues := vset x.queues k [{ tag := 0, val := some v }] }
theorem witness_QueueAndTokenWords : (allIssue { scalars := [M 0], checked := false } [.qput N0 4 (M 0)] (atSeq .L)
    && allIssue { vectors := [M 0], checked := false } [.qput N0 2 (M 0)] (atSeq .C)
    && allIssue {} [.qget N0 .push 5, .qpeek N0 .push 5, .qcnt N0 .push 5] (filledWith .C 5 (.s .zero))
    && allIssue {} [.qget N0 .push 1, .qpeek N0 .push 1, .qcnt N0 .push 1] (filledWith .C 1 (.v .zero))
    && allIssue {} [.tsig N0 15 true] (atSeq .L)
    && issues (.twait N0 3 true) N0 (some (true, 3)) {} (onWith .L fun x => { x with tok := .replicate _ 3 })) = true := by decide +kernel
theorem witness_SpecialRegisterWords :
    (allIssue {} ([0x001, 0x002, 0x003, 0x010, 0x011, 0x012, 0x013, 0x020, 0x021, 0x030, 0x031, 0x040, 0x041, 0x042, 0x060, 0x061,
        0x090, 0x0A0].map fun r => Instr.rdsr N0 .push r) (atSeq .K)
      && allIssue {} [.rdsr N0 .push 0x070, .rdsr N0 .push 0x071, .rdsr N0 .push 0x072] (onWith .K fun x => { x with mode := .handler })
      && allIssue (sources [M 0]) ([0x010, 0x011, 0x012, 0x013, 0x021, 0x020].map fun r => Instr.wrsr N0 r (M 0)) (atSeq .K)
      && allIssue (sources [M 0]) [.wrsr N0 0x071 (M 0)] (onWith .K fun x => { x with mode := .handler })
      && allIssue (sources [M 0]) [.wrsr N0 0x020 (M 0)] (reg 0 15 (atSeq .K)) && srcVal (reg 0 15 (atSeq .K)) ⟨0, .K⟩ (M 0) == 15) = true := by
  decide +kernel
/-- A computing word issues and its sources have a result. -/
abbrev runs (i : Instr) (a : Alu) (s : State) : Bool :=
  issues i (nibOf i) none { scalars := a.scalars, vectors := a.vectors } s
    && (match a.eval s s.turn with | .ok _ _ => true | .trap _ => false)
/-- The same, of a word that VOTE may precede. -/
abbrev computes (i : Instr) (s : State) : Bool := (aluOf i).any fun a => runs i a s
/-- C has the turn, and VTYPE names a format. -/
abbrev inFmt (f : Fmt) : State := onWith .C fun x => { x with vtype := f.bits.setWidth 64 }
theorem witness_ComputeFrame : (computes (.add N0 .push (M 0) (M 1)) (atSeq .K) && computes (.vadd N0 .push (M 0) (M 1)) (atSeq .C)
    && computes (.vsett N0 1) (atSeq .C) && computes (.addi N0 (M 0) 1) (atSeq .S)) = true := by decide +kernel
theorem witness_VectorFloatResults :
    (([Fmt.fp32, .bf16, .fp16, .fp64].all fun f => allIssue { vectors := [M 0, M 1] } [.vadd N0 .push (M 0) (M 1),
        .vsub N0 .push (M 0) (M 1), .vmul N0 .push (M 0) (M 1), .vdiv N0 .push (M 0) (M 1), .vmin N0 .push (M 0) (M 1),
        .vmax N0 .push (M 0) (M 1), .vabs N0 .csgn .push (M 0) (M 1), .vcmp N0 .le .push (M 0) (M 1)] (inFmt f))
      && allIssue { vectors := [M 0] } [.vsqrt N0 .push (M 0), .vrcp N0 .push (M 0), .vrsq N0 .push (M 0), .vexp2 N0 .push (M 0),
        .vlog2 N0 .push (M 0), .vabs N0 .abs .push (M 0) (.belt 0), .vabs N0 .neg .push (M 0) (.belt 0)] (inFmt .fp16)
      && allIssue { vectors := [M 0, M 1, M 2] } [.vfma N0 .fma (M 0) (M 1) (M 2), .vfma N0 .fnms (M 0) (M 1) (M 2)] (inFmt .fp64)
      && allIssue { vectors := [M 0, M 1] } [.vcmp N0 .ne .push (M 0) (M 1)] (inFmt .int64)
      && allIssue { vectors := [M 0, M 1] } [.vabs N0 .csgn .push (M 0) (M 1)] (inFmt .e5m2)) = true := by decide +kernel
theorem witness_VectorIntegerResults :
    (allIssue { vectors := [M 0, M 1] } [.viadd N0 .us .push (M 0) (M 1), .visub N0 .ss .push (M 0) (M 1),
        .vimul N0 .wrap .push (M 0) (M 1), .vshift N0 .rot .push (M 0) (M 1), .viminmax N0 .maxu .push (M 0) (M 1),
        .vlogic N0 .and .push (M 0) (M 1), .vperm N0 .push (M 0) (M 1)] (inFmt .int8)
      && allIssue {} [.viota N0 .push 0x2000, .vsett N0 12] (inFmt .int64)
      && allIssue { vectors := [M 0, M 1, M 2] } [.vsel N0 (M 0) (M 1) (M 2)] (inFmt .uint8)
      && allIssue (sources [M 0]) [.vbcast N0 .push (M 0)] (inFmt .int8)
      && allIssue { scalars := [M 1], vectors := [M 0] } [.vextr N0 .push (M 0) (M 1)] (inFmt .int8)
      && allIssue { scalars := [M 1, M 2], vectors := [M 0] } [.vins N0 (M 0) (M 1) (M 2)] (inFmt .int8)) = true := by decide +kernel
theorem witness_VectorConversionResults :
    (allIssue { vectors := [M 0] } [.vreds N0 .push (M 0), .vredm N0 .amax .push (M 0), .vamax N0 .push (M 0),
        .vunpk N0 .b .push (M 0)] (inFmt .fp32)
      && allIssue { vectors := [M 0, M 1] } [.vpack N0 .n .push (M 0) (M 1)] (inFmt .fp32)
      && runs (.vcvt N0 (M 0) .bf16 .fp32 false false) (aluVcvt (M 0) .bf16 .fp32 false false) (inFmt .fp32) && runs (.vtopk N0 (M 0) 1) (aluVtopk (M 0) 1) (inFmt .fp32)
      && runs (.vquant N0 (M 0) .int8 .fp32 false false) (aluVquant (M 0) .int8 .fp32 false false) (inFmt .fp32)
      && runs (.vdeq N0 (M 0) .fp32 .int8 false false) (aluVdeq (M 0) .fp32 .int8 false) (inFmt .fp32)
      && runs (.vresid N0 (M 0) (M 1) (M 2)) (aluVresid (M 0) (M 1) (M 2)) (onWith .C fun x => { x with vtype := 0x80 })) = true := by decide +kernel
theorem witness_ElemTypeTraps :
    (allIssue { vectors := [M 0, M 1] } [.vadd N0 .push (M 0) (M 1)] (inFmt .e4m3)
      && allIssue { vectors := [M 0] } [.vexp2 N0 .push (M 0)] (inFmt .fp64)
      && allIssue { vectors := [M 0, M 1] } [.vcmp N0 .eq .push (M 0) (M 1)] (inFmt .e5m2)
      && allIssue { vectors := [M 0, M 1] } [.viadd N0 .wrap .push (M 0) (M 1)] (inFmt .fp32)
      && allIssue {} [.viota N0 .push 0] (inFmt .fp32)) = true := by decide +kernel

theorem witness_StepRunsWord :
    (let s := atSeq .K
     let p := State.reset.withFetchWord 64 0x1234567804194000
     (s.agenda == [] && ready s s.turn && (match fetchWord s s.turn 0 with
        | (_, .ok w) => !opcodeLong (opcodeOf w) && (match decode w 0 with | .ok _ => true | .error _ => false)
        | _ => false))
      && (ready p p.turn && (match fetchWord p p.turn 0 with
        | (u, .ok w) => opcodeLong (opcodeOf w) && (match fetchWord u p.turn 4 with
          | (_, .ok x) => (match decode w x with | .ok _ => true | .error _ => false)
          | _ => false)
        | _ => false))) = true := by decide +kernel
theorem witness_FetchReadsStorage :
    (let s := atSeq .L
     match trPage s (slotCtx s 0 .L) 0 4 { x := true } with
     | (u, .ok sp) => kvFind u.icache (fetchKey 0 .L (sp.loc / 16)) == none && getView u (clusterOf 0) (sp.loc / 64) == .empty
         && granSyn u.mem (sp.loc / 16) == 0 && !poisoned (homeMeta u (sp.loc / 64)) && sp.loc % 4 == 0
     | _ => false) = true := by decide +kernel
theorem witness_FetchStops :
    (let s := { atSeq .K with tlb := [] }
     let p := State.reset.withFetchWord 32 0x02081193
     (ready s s.turn && (match fetchAt s s.turn 0 with | (u, .fault _ _) => !lastFetch u s.turn | _ => false))
      && (ready p p.turn && (match fetchAt p p.turn 0 with | (u, .undecoded _ _) => !(getSeq u p.turn).predOn | _ => false))) = true := by
  decide +kernel
theorem witness_AgendaStep :
    (({ atSeq .K with agenda := [⟨1, .event .hbeat⟩] } : State).agenda == [⟨1, .event .hbeat⟩] && Instr.hbeat.isEvent
      && ({ atSeq .K with agenda := [⟨0, .issue ⟨0, .L⟩⟩] } : State).agenda == [⟨0, .issue ⟨0, .L⟩⟩]) = true := by decide +kernel
/-- The gate that a word meets: not ready 0, squashed 1, or its trap's cause, or waiting for tokens 100, else 200. -/
abbrev gate (i : Instr) (s : State) : Nat :=
  if !ready s s.turn then 0
  else if squashed (getSeq s s.turn) i then (if waitsMet (turnSlot s).tok (waitsOf s.turn.seq (nibOf i) none) then 300 else 301)
  else match decodeTrap i s.turn.seq (turnSlot s).supMode with
    | some tr => tr.cause
    | none => if waitsMet (turnSlot s).tok (waitsOf s.turn.seq (nibOf i) none) then 200 else 100
theorem witness_WordGates :
    ((gate (.nop N0) State.reset, gate (.nop N0) (onSeq .K fun q => { q with predOn := true }),
      gate (.nop NWp) (onSeq .K fun q => { q with predOn := true }))
      == (0, 300, 301)
     && (gate (.vadd N0 .push (M 0) (M 1)) (atSeq .K), gate (.qput N0 0 (M 0)) (atSeq .L), gate (.tsig N0 0 true) (atSeq .K)) == (2, 2, 1)
     && (gate (.eret N0) (atSeq .K), gate (.rdsr N0 .push 0x070) (atSeq .K), gate (.nop NWn) (atSeq .K)) == (3, 3, 100)) = true := by decide +kernel
/-- Every die has this SVBASE. -/
abbrev based (v : Word) (s : State) : State := { s with dies := .replicate _ { Die.reset with svbase := v } }
theorem witness_TrapEntry :
    (let u := based 0x1000 (atSeq .L)
     let h := based 0x1000 (onWith .K fun x => { x with mode := .handler })
     (!(getSlot u 0).supMode && (getDie u (dieOfCore (coreOf 0))).svbase == 0x1000 && (getSlot h 0).supMode
      && (getDie (atSeq .K) (dieOfCore (coreOf 0))).svbase == 0)) = true := by decide +kernel
/-- K runs in a trap handler. -/
abbrev handling (g : Slot → Slot) : State := onWith .K fun x => g { x with mode := .handler }
theorem witness_SupervisorWords :
    (allIssue {} [.svc N0 5, .trap N0 0x3FFF] (atSeq .K)
      && allIssue {} [.eret N0] (onWith .K fun x => { x with mode := .supTask }) && allIssue {} [.eret NSn] (handling id)
      && allIssue {} [.eret .none] (handling fun x => { x with snapped := true })
      && allIssue {} [.eret .none] (handling fun x => { x with tcause := 6 }) && !slotClosing (handling id) 0
      && allIssue {} [.tlbinvAll N0] (handling id) && !accessesLeft (handling id)
      && ([0, 1, 1023, 1024].all fun v => allIssue (sources [M 0]) [.tlbinvJob N0 (M 0)] (reg 0 v (handling id)))
      && allIssue (sources [M 0, M 1]) [.tlbinvRange N0 (M 0) (M 1)] (handling id)
      && allIssue (sources [M 0, M 1]) [.tlbinvRange N0 (M 0) (M 1)] (reg 1 4096 (handling id)) && leavesHalf 0 4096 == none
      && allIssue (sources [M 0, M 1]) [.tlbinvRange N0 (M 0) (M 1)] (reg 1 (-1) (handling id))
      && leavesHalf 0 ((-1 : Word)).toNat != none) = true := by decide +kernel
theorem witness_DecodeEncode : ([Instr.add N0 .push (M 0) (M 31), .liw N0 (.main 5) 1, .vote, .stage 7].all fun i =>
    i.isWord && i.wellFormed) && Instr.warmReset.isEvent := by decide +kernel
theorem witness_StorageStaysCanonical :
    Memory.wf (atSeq .K).mem && (match step (atSeq .K) with | .next _ => true | _ => false) = true := by decide +kernel

/-- A load of n bytes at address 0 issues in s, its bytes lie in storage, and it meets an error or not; or it has to wait. -/
abbrev loads (i : Instr) (n : Nat) (need : Need) (w : List Span → QVal → Work) (bad : Bool) (s : State) (waits : Bool := false) : Bool :=
  issues i N0 none (sources [M 0]) s
    && (match translate s (slotCtx s s.turn.slot s.turn.seq) 0 n need with
        | (u, .ok sps) => sps.all (fun sp => sp.area != .control) && ownPending u s.turn sps == waits
            && (match loadValue u s.turn.slot s.turn.seq (isSup u s.turn) (w sps (.s .zero)) with | .ok _ => !bad | .error _ => bad)
        | _ => false)
/-- The page of address 0 holds device control registers. -/
abbrev control (s : State) : State := { s with tlb := [(0, { fetchEntry 1 0 with leaf := 0x300000000002F })] }
theorem witness_LoadWords :
    (let rd : Need := { r := true, sys := true }
     let ctl : Need := { r := true, sys := true, ctl := true }
     loads (.ldb N0 .push (M 0) 0) 1 rd .load false (atSeq .K) && loads (.ldh N0 .push (M 0) 0) 2 rd .load false (atSeq .L)
      && loads (.ldw N0 .push (M 0) 0) 4 rd .load false (atSeq .K) && loads (.ldd N0 .push (M 0) 0) 8 ctl .load false (atSeq .K)
      && loads (.ldb N0 .push (M 0) 0) 1 rd .load true { atSeq .K with mem := setGranSyn (atSeq .K).mem 0 1 }
      && loads (.ldw N0 .push (M 0) 0) 4 rd .load false (busyWith .K (.store (.plain [low8] 7)) (atSeq .K)) true
      && loads (.ldc N0 .push (M 0) 0) 8 rd .const false (atSeq .K)
      && loads (.ldq N0 4 (M 0) 0) 8 rd (fun l => .ldq 4 l false) false (atSeq .L)
      && loads (.ldvq N0 1 (M 0) 0) 256 rd (fun l => .ldq 1 l true) false (atSeq .L) && !queueFull (getSlot (atSeq .L) 0) 4
      && (let s := control (handling id)
          issues (.ldd N0 .push (M 0) 0) N0 none (sources [M 0]) s && (match translate s (slotCtx s 0 .K) 0 8 ctl with
            | (_, .ok [sp]) => sp.area == .control
            | _ => false))
      && issues (.pref N0 (M 0) 0) N0 none (sources [M 0]) (atSeq .K)
      && (match trPage (atSeq .K) (slotCtx (atSeq .K) 0 .K) 0 8 { r := true } with | (_, .ok _) => true | _ => false)
      && (let s := { atSeq .K with tlb := [] }
          match trPage s (slotCtx s 0 .K) 0 8 { r := true } with | (_, .fault _ _) => true | _ => false)) = true := by decide +kernel

/-- A store at M 1 of n bytes issues in s, its bytes lie in storage or not in a region's areas, and it meets no error. -/
abbrev stores (i : Instr) (r : Reads) (va : Word) (n : Nat) (need : Need) (w : List Span → StoreOp) (inside : Bool) (s : State) (bad : Bool := false) : Bool :=
  issues i (nibOf i) none r s
    && (match translate s (slotCtx s s.turn.slot s.turn.seq) va n need with
        | (u, .ok sps) =>
          let x := getSlot u s.turn.slot
          let slot := s.turn.slot
          let tried := if isSup u s.turn then performOp u slot (w sps) else slotWrite u slot s.turn.seq 0 u.nextUid (w sps)
          sps.all (fun sp => sp.area != .control)
            && (!isSup u s.turn && x.regionOpen && sps.any fun sp => inRegionAreas x s.turn.slot sp.loc sp.len) == inside
            && !ownPending u s.turn sps && !heldByDrain x u.nextUid (w sps)
            && (match tried with | .ok _ => !bad | .error _ => bad)
        | _ => false)
/-- A region is open in slot 0, whose task has two units. -/
abbrev inRegionState (q : Seq) : State :=
  onWith q fun x => { x with region := some opened, task := x.task.map fun k => { k with need := 2 } }
theorem witness_StoreWords :
    (let st : Need := { w := true }
     let ctl : Need := { w := true, ctl := true }
     let journal := windowBase + 0x1FD00
     let put (sps : List Span) : StoreOp := .plain sps 0
     stores (.stb N0 (M 0) (M 1) 0) (sources [M 0, M 1]) 0 1 st put false (atSeq .K)
      && stores (.sth N0 (M 0) (M 1) 0) (sources [M 0, M 1]) 0 2 st put false (atSeq .S)
      && stores (.stw N0 (M 0) (M 1) 0) (sources [M 0, M 1]) 0 4 st put false (atSeq .K)
      && stores (.std N0 (M 0) (M 1) 0) (sources [M 0, M 1]) 0 8 ctl put false (atSeq .K)
      && stores (.stw N0 (M 0) (M 1) 0) (sources [M 0, M 1]) 0 4 st put false { atSeq .K with mem := setGranSyn (atSeq .K).mem 0 1 } true
      && stores (.std N0 (M 0) (M 1) 0) (sources [M 0, M 1]) journal 8 ctl put true (reg 1 journal (inRegionState .K))
      && stores (.stvq N0 2 (M 1) 0) (sources [M 1]) 0 256 st (.vec · .zero) false (filledWith .S 2 (.v .zero))
      && (match translate (atSeq .K) (slotCtx (atSeq .K) 0 .K) 0 8 { r := true, w := true } with
          | (_, .ok [_]) => issues (.red N0 .add .rlx (M 0) (M 1)) N0 none (sources [M 0, M 1]) (atSeq .K)
          | _ => false)
      && (let s := control (handling id)
          issues (.std N0 (M 0) (M 1) 0) N0 none (sources [M 0, M 1]) s && !pending s ⟨0, .K⟩
            && (match translate s (slotCtx s 0 .K) 0 8 ctl with | (_, .ok [sp]) => sp.area == .control | _ => false))) = true := by decide +kernel
/-- An atomic of n bytes at address 0 issues in s and performs, or leaves a table write to wait for. -/
abbrev updates (i : Instr) (r : Reads) (n : Nat) (o : MemOrd) (f : Nat → Option Nat) (s : State) (waits : Bool := false) : Bool :=
  issues i (nibOf i) none r s && !pending s s.turn
    && (match translate s (slotCtx s s.turn.slot s.turn.seq) 0 n { r := true, w := true, atHome := true } with
        | (u, .ok [sp]) => relGate u s.turn sp o == none && sp.area != .remote
          && (match escaping u s.turn escAtom [sp] with
          | .ok v => (match atomicAt v s.turn.slot sp n o f with | .ok (w, _) => (freshDrops u w != []) == waits | .error _ => false)
          | .error _ => false)
        | _ => false)
theorem witness_AtomicWords :
    (updates (.aadd N0 .rlx .push (M 0) (M 1)) (sources [M 0, M 1]) 8 .rlx some (atSeq .K)
      && updates (.aswap N0 .acqrel .push (M 0) (M 1)) (sources [M 0, M 1]) 8 .acqrel some (atSeq .S)
      && updates (.cas N0 .rel (M 0) (M 1) (M 2)) (sources [M 0, M 1, M 2]) 8 .rel some (atSeq .K)
      && updates (.casw N0 .acq (M 0) (M 1) (M 2)) (sources [M 0, M 1, M 2]) 4 .acq (fun _ => none) (atSeq .K)
      && updates (.aadd N0 .rlx .push (M 0) (M 1)) (sources [M 0, M 1]) 8 .rlx (fun m => some (m + 1))
          (busyWith .L (.load [{ low8 with loc := 64, walk := [0] }] (.s .zero)) (atSeq .K)) true
      && (let s := farAt 0 .K
          issues (.aadd N0 .rel .push (M 0) (M 1)) N0 none (sources [M 0, M 1]) s && !pending s s.turn
            && (match translate s (slotCtx s 0 .K) 0 8 { r := true, w := true, atHome := true } with
              | (u, .ok [sp]) => sp.area == .remote && relGate u s.turn sp .rel == none
                && (match escaping u s.turn escAtom [sp] with
                  | .ok v => farAddr (releaseSteps v 0 sp) sp.loc == some (5, 0) && !unreachable (releaseSteps v 0 sp) 5
                  | .error _ => false)
              | _ => false))) = true := by decide +kernel
theorem witness_AtomicAtHome :
    (let sp : Span := { va := windowBase, loc := scratchBase 0, len := 8, area := .scratch 0, sw := 0, et := false, tt := false, cst := false }
     !sp.area.cached && sp.loc % 8 == 0 && granSyn (atSeq .K).mem (sp.loc / 16) == 0 && !poisoned (homeMeta (atSeq .K) (sp.loc / 64))) = true := by
  decide +kernel
theorem witness_MemoryTraps :
    (let s := { atSeq .K with tlb := [] }
     let l := { atSeq .L with tlb := [] }
     let faults (s : State) (n : Nat) (need : Need) : Bool :=
       match translate s (slotCtx s 0 s.turn.seq) 0 n need with | (_, .fault _ _) => true | _ => false
     allIssue (sources [M 0]) [.ldb N0 .push (M 0) 0, .ldd N0 .push (M 0) 0, .ldc N0 .push (M 0) 0, .pref N0 (M 0) 0,
        .acq N0 .push (M 0)] s && faults s 8 { r := true, sys := true }
      && allIssue (sources [M 0, M 1]) [.stb N0 (M 0) (M 1) 0, .std N0 (M 0) (M 1) 0, .aadd N0 .rlx .push (M 0) (M 1),
        .aswap N0 .rlx .push (M 0) (M 1), .red N0 .or .rlx (M 0) (M 1), .rel N0 (M 0) (M 1)] s && faults s 8 { w := true }
      && allIssue (sources [M 0, M 1, M 2]) [.cas N0 .rlx (M 0) (M 1) (M 2), .casw N0 .rlx (M 0) (M 1) (M 2)] s
      && faults s 8 { r := true, w := true } && allIssue (sources [M 0]) [.ldq N0 4 (M 0) 0, .ldvq N0 1 (M 0) 0] l
      && faults l 256 { r := true, sys := true }
      && allIssue (sources [M 0]) [.vld N0 .push (M 0) 0, .vst N0 (M 1) (M 0) 0] (reg 0 8 (atSeq .C))
      && srcVal (reg 0 8 (atSeq .C)) ⟨0, .C⟩ (M 0) == 8) = true := by decide +kernel
/-- A word of K is under way. -/
abbrev underWay (w : Work) : State := busyWith .K w (atSeq .K)
/-- The load under way in s can be delivered: it reads well, or its bytes have turned bad. -/
abbrev delivers (bad : Bool) (s : State) : Bool :=
  (match ((getSlot s 0).issued .K).find? (fun e => e.2.tag == 3 && !e.2.done && e.2.work.isLoad) with
    | some (false, o) => o.work == .load [low8] (.s .zero) && !blockedBy ((getSlot s 0).issued .K) o
        && (match loadSpans 0 0 (coreWho s 0) s [low8] with | .ok _ => !bad | .error _ => bad)
    | _ => false) && (getSlot s 0).region == none
/-- The store under way in s can be performed, and leaves a table write to wait for or not. -/
abbrev performable (waits : Bool) (s : State) : Bool :=
  let op : StoreOp := .plain [low8] 7
  match ((getSlot s 0).issued .K).filter (fun e => !e.2.done && e.2.work.isStore) with
  | [(false, o)] => o.work == .store op && !blockedBy ((getSlot s 0).issued .K) o && needFar s 0 op.merges == none
      && !farRelHeld s 0 o.tag op && !farRelease (getSlot s 0) o.tag op
      && (match performOp s 0 op with | .ok u => (freshDrops s u != []) == waits | .error _ => false)
  | _ => false
theorem witness_DeliveredAndPerformed :
    (let s := underWay (.load [low8] (.s .zero))
     let u := underWay (.store (.plain [low8] 7))
     delivers false s && delivers true { s with mem := setGranSyn s.mem 0 1 } && performable false u
      && performable true (busyWith .L (.load [{ low8 with loc := 64, walk := [0] }] (.s .zero)) u)) = true := by decide +kernel
theorem witness_AccessedBytes :
    (let sp : Span := { low8 with loc := scratchBase 0 + 12, area := .scratch 0 }
     !sp.area.cached && ([sp.loc / 16, sp.loc / 16 + 1].all fun g =>
      granSyn (atSeq .K).mem g == 0 && !poisoned (homeMeta (atSeq .K) (g / 4)))) = true := by decide +kernel
theorem witness_VectorMemoryWords :
    (let s := reg 0 windowBase (atSeq .C)
     let far := reg 0 (windowBase + 0x20000) (atSeq .C)
     (match windowRun s 0 windowBase 256 with
      | (u, .ok sp) =>
        (match readFor u 0 false (fun s => moveSpans 2 0 (coreWho s 0) s [sp]) with | .ok _ => true | .error _ => false)
          && (match slotWrite u 0 .C (getSeq u ⟨0, .C⟩).pc u.nextUid (.vec [sp] .zero) with | .ok _ => true | .error _ => false)
      | _ => false)
      && allIssue (sources [M 0]) [.vld N0 .push (M 0) 0, .vst N0 (M 1) (M 0) 0] s
      && (match windowRun far 0 (windowBase + 0x20000) 256 with | (_, .error _) => true | _ => false)
      && allIssue (sources [M 0]) [.vld N0 .push (M 0) 0, .vst N0 (M 1) (M 0) 0] far
      && allIssue { scalars := [M 0], vectors := [M 1] } [.vldx N0 .d .push (M 0) (M 1)] s
      && allIssue { scalars := [M 0], vectors := [M 1, M 2] } [.vstx N0 .d (M 0) (M 1) (M 2)] s
      && (match elemSpans 0 8 s (List.replicate 32 windowBase) with
          | (u, .ok sps) => (match readFor u 0 false (fun s => loadSpans 2 0 (coreWho s 0) s sps) with | .ok _ => true | .error _ => false)
              && (match writeElems ⟨0, .C⟩ u (sps.zip (List.replicate 32 0)) with | .ok _ => true | .error _ => false)
          | _ => false)
      && allIssue { scalars := [M 0], vectors := [M 1] } [.vldx N0 .d .push (M 0) (M 1)] (reg 0 1 (atSeq .C))) = true := by decide +kernel

/-- A policy of job 1 that allows E4M3, at address 0x400, and tensor records: one of 256 elements at address 0 with its tensor at
0x800, with FLAGS and with OOBOK as given. -/
abbrev recorded (q : Seq) (flags oobok : Nat) : State :=
  let r := 256 ^ 4 + flags * 256 ^ 5 + 4 * 256 ^ 17 + 256 ^ 64 + oobok * 256 ^ 66 + 256 * 256 ^ 68 + 256 ^ 72 + 256 ^ 76
    + 256 ^ 80 + 256 ^ 84 + 0x800 * 256 ^ 104
  let s := atSeq q
  { s with
    mem := writeNat (writeNat s.mem 0x400 32 (0x10 * 256 ^ 2 + 256 ^ 6)) 0 256 r
    tlb := [(0, { fetchEntry 1 0 with leaf := 0x83F })], jobs := [(1, { Job.free with policy := 0x3E0, state := 2 })] }
/-- What the record at address 0 resolves to: bad 0, held 1, skew 2, else 3. -/
abbrev resolves (s : State) (need : Need) : Nat :=
  match translate s (slotCtx s 0 s.turn.seq) 0 256 need with
  | (u, .ok [rec]) => (match readRecord u (seqNum s.turn.seq) 0 rec with
    | .ok (u, r) => (match resolveRecord u 1 (getSlot u 0).fmtovr 0 rec r with
      | .bad => 0 | .held => 1 | .skew => 2 | .ok _ _ _ => 3)
    | .error _ => 8)
  | _ => 9
theorem witness_TensorWords :
    (let q (s : State) : State := updSlot s 0 fun x => { x with queues := vset x.queues 2 [{ tag := 0, val := some (.v .zero) }] }
     let s := q (recorded .S 1 0)
     let stt : Instr := .stt N0 (M 0) (M 1) 0
     let reads := sources [M 0, M 1]
     (resolves (atSeq .S) { r := true }, resolves (recorded .S 5 0) { r := true },
        resolves (updSlot (recorded .S 1 0) 0 fun x => { x with fmtovr := 0x61 }) { r := true }, resolves s { r := true })
        == (0, 1, 2, 3)
      && allIssue reads [stt] (atSeq .S) && allIssue reads [stt] (recorded .S 5 0) && allIssue reads [stt] s
      && allIssue reads [stt] (reg 1 1 s) && allIssue reads [stt] (reg 1 192 s)
      && (match translate s (slotCtx s 0 .S) 0 256 { r := true } with
        | (u, .ok [rec]) => (match resolveRecord u 1 0 0 rec (readNat u.mem 0 256) with
          | .ok u r v =>
            let f := fmtOf v.2.1
            let xs := (vecValues (sttFmt 0) [.zero]).take (recExtent r)
            let out := encodeElems f v.2.2 false false xs
            f == .e4m3 && recExtent r == 256
              && (match transRuns (slotCtx u 0 .S) u (tensorRuns f (recBase r) (recScales r) (some (BitVec.ofNat 4 v.1)) 0 out) with
                | (u, .ok ws) => (match slotWrite u 0 .S (getSeq u ⟨0, .S⟩).pc u.nextUid (.tensor ws) with
                  | .ok u => !(mergeCounts u 1 rec (countValues xs out.sats)).2
                  | .error _ => false)
                | _ => false)
          | _ => false)
        | _ => false)) = true := by decide +kernel
theorem witness_TensorCounts :
    (let s := recorded .C 1 0
     allIssue { scalars := [M 1], vectors := [M 0] } [.vhist N0 (M 0) (M 1)] s && fmtWide (vtFmt (turnSlot s).vtype)
      && resolves s { r := true, w := true } == 3
      && (checkRecord s 1 (readNat s.mem 0 256)).2.isSome && (checkRecord (atSeq .C) 1 (readNat (atSeq .C).mem 0 256)).2 == none
      && allIssue { scalars := [M 1], vectors := [M 0] } [.vhist N0 (M 0) (M 1)] (atSeq .C)) = true := by decide +kernel

/-- The sync word at address 0 is acquired for reading. -/
abbrev acquires (s : State) (need : Need) : Bool :=
  match translate s (slotCtx s 0 s.turn.seq) 0 8 need with
  | (u, .ok [sp]) => (match acquireRead u 0 (isSup u s.turn) sp with | .ok _ => !pending u s.turn | .error _ => false)
  | _ => false
/-- A mark that an ACQ of address 8 sees. -/
abbrev marked (s : State) : State := updSlot s 0 fun x => { x with
  marks := [{ path := .copy, done := 8, bank := none, ctx := none, low := 0, obs := .K, record := 0x40 }] }
/-- The binding table of slot 0 holds n entries of the sync word at 8. -/
abbrev boundN (n : Nat) (s : State) : State :=
  { s with mem := (List.range n).foldl (fun m i => writeNat m (allocLoc (getSlot s 0) 0 (65024 + 32 * i)) 32 (9 + 64 * 2 ^ 128)) s.mem }
theorem witness_SyncWords :
    (allIssue (sources [M 0]) [.ftest N0 .push (M 0), .acq N0 .push (M 0)] (atSeq .K)
      && acquires (atSeq .K) { r := true } && acquires (atSeq .K) { r := true, sys := true, atHome := true }
      && (let s := marked (reg 0 8 (atSeq .K))
          allIssue (sources [M 0]) [.acq N0 .push (M 0)] s && ((getSlot s 0).marks.any fun m => (Observe.done 8 0).sees .K m)
            && reached s 8 8 { r := true, sys := true, atHome := true })
      && allIssue (sources [M 0, M 1]) [.rel N0 (M 0) (M 1), .unbind N0 (M 0) (M 1)] (atSeq .K)
      && (match translate (atSeq .K) (slotCtx (atSeq .K) 0 .K) 0 8 { w := true } with
          | (u, .ok [sp]) => !sp.cst && !ownPending u ⟨0, .K⟩ [sp] && !heldByDrain (getSlot u 0) u.nextUid (.rel sp 0)
              && (match slotWrite u 0 .K 0 u.nextUid (.rel sp 0) with | .ok _ => true | .error _ => false)
          | _ => false)
      && (let s := { atSeq .K with mem := setGranSyn (atSeq .K).mem 0 1 }
          match translate s (slotCtx s 0 .K) 0 8 { w := true, atHome := true } with
          | (u, .ok [sp]) => (match slotWrite u 0 .K 0 u.nextUid (.rel sp 0) with | .ok _ => false | .error _ => true)
          | _ => false)
      && (let s := farAt 2 .K
          allIssue (sources [M 0]) [.acq N0 .push (M 0)] s
            && (match translate s (slotCtx s 0 .K) 0 8 { r := true, sys := true, atHome := true } with
              | (u, .ok [sp]) => sp.area == .remote && sp.sw == 2 && farAddr u sp.loc == some (5, 0) && !unreachable u 5 && !pending u s.turn
              | _ => false))
      && (let s := { atSeq .K with tlb := [(0, { fetchEntry 1 0 with leaf := 0x43F })] }
          match translate s (slotCtx s 0 .K) 0 8 { w := true } with | (_, .ok [sp]) => sp.cst | _ => false)
      && allIssue (sources [M 0, M 1, M 2]) [.bind N0 (M 0) (M 1) (M 2)] (reg 2 1 (atSeq .K))
      && ((bindings (atSeq .K) 0).find? fun e => e.2.isNone) == some (0, none)
      && (match tableWrite (atSeq .K) ⟨0, .K⟩ 0 32 (1 + 64 * 2 ^ 128) with | .ok _ => true | .error _ => false)
      && (let s := boundN 16 (atSeq .K)
          (bindings s 0).all (fun e => e.2 == some (8, 0, 64))
            && (match invalidate ⟨0, .K⟩ s (List.range 16) with | .ok _ => true | .error _ => false))) = true := by decide +kernel
theorem witness_FenceAndCacheWords :
    (let noted (s : State) : State := updSlot s 0 fun x => { x with fence := x.fence ++ [(.K, s.nextUid)] }
     let stored := underWay (.store (.plain [low8] 7))
     allIssue {} [.fence N0, .xfence N0 .matrix .core] (atSeq .K) && allIssue {} [.fence N0, .xfence N0 .core .copy] stored
      && !pending (noted (atSeq .K)) ⟨0, .K⟩ && !pathBusy (noted (atSeq .K)) 0 .matrix 0 && pending (noted stored) ⟨0, .K⟩
      && allIssue (sources [M 0, M 1]) [.cflush N0 (M 0) (M 1), .cinv N0 (M 0) (M 1)] (atSeq .K)
      && allIssue (sources [M 0, M 1]) [.cflush N0 (M 0) (M 1), .cinv N0 (M 0) (M 1)] (reg 1 64 (atSeq .K)) && leavesHalf 0 64 == none
      && leavesHalf 0 (2 ^ 56) == none && leavesHalf 0 (2 ^ 56 + 1) == some 0x100000000000000
      && (pageWidth (atSeq .K) ⟨0, .K⟩ 0).2 == 0
      && (let s := reg 1 64 { farAt 5 .K with outWrs := [{ job := 1, dst := 5, tag := 9, slot := some 0, line := 2 ^ 44, lost := false }] }
          (pageWidth s ⟨0, .K⟩ 0).2 == 5 && allIssue (sources [M 0, M 1]) [.cflush N0 (M 0) (M 1)] s)
      && ([0x80000000, 0, 0x80000001, 0x7FFFFFFF].all fun v =>
        allIssue (sources [M 0]) [.wpwait N0 (M 0) 0] (reg 0 v (atSeq .L)))) = true := by decide +kernel

/-- Handle 2 of slot 0 stands on a ring of four slots at 0x100, two of them filled and not taken, with RFL and counts as given. -/
abbrev ring (role : Role) (rfl_ : Nat) (count done : BitVec 16) (k : Word) (s : State) : State :=
  let d := 0x800 + 2 * 256 ^ 8 + 4 * 256 ^ 12 + 2 * 256 ^ 20 + 3 * 256 ^ 24 + 256 ^ 26 + rfl_ * 256 ^ 28
  reg 0 k (updSlot { s with mem := writeNat s.mem 0x100 32 d } 0 fun x =>
    { x with handles := vset x.handles 2 { Handle.unbound with desc := 0x100, role := some role, count, done } })
/-- The descriptor of that ring, read at its home. -/
abbrev ringDesc (s : State) : Option (State × RDesc) :=
  match translate s (slotCtx s 0 .K) 0x100 32 { r := true, w := true } with
  | (u, .ok [sp]) => (match readDesc u 0 sp, ringEscape u s.turn sp with | .ok p, .ok _ => some p | _, _ => none)
  | _ => none
theorem witness_RingMoves :
    (let claims (role : Role) (rfl_ : Nat) (k : Word) : Option Nat :=
       (ringDesc (ring role rfl_ 0 0 k (atSeq .K))).bind fun p => claimStatus role p.2 false k.toNat
     let all : List Instr := [.rclaim N0 2 (M 0), .rtake N0 2 (M 0), .rfill N0 2 (M 0), .rfree N0 2 (M 0)]
     allIssue (sources [M 0]) all (atSeq .K)
      && ([0, 1, 2, 3, 4, 5, 65535, 65536].all fun k => allIssue (sources [M 0]) all (ring .producer 0 3 1 k (atSeq .K)))
      && ((ringDesc (ring .producer 0 0 0 1 (atSeq .K))).any fun p => p.2.n == 4)
      && (claims .producer 0 2, claims .producer 0 3, claims .producer 1 1) == (some 0, none, some 1)
      && (claims .consumer 0 2, claims .consumer 0 3, claims .consumer 1 3) == (some 0, none, some 1)
      && claimStatus .consumer (rdescOf 0) true 1 == some 2) = true := by decide +kernel
theorem witness_RingWaits :
    (let s := ring .consumer 0 0 0 2 (atSeq .K)
     let waits (role : Role) (rfl_ : Nat) (lost : Bool) (k : Nat) : Option Nat :=
       (ringDesc (ring role rfl_ 0 0 2 (atSeq .K))).bind fun p => waitStatus role p.2 lost k
     allIssue (sources [M 0]) [.rwaitf N0 2 (M 0), .rwaite N0 2 (M 0), .rbind N0 2 (M 0) .producer] s
      && (waits .consumer 0 false 2, waits .consumer 0 false 3, waits .consumer 1 false 3, waits .producer 0 true 3)
        == (some 0, none, some 1, some 2)
      && allIssue {} [.rstat N0 .push 2] s && allIssue {} [.rstat N0 .push 2] (atSeq .K)
      && allIssue (sources [M 0]) [.rbind N0 2 (M 0) .producer] (reg 0 0x100 s) && !stageBound (turnSlot s) 2
      && ((ringDesc s).any fun p => p.2.ok && !p.2.graph) && ((ringDesc (ring .consumer 8 0 0 2 (atSeq .K))).any fun p => !p.2.ok)
      && ((ringDesc (ring .consumer 4 0 0 2 (atSeq .K))).any fun p => p.2.graph)) = true := by decide +kernel

/-- The future at address 8 holds v; M 0 holds its address, M 1 a node's and M 2 a continuation. -/
abbrev future (v : Nat) : State :=
  let s := reg 0 8 (reg 1 0x40 (atSeq .K))
  { s with mem := writeNat s.mem 8 8 v }
/-- What FWAIT acquires there, with the span that it translates to. -/
abbrev futureAt (s : State) : Option (State × Span × Word) :=
  match translate s (slotCtx s 0 .K) 8 8 { r := true, w := true } with
  | (u, .ok [sp]) => (match acquireRead u 0 (isSup u s.turn) sp with | .ok (_, v) => some (u, sp, v) | .error _ => none)
  | _ => none
/-- A release of v at a future where it still holds old. -/
abbrev releases (s : State) (sp : Span) (old v : Word) : Bool :=
  match casRelease s 0 sp old v with | .ok (_, b) => b | .error _ => false
/-- The node at an address can be read, and the next is at 0. -/
abbrev lastNode (s : State) (node : Word) : Bool :=
  match translate s (slotCtx s 0 .K) node 16 { r := true } with
  | (u, .ok (sp :: r)) => !flipping u (sp :: r) && needFar u 0 (sp :: r) == none
      && (match homeRead u (some (clusterOf (coreOf 0))) { sp with len := 16 } 16 with
        | .ok (_, v, _) => futureNode (BitVec.ofNat 64 v) == 0
        | .error _ => false)
  | _ => false
theorem witness_FutureWords :
    (allIssue (sources [M 0, M 1, M 2]) [.fwait N0 (M 0) (M 1) (M 2)] (future 0)
      && allIssue (sources [M 0, M 1]) [.ffill N0 (M 0) (M 1)] (future 0)
      && ((futureAt (future (2 ^ 63 + 5))).any fun p => p.2.2.msb) && ((futureAt (future 1)).any fun p => futureBad p.2.2)
      && ((futureAt (future 0)).any fun p => !p.2.2.msb && !futureBad p.2.2 && futureNode p.2.2 == 0
        && (match translate p.1 (slotCtx p.1 0 .K) 0x40 16 { w := true } with
            | (u, .ok nsp) => (match storeNode u 0 nsp 0x40 0 0 with | .ok u => releases u p.2.1 0 0x40 | .error _ => false)
            | _ => false)
        && releases p.1 p.2.1 0 0x8000000000000000)
      && ((futureAt (future 0x80)).any fun p => futureNode p.2.2 == 0x80 && lastNode p.1 0x80
        && releases p.1 p.2.1 0x80 0x8000000000000000)) = true := by decide +kernel
/-- bn 0 of slot 0 is barrier 3 of its die, as b. -/
abbrev barrier (b : Bar) : State :=
  setBar (updSlot (atSeq .K) 0 fun x => { x with barmap := vset x.barmap 0 (some 3) }) (barKey 0 3) b
/-- A barrier of n participants in phase ph. -/
abbrev barOfN (n a : Nat) (ph : BitVec 32) (lost : Bool) : Bar := { Bar.free with p := n, a := a, ph := ph, lost := lost }
theorem witness_BarrierWords :
    (let words (s : State) : Bool :=
       allIssue {} [.bararr N0 0, .barsync N0 0] s && allIssue (sources [M 0]) [.barwait N0 (M 0) 0] s && !isSup s ⟨0, .K⟩
     words (atSeq .K) && barOf (turnSlot (atSeq .K)) 0 == none
      && ([barOfN 2 0 0x80000000 false, barOfN 2 0 0 false, barOfN 2 0 0x80000001 false, barOfN 2 0 0 true].all fun b =>
        words (barrier b) && barOf (turnSlot (barrier b)) 0 == some 3 && getBar (barrier b) (barKey 0 3) == b)
      && (let u := arriveLocal (barrier (barOfN 1 0 7 false)) 0 3
          (getBar u (barKey 0 3)).ph == 8 && !(getBar u (barKey 0 3)).lost)
      && (getBar (arriveLocal (barrier (barOfN 2 0 7 false)) 0 3) (barKey 0 3)).ph == 7) = true := by decide +kernel
theorem witness_BarrierArrival :
    (getBar (arrive (barrier (barOfN 2 0 7 false)) 0 3) (barKey 0 3) == barOfN 2 1 7 false
      && getBar (arrive (barrier (barOfN 2 1 7 false)) 0 3) (barKey 0 3) == barOfN 2 0 8 false) = true := by decide +kernel

/-- A sequencer has the turn, its packet v stands at M 0: in the local window for C, else at 0x100. -/
abbrev packet (q : Seq) (size v : Nat) (g : Slot → Slot) : State :=
  let s := reg 0 (if q = .C then windowBase else 0x100) (onWith q g)
  { s with mem := writeNat s.mem (if q = .C then scratchBase 0 else 0x100) size v }
/-- What the word reads there. -/
abbrev packetAt (size : Nat) (s : State) : Option (State × State × Nat) :=
  let t := s.turn
  let go (u : State) (sps : List Span) : Option (State × State × Nat) :=
    match readFor u t.slot (isSup u t) (fun s => loadSpans (seqNum t.seq) t.slot (coreWho s t.slot) s sps) with
    | .ok (w, v) => if pending u t then none else some (u, w, v)
    | .error _ => none
  if t.seq = .C then (match windowRun s t.slot windowBase size with | (u, .ok sp) => go u [sp] | _ => none)
  else match translate s (slotCtx s t.slot t.seq) 0x100 size { r := true } with | (u, .ok sps) => go u sps | _ => none
/-- How a packet's checks answer: accepted 0, rejected 1, trapped 2, waiting 3, an error 4. -/
abbrev answers (c : Chk) : Nat := match c with | .ok _ _ => 0 | .reject _ _ => 1 | .trap _ _ => 2 | .wait _ => 3 | .bad _ _ => 4
/-- A word issues with a packet of n bytes, has room in its engine or not, and its checks answer. -/
abbrev takesPacket (i : Instr) (eng size : Nat) (c : State → Nat → Chk) (room : Bool) (a : Nat) (s : State) : Bool :=
  issues i (nibOf i) none (sources [M 0]) s
    && (packetAt size s).any fun p => roomFor p.1 s.turn.slot eng 1 == room && answers (c p.2.1 p.2.2) == a
/-- A command that waits. -/
abbrev waiting (uid : Nat) (body : CmdBody) : Cmd :=
  { uid, body, progress := 0, sats := 0, started := false, paused := none, status := none, fcode := 0, inRegion := false,
    after := none, by_ := .C, pulled := none, marked := false }
/-- A COPY of 16 bytes, one into a record that does not translate, and a matrix product of BF16. -/
abbrev copyPkt : Nat := 1 + 0x200 * 256 ^ 16 + 0x300 * 256 ^ 24 + 16 * 256 ^ 32
abbrev copyFar : Nat := 2 + 0x200 * 256 ^ 16 + 0x300 * 256 ^ 24 + 16 * 256 ^ 32 + 0xE0 * 256 ^ 38 + 0x100000 * 256 ^ 40
abbrev mmaPkt (kind : Nat) : Nat := kind + 0x11 * 256 ^ 44 + 256 ^ 46 + 256 ^ 48
/-- Slot 0's task is a gang's only member. -/
abbrev ganged (x : Slot) : Slot :=
  { x with task := x.task.map fun k => { k with gang := some { level := 0x40, shape := 1, member := 0, members := 1, lgid := none } } }
theorem witness_PacketWords : allOk [
    takesPacket (.copy N0 (M 0) 0) 0 64 (fun s p => acceptCopy s s.turn p) true 0 (packet .L 64 copyPkt id),
    takesPacket (.copy N0 (M 0) 3) 3 64 (fun s p => acceptCopy s s.turn p) true 1 (packet .L 64 0 id),
    takesPacket (.copy N0 (M 0) 0) 0 64 (fun s p => acceptCopy s s.turn p) true 2 (packet .L 64 copyFar id),
    takesPacket (.copy N0 (M 0) 0) 0 64 (fun s p => acceptCopy s s.turn p) false 0
      (packet .L 64 copyPkt fun x => { x with ctxs := vset x.ctxs 0 (List.replicate 16 (waiting 0 .mswap)) }),
    takesPacket (.gath N0 (M 0)) 4 64 acceptGather true 0 (packet .L 64 (8 + 256 ^ 40 + 16 * 256 ^ 44) id),
    takesPacket (.gath N0 (M 0)) 4 64 acceptGather true 1 (packet .L 64 0 id),
    takesPacket (.mma N0 (M 0)) 5 64 (fun s p => acceptMatrix s s.turn [5] p 0 (mxM p)) true 0 (packet .C 64 (mmaPkt 5) id),
    takesPacket (.mconv N0 (M 0)) 5 128 (fun s p => acceptMatrix s s.turn [7] (p % 2 ^ 512) (p / 2 ^ 512) (mxM p)) true 1
      (packet .C 128 0 id),
    takesPacket (.mepi N0 (M 0)) 5 64 (fun s p => acceptMatrix s s.turn [11] p 0 (mxM p)) true 0 (packet .C 64 11 id),
    takesPacket (.gmma N0 (M 0)) 5 64 (fun s p => acceptMatrix s s.turn [6] p 0 (mxM p)) true 1 (packet .C 64 (mmaPkt 6) id),
    gangSlots (packet .C 64 0 id) 0 == [],
    allIssue (sources [M 0]) [.gmma N0 (M 0)] (onWith .C fun x => { x with region := some opened })] = true := by decide +kernel
theorem witness_OtherEngineWords : allOk [
    (let s := packet .C 64 (mmaPkt 6) ganged
     allIssue (sources [M 0]) [.gmma N0 (M 0)] s && gangSlots s 0 == [(0, 0)] && roomFor s 0 5 1
      && (packetAt 64 s).any fun p => match acceptParts ⟨0, .C⟩ p.2.2 (mxM p.2.2) false [(0, 0)] p.2.1 with | .ok _ => true | .error _ => false),
    allIssue {} [.mzero N0 true false, .mswap N0, .mstatr N0 .push true] (atSeq .C) && roomFor (atSeq .C) 0 5 1,
    (let s := onWith .C fun x => { x with mq := List.replicate 8 (waiting 0 .mswap) }
     allIssue {} [.mzero N0 true false, .mswap N0, .mstatr N0 .push false] s && !roomFor s 0 5 1),
    allIssue (sources [M 0]) [.copym N0 (M 0) 0] (packet .L 128 copyPkt id) && followEngine 0 0 == none
      && (packetAt 128 (packet .L 128 copyPkt id)).isSome,
    (let s := packet .L 128 (copyPkt + (8 + 256 ^ 40 + 16 * 256 ^ 44) * 2 ^ 512) id
     allIssue (sources [M 0]) [.copym N0 (M 0) 0] s && followEngine 0 8 == some 4 && (packetAt 128 s).any fun p =>
      roomFor p.2.1 0 0 1 && roomFor p.2.1 0 4 1 && answers (acceptCopy p.2.1 ⟨0, .L⟩ (p.2.2 % 2 ^ 512)) == 0
        && (match queueFollow p.2.1 ⟨0, .L⟩ 4 (p.2.2 / 2 ^ 512) (some 0) with | .done _ => true | _ => false)),
    followEngine 2 1 == some 2 && followEngine 0 5 == some 5,
    allIssue (sources [M 0]) [.strsub N0 (M 0), .strdrop N0 (M 0)] (packet .L 64 0 id) && (packetAt 64 (packet .L 64 0 id)).isSome,
    allIssue (sources [M 0]) [.strsub N0 (M 0)] (onWith .L fun x => { x with region := some opened })] = true := by decide +kernel
theorem witness_CollectiveWord :
    (let d := 10 + 256 ^ 69 + 256 ^ 70 + 256 ^ 88 + 256 ^ 104 + 256 ^ 106 + 256 ^ 108 + 256 ^ 110
     let s (d : Nat) : State := packet .K 256 d id
     let accepts (d : Nat) : Option (Option Nat) := (packetAt 256 (s d)).bind fun p =>
       match acceptColl p.2.1 (slotCtx p.2.1 0 .K) 0 0 1 0 0x100 p.2.2 none with | .ok _ c => some c.status | _ => none
     allOk [allIssue (sources [M 0]) [.coll N0 (M 0)] (s d), accepts d == some none, accepts 0 == some (some 1),
       okAnd (escape (s d) 0 0 escColl) fun _ => true]) = true := by decide +kernel

/-- Job 1 is live; a task record stands at 0x200, a launch record of one task at 0x300, a gang's at 0x400, a level's header of STATE st
at 0x500, a phase record at 0x540 and the count n at 0x580; M 0 holds va and M 1 the task record's address. -/
abbrev records (job : Job) (st n : Nat) (va : Word) : State :=
  let s := reg 0 va (reg 1 0x200 (atSeq .K))
  let put (a n v : Nat) (m : Store) : Store := writeNat m a n v
  { s with
    mem := put 0x200 64 (256 ^ 53) (put 0x300 64 (256 ^ 24 + 0x200 * 256 ^ 32 + 256 ^ 40 + 256 ^ 44)
      (put 0x400 128 (2 * 256 ^ 24 + 0x200 * 256 ^ 32 + 256 ^ 40 + 256 ^ 41 + 256 ^ 42)
      (put 0x500 32 (256 ^ 24 + st * 256 ^ 25 + 256 ^ 26) (put 0x540 64 (4 * 256 ^ 24) (put 0x580 8 n s.mem)))))
    jobs := [(1, job)] }
/-- A live and a dead job. -/
abbrev live : Job := { Job.free with state := 2 }
abbrev dead : Job := { Job.free with state := 3 }
/-- Task queues with no room. -/
abbrev fullQueue (s : State) : State :=
  { s with work := [(workKey 0 1 0, List.replicate 32 { item := .task 0x200 0, at_ := 0, aged := false, ord := 0 })] }
/-- A launch word's record is reached, and its escape drained. -/
abbrev drains (s : State) (va : Word) (n : Nat) (need : Need := { r := true, w := true }) : Option State :=
  match translate s (slotCtx s 0 .K) va n need with
  | (u, .ok _) => if pending u ⟨0, .K⟩ then none else (match escape u 0 u.nextUid escLaunch with | .ok w => some w | .error _ => none)
  | _ => none
/-- How the issue of a level and how a push answer: made 0, dropped 1, bad 2, full or a refused graph 3. -/
abbrev levelAnswer (s : State) (va : Word) (gang : Bool) : Option Nat :=
  (drains s va 64).map fun u => match issueLevel u (some 0) 0 1 va gang with | .ok _ => 0 | .dropped _ => 1 | .bad _ => 2 | .graph _ _ => 3
abbrev pushAnswer (s : State) (va : Word) : Option Nat :=
  (drains s va 64 { r := true }).map fun u => match slotPush u 0 va with | .ok _ => 0 | .dropped _ => 1 | .bad _ => 2 | .full _ => 3
theorem witness_LaunchWords : allOk [
    (let s := records live 0 1 0x300
     allIssue (sources [M 0]) [.launch N0 (M 0), .gang N0 (M 0), .spawn N0 (M 0), .cancel N0 (M 0), .phend N0 (M 0)] s),
    (levelAnswer (records live 0 1 0x300) 0x300 false, levelAnswer (records dead 0 1 0x300) 0x300 false,
      levelAnswer (records live 0 1 0x200) 0x200 false) == (some 0, some 1, some 2),
    (levelAnswer (records live 0 1 0x400) 0x400 true, levelAnswer (records dead 0 1 0x400) 0x400 true,
      levelAnswer (records live 0 1 0x300) 0x300 true) == (some 0, some 1, some 2),
    (pushAnswer (records live 0 1 0x200) 0x200, pushAnswer (records dead 0 1 0x200) 0x200, pushAnswer (records live 0 1 0x300) 0x300,
      pushAnswer (fullQueue (records live 0 1 0x200)) 0x200) == (some 0, some 1, some 2, some 3),
    ([0, 1].all fun st => (drains (records live st 1 0x500) 0x500 32).any fun u =>
      match unitRead (ownRange u 0 1 0x500 32) (jobCtx u 1) 0x500 32 with
      | (_, some h) => hdKind h == 1 && hdJob h == 1 && hdState h == st
      | _ => false),
    (drains (records live 0 1 0x540) 0x540 64).any fun u =>
      match unitRead (ownRange u 0 1 0x540 64) (jobCtx u 1) 0x540 64 with
      | (v, some h) => hdKind h == 4 && hdParent h == 0 && rf h 40 24 == 0 && (hdSync h).toNat % 8 == 0 && (getJob v 1).state == 2
      | _ => false,
    (getJob (records live 0 1 0x540) 1).closed == [] && allIssue (sources [M 0]) [.phend N0 (M 0)] (records live 0 1 0)
      && allIssue (sources [M 0]) [.phend N0 (M 0)] (records { live with closed := [8] } 0 1 0)
      && (getJob (records { live with closed := [8] } 0 1 0) 1).closed != [],
    ([0, 1, 2].all fun n =>
      let s := records live 0 n 0x580
      allIssue (sources [M 0, M 1]) [.jdec N0 (M 0) (M 1)] s && (drains s 0x580 8).any fun u =>
        (match slotPush u 0 0x200 with | .ok _ => true | _ => false)
          && okAnd (atomicAt u 0 { low8 with va := 0x580, loc := 0x580 } 8 .acqrel fun m => if m = 0 then none else some (m - 1))
            fun p => p.2 == n)] = true := by decide +kernel
/-- An FFILL of slot 0 has come to a node, whose continuation is at 0x200. -/
abbrev filling (node : Word) (s : State) : State :=
  busyWith .K (.fill node) { s with mem := writeNat s.mem 0x600 16 (0x200 * 2 ^ 64), agenda := [⟨0, .fill 0⟩] }
theorem witness_FutureWords_fill :
    (let at_ (s : State) : State := { s with agenda := [] }
     let pushes (s : State) : Nat :=
       match nodeAt (at_ s) 0 0x600 with
       | (_, some (.ok (u, next, va))) =>
         if next ≠ 0 ∨ va ≠ 0x200 then 9 else (match slotPush u 0 va with | .ok _ => 0 | .full _ => 1 | _ => 2)
       | (_, none) => 3
       | _ => 4
     let s := filling 0x600 (records live 0 1 0)
     allOk [s.running, fillOf (getSlot s 0) == some (3, false, 0x600), fillOf (getSlot (filling 0 (atSeq .K)) 0) == some (3, false, 0),
       pushes s == 0, pushes (filling 0x600 (fullQueue (records live 0 1 0))) == 1, pushes { s with tlb := [] } == 3]) = true := by decide +kernel
theorem witness_RegionWords :
    (let two (q : Seq) (r : Option Region) : State :=
       onWith q fun x => { x with region := r, task := x.task.map fun k => { k with need := 2 } }
     let noted (s : State) : State := updSlot s 0 fun x => { x with fence := x.fence ++ [(.K, s.nextUid)] }
     let busy := updSlot (two .K none) 0 fun x => { x with k := { x.k with outst := [{ tag := 3, pc := 0, work := .load [low8] (.s .zero), done := false, sigs := [] }] } }
     let idle (s : State) : Bool := !([Path.copy, .matrix, .gather].any (fun p => pathBusy (noted s) 0 p s.nextUid)
       || slotPending (getSlot (noted s) 0))
     allOk [allIssue {} [.cropen N0 1, .crclose N0] (atSeq .K), (turnSlot (atSeq .K)).need == 1,
       allIssue {} [.cropen N0 8] (two .K none) && idle (two .K none) && (turnSlot (two .K none)).need == 2,
       allIssue {} [.cropen N0 0] busy && !idle busy,
       allIssue {} [.cropen N0 8, .crclose N0] (two .K (some opened)),
       allIssue {} [.crclose N0] (two .K (some { opened with phase := .draining }))]) = true := by decide +kernel

/-- K runs in a trap handler, with 2 MiB mapped at 0. -/
abbrev saving : State :=
  { handling id with tlb := [(0, { fetchEntry 1 0 with leaf := 0x2F, size := 0x200000 })] }
/-- The n bytes at va translate. -/
abbrev spansAt (s : State) (va : Word) (n : Nat) (need : Need) : Option (State × List Span) :=
  match translate s (slotCtx s 0 .K) va n need with | (u, .ok sps) => some (u, sps) | _ => none
theorem witness_SnapshotWords : allOk [
    allIssue (sources [M 0]) [.snap N0 (M 0), .snapld N0 (M 0)] saving,
    allIssue (sources [M 0]) [.snap N0 (M 0)] (onWith .K fun x => { x with mode := .supTask }),
    allIssue (sources [M 0]) [.snap N0 (M 0)] (reg 0 8 saving),
    (spansAt saving 0 (imageSize false) { w := true }).any fun p => (spansAt p.1 0x40000 65536 { w := true }).any fun q =>
      !pending q.1 ⟨0, .K⟩ && (let w := runPulled 100000 (stopWords q.1 0) 0
        !(undone (getSlot w 0)).any fun e => e.2.work != .none)] = true := by decide +kernel

/-- A start that meets no failure, of a supervisor image whose values are sound. -/
abbrev sound : StartArgs :=
  { failStep := [0, 0, 0, 0], supSigOk := true, svbase := 0xFF00000000001000, suproot := 0, supen := true, portMode := 0,
    svns := List.replicate 8 0, digests := List.replicate 8 0 }
theorem witness_StartAndPins :
    (let s := State.reset
     let frozen (u : Bool) : State := { s with boot := { s.boot with frozen := true, unlocked := u } }
     allOk [!s.boot.resetN && !s.boot.pin, startLive s sound false == [0, 1, 2, 3] && supOk s sound && entryOk sound,
       ({ s with boot := { s.boot with resetN := true } } : State).boot.resetN,
       (scanValue (frozen true) (.storage 0 8)).isSome && scanValue (frozen false) (.storage 0 8) == none, !s.boot.unlocked]) = true := by
  decide +kernel
/-- The package runs with this power state. -/
abbrev powered (p : Power) : State := { atSeq .K with power := p }
theorem witness_PowerAndDies :
    (let hot : Power := { Power.reset with temps := [(0, 96), (1, 90), (2, 90), (3, 90)], overPower := some 0, overTemps := [(0, 5)] }
     let cool : Power := { hot with temps := [(0, 90), (1, 90), (2, 90), (3, 90)] }
     allOk [(powered hot).running, hot.samples == [] && hot.stepAt == none && duePast (kvFind hot.tempAt 0) 10000 0,
       (let p : Power := { hot with samples := [(7, 1)], stepAt := some 0, tempAt := [(0, 0)] }
        p.samples.head? == some (7, 1) && decide (10006 < 7 + 10000) && decide (7 + 10000 ≤ 10007) && duePast (kvFind p.tempAt 0) 10000 10000),
       (tempOf (powered hot) 0).any (95 < ·), ([0, 1, 2, 3].all fun d => (tempOf (powered cool) d).any (· ≤ 90)),
       hot.overPower.any (· + 100000000 ≤ 100000000), hot.overTemps.any (fun e => e.2 + 100000000 ≤ 100000005),
       !(getDie (atSeq .K) 3).fenced, beatCurrent { atSeq .K with beats := [(2, 0)], time := 4999 } 2,
       !beatCurrent { atSeq .K with beats := [(2, 0)], time := 5000 } 2,
       beatMissing { atSeq .K with beats := [(2, 0)], time := 5000 } 2, !beatMissing { atSeq .K with beats := [(2, 0)], time := 4999 } 2,
       (getDie (updDie (atSeq .K) 1 fun d => { d with fenced := true }) 1).fenced]) = true := by decide +kernel
/-- A flit of a kind from device 5, for the first 128 bytes of storage, of tag 3. -/
abbrev flit (kind : BitVec 6) (gmask : BitVec 8) (addr : BitVec 45) : Flit :=
  { kind, cls := 0, dst := 0, src := 5, jobtag := 3, tag := 0, hops := 0, addr, gmask, meta0 := 0, meta1 := 0, rsvd := 0, codes := 0,
    data := 0, reject := false }
/-- It has arrived on port 1, at a package that answers device 5 on port 2, with a window of that tag or without. -/
abbrev arrived (f : Flit) (open_ : Bool) : State :=
  { atSeq .K with
    rx := [(1, f)], routes := [(5, 4)]
    windows := if open_ then [(0, { base := 0, size := 0x10000, tag := 3, w := true, r := true, a := true, n := true })] else [] }
theorem witness_FabricRequests : (([0x01#6, 0x03#6, 0x05#6, 0x07#6, 0x08#6, 0x09#6, 0x11#6].all fun k =>
    let f := flit k 3 0
    !flitBad f && windowOk (heardFrom { arrived f true with rx := [] } 1 f) f 128
      && !windowOk (heardFrom { arrived f false with rx := [] } 1 f) f 128 && freenShadow (heardFrom (arrived f true) 1 f) f == none
      && (locate (f.addr.toNat * 128)).isSome && (k == 0x11 || routePort (heardFrom { arrived f true with rx := [] } 1 f) 5 1 == some 2))
    && !windowOk (arrived (flit 1 3 511) true) (flit 1 3 512) 128 && windowOk (arrived (flit 1 3 511) true) (flit 1 3 511) 128
    && (let f := flit 5 0 0; flitCodes f.data == { f with codes := flitCodes f.data }.codes)) = true := by
  decide +kernel
/-- A release of this package under way to a far home for 100 µs. -/
abbrev farHeldRel : State :=
  { onSeq .K fun q => { q with outst := [{ tag := 3, pc := 0, work := .store (.rel { low8 with sw := 4 } 9), done := false, sigs := [] }] }
    with time := 100000 }
/-- An atomic of K under way to device 5, with TAG 3, and a flit for it. -/
abbrev farAtomic : State := busyWith .K (.far { low8 with loc := 2 ^ 50, area := .remote } 3 .acq) (farAt 0 .K)
abbrev answered (f : Flit) (s : State) : State := heardFrom { s with rx := [] } 1 f
theorem witness_LinkEvents : allOk [
    [0x02#6, 0x04#6, 0x06#6, 0x0A#6, 0x0B#6, 0x12#6].all fun k => !flitBad (flit k 0 0) && (arrived (flit k 0 0) true).running,
    [0x01#6, 0x02#6, 0x03#6, 0x07#6, 0x0A#6, 0x11#6, 0x12#6].all fun k => flitBad { flit k 0 0 with rsvd := 1 },
    flitBad (flit 0 0 0) && flitBad (flit 0x13 0 0), flitCodes (flit 0x0A 0 0).data != (flit 0x0A 0 0).codes,
    (answered (flit 4 0 0) (atSeq .K)).farReads == [] && farWord (answered (flit 4 0 0) (atSeq .K)) 5 0 == none,
    (let r : FarRead := { tag := 0, dst := 5, core := 0, line := 2 ^ 44 }
     ((answered (flit 4 0 0) { atSeq .K with farReads := [r] }).farReads.find? fun r => r.tag == 0 && r.dst == 5) == some r),
    (let f := { flit 6 0 0 with tag := 3, codes := BitVec.ofNat 128 (granuleCode 0).toNat }
     (farWord (answered f farAtomic) 5 3).any (fun e => e.1 == 0 && e.2.1 == .K && e.2.2.work == .far { low8 with loc := 2 ^ 50, area := .remote } 3 .acq)
      && f.codes.extractLsb' 0 16 == granuleCode (f.data.extractLsb' 0 128) && (answered f farAtomic).outWrs == []),
    (let w : OutWr := { job := 1, dst := 5, tag := 0, slot := some 0, line := 2 ^ 44, lost := false }
     ((answered (flit 2 0 0) { atSeq .K with outWrs := [w] }).outWrs.find? fun w => w.dst == 5 && w.tag == 0) == some w),
    (kvGet Port.up (atSeq .K).ports 17).retries == 0,
    (let s := { atSeq .K with ports := [(1, { Port.up with retries := 8 })] }
     decide (8 ≤ (kvGet Port.up s.ports 1).retries)),
    (atSeq .K).hbAt == none && ({ atSeq .K with hbAt := some 0, time := 1000 } : State).hbAt.all (· + 1000 ≤ 1000),
    (let s := { atSeq .K with heard := [(5, 0)], time := 20000 }
     (kvFind s.heard 5).isSome && s.devId != 5#12 && !s.lostDevs.contains 5 && decide (kvGet 0 s.heard 5 + 20000 ≤ s.time)),
    (relTimedOut farHeldRel 0 .K).any (fun o => o.work == .store (.rel { low8 with sw := 4 } 9)),
    relTimedOut { farHeldRel with time := 99999 } 0 .K == none] = true := by decide +kernel
/-- A member of rank 1 of a pass whose rank 0 is on device 5. -/
abbrev passing : Coll :=
  { newColl 4 0 1 0 0x100 (256 ^ 67 + 256 ^ 76) none 0 none 0 with phase := 1, mems := [5, 0], vec := [] }
theorem witness_LinkEvents_smax (s : State) (f : Flit) (hd : s.devId = 0) (hc : s.colls = [passing]) (hf : f.src = 5)
    (ha : f.addr = passing.agreeId s) : smaxMember s f = some passing := by
  have h1 : (decide (cdAgree passing.d ≠ 0) && decide (1 ≤ passing.phase)) = true := by decide +kernel
  have h2 : (decide (1 ≤ cdMe passing.d) && passing.device (cdMe passing.d - 1) == 5) = true := by decide +kernel
  have h3 : passing.mems.getD (cdMe passing.d - 1) 0 % 4096 = 5 := by decide +kernel
  have hs : passing.status = none := rfl
  simp_all [smaxMember, agreers, Coll.near, List.filter]
/-- A linked gang, and the request that waits for its start. -/
abbrev linked (coord : Bool) (phase at_ : Nat) (acks : List (BitVec 12)) : LGang :=
  { lgid := 7, coord, hdr := 0x40, job := 1, tmo := 50, devs := [(0, 0), (5, 0)], acks, starts := acks, phase, at_ }
abbrev request (lgid : Option (BitVec 32)) : GangReq :=
  { uid := 9, hdr := 0x40, tmpl := 0x200, job := 1, prio := 0, shape := 1, members := 1, need := 1, nbar := 0, scope := 0, cluster := 0,
    die := 0, at_ := 0, ord := 0, lgid, resv := some (0, 0, 0) }
/-- A linked gang's flit of a kind has arrived. -/
abbrev gangFlitAt (kind : BitVec 6) (l : List LGang) : State :=
  let s := arrived { flit kind 0 7 with tag := 1 } true
  { s with lgangs := l, gangs := [request (some 7)] }
/-- A collective that has been accepted. -/
abbrev collOf (status : Option Nat) : Coll := newColl 4 0 1 0 0x100 0 none 0 status 0
/-- Job 1 of tag 3 is live, with a linked gang's record at 0x400 and its list of devices at 0x480. -/
abbrev joined : State :=
  let s := records { live with jobtag := 3 } 0 0 0
  let r := 2 * 256 ^ 24 + 0x200 * 256 ^ 32 + 256 ^ 40 + 256 ^ 41 + 256 ^ 42 + 256 ^ 47 + 2 * 256 ^ 48 + 7 * 256 ^ 52 + 0x600 * 256 ^ 56
  { s with mem := writeNat (writeNat s.mem 0x400 128 r) 0x600 32 (0x400 * 256 ^ 8 + 5 * 256 ^ 16 + 0x400 * 256 ^ 24), master := some 0 }
/-- Every cluster holds a reservation, and every slot of core 0's cluster is taken. -/
abbrev narrow (s : State) : State := { s with
  gangs := (List.range 24).map fun c => { request none with uid := 100 + c, resv := some (c, 0, 0) } }
/-- A GRES for the record at an address. -/
abbrev flitFor (va : Word) : Flit := { flit 0x0C 0 7 with data := va.setWidth 1024 }
theorem witness_GangAndCollectiveEvents : allOk [
    [0x0C#6, 0x0D#6, 0x0E#6, 0x0F#6, 0x10#6].all fun k => !flitBad (flit k 0 7) && (gangFlitAt k []).running
      && findLgang (gangFlitAt k []) (flitLgid (flit k 0 7)) == none,
    memberGang (gangFlitAt 0x0C []) (flit 0x0C 0 7) == none,
    (memberGang joined (flitFor 0x400)).any (fun e => (freePosition e.1 e.2).isSome),
    (memberGang (narrow joined) (flitFor 0x400)).any (fun e => freePosition e.1 e.2 == none && bestPosition e.1 e.2 == none),
    (let s := gangFlitAt 0x0E [linked false 0 1 []]
     (findLgang s 7).any (fun o => !o.coord && o.phase == 0) && (lgangReq s 7).any fun g => heldSlots s g == some [1]),
    (findLgang (gangFlitAt 0x0D [linked true 0 1 [0]]) 7).any fun o =>
      o.coord && o.phase == 0 && o.at_ != 0 && (o.devs.any fun d => d.1 == 5) && o.devs.all fun d => (o.acks ++ [5]).contains d.1,
    (findLgang (gangFlitAt 0x0F [linked true 1 1 []]) 7).any fun o => o.coord && o.phase == 1 && !o.starts.contains 5,
    (let s := { gangFlitAt 0x10 [linked true 1 1 [0]] with time := 50001 }
     (findLgang s 7).any fun o => o.coord && decide (o.at_ + o.limit ≤ s.time) && o.devs.any fun d => !o.starts.contains d.1),
    (let s := { gangFlitAt 0x10 [linked false 0 1 []] with time := 100001 }
     (findLgang s 7).any fun o => decide (o.at_ + 2 * o.limit ≤ s.time)),
    (let s := { atSeq .K with gangs := [request none], time := 200000 }
     (s.gangs.find? fun g => g.uid == 9) == some (request none) && decide (0 + 200000 ≤ s.time)),
    (let b := { barOfN 2 0 7 false with lgid := some 7 }
     getBar (barrier b) (barKey 0 3) == b && b.p != 0),
    (let s := { atSeq .K with colls := [collOf none] }
     (findColl s 4).any fun c => collUp s c && decide (s.time < c.at_ + cdTmo c.d) && decide (c.phase < 2)
      && (c.ready.find? fun e => e.1 == 0) == none && (match shardStep c 0 s with | .ok _ _ => true | _ => false)),
    (let c : Coll := { collOf none with ready := [(0, [])] }
     let s := { atSeq .K with colls := [c], time := cdTmo c.d }
     collUp s c && c.expects && decide (c.at_ + cdTmo c.d ≤ s.time) && c.ready.find? (fun e => e.1 == 0) == some (0, [])
      && (match shardWrite c 0 [] s with | .ok _ _ => true | _ => false)),
    (let s := { atSeq .K with colls := [collOf (some 1)] }
     (findColl s 4).any fun c => c.status.isSome && c.paused == none && !(getDie s c.die).fenced
      && (match collReport c s with | .ok _ _ => true | _ => false))] = true := by decide +kernel

/-- A request stands at the head, and job 1 is in a state. -/
abbrev asked (x : Request) (st : Nat) : State :=
  { atSeq .K with requests := [(x, none)], jobs := [(1, { Job.free with state := st })] }
/-- A request to make a job of that weight. -/
abbrev made (weight : Nat) : JobReq :=
  { weight, maxprio := 0, flags := 0, ptroot := 0, evq := 0, jobsync := 0, policy := 0, migth := 0, spill := 0, save := 0 }
/-- Job 1 is live; a queue descriptor of a kind stands at 0x800, whose slots lie from 0, with those indices. -/
abbrev queued (kind wr rd : Nat) (q : List HQueue) (x : Request) : State :=
  let s := asked x 2
  { s with
    tlb := [(0, { fetchEntry 1 0 with leaf := 0xFF })], master := some 0, hqueues := q
    mem := writeNat s.mem 0x800 64 (4 * 256 ^ 8 + kind * 256 ^ 9 + 256 ^ 12 + wr * 256 ^ 16 + rd * 256 ^ 24 + 4 * 256 ^ 40) }
/-- That queue. -/
abbrev queueAt (kind : Nat) (since upto : Option Nat) : HQueue := { desc := 0x800, job := 1, kind, since, upto }
theorem witness_RequestEvents : allOk [
    [0, 1, 255, 256].all fun w => (asked (.createJob (made w)) 2).running && (asked (.createJob (made w)) 2).requests.length == 1,
    jobIdFree (atSeq .K) 2 && jobIdFree (atSeq .K) 1023 && tagFree (atSeq .K) 0,
    (asked (.killJob 1) 2).ckbusy == false && ([0, 1, 2, 3, 4, 5].all fun st => (getJob (asked (.killJob 1) st) 1).state == st),
    !killQuiet (asked (.killJob 1) 3) 1 && killQuiet { asked (.killJob 1) 3 with slots := [] } 1,
    findQueue (queued 1 0 0 [] (.createQueue 1 0x800)) 1 0x800 == none && (queueDesc (queued 1 0 0 [] .warmReset) 1 0xFFFF00).2 == none,
    (match queueDesc (queued 1 0 0 [] (.createQueue 1 0x800)) 1 0x800 with
      | (s1, some d) => descOk 1 0x800 d && mappedWide s1 1 0x800 64 && mappedWide s1 1 d.base (64 * 2 ^ d.log2n)
        && mappedWide s1 1 d.cbase (32 * 2 ^ d.clog)
      | _ => false),
    (match queueDesc (queued 5 0 0 [] (.createQueue 1 0x800)) 1 0x800 with | (_, some d) => !descOk 1 0x800 d | _ => false),
    findQueue (queued 1 0 0 [queueAt 1 none none] (.destroyQueue 1 0x800)) 1 0x800 == some (queueAt 1 none none),
    (atSeq .K).ckStage == 0 && (atSeq .K).boot.portMode != 2,
    ([0, 1].all fun st =>
      tasksLeft (preemptAll { onWith .K fun x => { x with mode := .handler } with ckbusy := true, ckStage := 1, ckAt := st }) != []
      && tasksLeft (preemptAll { atSeq .K with ckbusy := true, ckStage := 1, ckAt := st }) == []),
    ({ atSeq .K with ckStage := 2, time := 1000000000 } : State).ckAt + 1000000000 ≤ 1000000000,
    (List.replicate 32 (0 : Byte)).length == 32, !fwOk (atSeq .K) [], (asked (.fenceDie 3) 2).running, (asked .warmReset 2).running] = true := by
  decide +kernel
/-- Slot 0 of the queue's ring holds that line. -/
abbrev slotHeld (kind wr rd v : Nat) (q : HQueue) : State :=
  let s := queued kind wr rd [q] .warmReset
  { s with mem := writeNat s.mem 0 64 v, time := 100000 }
/-- The queue runs: its descriptor, and the slot at its head. -/
abbrev headOf (s : State) : Option (State × QDesc × Nat) :=
  match findQueue s 1 0x800, queueDesc s 1 0x800 with
  | some q, (s1, some d) => if queueUp s q then (match queueLine s1 q d with | (s2, some v) => some (s2, d, v) | _ => none) else none
  | _, _ => none
/-- The host's next request. -/
abbrev heard (h : HostIn) : State := { atSeq .K with hostIn := [h] }
theorem witness_QueueAndHostEvents : allOk [
    ([.srq 8, .sevq 8, .reg 0 0xFFF 0, .reg 0 0x1000 0, .route 5 1, .window 0 none, .outWindow 0 none, .device 3, .limit 600, .progress,
      .minimum 7 1 [], .delay 9999, .delay 10000, .delay 10000000, .delay 10000001, .dispose 0 true, .bar 0 0xFFF, .bar 0 0x1000,
      .snoop 0 none, .snoop (2 ^ 45) (some 0)] : List HostIn).all fun h => (heard h).hostIn == [h] && (heard h).running,
    (let s := { heard (.route 5 1) with lostDevs := [5], freshWins := [5] }
     s.lostDevs.contains 5 && s.freshWins.contains 5 && !(heard (.route 5 1)).freshWins.contains 5),
    { heard .progress with ckStage := 2 }.ckStage == 2 && (heard .progress).ckStage != 2,
    ([0xC000000000 - 8, 0] : List Nat).all fun pa =>
      !hostWaits (heard (.read pa 8)) pa 8
        && hostWaits { heard (.write pa 8 0) with flips := [{ region := ((hdmRuns 2 pa 8).headD (0, 0)).1 / 65536, host := true, by_ := none }] } pa 8,
    findQueue (atSeq .K) 1 0x800 == none,
    (headOf (slotHeld 1 (2 ^ 56) 0 0 (queueAt 1 none none))).any fun p => decide (2 ^ 56 ≤ p.2.1.wridx),
    (headOf (slotHeld 1 1 1 0 (queueAt 1 none (some 1)))).any fun p => decide (1 ≤ p.2.1.rdidx),
    (headOf (slotHeld 1 0 0 0 (queueAt 1 none none))).any fun p => p.2.1.idle,
    (headOf (slotHeld 1 1 0 0 (queueAt 1 (some 0) none))).any fun p =>
      !p.2.1.idle && !seenSlot p.2.1 p.2.2 && decide (0 + p.2.1.limit ≤ p.1.time) && !(ordered 1 && inFlight p.1 (queueAt 1 (some 0) none)),
    (headOf (slotHeld 1 1 0 0 (queueAt 1 (some 1) none))).any fun p => !seenSlot p.2.1 p.2.2 && decide (p.1.time < 1 + p.2.1.limit),
    (headOf (slotHeld 1 1 0 (256 ^ 63) (queueAt 1 none none))).any fun p =>
      !p.2.1.idle && seenSlot p.2.1 p.2.2 && rf p.2.2 63 1 == 1 && (takeSlot p.1 (queueAt 1 none none) p.2.1 p.2.2).isSome,
    (headOf (slotHeld 1 1 0 (2 * 256 ^ 63) (queueAt 1 none none))).any fun p => seenSlot p.2.1 p.2.2 && rf p.2.2 63 1 != 1,
    (let q := { queueAt 1 none none with pkt := some (0x100, 0, [0]) }
     let s := queued 1 1 0 [q] .warmReset
     findQueue s 1 0x800 == some q && s.master != none && (getJob s 1).state == 2),
    (let q (l : List Byte) : HQueue := { queueAt 2 none none with pkt := some (0x100, 0, l) }
     let s := queued 2 1 0 [q [0]] .warmReset
     findQueue s 1 0x800 == some (q [0]) && !(getDie s (queueDie s (q [0]))).fenced && (getJob s 1).state == 2
      && (match translate s (unitCtx 0 1 false) 0x100 256 { r := true } with
        | (s1, .ok sps) => (match loadSpans 7 (unitSlot 0 1) .home s1 sps with
          | .ok (s1, v) => (match acceptColl s1 (unitCtx 0 1 false) 0 (unitSlot 0 1) 1 0 0x100 v (some 0x800) with
            | .ok _ _ => true | _ => false)
          | .error _ => false)
        | _ => false)),
    hostLine (2 ^ 45) && !hostLine 0 && hostLine (2 ^ 46 - 1) && !hostLine (2 ^ 46),
    (locate 0).any fun p => p.2 == .hbm,
    (locate (0xC000000000 - 1)).any fun p => p.2 == .hbm] = true := by decide +kernel

/-- Job 1's table: its root at 0x1000 leads in four steps to a last table at 0x8000, whose entry for 0x5000 is e; nothing is cached. -/
abbrev tabled (e : Nat) : State :=
  let s := atSeq .K
  let put (a v : Nat) (m : Store) : Store := writeNat m a 8 v
  { s with
    mem := put 0x1000 0x2001 (put 0x2000 0x3001 (put 0x3000 0x4001 (put 0x4000 0x8001 (put 0x8028 e s.mem))))
    tlb := [], jobs := [(1, { Job.free with ptroot := 0x1000, state := 2 })] }
/-- A COPY command of slot 0's channel 0 in a state of its own. -/
abbrev copying (p : Nat) (g : Cmd → Cmd) : State :=
  let c := waiting 0 (.packet (BitVec.ofNat 512 p) 0 { rver := 0, drec := none, dfmt := .fp32, dscale := 0, srec := none, sfmt := .fp32 } none)
  onWith .K fun x => { x with ctxs := vset x.ctxs 0 [g c] }
/-- A subscription of slot 0 to the ring at 0x400. -/
abbrev subOf (paused : Option (BitVec 3 × Word × Bool)) (status : Option Nat) : Sub :=
  { uid := 4, slot := 0, job := 1, stack := 0, addr := 0x100, pkt := 0, origin := .record 0, ring := 0, tiles := 0, held := none,
    drop := false, paused, status, fcode := 0, by_ := .K }
/-- Every sequencer of slot 0 has ended. -/
abbrev ended : State :=
  let q (v : SeqSt) : SeqSt := { v with tend := true }
  onWith .K fun x => { x with k := q x.k, l := q x.l, c := q x.c, s := q x.s }
/-- The same of a stage instance, with claimed slots of a ring that does not translate. -/
abbrev unclosed : State :=
  updSlot ended 0 fun x => { x with
    task := x.task.map fun k => { k with graph := some (0, 0) }
    handles := vset x.handles 1 { Handle.unbound with desc := 0x100000, role := some .producer, count := 1, flags := 1 } }
/-- A GMMA command of slot 0 whose parts are done. -/
abbrev wholeOf (paused : Option (BitVec 3 × Word × Bool)) : GCmd :=
  { gid := 9, owner := 0, pkt := 6, rver := 0, fails := [], aborted := false, bytes := 0, sats := 0, marked := none, paused,
    range := .all }
theorem witness_MemoryEvents : allOk [
    tlbHit (tabled 0x503F) [tlbDie 0] 1 0x5000 == none && canonical 0x5000 && !inWindow 0x5000,
    (match walk (tabled 0x503F) 0 1 0x5000 with | .leaf _ b n _ => b == 0x5000 && n == 4096 | _ => false),
    (match walk (tabled 0x8000000000503F) 0 1 0x5000 with | .mig _ => true | _ => false),
    (match walk (tabled 0) 0 1 0x5000 with | .fault _ => true | _ => false),
    tlbHit (atSeq .K) [0] 1 0 != none && !(getDie (atSeq .K) 3).fenced,
    (let s := tabled 0
     let at_ (n : Nat) := s.parked.find? fun (p : Nat × Nat × Word) => p.2 == (1, walkPage (BitVec.ofNat 64 n))
     at_ 0x5000 == none && walksHeld s 0 == 0 && walksHeld { s with parked := List.replicate 4096 (0, 0, 0) } 0 == 4096
       && (({ s with parked := [(512, 1, walkPage 0x5000)] } : State).parked.find? fun p => p.2 == (1, walkPage 0x5000)).isSome),
    canonical (0 - 1) && upperHalf (0 - 1) && !(getDie (atSeq .K) 0).supen && !inWindow (0 - 1)
      && tlbHit (atSeq .K) [tlbDie 0] 1 (0 - 1) == none,
    (let opened (s : State) : Closed := closeHandles 0 (slotJob s 0) (closing (getSlot s 0)) s
     (getSlot ended 0).rpause.isNone && taskFinished ended 0
       && (match opened ended with | .done _ => true | _ => false)
       && (taskFinished unclosed 0 && (getSlot unclosed 0).rpause.isNone && (match opened unclosed with | .fault .. => true | _ => false))),
    pausedRing (onWith .K fun x => { x with rpause := some (1, 0x100, true) }) 0 == some 0,
    (let s := { atSeq .K with gcmds := [wholeOf (some (1, 0x100, true))] }
     pausedCmd s 0 5 == none && pausedGmma s 0 == some (wholeOf (some (1, 0x100, true)))),
    (let p (sp : Span) : Bool := sp.loc / 65536 == 0
     let s := busyWith .K (.load [low8] (.s .zero)) (atSeq .K)
     accessing s s.nextUid p && !accessing (atSeq .K) 9 p && firstFlip { s with flips := [{ region := 0, host := true, by_ := none }] } 0
       == some { region := 0, host := true, by_ := none }),
    inSysRegion 0 == none && inSysRegion 0x2000010000000 == some 0,
    (faultNow (copying copyFar id) 0 0).isNone,
    (faultNow (copying (copyFar + 0x200000 * 256 ^ 16) id) 0 0).isSome,
    (let s := copying copyPkt fun c => { c with paused := some (1, 0x200, false) }
     s.slots.any fun e => (engQueue e.2 0).any fun c => (pausedCmd s (c.source e.1) 0).isSome),
    (let c := { collOf none with paused := some (1, 0x400, true) }
     (pausedColl { atSeq .K with colls := [c] } c.source).isSome),
    hbmRegion 0 == some 0,
    ([true, false].all fun h => firstFlip { atSeq .K with flips := [{ region := 0, host := h, by_ := some 3 }] } 0
      == some { region := 0, host := h, by_ := some 3 }),
    (let cn : Counter := { job := 1, host := 3, dev := 2, at_ := 0 }
     let s := { atSeq .K with counts := [(countKey 3 5, cn)], jobs := [(1, { Job.free with migth := 0x00020003 })] }
     (kvFind s.counts (countKey 3 5)).isSome && migThreshold s cn true == 2 && migThreshold s cn false == 3),
    (atSeq .K).running] = true := by decide +kernel
theorem witness_MemoryEvents_resume :
    (let b := subOf (some (1, 0x400, true)) none
     pausedSub { atSeq .K with subs := [b] } b.source = some b) := by simp [pausedSub]
/-- A stage that runs on those cores. -/
abbrev stageOn (cores : List Nat) : Stage :=
  { tmpl := 0, tva := 0x200, inr := 0, outr := 0, insp := none, outsp := none, inst := 0, inneed := 0, outneed := 0, minc := 1, maxc := 4, cores, started := 0,
    ended := 0, lost := false, auto := 0, left := 0, state := 0 }
/-- A graph of two stages of job 1, with those samples, at a time. -/
abbrev graphed (samples : List (List Int)) (time : Nat) : State :=
  { atSeq .K with
    jobs := [(1, live)], time
    graphs := [{ hdr := 0, job := 1, die := 0, hyst := 10, interval := 8, bars := [], stages := [stageOn [1], stageOn [2, 3]], samples,
                 moves := [], at_ := 0 }] }
/-- The graph, where the module that keeps it runs. -/
abbrev graphIn (s : State) : Option Graph := (graphByTag s (levelTag 1 0)).filter fun g => escapementUp s g
/-- A record that waits for a core of cluster 0. -/
abbrev waits (aged : Bool) (time : Nat) : State :=
  { atSeq .K with work := [(workKey 0 1 0, [{ item := .task 0x200 0, at_ := 0, aged, ord := 0 }])], time }
/-- Every sequencer of slot 0 waits, for the count n. -/
abbrev stuck (n : Nat) : Slot :=
  let q (v : SeqSt) : SeqSt := { v with waiting := true }
  let x := getSlot (atSeq .K) 0
  { x with k := q x.k, l := q x.l, c := q x.c, s := q x.s, deadlock := n }
/-- A gang's record that waits for room in cluster 0. -/
abbrev gangWaits (since : Option Nat) (time : Nat) : State :=
  { atSeq .K with gangs := [{ request none with prio := 1, resv := none, since }], time }
theorem witness_SchedulingEvents : allOk [
    taskFinished ended 0 && !taskFinished (atSeq .K) 0,
    (let old (s : State) (e : WorkEnt) : Bool := !e.aged && decide (e.at_ + 1000000 ≤ s.time)
     ((getWork (waits false 1000000) (workKey 0 1 0)).find? (old (waits false 1000000))).isSome
      && ((getWork (waits false 999999) (workKey 0 1 0)).find? (old (waits false 999999))).isNone
      && ((getWork (waits true 1000000) (workKey 0 1 0)).find? (old (waits true 1000000))).isNone),
    ([none, some 4] : List (Option Nat)).all fun w =>
      endHeld { ended with outWrs := [{ job := 1, dst := 5, tag := 0, slot := w.map fun _ => 0, line := 0, lost := w.isNone }] } 0 == false,
    (let s := { ended with
        tlb := [(0, { fetchEntry 1 0 with leaf := 0x13F })], outWrs := [{ job := 1, dst := 5, tag := 0, slot := some 0, line := 0, lost := false }] }
     endHeld s 0 && taskFinished s 0),
    (let old (s : State) (g : GangReq) : Bool := g.job == 1 && g.prio == 1 && gangCovers g 0 && !g.aged && decide (g.at_ + 1000000 ≤ s.time)
     (gangWaits none 1000000).gangs.any (old (gangWaits none 1000000)) && !(gangWaits none 999999).gangs.any (old (gangWaits none 999999))
       && getWork (gangWaits none 0) (workKey 0 1 1) == []),
    (atSeq .K).ckbusy == false && (jobsAt (atSeq .K) 0 3).isEmpty && (victim (atSeq .K) 0 1).isSome,
    (let s := gangWaits (some 0) 1000000
     let s := { s with gangs := s.gangs.map fun g => { g with need := 2 ^ 20 } }
     pressed s 0 1 && victim s 0 1 == some 0 && [2, 3].all fun o => !(pressed s 0 o && (victim s 0 o).isSome)),
    [1, 2, 3].all fun p => !(pressed (gangWaits (some 0) 99999) 0 p && (victim (gangWaits (some 0) 99999) 0 p).isSome),
    (grantable (atSeq .K) 2).isNone && (grantable (graphed [] 0) 2).isSome,
    (graphIn (graphed [] 0)).any fun g => decide (g.samples.length < 8 ∧ g.at_ + g.samples.length * g.interval * 125 ≤ 0),
    (graphIn (graphed [[0, 0]] 999)).any fun g => decide (999 < g.at_ + g.samples.length * g.interval * 125),
    (let s := graphed (List.replicate 8 [0, 0]) 8000
     (graphIn s).any fun g => g.samples.length == 8 && decide (g.at_ + g.interval * 1000 ≤ s.time) && balanceMove s g == none),
    (let s := graphed (List.replicate 8 [800, 0]) 8000
     (graphIn s).any fun g => g.samples.length == 8 && !levelClosing s g.job g.hdr && balanceMove s g == some (0, 1, 3)),
    engineIdle (atSeq .K) 0 0 && pullSource (atSeq .K) 0 0 == none
      && !((List.range 8).any fun j => (classOf 0).any fun e => decide (j * 8 + e < 0)),
    (let s := copying 0x101 fun c => c
     let q := vget (getSlot s 0).ctxs 0
     let two := q.map (fun (c : Cmd) => { c with uid := 1, started := true }) ++ q
     let t := updSlot (updSlot s 0 fun x => { x with ctxs := vset x.ctxs 0 [] }) 2 fun x => { x with ctxs := vset x.ctxs 0 two }
     engineIdle t 0 0 && (pullSource t 0 0).isSome),
    (let s := onWith .K fun _ => stuck 5
     let x := getSlot s 0
     !isUnit 0 && coreLive s (coreOf 0) && x.task != none && x.mode == .user && !x.held && x.armed == none
      && ([x.k, x.l, x.c, x.s].all (counted x)) && !([x.k, x.l, x.c, x.s].all (·.tend))),
    (atSeq .K).running && (getSlot (atSeq .K) 0).region == none,
    [RegPhase.performing, .draining].all fun p => (getSlot (onWith .K fun x => { x with region := some { opened with phase := p } }) 0).region
      == some { opened with phase := p },
    ([(farAt 0 .K, true), (atSeq .K, false)].all fun e =>
      let op : StoreOp := .plain [if e.2 then { low8 with loc := 2 ^ 50, area := .remote } else low8] 7
      let s := updSlot e.1 0 fun x => { x with region := some { opened with phase := .performing, buf := [(op, .K, 0)] } }
      (needFar s 0 (bufMerges (getSlot s 0))).isSome == e.2),
    (let r := { opened with phase := .draining }
     regionQuiet (getSlot (atSeq .K) 0) r
      && !regionQuiet (getSlot (copying 0x101 fun c => { c with inRegion := true }) 0) r)] = true := by decide +kernel
/-- A packet of a pass, from slot 0's command 0. -/
abbrev redOf : RedPacket :=
  { slot := 0, uid := 0, seqno := 0, table := 0x100, tag := 0, crec := 0, skip := false, sfmt := .fp32, dfmt := .fp32, src := 0, dst := 0,
    len := 0 }
/-- A pass that holds it since the start. -/
abbrev passOf : RedPass := { table := 0x100, home := 0, entries := [], pos := 0, since := 0, held := [redOf], active := true }
/-- What a streamer's next tile meets at the ring at 0x400, whose FREE or RFL is as given: closed 7, dropped 8, no room 9, a tile that it moves
with its slot held before 1 or claimed now 0. -/
abbrev tileNow (k : Nat) (held : Option (BitVec 32)) (drop : Bool) : Option Nat :=
  let b := { subOf none none with pkt := BitVec.ofNat 512 (0x400 * 256 ^ 24 + 256 ^ 32), held, drop }
  let s := { atSeq .K with
    mem := writeNat (atSeq .K).mem 0x400 32 ((if k = 1 then 256 ^ 28 else k * 256 ^ 12) + 3 * 256 ^ 24 + 256 ^ 26), subs := [b] }
  match engSpans b.eng true false 0x400 32 s with
  | .ok s1 [sp] =>
    let u := setSub s1 { b with ring := sp.loc }
    let r := descAt u sp.loc
    let goes (u : State) : Bool := match tileCopy b.eng b.pkt.toNat 0 r.base (stRows b.pkt.toNat) 0 u with | .ok _ () => true | _ => false
    if held.isSome then (if goes u then some 1 else none) else if drop then some 8 else
      match claimStatus .producer r (ringLost u sp.loc r .producer) 1 with
      | none => some 9
      | some 0 => if goes (putDesc u sp.loc 20 4 1) then some 0 else none
      | some _ => some 7
  | _ => none
theorem witness_EngineEvents : allOk [
    !engineUp { atSeq .K with running := false } 0 && engineUp (atSeq .K) 0 && engineUp (atSeq .K) (unitSlot 0 1),
    (finishing (getSlot (copying copyPkt fun c => { c with status := some 0, queue := some 0x800 }) 0) 0).any fun c =>
      c.queue == some 0x800,
    (let s := copying (copyPkt + 0x40 * 256 ^ 8) fun c => { c with status := some 0 }
     (finishing (getSlot s 0) 0).any fun c => c.queue == none
      && (match engRecord (c.eng 0 0) (pkCrec c.pkt) (recordBytes 0 c.finalCode (pkKind c.pkt) 0 (pkTag c.pkt) (doneBytes 0 c) c.sats)
          (pkTag c.pkt) (cmdRange 0 c) s with | .ok _ _ => true | _ => false)),
    (finishing (getSlot (atSeq .K) 0) 0).isNone && (finishing (getSlot (atSeq .K) 0) 5).isNone && (runnable (atSeq .K) 0 5).isEmpty
      && ((atSeq .K).gcmds.find? fun g => g.owner == 0).isNone,
    (let one := onWith .K fun x => { x with mq := [waiting 0 .mswap] }
     let two := { updSlot one 1 fun x => { x with mq := [waiting 1 .mswap] } with served := [(5, 1)] }
     ([one, two].all fun s => (runnable s 0 5).any (·.uid == 0)) && engTurn one 5 0 && !engTurn two 5 0),
    (let c : Cmd := { waiting 0 (.packet 6 0 { rver := 0, drec := none, dfmt := .fp32, dscale := 0, srec := none, sfmt := .fp32 }
        (some { gid := 9, member := 0 })) with status := some 0 }
     let s := { onWith .K fun x => { x with mq := [c] } with gcmds := [wholeOf none] }
     finishing (getSlot s 0) 5 == some c && (match endPart s 0 c { gid := 9, member := 0 } with | .next _ => true | _ => false)),
    (let s := { atSeq .K with gcmds := [wholeOf none] }
     finishing (getSlot s 0) 5 == none && (s.gcmds.find? fun g => g.owner == 0 && g.paused.isNone && !partsLeft s g.gid).isSome
       && (match finishGmma s 9 with | .next _ => true | _ => false)),
    (tileNow 0 none false == some 9 && tileNow 0 (some 3) false == some 1 && tileNow 0 none true == some 8 && tileNow 1 none false == some 7
       && tileNow 4 none false == some 0),
    (let s := { atSeq .K with subs := [subOf none (some 0)] }
     let b := subOf none (some 0)
     (match engRecord b.eng 0 (recordBytes 0 0 0 0 0 (subBytes b) 0) 0 (subRange s b) s with | .ok _ _ => true | _ => false)),
    (let s := { atSeq .K with subs := [subOf none none] }
     (s.subs.find? fun b => b.uid == 4 && b.status.isNone).any fun b => subUp s b
      && (match subStep s b with | .next _ => true | _ => false)),
    (let s := { atSeq .K with subs := [subOf (some (1, 0, true)) none] }
     (s.subs.find? fun b => b.uid == 4 && b.status.isNone).any fun b => !subUp s b),
    (let s := { atSeq .K with subs := [{ subOf none none with pkt := BitVec.ofNat 512 (0x100000 * 256 ^ 24) }] }
     (s.subs.find? fun b => b.uid == 4 && b.status.isNone).any fun b => (match subStep s b with | .fault .. => true | _ => false)),
    (let s := { atSeq .K with subs := [subOf none (some 0)] }
     (s.subs.find? fun b => b.uid == 4 && b.status.isSome).any fun b => subUp s b
      && (match subFinish s b with | .next _ => true | _ => false)),
    (redCmd (atSeq .K) redOf).isNone && (redCmd (copying 3 id) redOf).any fun e => e.1 == 0,
    (let s := { copying 3 id with passes := [{ passOf with active := false, entries := [0] }] }
     let c := waiting 0 .mswap
     (match engSpans ((vget (getSlot s 0).ctxs 0).headD c |>.eng 0 0) false false 0x100 512 s with
       | .ok s1 [t] => (match engSpans ((vget (getSlot s 0).ctxs 0).headD c |>.eng 0 0) true false 0 1 s1 with
         | .ok s2 [d] => t.loc == 0x100 && (s2.passes.find? fun q => q.table == t.loc && q.home == d.loc / 2 ^ 36).isSome
         | _ => false)
       | _ => false)
     && [0].any (fun ent => redIdent c redOf == ent % 2 ^ 48) && !([1].any fun ent => redIdent c redOf == ent % 2 ^ 48)),
    (let s := { atSeq .K with passes := [passOf], time := 100000 }
     (s.passes.find? fun q => q.table == 0x100 && q.active && decide (q.since + 100000 ≤ s.time)).isSome)
      && ((atSeq .K).passes.find? fun q => q.table == 0x100).isNone] = true := by decide +kernel
/-- VOTE stands at pc and i after it; its slot holds that reading of the three copies. -/
abbrev voted (i : Instr) (m : BitVec 2048 × BitVec 2048 × BitVec 2048) : State :=
  let s := onWith .K fun x => { x with vote := some m }
  { s with mem := writeNat s.mem 4 4 (wordsOf i).1.toNat }
/-- What VOTE pairs with it, and whether its operands are good: not computing 0, computed 1, trapped 2, squashed 3, waiting 4. -/
abbrev pairs (s : State) : Option Nat :=
  let t := s.turn
  if !ready s t then none else
    match fetchAt s t ((getSeq s t).pc + 4) with
    | (u, .word i) =>
      let x := getSlot u t.slot
      let q := x.seq t.seq
      let ws := waitsOf t.seq (nibOf i) none
      (match aluOf i with
       | none => some 0
       | some a =>
         let reads : Reads := { scalars := a.scalars, vectors := a.vectors }
         if voteSquashed q then some (if waitsMet x.tok ws then 3 else 6)
         else if (decodeTrap i t.seq x.supMode).isSome then some 5
         else if !waitsMet x.tok ws then some 4
         else if reads.waits q || reads.bad x q then none
         else match a.eval u t with | .ok _ _ => some 1 | .trap _ => some 2)
    | _ => none
theorem witness_VotePairs : allOk [
    !ready State.reset State.reset.turn,
    pairs (voted (.nop N0) (0, 0, 0)) == some 0, pairs (voted (.add N0 .push (M 0) (M 1)) (0, 0, 0)) == some 1,
    pairs (voted (.add NWn .push (M 0) (M 1)) (0, 0, 0)) == some 4, pairs (voted (.vadd N0 .push (M 0) (M 1)) (0, 0, 0)) == some 5,
    pairs (updSeq (voted (.add N0 .push (M 0) (M 1)) (0, 0, 0)) ⟨0, .K⟩ fun q => { q with predOn := true }) == some 3,
    pairs (updSeq (voted (.add NWn .push (M 0) (M 1)) (0, 0, 0)) ⟨0, .K⟩ fun q => { q with predOn := true }) == some 6,
    (let v : AVal := .s 5
     upset v 1 == upset v 1 && upset v 1 != upset v 2 && upset v 2 != upset v 4 && upset v 1 != upset v 4)] = true := by decide +kernel
theorem witness_QueuedCommand : ((addCmd (atSeq .K) 0 5 .C .mswap none none).2 == (atSeq .K).nextUid) = true := by decide +kernel

end Sys2Proof.Tests
end

section
/-! PROOFS. Sparse lists and dies: what a filter, an insertion and the change of a die leave. -/

namespace Sys2Proof.Machine

section
variable {s : State}

theorem kvGet_filter {α : Type} {d : α} {p : Nat × α → Bool} {a : Nat} (hp : ∀ v, p (a, v) = true) (l : List (Nat × α)) :
    kvGet d (l.filter p) a = kvGet d l a := by
  induction l with
  | nil => rfl
  | cons e l ih =>
    obtain ⟨k, v⟩ := e
    by_cases hk : a = k
    · subst hk; simp [hp v, kvGet]
    · by_cases hv : p (k, v) <;> simp [hv, kvGet, hk, ih]

theorem kvGet_of_forall_ne {α : Type} {d : α} {l : List (Nat × α)} {a : Nat} (h : ∀ e ∈ l, e.1 ≠ a) : kvGet d l a = d := by
  induction l with
  | nil => rfl
  | cons e l ih =>
    have he : a ≠ e.1 := fun ha => h e (List.mem_cons_self ..) ha.symm
    simp only [kvGet, if_neg he]
    exact ih fun x hx => h x (List.mem_cons_of_mem _ hx)

theorem kvFind_kvInsert {α : Type} (a : Nat) (v : α) (l : List (Nat × α)) (b : Nat) :
    kvFind (kvInsert a v l) b = if b = a then some v else kvFind l b := by
  induction l with
  | nil => rfl
  | cons e l ih =>
    obtain ⟨k, x⟩ := e
    unfold kvInsert
    split
    · rfl
    split
    · next h => subst h; simp only [kvFind]; split <;> rfl
    · simp only [kvFind, ih]
      split
      · next hb hk => rw [if_neg (fun hba => hb (hba.symm.trans hk))]
      · rfl

theorem getDie_updDie {d e : Nat} {f : Die → Die} (hd : d < 4) :
    getDie (updDie s d f) e = if e = d then f (getDie s d) else getDie s e := by
  unfold getDie updDie
  rw [dif_pos hd]
  by_cases he : e = d
  · subst he
    simp [List.getD_eq_getElem?_getD, hd]
  · simp [List.getD_eq_getElem?_getD, he, Ne.symm he]

theorem getDie_foldl_updDie {f : Die → Die} (hf : ∀ d, f (f d) = f d) {l : List Nat} (hl : ∀ d ∈ l, d < 4) {e : Nat} :
    getDie (l.foldl (fun s d => updDie s d f) s) e = if e ∈ l then f (getDie s e) else getDie s e := by
  induction l generalizing s with
  | nil => simp
  | cons d l ih =>
    rw [List.foldl_cons, ih fun x hx => hl x (List.mem_cons_of_mem _ hx), getDie_updDie (hl d (List.mem_cons_self ..))]
    by_cases he : e = d
    · subst he
      by_cases hm : e ∈ l <;> simp [hm, hf]
    · simp [he]

theorem foldl_updDie_eq {f : Die → Die} (l : List Nat) :
    l.foldl (fun s d => updDie s d f) s = { s with dies := (l.foldl (fun s d => updDie s d f) s).dies } := by
  induction l generalizing s with
  | nil => rfl
  | cons d l ih =>
    have hd : updDie s d f = { s with dies := (updDie s d f).dies } := by
      unfold updDie
      split <;> rfl
    rw [List.foldl_cons, ih, hd]

end

end Sys2Proof.Machine
end

section
/-! PROOFS. The state at reset (01 R25-R27). -/

namespace Sys2Proof.Machine

/-- Settles O26: the empty store is canonical, and each register reads its reset value. -/
theorem resetState : Obligations.ResetState := by
  refine ⟨wf_reset, rfl, rfl, rfl, rfl, rfl, rfl, rfl, rfl, rfl, rfl, fun d hd => ?_, fun _ => rfl⟩
  match d, hd with
  | 0, _ | 1, _ | 2, _ | 3, _ => exact ⟨rfl, rfl, rfl⟩

end Sys2Proof.Machine
end

section
/-! PROOFS. Power and thermal limits, heartbeats, election and fencing (01 R20-R23, R29, R30, 05 R132, R136). -/

namespace Sys2Proof.Machine

section
variable {s : State}

/-! ### Power and temperature samples -/
theorem duePast_iff {o : Option Nat} {n now : Nat} : duePast o n now = true ↔ ∀ r, o = some r → r + n ≤ now := by
  cases o <;> simp [duePast]

theorem setPower_eq {p : Power} : setPower s p = { s with power := (setPower s p).power } := rfl

theorem overPower_setPower {p : Power} (h : p.overPower = none) : (setPower s p).power.overPower = none := by
  unfold setPower
  dsimp only
  split
  · exact h
  · rfl

theorem exec_powerSample {w} (hr : s.running = true) (hd : duePast (s.power.samples.head?.map (·.1)) 10000 s.time = true) :
    exec (.powerSample w) s = .next (setPower s { s.power with
      samples := drawnWith s w
      powerClk := if s.power.limit * (drawnWith s w).length < drawnSum (drawnWith s w) then max Config.clkMin (s.power.powerClk - 1)
        else if drawnSum (drawnWith s w) * 100 ≤ s.power.limit * (drawnWith s w).length * 95 then min Config.clkMax (s.power.powerClk + 1)
        else s.power.powerClk
      overPower := if s.power.limit * (drawnWith s w).length < drawnSum (drawnWith s w) then some (s.power.overPower.getD s.time)
        else none }) := by
  show execPowerSample w s = _
  unfold execPowerSample
  simp [hr, hd]

theorem exec_powerSample_early {w} (hd : duePast (s.power.samples.head?.map (·.1)) 10000 s.time = false) :
    exec (.powerSample w) s = .next s := by
  show execPowerSample w s = _
  unfold execPowerSample
  simp [hd]

theorem exec_thermalSample {die temp} (hr : s.running = true) (h4 : die < 4)
    (hd : duePast (kvFind s.power.tempAt die) 10000 s.time = true) :
    exec (.thermalSample die temp) s = .next (
      let t := setPower s { s.power with temps := kvInsert die temp s.power.temps, tempAt := kvInsert die s.time s.power.tempAt }
      if 110 ≤ temp then fenceDie t die else t) := by
  show execThermalSample die temp s = _
  unfold execThermalSample
  simp [hr, hd, h4]

theorem exec_thermalStep (hr : s.running = true) (hd : duePast s.power.stepAt 1000000 s.time = true) :
    exec .thermalStep s = .next (setPower s { s.power with
      stepAt := some s.time
      thermalClk := if anyHot s then max Config.clkMin (s.power.thermalClk - 1)
        else if allCool s && decide (s.power.thermalClk < s.power.powerClk) then s.power.thermalClk + 1 else s.power.thermalClk }) := by
  show execThermalStep s = _
  unfold execThermalStep
  simp [hr, hd]

theorem mem_dies {d : Nat} : d ∈ [0, 1, 2, 3] ↔ d < 4 := by
  simp only [List.mem_cons, List.not_mem_nil, or_false]
  omega

theorem anyHot_iff : anyHot s = true ↔ ∃ d, d < 4 ∧ (getDie s d).fenced = false ∧ ∃ c, tempOf s d = some c ∧ 95 < c := by
  simp only [anyHot, List.any_eq_true, mem_dies, hotDie, Bool.and_eq_true, Bool.not_eq_true', Option.any_eq_true, decide_eq_true_eq]

theorem allCool_iff : allCool s = true ↔ ∀ d, d < 4 → (getDie s d).fenced = false → ∃ c, tempOf s d = some c ∧ c ≤ 90 := by
  simp only [allCool, List.all_eq_true, mem_dies, Bool.or_eq_true, Option.any_eq_true, decide_eq_true_eq, or_iff_not_imp_left,
    Bool.not_eq_true]

theorem anyHot_of_allCool (h : allCool s = true) : anyHot s = false := by
  rw [Bool.eq_false_iff]
  intro hh
  obtain ⟨d, h4, hf, c, hc, hlt⟩ := anyHot_iff.1 hh
  obtain ⟨c', hc', hle⟩ := allCool_iff.1 h d h4 hf
  cases hc.symm.trans hc'
  omega

theorem exec_powerLimit_power {since} (hr : s.running = true) (ho : s.power.overPower = some since) (hd : since + 100000000 ≤ s.time) :
    exec (.powerLimit false) s =
      .next (postSup { s with power := { s.power with overPower := some s.time } } { unitEvent s 0x0B 80 0 0 0 with detail := 0 }) := by
  show execPowerLimit false s = _
  unfold execPowerLimit
  have hany : (s.power.overPower.any fun t => decide (t + 100000000 ≤ s.time)) = true := by
    rw [ho, Option.any_some]
    exact decide_eq_true hd
  simp [hr, hany]

theorem exec_powerLimit_thermal {d since} (hr : s.running = true) (ho : (d, since) ∈ s.power.overTemps) (hd : since + 100000000 ≤ s.time) :
    exec (.powerLimit true) s = .next (postSup { s with power := { s.power with
        overTemps := s.power.overTemps.map fun e => if e.2 + 100000000 ≤ s.time then (e.1, s.time) else e } }
      { unitEvent s 0x0B 80 0 0 0 with detail := 1 }) := by
  show execPowerLimit true s = _
  unfold execPowerLimit
  have hany : (s.power.overTemps.any fun e => decide (e.2 + 100000000 ≤ s.time)) = true :=
    List.any_eq_true.2 ⟨_, ho, decide_eq_true hd⟩
  simp [hr, hany]

/-! ### Heartbeats, the election and fencing -/
theorem exec_distributorHeartbeat {die} (hr : s.running = true) (h4 : die < 4) (hf : (getDie s die).fenced = false) :
    exec (.distributorHeartbeat die) s = .next { s with beats := kvInsert die s.time s.beats } := by
  refine congrArg Host.Outcome.next (if_pos ?_)
  simp [hr, h4, hf]

theorem exec_masterElection (hr : s.running = true) :
    exec .masterElection s = .next (enqueue { s with master := [0, 1, 2, 3].find? (beatCurrent s) } .schedule) := by
  refine congrArg Host.Outcome.next (if_neg ?_)
  simp [hr]

/-- The election takes the lowest die with a current heartbeat (05 R132). -/
theorem elected_iff {p : Nat → Bool} {d : Nat} : [0, 1, 2, 3].find? p = some d ↔ d < 4 ∧ p d = true ∧ ∀ e, e < d → p e = false := by
  show (List.range 4).find? p = some d ↔ _
  rw [List.find?_range_eq_some, List.mem_range]
  simp only [Bool.not_eq_true', and_left_comm]

theorem elected_none_iff {p : Nat → Bool} : [0, 1, 2, 3].find? p = none ↔ ∀ d, d < 4 → p d = false := by
  simp only [List.find?_eq_none, mem_dies, Bool.not_eq_true]

theorem exec_dieFenced {c} (hr : s.running = true) (hc : causeStands s c = true) : exec (.dieFenced c) s = .next (fenceDie s c.die) := by
  refine congrArg Host.Outcome.next (if_pos ?_)
  rw [hr, hc]; rfl

theorem exec_dieFenced_idle {c} (hc : causeStands s c = false) : exec (.dieFenced c) s = .next s := by
  refine congrArg Host.Outcome.next (if_neg ?_)
  simp [hc]

/-- A fence ends with its report, the election and the schedule. -/
theorem fenceDie_ends {die} (h4 : die < 4) (hf : (getDie s die).fenced = false) : ∃ t, fenceDie s die =
    enqueue (enqueue (postSup t (unitEvent t 0x0C (64 + die) 0 0 die)) (.event .masterElection)) .schedule := by
  have h : ¬ (4 ≤ die ∨ (getDie s die).fenced = true) := by simp [h4, hf]
  unfold fenceDie
  rw [if_neg h]
  exact ⟨_, rfl⟩

/-- No slot of a die's cores is left when the die is cleared. -/
theorem getSlot_clearDie {die k : Nat} (hu : isUnit k = false) (hk : dieOfCore (coreOf k) = die) : getSlot (clearDie s die) k = .vacant := by
  refine kvGet_of_forall_ne fun e he hek => ?_
  have hm := (List.mem_filter.1 he).2
  simp [hek, hu, hk] at hm

/-- Storage of a fenced die reads poisoned (01 R30). -/
theorem poisoned_of_fenced {die l : Nat} (hf : (getDie s die).fenced = true) (hl : 64 * l < 2 ^ 60) (hd : dieOf (64 * l) = some die) :
    poisoned (homeMeta s l) = true := by
  have hp : fencePoison s l = 8#8 := by
    unfold fencePoison
    rw [hd]
    simp only [hf, hl]
    rfl
  unfold homeMeta poisoned
  rw [hp, BitVec.getLsbD_or, BitVec.getLsbD_or]
  simp

end

/-- Settles O51: each sample, step and alarm by the branch that its condition takes; a fence by what it clears first. -/
theorem powerAndDies : Obligations.PowerAndDies := by
  intro w die e temp s hr p near sum above fenced
  have hfence : ∀ c : FenceCause, c.die = die → causeStands s c = true → fenced (.dieFenced c) := by
    intro c hc hs h4 hf
    exact ⟨hc ▸ exec_dieFenced hr hs, fenceDie_ends h4 hf⟩
  refine ⟨fun hd => ?_, fun r l hp ht => ?_, fun h4 hd => ⟨fun ht => ?_, fun ht => ?_⟩, fun hd => ?_, fun since => exec_powerLimit_power hr,
    fun d since ho hd => ⟨_, exec_powerLimit_thermal hr ho hd, rfl⟩, fun h4 hf => ?_, ?_, fun h => exec_dieFenced_idle h,
    hfence _ rfl rfl, fun h => hfence _ rfl h, fun h4 hne hf => ?_, fun h4 hf => ?_⟩
  · have hd : duePast (p.samples.head?.map (·.1)) 10000 s.time = true := duePast_iff.2 fun t ht => by
      obtain ⟨r, hh, rfl⟩ := Option.map_eq_some_iff.1 ht
      exact hd r hh
    exact ⟨_, exec_powerSample hr hd, rfl, rfl, rfl, rfl, rfl, rfl, fun ha => overPower_setPower (if_neg ha)⟩
  · refine exec_powerSample_early ?_
    rw [show s.power.samples = r :: l from hp]
    exact decide_eq_false (Nat.not_le.2 ht)
  · refine ⟨_, (exec_thermalSample hr h4 hd).trans (congrArg _ (if_neg (Nat.not_le.2 ht))), rfl, ?_, fun d hne => ?_, rfl, rfl⟩
    · exact (kvFind_kvInsert ..).trans (if_pos rfl)
    · exact (kvFind_kvInsert ..).trans (if_neg hne)
  · exact ⟨_, (exec_thermalSample hr h4 hd).trans (congrArg _ (if_pos ht)), rfl⟩
  · refine ⟨_, exec_thermalStep hr (duePast_iff.2 hd), rfl, rfl, rfl, fun hh => if_pos (anyHot_iff.2 hh), fun hc => ?_⟩
    have hc := allCool_iff.2 hc
    refine (if_neg (by simp [anyHot_of_allCool hc])).trans ?_
    simp only [hc, Bool.true_and, decide_eq_true_eq]
    rfl
  · refine ⟨_, exec_distributorHeartbeat hr h4 hf, rfl, ?_, fun d hne => ?_⟩
    · exact (kvFind_kvInsert ..).trans (if_pos rfl)
    · exact (kvFind_kvInsert ..).trans (if_neg hne)
  · exact ⟨_, exec_masterElection hr, rfl, rfl, fun d => elected_iff, elected_none_iff⟩
  · refine hfence (.link die e) rfl ?_
    simp [causeStands, Ne.symm hne, h4, hf]
  · intro u
    have hu : (getDie u die).fenced = true := by
      have hg : getDie (updDie (poisonLines s die) die fun d => { d with fenced := true }) die = _ := getDie_updDie h4
      rw [if_pos rfl] at hg
      exact congrArg Die.fenced hg
    refine ⟨hu, fun e he => ?_, fun c hc => ?_, fun l hl hd => poisoned_of_fenced hu hl hd, fun k hk hd => getSlot_clearDie hk hd⟩
    · simpa using (List.mem_filter.1 he).2
    · simpa using (List.mem_filter.1 hc).2

end Sys2Proof.Machine
end

section
/-! PROOFS. Starts, the pins, scan and the unlock token (01 R25-R28, R31, R32). -/

namespace Sys2Proof.Machine

section
variable {s t u : State} {b : Nat}

/-- What a write at the home changes: storage below line `b`, and what the writing of a line takes with it. -/
def HomeWrite (b : Nat) (s t : State) : Prop :=
  t = { s with mem := t.mem, ranges := t.ranges, tlb := t.tlb, ptrs := t.ptrs, drops := t.drops, parked := t.parked, agenda := t.agenda }
    ∧ ∀ x, b ≤ x / 64 → readByte t.mem x = readByte s.mem x

theorem HomeWrite.refl : HomeWrite b s s := ⟨rfl, fun _ _ => rfl⟩

theorem HomeWrite.trans (h₁ : HomeWrite b s t) (h₂ : HomeWrite b t u) : HomeWrite b s u := by
  refine ⟨?_, fun x hx => (h₂.2 x hx).trans (h₁.2 x hx)⟩
  rw [h₂.1, h₁.1]

theorem HomeWrite.running (h : HomeWrite b s t) : t.running = s.running := by rw [h.1]

theorem HomeWrite.dies (h : HomeWrite b s t) : t.dies = s.dies := by rw [h.1]

theorem HomeWrite.boot (h : HomeWrite b s t) : t.boot = s.boot := by rw [h.1]

theorem homeWrite_foldl {α : Type} {f : State → α → State} {l : List α} (hf : ∀ s, ∀ a ∈ l, HomeWrite b s (f s a)) :
    HomeWrite b s (l.foldl f s) := by
  induction l generalizing s with
  | nil => exact .refl
  | cons a l ih => exact (hf s a (List.mem_cons_self ..)).trans (ih fun s x hx => hf s x (List.mem_cons_of_mem _ hx))

theorem homeWrite_enqueue {w} : HomeWrite b s (enqueue s w) := ⟨rfl, fun _ _ => rfl⟩

theorem homeWrite_clearRanges {a n} : HomeWrite b s (clearRanges s a n) := ⟨rfl, fun _ _ => rfl⟩

theorem homeWrite_putHomeMeta {line md} : HomeWrite b s (putHomeMeta s line md) := ⟨rfl, fun _ _ => rfl⟩

theorem homeWrite_putHomeGran {line g d syn} (hl : line < b) (hg : g < 4) : HomeWrite b s (putHomeGran s line g d syn) := by
  unfold putHomeGran
  extract_lets y s₁
  have hw : HomeWrite b s s₁ := ⟨rfl, fun x hx => readByte_writeNat_of_not_mem _ _ _ _ _ (.inr (by omega))⟩
  split
  · exact hw
  · exact hw.trans homeWrite_enqueue

theorem homeWrite_lineWritten {line} : HomeWrite b s (lineWritten s line) := by
  unfold lineWritten
  extract_lets s₁ woken gone pages dirty s₂ s₃
  have h₁ : HomeWrite b s s₁ := by
    dsimp only [s₁]
    split
    · exact .refl
    · exact homeWrite_enqueue
  have h₂ : HomeWrite b s₁ s₂ := ⟨rfl, fun _ _ => rfl⟩
  exact (h₁.trans h₂).trans ((homeWrite_foldl fun _ _ _ => homeWrite_enqueue).trans (homeWrite_foldl fun _ _ _ => homeWrite_enqueue))

/-- At the home, a line's granules are written, then its metadata. -/
theorem homeWrite_putLine {area line p n} (ha : area ≠ .remote) (hl : line < b) (h : putLine s .home area false line p = some (t, n)) :
    HomeWrite b s t := by
  unfold putLine at h
  extract_lets s₁ md step at h
  have hstep : ∀ g acc, g < 4 → (∀ p, acc = some p → ∀ e ∈ p.1, e.1 < 4) → ∀ p, step g acc = some p → ∀ e ∈ p.1, e.1 < 4 := by
    intro g acc hg hacc p hp e he
    dsimp only [step] at hp
    split at hp
    · exact hacc p hp e he
    split at hp
    · cases hp
      rcases List.mem_append.1 he with he | he
      · exact hacc _ rfl e he
      · rw [List.mem_singleton.1 he]; exact hg
    · cases hp
  split at h
  · cases h
  · next l subs e =>
    have hl4 : ∀ e ∈ l, e.1 < 4 := hstep 3 _ (by decide) (hstep 2 _ (by decide) (hstep 1 _ (by decide) (hstep 0 _ (by decide)
      (by rintro p ⟨⟩ e ⟨⟩)))) _ e
    simp only [if_neg ha] at h
    cases h
    refine HomeWrite.trans ?_ homeWrite_lineWritten
    have hf : HomeWrite b s (l.foldl (fun s e => putHomeGran s line e.1 e.2.1 e.2.2) s) :=
      homeWrite_foldl fun _ e he => homeWrite_putHomeGran hl (hl4 e he)
    split
    · exact hf
    · exact hf.trans homeWrite_putHomeMeta

theorem homeWrite_putLines {area r n line k m} (ha : area ≠ .remote) (hl : line + n ≤ b)
    (h : putLines .home area false r n line s k = some (t, m)) : HomeWrite b s t := by
  induction n generalizing line s k with
  | zero => cases h; exact .refl
  | succ n ih =>
    unfold putLines at h
    split at h
    · cases h; exact .refl
    · split at h
      · cases h
      · next e => exact (homeWrite_putLine ha (by omega) e).trans (ih (by omega) h)

theorem homeWrite_putRun {area r m} (ha : area ≠ .remote) (hl : r.loc / 64 + (r.n / 64 + 2) ≤ b)
    (h : putRun s .home area false r = some (t, m)) : HomeWrite b s t :=
  homeWrite_clearRanges.trans (homeWrite_putLines ha hl h)

theorem homeWrite_physWrite {pa n v loc area} (hp : locate pa = some (loc, area)) (ha : area ≠ .remote)
    (hl : loc / 64 + (n / 64 + 2) ≤ b) : HomeWrite b s (physWrite s pa n v) := by
  unfold physWrite
  rw [hp]
  simp only []
  split
  · next e => exact homeWrite_putRun ha hl e
  · exact .refl

theorem readByte_hostStore {m} {x : Nat} (hx : hostLine (x / 64) = true) : readByte (hostStore m) x = readByte m x :=
  kvGet_filter (fun _ => hx) _

theorem readByte_warmStore {m} {x : Nat} (hx : x < 2 ^ 60) : readByte (warmStore m) x = readByte m x :=
  kvGet_filter (fun _ => decide_eq_true hx) _

theorem hostLine_iff {l} : hostLine l = true ↔ 2 ^ 51 ≤ 64 * l ∧ 64 * l < 2 ^ 52 := by
  simp [hostLine]

theorem readByte_startBase {a warm} {x : Nat} (hx : hostLine (x / 64) = true) : readByte (startBase s a warm).mem x = readByte s.mem x := by
  cases warm with
  | false => exact readByte_hostStore hx
  | true =>
    have := hostLine_iff.1 hx
    exact readByte_warmStore (by omega)

theorem getDie_startBase {a warm d} (hd : d < 4) : getDie (startBase s a warm) d = { Die.reset with fenced := startFenced s a warm d } := by
  match d, hd with
  | 0, _ | 1, _ | 2, _ | 3, _ => rfl

theorem lt_of_mem_startLive {a warm d} (h : d ∈ startLive s a warm) : d < 4 := by
  have := List.mem_of_mem_filter h
  simp at this
  omega

/-- The supervisor's three values on one die (18 R440). -/
def superDie (a : StartArgs) (d : Die) : Die := { d with svbase := a.svbase, suproot := a.suproot &&& 0xFFFFFFFFFF000, supen := true }

/-- The package after the start record of step 10 and the election (01 R28, 03 R67). -/
def startRecorded (s0 s : State) (a : StartArgs) (warm : Bool) (m : Nat) (rest : List Nat) : State :=
  let rec_ := startBytes s0 a warm s.dbg (supOk s0 a && entryOk a)
  let s := physWrite s (m * 0x30000) 128 (natOf rec_)
  { s with
    startrec := BitVec.ofNat 64 (m * 0x30000), master := some m
    beats := (m :: rest).foldl (fun l d => kvInsert d s.time l) []
    boot := { s.boot with measure := s.boot.measure.take 7 ++ [extendM 0 rec_] } }

theorem startLast_of_nil {s0 a warm} (h : startLive s0 a warm = []) : startLast s0 s a warm = s := by
  unfold startLast
  rw [h]

theorem startLast_of_cons {s0 a warm m rest} (h : startLive s0 a warm = m :: rest) :
    startLast s0 s a warm =
      if supOk s0 a && entryOk a then
        enqueue { (m :: rest).foldl (fun s d => updDie s d (superDie a)) (startRecorded s0 s a warm m rest) with running := true } .schedule
      else
        { startRecorded s0 s a warm m rest with mgmt := (startRecorded s0 s a warm m rest).mgmt ++ [
            { type := Config.mgmtType, reply := false, job := 0, addr := 0, detail := Config.eventDetail Config.mgmtType 10,
              source := (unitEvent (startRecorded s0 s a warm m rest) 0 81 0 0 0).source
              time := now (startRecorded s0 s a warm m rest) }] } := by
  unfold startLast
  rw [h]
  rfl

/-- The start record lies below host memory. -/
theorem homeWrite_record {m v} (hm : m < 4) : HomeWrite (2 ^ 45) s (physWrite s (m * 0x30000) 128 v) := by
  match m, hm with
  | 0, _ | 1, _ | 2, _ | 3, _ => exact homeWrite_physWrite rfl (by decide) (by decide)

/-- What the last step of a start leaves as the steps before left it. -/
structure StartKeeps (s t : State) : Prop where
  warm : t.warm = s.warm
  dbg : t.dbg = s.dbg
  slots : t.slots = s.slots
  requests : t.requests = s.requests
  hqueues : t.hqueues = s.hqueues
  jobs : t.jobs = s.jobs
  boot : ∀ m, { t.boot with measure := m } = { s.boot with measure := m }
  host : ∀ x, hostLine (x / 64) = true → readByte t.mem x = readByte s.mem x

theorem HomeWrite.startKeeps (h : HomeWrite (2 ^ 45) s u) : StartKeeps s u where
  warm := by rw [h.1]
  dbg := by rw [h.1]
  slots := by rw [h.1]
  requests := by rw [h.1]
  hqueues := by rw [h.1]
  jobs := by rw [h.1]
  boot m := by rw [h.boot]
  host x hx := h.2 x (by have := hostLine_iff.1 hx; omega)

theorem startKeeps_startRecorded {s0 a warm m rest} (hm : m < 4) : StartKeeps s (startRecorded s0 s a warm m rest) := by
  obtain ⟨hw, hd, hs, hr, hq, hj, hb, hh⟩ :=
    (homeWrite_record (s := s) (v := natOf (startBytes s0 a warm s.dbg (supOk s0 a && entryOk a))) hm).startKeeps
  exact ⟨hw, hd, hs, hr, hq, hj, hb, hh⟩

theorem startKeeps_startLast {s0 a warm} : StartKeeps s (startLast s0 s a warm) := by
  cases hl : startLive s0 a warm with
  | nil =>
    rw [startLast_of_nil hl]
    exact HomeWrite.refl.startKeeps
  | cons m rest =>
    have hm : m < 4 := lt_of_mem_startLive (hl ▸ List.mem_cons_self ..)
    have hk : StartKeeps s (startRecorded s0 s a warm m rest) := startKeeps_startRecorded hm
    obtain ⟨hw, hd, hs, hr, hq, hj, hb, hh⟩ := hk
    rw [startLast_of_cons hl]
    split
    · rw [foldl_updDie_eq]
      exact ⟨hw, hd, hs, hr, hq, hj, hb, hh⟩
    · exact ⟨hw, hd, hs, hr, hq, hj, hb, hh⟩

theorem master_startLast {s0 a warm} (hs : s.master = none) : (startLast s0 s a warm).master = (startLive s0 a warm).head? := by
  cases hl : startLive s0 a warm with
  | nil => rw [startLast_of_nil hl, hs]; rfl
  | cons m rest =>
    rw [startLast_of_cons hl]
    split
    · rw [foldl_updDie_eq]; rfl
    · rfl

theorem running_startLast {s0 a warm} (hs : s.running = false) :
    (startLast s0 s a warm).running = true ↔ startLive s0 a warm ≠ [] ∧ supOk s0 a = true ∧ entryOk a = true := by
  cases hl : startLive s0 a warm with
  | nil => simp [startLast_of_nil hl, hs]
  | cons m rest =>
    have hm : m < 4 := lt_of_mem_startLive (hl ▸ List.mem_cons_self ..)
    have hr : (startRecorded s0 s a warm m rest).running = false := (homeWrite_record hm).running.trans hs
    rw [startLast_of_cons hl]
    split
    · next h => simp [enqueue, Bool.and_eq_true .. ▸ h]
    · next h => simpa [hr] using h

theorem getDie_startLast {s0 a warm d} : getDie (startLast s0 s a warm) d =
    if d ∈ startLive s0 a warm ∧ (supOk s0 a && entryOk a) = true then superDie a (getDie s d) else getDie s d := by
  cases hl : startLive s0 a warm with
  | nil => simp [startLast_of_nil hl]
  | cons m rest =>
    have hlt : ∀ e ∈ m :: rest, e < 4 := fun e he => lt_of_mem_startLive (hl ▸ he)
    have hr : (startRecorded s0 s a warm m rest).dies = s.dies := (homeWrite_record (hlt m (List.mem_cons_self ..))).dies
    have hg : getDie (startRecorded s0 s a warm m rest) d = getDie s d := by
      unfold getDie
      rw [hr]
    rw [startLast_of_cons hl]
    split
    · next h =>
      have hf := getDie_foldl_updDie (s := startRecorded s0 s a warm m rest) (f := superDie a) (fun _ => rfl) hlt (e := d)
      rw [hg] at hf
      refine hf.trans ?_
      simp [h]
    · next h =>
      refine hg.trans ?_
      simp [h]

/-! ### The pins, scan and the token -/

theorem exec_start_idle {a} (h : s.boot.resetN = true ∨ s.boot.pin = true) : exec (.start a) s = .next s := by
  refine congrArg Host.Outcome.next (if_pos ?_)
  simpa using h

theorem exec_start {a} (hr : s.boot.resetN = false) (hp : s.boot.pin = false) :
    exec (.start a) s = .next (startLast s (startBase s a (s.boot.clean && s.boot.held && !s.boot.frozen)) a
      (s.boot.clean && s.boot.held && !s.boot.frozen)) := by
  refine congrArg Host.Outcome.next (if_neg ?_)
  simp [hr, hp]

theorem exec_freeze (h : s.boot.frozen = false) : exec .freeze s = .next
    { s with running := false, draws := s.draws + 1,
             boot := { s.boot with pin := true, frozen := true, latched := s.running, nonce := (draw s).1 } } := by
  refine congrArg Host.Outcome.next (if_neg ?_)
  simp [h]

theorem exec_scanReadout_some {tg v} (hf : s.boot.frozen = true) (hv : scanValue s tg = some v) :
    exec (.scanReadout tg) s = .next { s with replies := s.replies ++ [.data v] } := by
  refine congrArg Host.Outcome.next ((if_neg ?_).trans ?_)
  · simp [hf]
  · rw [hv]

theorem exec_scanReadout_none {tg} (h : s.boot.frozen = false ∨ scanValue s tg = none) : exec (.scanReadout tg) s = .next s := by
  refine congrArg Host.Outcome.next ?_
  split
  · rfl
  · next hf =>
    rw [h.resolve_left (by simpa using hf)]

theorem scanValue_unlocked {tg} (h : s.boot.unlocked = true) : scanValue s tg = some (scanOpen s tg) := by
  cases tg with
  | status => rfl
  | ecc => rfl
  | _ => exact if_pos h

theorem scanValue_locked {tg} (h : s.boot.unlocked = false) (hs : tg ≠ .status) (he : ∀ d, tg ≠ .ecc d) : scanValue s tg = none := by
  have hn : ¬ s.boot.unlocked = true := by simp [h]
  cases tg with
  | status => exact absurd rfl hs
  | ecc d => exact absurd rfl (he d)
  | _ => exact if_neg hn

/-- The token is signed over the fresh challenge, by a key that chains to the fused root (01 R32). -/
def tokenSigned (s : State) (ch tk : List Byte) : Bool :=
  ch == Config.challenge s.boot.nonce && Config.chains (Config.tokenKey tk)
    && Config.mldsaOk (Config.tokenKey tk) (bytesOf 64 (Config.shake256 (bytesOf 64 Config.identityKey.toNat ++ ch)).toNat) tk

theorem exec_unlockToken {ch tk} : exec (.unlockToken ch tk) s =
    .next (if s.boot.frozen && tokenSigned s ch tk then { s with boot := { s.boot with unlocked := true } } else s) := by
  unfold tokenSigned
  rw [← Bool.and_assoc, ← Bool.and_assoc]
  rfl

end

/-- Settles O50: START by what each of its steps keeps, the pins, scan and token each by the branch that its condition takes. -/
theorem startAndPins : Obligations.StartAndPins := by
  intro a tg ch tk v s
  extract_lets warm live bound key signed
  have hk : StartKeeps (startBase s a warm) (startLast s (startBase s a warm) a warm) := startKeeps_startLast
  have hd : ∀ d, d < 4 → getDie (startLast s (startBase s a warm) a warm) d = if d ∈ live ∧ (supOk s a && entryOk a) = true
      then superDie a { Die.reset with fenced := startFenced s a warm d } else { Die.reset with fenced := startFenced s a warm d } :=
    fun d hd => getDie_startBase (s := s) (a := a) (warm := warm) hd ▸ getDie_startLast
  have hrun : (startLast s (startBase s a warm) a warm).running = true ↔ live ≠ [] ∧ supOk s a = true ∧ entryOk a = true :=
    running_startLast rfl
  have hb := hk.boot []
  refine ⟨fun hr hp => ⟨_, exec_start hr hp, hk.warm, hk.dbg, hk.slots, hk.requests, hk.hqueues, hk.jobs, ?_, ?_, ?_, ?_,
      master_startLast rfl, hrun, fun d h4 => ?_, fun hg d hl => ?_, fun x hx => (hk.host x hx).trans (readByte_startBase hx)⟩,
    exec_start_idle, ⟨_, rfl, rfl, rfl, rfl, rfl, fun h => if_pos h⟩, ⟨_, rfl, rfl, rfl, rfl⟩, exec_freeze, rfl, exec_scanReadout_some,
    exec_scanReadout_none, rfl, scanValue_locked, scanValue_unlocked, fun hf hs => ?_, fun h => ?_⟩
  · exact congrArg Boot.resetN hb
  · exact congrArg Boot.pwrgood hb
  · exact congrArg Boot.clean hb
  · exact congrArg Boot.frozen hb
  · rw [hd d h4]
    split <;> rfl
  · obtain ⟨-, hs, he⟩ := hrun.1 hg
    rw [hd d (lt_of_mem_startLive hl), if_pos ⟨hl, by rw [hs, he]; rfl⟩]
    exact ⟨rfl, rfl⟩
  · exact exec_unlockToken.trans (congrArg _ (if_pos (by rw [hf]; exact hs)))
  · refine exec_unlockToken.trans (congrArg _ (if_neg ?_))
    rw [Bool.and_eq_true, not_and_or]
    exact h.imp (fun hf => by simp [hf]) (fun hs => by simp [show tokenSigned s ch tk = false from hs])

end Sys2Proof.Machine
end


section
/-! PROOFS. Storage in an answer. A function of the model answers a state, perhaps with a value, perhaps not at all, or one of several
outcomes that each carry a state; these say of each form of answer that the storage it carries is canonical. -/

namespace Sys2Proof.Machine

/-- The state of an answer that may be none. -/
def SomeSafe : Option State → Prop
  | some s => Safe s
  | none => True

/-- The state of an answer with a value that may be none. -/
def SomeSafe₁ {α : Type} : Option (State × α) → Prop
  | some a => Safe a.1
  | none => True

/-- The state of an answer that may be an error. -/
def OkSafe {ε : Type} : Except ε State → Prop
  | .ok a => Safe a
  | .error _ => True

/-- The state of an answer with a value that may be an error. -/
def OkSafe₁ {ε α : Type} : Except ε (State × α) → Prop
  | .ok a => Safe a.1
  | .error _ => True

/-- The next state of a step. -/
def NextSafe : Host.Outcome State Fault Refusal → Prop
  | .next s => Safe s
  | _ => True

/-- The state that an engine's answer carries. -/
def EngR.state {α : Type} : EngR α → State
  | .ok s _ | .fault s _ _ _ | .stall s | .bad s _ | .stop s _ _ => s

/-- The state that a word's effect carries. -/
def Res.state : Res → State
  | .done s | .jump s _ | .pend s _ _ | .wait s _ | .trap s _ | .trapAfter s _ | .bad s _ | .own s => s

/-- The state that the check of a packet carries. -/
def Chk.state : Chk → State
  | .ok s _ | .reject s _ | .wait s | .trap s _ | .bad s _ => s

/-- The state that a matrix command's work carries. -/
def MRun.state : MRun → State
  | .done s | .fault s _ _ _ | .stall s | .bad s _ => s

/-- The state that an engine's step carries. -/
def EStep.state : EStep → State
  | .next s | .fault s _ _ _ _ => s

/-- The state that a stream's step carries. -/
def SStep.state : SStep → State
  | .next s | .fault s _ _ _  => s

/-- The state that the push of a task carries. -/
def Push.state : Push → State
  | .ok s | .dropped s | .bad s | .full s  => s

/-- The state that the closing of a ring carries. -/
def Closed.state : Closed → State
  | .done s | .fault s _ _ | .stall s  => s

/-- The state that the acceptance of a collective carries. -/
def CollRes.state : CollRes → State
  | .ok s _ | .wait s | .trap s _ | .bad s _ _  => s

/-- The states of the acceptance of a gang's parts. -/
def ChkSafe₁ {α : Type} : Except Chk (State × α) → Prop
  | .ok a => Safe a.1
  | .error c => Safe c.state

/-- The state of the issue of a level. -/
def Issue.Safe : Issue → Prop
  | .ok s | .dropped s => Machine.Safe s
  | _ => True

/-- The state of the resolution of a record. -/
def Resolve.Safe : Resolve → Prop
  | .ok s _ _ => Machine.Safe s
  | _ => True

/-- The state of an engine's answer, and of its value a property of its own: where the value is again a state, that it is canonical. -/
def EngR.Holds {α : Type} (P : α → Prop) : EngR α → Prop
  | .ok s a => Safe s ∧ P a
  | .fault s _ _ _ | .stall s | .bad s _ | .stop s _ _ => Safe s

section
variable {s : State}

/-! ### Answers taken apart -/

theorem nextSafe (h : Safe s) : NextSafe (.next s) := h

theorem safe_fst {α : Type} {p : State × α} {a : α} (h : Safe p.1) (e : p = (s, a)) : Safe s := by
  subst e; exact h

theorem OkSafe.of_eq {ε : Type} {r : Except ε State} (h : OkSafe r) (e : r = .ok s) : Safe s := by
  subst e; exact h

theorem OkSafe₁.of_eq {ε α : Type} {r : Except ε (State × α)} {a : α} (h : OkSafe₁ r) (e : r = .ok (s, a)) : Safe s := by
  subst e; exact h

theorem SomeSafe.of_eq {o : Option State} (h : SomeSafe o) (e : o = some s) : Safe s := by
  subst e; exact h

theorem SomeSafe₁.of_eq {α : Type} {o : Option (State × α)} {a : α} (h : SomeSafe₁ o) (e : o = some (s, a)) : Safe s := by
  subst e; exact h

theorem EngR.safe_of_ok {α : Type} {r : EngR α} {a : α} (h : Safe r.state) (e : r = .ok s a) : Safe s := by
  subst e; exact h

theorem SomeSafe.getD {o : Option State} (ho : SomeSafe o) (h : Safe s) : Safe (o.getD s) := by
  cases o with
  | none => exact h
  | some _ => exact ho

theorem SomeSafe.orElse {o p : Option State} (ho : SomeSafe o) (hp : SomeSafe p) : SomeSafe (o <|> p) := by
  cases o with
  | none => exact hp
  | some _ => exact ho

theorem someSafe_map {α : Type} {f : α → State} (hf : ∀ a, Safe (f a)) (o : Option α) : SomeSafe (o.map f) := by
  cases o with
  | none => trivial
  | some a => exact hf a

/-- What holds of none and of every answer of a search holds of the search. -/
theorem findSome?_ind {α β : Type} {P : Option β → Prop} {f : α → Option β} (h0 : P none) (hf : ∀ a, P (f a)) (l : List α) :
    P (l.findSome? f) := by
  cases h : l.findSome? f with
  | none => exact h0
  | some b =>
    obtain ⟨a, -, ha⟩ := List.exists_of_findSome?_eq_some h
    exact ha ▸ hf a

/-! ### Two branches -/

theorem safe_ite {c : Prop} [Decidable c] {s t : State} (hs : Safe s) (ht : Safe t) : Safe (if c then s else t) := by
  split
  · exact hs
  · exact ht

theorem Res.safe_ite {c : Prop} [Decidable c] {a b : Res} (ha : Safe a.state) (hb : Safe b.state) :
    Safe (if c then a else b).state := by
  split
  · exact ha
  · exact hb

theorem Issue.safe_ite {c : Prop} [Decidable c] {a b : Issue} (ha : Issue.Safe a) (hb : Issue.Safe b) :
    Issue.Safe (if c then a else b) := by
  split
  · exact ha
  · exact hb

theorem NextSafe.ite {c : Prop} [Decidable c] {a b : Host.Outcome State Fault Refusal} (ha : NextSafe a) (hb : NextSafe b) :
    NextSafe (if c then a else b) := by
  split
  · exact ha
  · exact hb

theorem EngR.holds_ite {α : Type} {P : α → Prop} {c : Prop} [Decidable c] {a b : EngR α} (ha : a.Holds P) (hb : b.Holds P) :
    (if c then a else b).Holds P := by
  split
  · exact ha
  · exact hb

/-! ### Engine answers in sequence -/

theorem EngR.Holds.safe {α : Type} {P : α → Prop} {r : EngR α} (h : r.Holds P) : Safe r.state := by
  cases r with
  | ok => exact h.1
  | fault | stall | bad | stop => exact h

theorem EngR.Holds.bind {α β : Type} {P : α → Prop} {Q : β → Prop} {r : EngR α} {f : State → α → EngR β} (hr : r.Holds P)
    (hf : ∀ s a, Safe s → P a → (f s a).Holds Q) : (r.bind f).Holds Q := by
  cases r with
  | ok s a => exact hf s a hr.1 hr.2
  | fault | stall | bad | stop => exact hr

theorem holds_bind {α β : Type} {Q : β → Prop} {r : EngR α} {f : State → α → EngR β} (hr : Safe r.state)
    (hf : ∀ s a, Safe s → (f s a).Holds Q) : (r.bind f).Holds Q := by
  cases r with
  | ok s a => exact hf s a hr
  | fault | stall | bad | stop => exact hr

theorem safe_bind {α β : Type} {r : EngR α} {f : State → α → EngR β} (hr : Safe r.state)
    (hf : ∀ s a, Safe s → Safe (f s a).state) : Safe (r.bind f).state := by
  cases r with
  | ok s a => exact hf s a hr
  | fault | stall | bad | stop => exact hr

/-! ### Lists -/

theorem safe_foldl {α : Type} {f : State → α → State} (hf : ∀ s a, Safe s → Safe (f s a)) {l : List α} {s : State} (h : Safe s) :
    Safe (l.foldl f s) := by
  induction l generalizing s with
  | nil => exact h
  | cons a l ih => exact ih (hf s a h)

theorem safe_foldl₁ {α β : Type} {f : State × β → α → State × β} (hf : ∀ a x, Safe a.1 → Safe (f a x).1) {l : List α}
    {a : State × β} (h : Safe a.1) : Safe (l.foldl f a).1 := by
  induction l generalizing a with
  | nil => exact h
  | cons x l ih => exact ih (hf a x h)

theorem wf_foldl {α : Type} {f : Store → α → Store} (hf : ∀ m a, Memory.wf m = true → Memory.wf (f m a) = true) {l : List α} {m : Store}
    (h : Memory.wf m = true) : Memory.wf (l.foldl f m) = true := by
  induction l generalizing m with
  | nil => exact h
  | cons a l ih => exact ih (hf m a h)

/-! ### Storage that is filtered or copied -/

theorem wf_iff {m : Store} : Memory.wf m = true ↔ kvWf 0 m.cells = true ∧ kvWf 0 m.syns = true ∧ kvWf 0 m.metas = true := by
  simp [Memory.wf, and_assoc]

theorem kvWf_filter {α : Type} [DecidableEq α] {d : α} {l : List (Nat × α)} (p : Nat × α → Bool) (h : kvWf d l = true) :
    kvWf d (l.filter p) = true := by
  simp only [kvWf, Bool.and_eq_true, kvSorted_iff, List.all_eq_true] at h ⊢
  exact ⟨h.1.filter p, fun e he => h.2 e (List.mem_of_mem_filter he)⟩

theorem kvWf_foldl {α β : Type} [DecidableEq α] {d : α} (k : β → Nat) (v : β → α) (es : List β) {l : List (Nat × α)}
    (h : kvWf d l = true) : kvWf d (es.foldl (fun l e => kvSet d l (k e) (v e)) l) = true := by
  induction es generalizing l with
  | nil => exact h
  | cons e es ih => exact ih (kvWf_kvSet _ _ _ _ h)

theorem wf_blit {m : Store} (img : Store) (loc n : Nat) (h : Memory.wf m = true) : Memory.wf (blit m img loc n) = true := by
  obtain ⟨hc, hs, hm⟩ := wf_iff.1 h
  exact wf_iff.2 ⟨kvWf_foldl _ _ _ (kvWf_filter _ hc), kvWf_foldl _ _ _ (kvWf_filter _ hs), kvWf_foldl _ _ _ (kvWf_filter _ hm)⟩

end

end Sys2Proof.Machine
end

section
/-! PROOFS. Every function of the model that answers a state keeps storage canonical. -/

namespace Sys2Proof.Machine

-- one at a time, as in the tests: waiting theorems would each hold a thread
set_option Elab.async false

section
variable {s : State}

/-! ### Ops -/

theorem safe_setSlot {k x} (h : Safe s) : Safe (setSlot s k x) := h

theorem safe_updSlot {k f} (h : Safe s) : Safe (updSlot s k f) := h

theorem safe_setSeq {t v} (h : Safe s) : Safe (setSeq s t v) := h

theorem safe_updSeq {t f} (h : Safe s) : Safe (updSeq s t f) := h

theorem safe_setJob {j x} (h : Safe s) : Safe (setJob s j x) := h

theorem safe_updDie {d f} (h : Safe s) : Safe (updDie s d f) := by
  unfold updDie
  grind only [Safe]

theorem safe_draw (h : Safe s) : Safe (draw s).2 := h

theorem safe_anyOf {α : Type} {l : List α} (h : Safe s) : Safe (anyOf s l).1 := h

theorem safe_cachePut {β : Type} {l : List (Nat × β)} {size : Nat} {key : Nat} {v : β} (h : Safe s) :
    Safe (cachePut s l size key v).1 := by
  unfold cachePut
  grind only [safe_anyOf]

theorem safe_takeUid (h : Safe s) : Safe (takeUid s).2 := h

theorem safe_mapSaved {f} (h : Safe s) : Safe (mapSaved s f) := by
  unfold mapSaved
  grind only [Safe]

theorem safe_gangTouched {lgid} (h : Safe s) : Safe (gangTouched s lgid) := by
  unfold gangTouched
  grind only [Safe]

theorem safe_touchLost {slot} (h : Safe s) : Safe (touchLost s slot) := by
  unfold touchLost
  grind only [safe_gangTouched]

theorem safe_enqueue {w} (h : Safe s) : Safe (enqueue s w) := h

theorem safe_sendFlit {f} (h : Safe s) : Safe (sendFlit s f) := by
  unfold sendFlit
  grind only [Safe]

theorem safe_postWr {job line mark l md} (h : Safe s) : Safe (postWr s job line mark l md) := by
  unfold postWr
  grind only [safe_takeUid, safe_sendFlit, Safe]

theorem safe_hold {w} (h : Safe s) : Safe (hold s w) := by
  unfold hold
  grind only [Safe]

theorem safe_unhold (h : Safe s) : Safe (unhold s) := h

theorem safe_lineWritten {line} (h : Safe s) : Safe (lineWritten s line) := by
  unfold lineWritten
  grind only [safe_enqueue, safe_foldl, Safe]

theorem safe_clearRanges {a n} (h : Safe s) : Safe (clearRanges s a n) := h

theorem safe_putHomeGran {line g d syn} (h : Safe s) : Safe (putHomeGran s line g d syn) := by
  unfold putHomeGran
  have hs := wf_setGranSyn _ (4 * line + g) (if hostLine line then 0 else syn) (wf_writeNat _ (64 * line + 16 * g) 16 d.toNat h)
  grind only [safe_enqueue, Safe]

theorem safe_putHomeMeta {line md} (h : Safe s) : Safe (putHomeMeta s line md) := wf_setLineMeta _ _ _ h

theorem safe_setView {cluster line c} (h : Safe s) : Safe (setView s cluster line c) := by
  unfold setView
  grind only [Safe]

theorem safe_writeBack {cluster line who} (h : Safe s) : Safe (writeBack s cluster line who) := by
  unfold writeBack
  extract_lets v pick whole put s₁ s₂ gr
  have hput : ∀ {s : State} g, Safe s → Safe (put s g) := by grind only [safe_putHomeGran, safe_clearRanges]
  have h₁ : Safe s₁ := hput 3 (hput 2 (hput 1 (hput 0 h)))
  have h₂ : Safe s₂ := by grind only [safe_putHomeMeta]
  split
  · exact safe_lineWritten h₂
  · exact h

theorem safe_dropClean {core line wide} (h : Safe s) : Safe (dropClean s core line wide) := by
  unfold dropClean
  grind only [safe_setView]

theorem safe_purge {cluster line} (h : Safe s) : Safe (purge s cluster line) := safe_writeBack h

theorem safe_dropFetched {core} (h : Safe s) : Safe (dropFetched s core) := h

theorem safe_leaveL1 {core line} (h : Safe s) : Safe (leaveL1 s core line) := by
  unfold leaveL1
  grind only [safe_writeBack, safe_setView]

theorem safe_leaveCluster {cl line} (h : Safe s) : Safe (leaveCluster s cl line) := by
  unfold leaveCluster
  grind only [safe_writeBack, safe_setView]

theorem safe_roomL1 {core line} (h : Safe s) : Safe (roomL1 s core line) := by
  unfold roomL1
  grind only [safe_anyOf, safe_leaveL1]

theorem safe_roomCluster {cl line} (h : Safe s) : Safe (roomCluster s cl line) := by
  unfold roomCluster
  grind only [safe_anyOf, safe_leaveCluster]

theorem safe_fillLine {core line area} (h : Safe s) : Safe (fillLine s core line area) := by
  unfold fillLine
  grind only [safe_roomL1, safe_roomCluster, safe_writeBack, safe_setView]

theorem safe_touchCount {die region job f} (h : Safe s) : Safe (touchCount s die region job f) := by
  unfold touchCount
  grind only [Safe]

theorem safe_countAccess {core job area line} (h : Safe s) : Safe (countAccess s core job area line) := by
  unfold countAccess
  grind only [safe_touchCount, safe_enqueue]

theorem safe_touchLine {w area line} (h : Safe s) : Safe (touchLine s w area line) := by
  unfold touchLine
  grind only [safe_countAccess, safe_fillLine]

theorem safe_putFar {w line l md} (h : Safe s) : Safe (putFar s w line l md) := by
  unfold putFar
  grind only [safe_postWr, safe_setView]

theorem safe_putLine {w area et line p} (h : Safe s) : SomeSafe₁ (putLine s w area et line p) := by
  unfold putLine
  have ht : Safe (touchLine s w area line) := safe_touchLine h
  extract_lets s₁ md step
  change Safe s₁ at ht
  split
  · trivial
  · next l subs _ =>
    have hl : Safe (l.foldl (fun s e => putHomeGran s line e.1 e.2.1 e.2.2) s₁) := safe_foldl (fun _ _ => safe_putHomeGran) ht
    grind only [safe_putHomeMeta, safe_lineWritten, safe_setView, safe_putFar, SomeSafe₁]

theorem safe_putLines {w area et r n m k} (h : Safe s) : SomeSafe₁ (putLines w area et r n m s k) := by
  fun_induction putLines w area et r n m s k <;> grind only [safe_putLine, SomeSafe₁]

theorem safe_putRun {w area et r} (h : Safe s) : SomeSafe₁ (putRun s w area et r) := by
  unfold putRun
  grind only [safe_clearRanges, safe_putLines]

theorem safe_getGrans {w area stop n m l} (h : Safe s) : Safe (getGrans w area stop n m s l).1 := by
  fun_induction getGrans w area stop n m s l <;> grind only [safe_touchLine]

theorem safe_getRun {w area loc n} (h : Safe s) : Safe (getRun s w area loc n).1 := safe_getGrans h

theorem safe_freezeSlot {slot} (h : Safe s) : Safe (freezeSlot s slot) := h

theorem safe_takeTrap {slot q pc tr} (h : Safe s) : Safe (takeTrap s slot q pc tr) := by
  unfold takeTrap
  grind only [safe_setSlot, safe_freezeSlot]

/-! ### Translate -/

theorem safe_tlbPut {e n} (h : Safe s) : Safe (tlbPut e s n) := by
  unfold tlbPut
  grind only [safe_anyOf, Safe]

theorem safe_ptrPut {die p} (h : Safe s) : Safe (ptrPut die s p) := by
  unfold ptrPut
  grind only [safe_anyOf, Safe]

theorem safe_walkFill {caches die job va} (h : Safe s) : Safe (walkFill s caches die job va).1 := by
  unfold walkFill
  grind only [safe_ptrPut, safe_tlbPut, safe_foldl, Safe]

theorem safe_trWindow {ctx va len} (h : Safe s) : Safe (trWindow s ctx va len).1 := by
  unfold trWindow
  simp only []
  repeat' split
  all_goals first | exact safe_updSlot h | exact h

theorem safe_trPage {ctx va len n} (h : Safe s) : Safe (trPage s ctx va len n).1 := by
  unfold trPage
  have hl : ∀ e : TlbEnt, Safe (ctx.caches.foldl (tlbPut e) s) := fun e => safe_foldl (fun _ _ => safe_tlbPut) h
  have hw : ∀ die, Safe (walkFill s ctx.caches die ctx.job va).1 := fun die => safe_walkFill h
  simp only []
  split
  · exact h
  split
  · grind only [safe_trWindow]
  · cases tlbHit s ctx.caches ctx.job va <;> grind only

theorem safe_trRun {ctx n m va k} (h : Safe s) : Safe (trRun ctx n m s va k).1 := by
  fun_induction trRun ctx n m s va k <;> grind only [safe_trPage]

theorem safe_translate {ctx va len n} (h : Safe s) : Safe (translate s ctx va len n).1 := safe_trRun h

/-! ### Far -/

theorem safe_askFar {slot line} (h : Safe s) : Safe (askFar slot s line) := by
  unfold askFar
  grind only [safe_takeUid, safe_sendFlit, Safe]

theorem safe_needFar {slot sps} (h : Safe s) : SomeSafe (needFar s slot sps) := by
  unfold needFar
  grind only [safe_askFar, SomeSafe, safe_foldl]

theorem safe_fillFar {core line data codes md} (h : Safe s) : Safe (fillFar s core line data codes md) := by
  unfold fillFar
  grind only [safe_roomL1, safe_setView]

theorem safe_postFlit {slot line f} (h : Safe s) : Safe (postFlit s slot line f) := safe_sendFlit h

theorem safe_postRed {slot sp op v} (h : Safe s) : Safe (postRed s slot sp op v) := by
  unfold postRed
  grind only [safe_takeUid, safe_postFlit]

theorem safe_postRelw {slot sp v} (h : Safe s) : Safe (postRelw s slot sp v) := by
  unfold postRelw
  grind only [safe_takeUid, safe_postFlit]

theorem safe_claimWrs {slot} (h : Safe s) : Safe (claimWrs s slot) := by
  unfold claimWrs
  grind only [Safe]

theorem safe_disownWrs {slot} (h : Safe s) : Safe (disownWrs s slot) := by
  unfold disownWrs
  grind only [Safe]

/-! ### Events -/

theorem safe_countUnit {job n} (h : Safe s) : Safe (countUnit s job n) := by
  unfold countUnit
  grind only [safe_setJob]

theorem safe_unitRead {ctx va n} (h : Safe s) : Safe (unitRead s ctx va n).1 := by
  unfold unitRead
  grind only [safe_translate, safe_countUnit]

theorem safe_putSpans {w l n} (h : Safe s) : SomeSafe (putSpans s w l n) := by
  fun_induction putSpans s w l n <;> grind only [safe_putRun, SomeSafe₁, SomeSafe]

theorem safe_unitWrite {ctx va n v} (h : Safe s) : Safe (unitWrite s ctx va n v).1 := by
  unfold unitWrite
  grind only [safe_translate, safe_putSpans, SomeSafe]

theorem safe_physWrite {pa n v} (h : Safe s) : Safe (physWrite s pa n v) := by
  unfold physWrite
  grind only [safe_putRun, SomeSafe₁]

theorem safe_publishAt {ctx q i e} (h : Safe s) : Safe (publishAt s ctx q i e) := safe_unitWrite (safe_unitWrite h)

theorem safe_publishAll {ctx q setWr n l} (hsetWr : ∀ s a, Safe s → Safe (setWr s a)) (h : Safe s) :
    Safe (publishAll ctx q setWr s n l).1 := by
  fun_induction publishAll ctx q setWr s n l <;> grind only [safe_publishAt]

theorem safe_postTo {ctx q setWr lost e} (h : Safe s) (hsetWr : ∀ s a, Safe s → Safe (setWr s a)) :
    Safe (postTo s ctx q setWr lost e).1 := by
  unfold postTo
  grind only [safe_publishAll]

theorem safe_postJob {job e} (h : Safe s) : Safe (postJob s job e) := by
  unfold postJob
  grind only [safe_unitRead, safe_unitWrite, safe_postTo, safe_setJob]

theorem safe_postSup {e} (h : Safe s) : Safe (postSup s e) := by
  unfold postSup
  grind only [safe_physWrite, safe_postTo, Safe]

theorem safe_postWaiting (h : Safe s) : Safe (postWaiting s) := safe_foldl (fun _ _ => safe_postSup) h

theorem safe_postUncorrectable {job source addr detail} (h : Safe s) :
    Safe (postUncorrectable s job source addr detail) := by
  unfold postUncorrectable
  grind only [safe_postSup, safe_postJob]

theorem safe_portError {line gmask poison} (h : Safe s) : Safe (portError s line gmask poison) := by
  unfold portError
  grind only [safe_postSup]

theorem safe_countSubst {slot n} (h : Safe s) : Safe (countSubst s slot n) := by
  unfold countSubst
  grind only [safe_setJob, safe_updSlot, safe_postJob]

/-! ### Homes -/

theorem safe_homeRead {cluster sp n} (h : Safe s) : OkSafe₁ (homeRead s cluster sp n) := by
  unfold homeRead
  grind only [safe_purge, OkSafe₁]

theorem safe_homeUpdate {cluster sp n f} (h : Safe s) : OkSafe₁ (homeUpdate s cluster sp n f) := by
  unfold homeUpdate
  grind only [safe_homeRead, safe_putHomeGran, safe_lineWritten, safe_clearRanges, OkSafe₁]

theorem safe_loadSpans {src slot w l} (h : Safe s) : OkSafe₁ (loadSpans src slot w s l) := by
  fun_induction loadSpans src slot w s l <;> grind only [safe_countSubst, safe_getRun, OkSafe₁]

theorem safe_postHomeError {job loc b} (h : Safe s) : Safe (postHomeError s job loc b) := safe_postSup h

theorem safe_devUpdate {job sp n f} (h : Safe s) : Safe (devUpdate s job sp n f).1 := by
  unfold devUpdate
  grind only [safe_homeUpdate, safe_setJob, safe_postHomeError, OkSafe₁]

theorem safe_unitUpdate {ctx va n f} (h : Safe s) : Safe (unitUpdate s ctx va n f).1 := by
  unfold unitUpdate
  grind only [safe_translate, safe_devUpdate]

theorem safe_freeWord {sp} (h : Safe s) : Safe (freeWord s sp) := by
  unfold freeWord
  grind only [safe_purge, safe_foldl]

theorem safe_devReleased {job sp v range} (h : Safe s) : Safe (devReleased s job sp v range).1 := by
  unfold devReleased
  grind only [safe_devUpdate, safe_freeWord, Safe]

theorem safe_devRelease {job sp v range} (h : Safe s) : Safe (devRelease s job sp v range) := safe_devReleased h

/-! ### Record -/

theorem safe_policyOf {job r} (h : Safe s) : Safe (policyOf s job r).1 := safe_unitRead h

theorem safe_readRecord {src slot sp} (h : Safe s) : OkSafe₁ (readRecord s src slot sp) := safe_loadSpans h

theorem safe_checkRecord {job r} (h : Safe s) : Safe (checkRecord s job r).1 := by
  unfold checkRecord
  grind only [safe_policyOf]

theorem safe_putRecord {sp r} (h : Safe s) : Safe (putRecord s sp r) := by
  unfold putRecord
  grind only [safe_putRun, SomeSafe₁]

theorem safe_resolveRecord {job ovr va sp r} (h : Safe s) : Resolve.Safe (resolveRecord s job ovr va sp r) := by
  unfold resolveRecord
  grind only [safe_checkRecord, safe_putRecord, Resolve.Safe]

theorem safe_mergeCounts {job sp c} (h : Safe s) : Safe (mergeCounts s job sp c).1 := by
  unfold mergeCounts
  grind only [safe_devUpdate, safe_policyOf, safe_foldl]

theorem safe_stepRecord {job n va} (h : Safe s) : Safe (stepRecord s job n va) := by
  unfold stepRecord
  grind only [safe_postJob, safe_translate, safe_readRecord, safe_postHomeError, safe_checkRecord, safe_putRecord, OkSafe₁,
    Safe]

theorem safe_regulate {job n} (h : Safe s) : Safe (regulate s job n) := by
  unfold regulate
  grind only [safe_unitRead, safe_stepRecord, safe_foldl]

theorem safe_runDeferred {job va} (h : Safe s) : Safe (runDeferred s job va) :=
  safe_foldl (fun _ _ => safe_stepRecord) h

/-! ### Region -/

theorem safe_moveSpans {src slot w l} (h : Safe s) : OkSafe₁ (moveSpans src slot w s l) := by
  induction l generalizing s with
  | nil => exact h
  | cons sp l ih =>
    unfold moveSpans
    grind only [safe_getRun, safe_countSubst, OkSafe₁]

theorem safe_storeSpans {src slot w stamp l n r} (h : Safe s) : OkSafe (storeSpans src slot w stamp s l n r) := by
  fun_induction storeSpans src slot w stamp s l n r <;> grind only [safe_countSubst, safe_putRun, SomeSafe₁, OkSafe]

theorem safe_writeBackRange {core job width rs} (h : Safe s) : Safe (writeBackRange s core job width rs) := by
  unfold writeBackRange
  grind only [safe_writeBack, safe_foldl]

theorem safe_dropRange {core job width rs} (h : Safe s) : Safe (dropRange s core job width rs) := by
  unfold dropRange
  grind only [safe_dropClean, safe_foldl, Safe]

theorem safe_acquireStep {slot sp} (h : Safe s) : Safe (acquireStep s slot sp) := safe_dropRange h

theorem safe_releaseSteps {slot sp} (h : Safe s) : Safe (releaseSteps s slot sp) := safe_writeBackRange h

theorem safe_atomicAt {slot sp n o f} (h : Safe s) : OkSafe₁ (atomicAt s slot sp n o f) := by
  unfold atomicAt
  grind only [safe_releaseSteps, safe_homeUpdate, safe_countSubst, safe_acquireStep, OkSafe₁]

theorem safe_releaseWrite {slot sp v} (h : Safe s) : OkSafe (releaseWrite s slot sp v) := by
  unfold releaseWrite
  grind only [safe_storeSpans, safe_homeUpdate, safe_countSubst, OkSafe, OkSafe₁]

theorem safe_journalLine {slot line} (h : Safe s) : Safe (journalLine s slot line).1 := by
  unfold journalLine
  extract_lets x ln n m₁ m₂
  split
  · exact h
  · split
    · exact h
    · exact wf_writeNat _ _ _ _ (wf_writeNat _ _ _ _ (wf_blit _ _ _ h))

theorem safe_performTensor {slot w l} (h : Safe s) : OkSafe (performTensor slot w s l) := by
  fun_induction performTensor slot w s l <;> grind only [safe_storeSpans, OkSafe]

theorem safe_performEngine {slot w l} (h : Safe s) : OkSafe (performEngine slot w s l) := by
  fun_induction performEngine slot w s l <;> grind only [safe_storeSpans, safe_putHomeMeta, OkSafe]

theorem safe_claimed {slot r} (hr : OkSafe r) : OkSafe (claimed slot r) := by
  unfold claimed
  grind only [safe_claimWrs, OkSafe]

theorem safe_performOp {slot op} (h : Safe s) : OkSafe (performOp s slot op) := by
  unfold performOp
  grind only [safe_claimed, safe_storeSpans, safe_performTensor, safe_performEngine, safe_devRelease, safe_mergeCounts,
    safe_releaseSteps, safe_postRed, safe_purge, safe_atomicAt, safe_postRelw, safe_releaseWrite, OkSafe, OkSafe₁]

theorem safe_performAll {slot l} (h : Safe s) : OkSafe (performAll slot s l) := by
  fun_induction performAll slot s l <;> grind only [safe_performOp, OkSafe]

theorem safe_drainBuffer {slot} (h : Safe s) : OkSafe (drainBuffer s slot) := by
  unfold drainBuffer
  grind only [safe_performAll, safe_updSlot, OkSafe]

theorem safe_escape {slot uid cls} (h : Safe s) : OkSafe (escape s slot uid cls) := by
  unfold escape
  grind only [safe_updSlot, safe_drainBuffer, OkSafe]

theorem safe_journalAll {slot uid l} (h : Safe s) : OkSafe (journalAll slot uid s l) := by
  fun_induction journalAll slot uid s l <;> grind only [safe_journalLine, safe_escape, OkSafe]

theorem safe_slotWrite {slot q pc uid op} (h : Safe s) : OkSafe (slotWrite s slot q pc uid op) := by
  unfold slotWrite
  grind only [safe_journalAll, safe_performOp, safe_updSlot, safe_escape, OkSafe]

theorem safe_machineCheck {slot q pc b replay} (h : Safe s) : Safe (machineCheck s slot q pc b replay) :=
  safe_takeTrap (safe_postUncorrectable h)

theorem safe_restoreJournal {slot} (h : Safe s) : Safe (restoreJournal s slot) := by
  unfold restoreJournal
  extract_lets x n back
  exact safe_foldl (f := back) (fun _ _ h => wf_blit _ _ _ h) h

theorem safe_clearJournal {slot} (h : Safe s) : Safe (clearJournal s slot) := wf_writeNat _ _ _ _ h

theorem safe_abortParts {l} (h : Safe s) : Safe (abortParts s l) := safe_foldl (fun _ _ => safe_enqueue) h

theorem safe_unwind {slot b} (h : Safe s) : Safe (unwind s slot b) := by
  unfold unwind
  grind only [safe_restoreJournal, safe_abortParts, safe_draw, safe_machineCheck, safe_setSlot, safe_clearJournal]

theorem safe_wordError {t pc uid b} (h : Safe s) : Safe (wordError s t pc uid b) := by
  unfold wordError
  grind only [safe_unwind, safe_machineCheck]

/-! ### Issue -/

theorem safe_retireWord {t e ws sigs o} (h : Safe s) : Safe (retireWord s t e ws sigs o) := by
  unfold retireWord
  grind only [safe_updSlot]

theorem safe_stall {t r175} (h : Safe s) : Safe (stall s t r175) := h

theorem safe_pushVoid {t r} (h : Safe s) : Safe (pushVoid s t r) := by
  unfold pushVoid
  grind only [safe_updSeq, safe_updSlot]

theorem safe_finish {t e ws sigs r} (hr : Safe r.state) : Safe (finish s t e ws sigs r) := by
  unfold finish
  grind only [safe_retireWord, safe_updSeq, safe_stall, safe_takeTrap, safe_wordError, Res.state]

theorem safe_issueFull {i n extraW extraS d r eff} (heff : ∀ s a, Safe s → Safe (eff s a).state) (h : Safe s) :
    Safe (issueFull i n extraW extraS d r eff s) := by
  unfold issueFull
  grind only [safe_retireWord, safe_pushVoid, safe_stall, safe_takeTrap, safe_wordError, safe_needFar, safe_finish, SomeSafe]

theorem safe_issueWord {i n d r eff} (heff : ∀ s a, Safe s → Safe (eff s a).state) (h : Safe s) :
    NextSafe (issueWord i n d r eff s) := by
  unfold issueWord
  grind only [safe_issueFull, NextSafe]

theorem safe_putResult {t d v} (h : Safe s) : Safe (putResult s t d v) := h

theorem safe_putBusy {t d tag} (h : Safe s) : Safe (putBusy s t d tag) := by
  unfold putBusy
  grind only [safe_updSeq]

theorem safe_observe {t o r} (h : Safe s) (hr : Safe r.state) : Safe (observe s t o r).state := by
  unfold observe
  grind only [safe_setSlot, Res.state]

theorem safe_settleDrops (h : Safe s) : Safe (settleDrops s) := by
  unfold settleDrops
  grind only [safe_enqueue, safe_unhold, safe_foldl, Safe]

theorem safe_checkEnd {slot} (h : Safe s) : Safe (checkEnd s slot) := by
  unfold checkEnd
  grind only [safe_settleDrops, safe_enqueue]

/-! ### QueueWords -/

theorem safe_qputEff {k f t} (h : Safe s) : Safe (qputEff k f s t).state := by
  unfold qputEff
  grind only [safe_takeUid, safe_updSlot, Res.state]

theorem safe_execQput {n k f} (h : Safe s) : NextSafe (execQput n k f s) :=
  safe_issueWord (fun _ _ h => safe_qputEff h) h

theorem safe_putQVal {t f r} (h : Safe s) : Safe (putQVal s t f r) := by
  unfold putQVal
  grind only [safe_updSeq, safe_updSlot]

theorem safe_qgetEff {k f t} (h : Safe s) : Safe (qgetEff k f s t).state := by
  unfold qgetEff
  grind only [safe_putQVal, safe_updSlot, Res.state]

theorem safe_qpeekEff {k f t} (h : Safe s) : Safe (qpeekEff k f s t).state := by
  unfold qpeekEff
  grind only [safe_putQVal, Res.state]

theorem safe_execQcnt {n f k} (h : Safe s) : NextSafe (execQcnt n f k s) :=
  safe_issueWord (fun _ _ h => safe_putResult h) h

theorem safe_execTsig {n cnt pred} (h : Safe s) : NextSafe (execTsig n cnt pred s) := by
  unfold execTsig
  grind only [safe_issueFull, NextSafe, Res.state]

theorem safe_execTwait {n cnt pred} (h : Safe s) : NextSafe (execTwait n cnt pred s) := by
  unfold execTwait
  grind only [safe_issueFull, NextSafe, Res.state]

/-! ### Regs -/

theorem safe_ctlRead {die off} (h : Safe s) : Safe (ctlRead s die off).1 := by
  unfold ctlRead
  simp only []
  repeat' split
  all_goals first | exact safe_updDie h | exact h

theorem safe_writeBias {die v} (h : Safe s) : Safe (writeBias s die v) := by
  unfold writeBias
  grind only [safe_updDie, safe_enqueue, Safe]

theorem safe_writeReply {v} (h : Safe s) : Safe (writeReply s v) := by
  unfold writeReply
  grind only [safe_enqueue]

theorem safe_setSrq {v} (h : Safe s) : Safe (setSrq s v) := by
  unfold setSrq
  grind only [Safe]

theorem safe_setSevq {v} (h : Safe s) : Safe (setSevq s v) := by
  unfold setSevq
  grind only [safe_enqueue, Safe]

theorem safe_ctlWrite {die off v} (h : Safe s) : Safe (ctlWrite s die off v) := by
  unfold ctlWrite
  grind only [safe_setSrq, safe_setSevq, safe_updDie, safe_writeReply, safe_writeBias, Safe]

/-! ### Mem -/

theorem safe_aligned {va n k} (h : Safe s) (hk : Safe k.state) : Safe (aligned s va n k).state := by
  unfold aligned
  grind only [Res.state]

theorem safe_access {t va len n k} (h : Safe s) (hk : ∀ s a, Safe s → Safe (k s a).state) :
    Safe (access s t va len n k).state := by
  unfold access
  grind only [safe_translate, safe_needFar, SomeSafe, Res.state]

theorem safe_outsideRegion {t sps k} (h : Safe s) (hk : Safe k.state) : Safe (outsideRegion s t sps k).state := by
  unfold outsideRegion
  grind only [Res.state]

theorem safe_readFor {α : Type} {slot : Nat} {sup : Bool} {f : State → Risk (State × α)} (h : Safe s) (hf : ∀ s, Safe s → OkSafe₁ (f s)) :
    OkSafe₁ (readFor s slot sup f) := by
  unfold readFor
  grind only [safe_countSubst, OkSafe₁]

theorem safe_constGrans {slot sp} (h : Safe s) : Safe (constGrans s slot sp).1 := by
  unfold constGrans
  grind only [safe_getRun, safe_cachePut, Safe]

theorem safe_constLoad {src slot l} (h : Safe s) : OkSafe₁ (constLoad src slot s l) := by
  unfold constLoad
  grind only [safe_constGrans, safe_countSubst, OkSafe₁]

theorem safe_loadValue {slot q sup w} (h : Safe s) : OkSafe₁ (loadValue s slot q sup w) := by
  unfold loadValue
  grind only [safe_readFor, safe_loadSpans, safe_constLoad, safe_moveSpans, OkSafe₁]

theorem safe_issueLoad {t sps mk k} (h : Safe s) (hk : ∀ s a b, Safe s → Safe (k s a b).state) :
    Safe (issueLoad s t sps mk k).state := by
  unfold issueLoad
  grind only [safe_takeUid, Res.state]

theorem safe_controlCase {l : List Span} {r : Res} {k : Loc → Res} (hk : ∀ loc, Safe (k loc).state) (hr : Safe r.state) :
    Safe (match l with | { area := .control, loc, .. } :: _ => k loc | _ => r).state := by
  split
  · exact hk _
  · exact hr

theorem safe_loadEff {const size d a off t} (h : Safe s) : Safe (loadEff const size d a off s t).state := by
  unfold loadEff
  refine safe_access h fun s sps h => ?_
  refine safe_controlCase (fun loc => ?_) (safe_issueLoad h fun s _ _ h => safe_enqueue (safe_putBusy h))
  have hc : Safe (ctlRead s (dieOfCore (coreOf t.slot)) (loc - ctlBase)).1 := safe_ctlRead h
  split
  next e => rw [e] at hc; exact safe_putResult hc

theorem safe_ldcEff {d a off t} (h : Safe s) : Safe (ldcEff d a off s t).state := safe_aligned h (safe_loadEff h)

theorem safe_queueLoadEff {k f off size align t} (h : Safe s) : Safe (queueLoadEff k f off size align s t).state := by
  unfold queueLoadEff
  grind only [safe_aligned, safe_access, safe_issueLoad, safe_enqueue, safe_updSlot, Res.state]

theorem safe_prefEff {a off t} (h : Safe s) : Safe (prefEff a off s t).state := by
  unfold prefEff
  grind only [safe_aligned, safe_trPage, safe_touchLine, Res.state]

theorem safe_pendStore {t op} (h : Safe s) : Safe (pendStore s t op).state := by
  unfold pendStore
  grind only [safe_takeUid, safe_enqueue, Res.state]

theorem safe_storeEff {size b a off t} (h : Safe s) : Safe (storeEff size b a off s t).state := by
  unfold storeEff
  grind only [safe_access, safe_ctlWrite, safe_outsideRegion, safe_pendStore, Res.state]

theorem safe_stvqEff {k f off t} (h : Safe s) : Safe (stvqEff k f off s t).state := by
  unfold stvqEff
  grind only [safe_aligned, safe_access, safe_outsideRegion, safe_pendStore, safe_updSlot, Res.state]

theorem safe_deliverLoad {slot q tag} (h : Safe s) : Safe (deliverLoad s slot q tag) := by
  unfold deliverLoad
  grind only [safe_hold, safe_loadValue, safe_updSlot, safe_checkEnd, OkSafe₁]

theorem safe_execLoadDelivery {slot q tag} (h : Safe s) : NextSafe (execLoadDelivery slot q tag s) :=
  safe_deliverLoad h

theorem safe_slotError {slot uid b} (h : Safe s) : Safe (slotError s slot uid b) := by
  unfold slotError
  grind only [safe_unwind, safe_machineCheck]

theorem safe_sendRelease {slot q tag op} (h : Safe s) : Safe (sendRelease s slot q tag op) := by
  unfold sendRelease
  grind only [safe_purge, safe_releaseSteps, safe_takeUid, safe_updSlot, safe_sendFlit, safe_enqueue, safe_hold,
    safe_checkEnd]

theorem safe_performStore {slot q} (h : Safe s) : Safe (performStore s slot q) := by
  unfold performStore
  simp only []
  split
  · exact h
  split
  · exact safe_hold h
  · split
    · exact safe_hold h
    split
    · exact safe_hold ((safe_needFar h).getD h)
    split
    · grind only [safe_hold, safe_enqueue]
    split
    · exact safe_sendRelease h
    · grind only [safe_performOp, safe_slotWrite, OkSafe, safe_checkEnd, safe_updSlot, safe_slotError, safe_wordError]
  · exact h

theorem safe_execStorePerformed {slot q} (h : Safe s) : NextSafe (execStorePerformed slot q s) := safe_performStore h

/-! ### Atomic -/

theorem safe_escaping {t cls sps} (h : Safe s) : OkSafe (escaping s t cls sps) := by
  unfold escaping
  grind only [safe_journalAll, safe_escape, OkSafe]

theorem safe_farPend {t d sp o f} (h : Safe s) : Safe (farPend s t d sp o f).state := by
  unfold farPend
  grind only [safe_takeUid, safe_purge, safe_putBusy, safe_sendFlit, Res.state]

theorem safe_relGate {t sp o k} (h : Safe s) (hk : Safe k.state) : Safe ((relGate s t sp o).getD k).state := by
  unfold relGate
  grind only [= Option.getD_none, = Option.getD_some, safe_setSlot, Res.state]

theorem safe_atomEff {op n o d a b c f t} (h : Safe s) : Safe (atomEff op n o d a b c f s t).state := by
  unfold atomEff
  refine safe_aligned h (safe_access h fun s sps h => safe_outsideRegion h ?_)
  split
  · exact h
  split
  · refine safe_relGate h ?_
    grind only [safe_escaping, safe_farPend, safe_releaseSteps, safe_atomicAt, safe_putResult, safe_takeUid, OkSafe, OkSafe₁, Res.state]
  · exact h

theorem safe_redEff {op o a b t} (h : Safe s) : Safe (redEff op o a b s t).state := by
  unfold redEff
  grind only [safe_aligned, safe_access, safe_outsideRegion, safe_pendStore, Res.state]

/-! ### Barrier -/

theorem safe_setBar {k b} (h : Safe s) : Safe (setBar s k b) := h

theorem safe_wakeSlot {slot} (h : Safe s) : Safe (wakeSlot s slot) := by
  unfold wakeSlot
  grind only [safe_checkEnd, safe_setSlot, safe_touchLost]

theorem safe_wakeDie {die} (h : Safe s) : Safe (wakeDie s die) := by
  unfold wakeDie
  grind only [safe_wakeSlot, safe_foldl]

theorem safe_arrive {die i} (h : Safe s) : Safe (arrive s die i) := by
  unfold arrive
  grind only [safe_wakeDie, safe_setBar]

theorem safe_forwardLocal {k} (h : Safe s) : Safe (forwardLocal s k) := by
  unfold forwardLocal
  grind only [safe_setBar, Safe]

theorem safe_arriveLocal {slot i} (h : Safe s) : Safe (arriveLocal s slot i) := by
  unfold arriveLocal
  grind only [safe_touchLost, safe_arrive, safe_forwardLocal]

theorem safe_execBarrierForward {die bar lost} (h : Safe s) : NextSafe (execBarrierForward die bar lost s) := by
  unfold execBarrierForward
  grind only [safe_wakeDie, safe_setBar, safe_arrive, NextSafe]

theorem safe_withBar {bn t k} (h : Safe s) (hk : ∀ a, Safe (k a).state) : Safe (withBar bn s t k).state := by
  unfold withBar
  grind only [Res.state]

theorem safe_arriveWord {t i k} (h : Safe s) (hk : ∀ s, Safe s → Safe (k s).state) : Safe (arriveWord s t i k).state := by
  unfold arriveWord
  grind only [safe_escape, safe_arriveLocal, OkSafe, Res.state]

theorem safe_barWait {bn i t0 t} (h : Safe s) : Safe (barWait bn i t0 s t).state := by
  unfold barWait
  grind only [safe_putResult, safe_touchLost, safe_takeUid, safe_updSlot, Res.state]

theorem safe_execBararr {n bn} (h : Safe s) : NextSafe (execBararr n bn s) := by
  unfold execBararr
  grind only [safe_issueWord, safe_withBar, safe_arriveWord, safe_putResult, Res.state]

theorem safe_execBarwait {n f bn} (h : Safe s) : NextSafe (execBarwait n f bn s) := by
  unfold execBarwait
  grind only [safe_issueWord, safe_withBar, safe_barWait]

theorem safe_barsyncEff {bn t} (h : Safe s) : Safe (barsyncEff bn s t).state := by
  unfold barsyncEff
  grind only [safe_withBar, safe_barWait, safe_arriveWord, safe_updSlot]

/-! ### Alu -/

theorem safe_writeAlu {t d v flags} (h : Safe s) : Safe (writeAlu s t d v flags) := by
  unfold writeAlu
  grind only [safe_putResult, safe_updSlot]

theorem safe_aluEff {a t} (h : Safe s) : Safe (aluEff a s t).state := by
  unfold aluEff
  grind only [safe_writeAlu, Res.state]

theorem safe_issueAlu {i n a} (h : Safe s) : NextSafe (issueAlu i n a s) :=
  safe_issueWord (fun _ _ h => safe_aluEff h) h

/-! ### TensorOut -/

theorem safe_transRuns {ctx l} (h : Safe s) : Safe (transRuns ctx s l).1 := by
  fun_induction transRuns ctx s l <;> grind only [safe_translate]

/-! ### VecMem -/

theorem safe_windowRun {slot va n} (h : Safe s) : Safe (windowRun s slot va n).1 := by
  unfold windowRun
  have hw := safe_trWindow (ctx := { slot, job := (getSlot s slot).job, sup := false }) (va := va) (len := n) h
  simp only []
  split
  · exact h
  · generalize trWindow s { slot, job := (getSlot s slot).job, sup := false } va n = p at hw
    repeat' split
    all_goals exact hw

theorem safe_windowAccess {t wr va n k} (h : Safe s) (hk : ∀ s a, Safe s → Safe (k s a).state) :
    Safe (windowAccess s t wr va n k).state := by
  unfold windowAccess
  grind only [safe_windowRun, safe_outsideRegion, Res.state]

theorem safe_putVec {t d w} (h : Safe s) : Safe (putVec s t d w) := h

theorem safe_vldEff {d a off t} (h : Safe s) : Safe (vldEff d a off s t).state := by
  unfold vldEff
  grind only [safe_aligned, safe_windowAccess, safe_readFor, safe_moveSpans, safe_putVec, Res.state, OkSafe₁]

theorem safe_vecWrite {t op} (h : Safe s) : OkSafe (vecWrite s t op) := safe_slotWrite h

theorem safe_vstEff {b a off t} (h : Safe s) : Safe (vstEff b a off s t).state := by
  unfold vstEff
  grind only [safe_aligned, safe_windowAccess, safe_vecWrite, Res.state, OkSafe]

theorem safe_elemSpans {slot n l} (h : Safe s) : Safe (elemSpans slot n s l).1 := by
  fun_induction elemSpans slot n s l <;> grind only [safe_windowRun]

theorem safe_indexAccess {t wr n base ix k} (h : Safe s) (hk : ∀ s a, Safe s → Safe (k s a).state) :
    Safe (indexAccess s t wr n base ix k).state := by
  unfold indexAccess
  grind only [safe_aligned, safe_elemSpans, safe_outsideRegion, Res.state]

theorem safe_vldxEff {z d a b t} (h : Safe s) : Safe (vldxEff z d a b s t).state := by
  unfold vldxEff
  grind only [safe_indexAccess, safe_readFor, safe_loadSpans, safe_putVec, Res.state, OkSafe₁]

theorem safe_writeElems {t l} (h : Safe s) : OkSafe (writeElems t s l) := by
  fun_induction writeElems t s l <;> grind only [safe_vecWrite, OkSafe]

theorem safe_vstxEff {z a b c t} (h : Safe s) : Safe (vstxEff z a b c s t).state := by
  unfold vstxEff
  grind only [safe_indexAccess, safe_writeElems, Res.state, OkSafe]

/-! ### Engine -/

theorem safe_engRisk {α : Type} {r : Risk (State × α)} (h : Safe s) (hr : OkSafe₁ r) : Safe (engRisk s r).state := by
  unfold engRisk
  grind only [EngR.state, OkSafe₁]

theorem safe_engReach {α : Type} {e : Eng} {l : List Span} {k : EngR α} (h : Safe s) (hk : Safe k.state) :
    Safe (engReach e l s k).state := by
  unfold engReach
  split
  · exact h
  · split <;> rename_i e
    · grind only [safe_needFar, SomeSafe, EngR.state]
    · exact hk

theorem safe_engSpans {e wr tt va n} (h : Safe s) : Safe (engSpans e wr tt va n s).state := by
  unfold engSpans
  grind only [safe_translate, safe_engReach, EngR.state]

theorem safe_engWindow {e wr va n} (h : Safe s) : Safe (engWindow e wr va n s).state := by
  unfold engWindow
  grind only [safe_windowRun, EngR.state]

theorem safe_engRead {e sps} (h : Safe s) : Safe (engRead e sps s).state := by
  unfold engRead
  grind only [safe_engRisk, safe_readFor, safe_loadSpans]

theorem safe_engReadAt {e va n} (h : Safe s) : Safe (engReadAt e va n s).state := by
  unfold engReadAt
  grind only [safe_engSpans, safe_engRead, safe_bind]

theorem safe_engWrite {e ws} (h : Safe s) : Safe (engWrite e ws s).state := by
  unfold engWrite
  grind only [safe_slotWrite, OkSafe, EngR.state]

theorem safe_engWriteRuns {e runs} (h : Safe s) : Safe (engWriteRuns e runs s).state := by
  unfold engWriteRuns
  grind only [safe_transRuns, safe_engReach, safe_engWrite, EngR.state]

theorem safe_updCmd {slot eng uid f} (h : Safe s) : Safe (updCmd s slot eng uid f) := by
  unfold updCmd
  grind only [safe_updSlot]

theorem safe_dropCmd {slot eng uid} (h : Safe s) : Safe (dropCmd s slot eng uid) := h

theorem safe_serve {place slot} (h : Safe s) : Safe (serve s place slot) := h

theorem safe_kick {slot eng} (h : Safe s) : Safe (kick s slot eng) := by
  unfold kick
  grind only [safe_enqueue, safe_foldl]

theorem safe_kickSlot {slot} (h : Safe s) : Safe (kickSlot s slot) := safe_foldl (fun _ _ => safe_kick) h

theorem safe_kickPlace {place} (h : Safe s) : Safe (kickPlace s place) := by
  unfold kickPlace
  grind only [safe_kick, safe_foldl]

theorem safe_endCmd {slot eng uid status fcode} (h : Safe s) : Safe (endCmd s slot eng uid status fcode) := by
  unfold endCmd
  grind only [safe_kick, safe_updCmd, safe_kickPlace, safe_unhold]

theorem safe_namedRecord {t va k} (h : Safe s) (hk : ∀ s a, Safe s → Safe (k s a).state) :
    Safe (namedRecord s t va k).state := by
  unfold namedRecord
  grind only [safe_translate, safe_readRecord, OkSafe₁, Chk.state]

theorem safe_shapeCheck {t va past k} (h : Safe s) (hk : ∀ s a, Safe s → Safe (k s a).state) :
    Safe (shapeCheck s t va past k).state := by
  unfold shapeCheck
  grind only [safe_namedRecord, Chk.state]

theorem safe_resolveDst {t n f k} (h : Safe s) (hk : ∀ s a b c d, Safe s → Safe (k s a b c d).state) :
    Safe (resolveDst s t n f k).state := by
  unfold resolveDst
  grind only [safe_resolveRecord, Resolve.Safe, Chk.state]

theorem safe_resolveSrc {t va f k} (h : Safe s) (hk : ∀ s a b, Safe s → Safe (k s a b).state) :
    Safe (resolveSrc s t va f k).state := by
  unfold resolveSrc
  grind only [safe_namedRecord, safe_resolveRecord, Chk.state, Resolve.Safe]

theorem safe_readPacket {size align room f t k} (h : Safe s) (hk : ∀ s a b, Safe s → Safe (k s a b).state) :
    Safe (readPacket size align room f s t k).state := by
  unfold readPacket
  grind only [safe_readFor, safe_loadSpans, safe_aligned, safe_windowRun, safe_access, OkSafe₁, Res.state]

theorem safe_addCmd {slot eng by_ body after reject} (h : Safe s) : Safe (addCmd s slot eng by_ body after reject).1 := by
  unfold addCmd
  grind only [safe_takeUid, safe_updSlot, safe_kick]

theorem safe_postEngineFault {job source eng tag k va wr} (h : Safe s) :
    Safe (postEngineFault s job source eng tag k va wr) := by
  unfold postEngineFault
  grind only [safe_postSup]

theorem safe_engRecord {e crec bytes tag range} (h : Safe s) : Safe (engRecord e crec bytes tag range s).state := by
  unfold engRecord
  grind only [safe_engWriteRuns, safe_engSpans, safe_slotWrite, EngR.state, OkSafe, safe_bind]

theorem safe_freeFollowers {slot uid ok} (h : Safe s) : Safe (freeFollowers s slot uid ok) := by
  unfold freeFollowers
  grind only [safe_kick, safe_updSlot, safe_foldl]

theorem safe_retireCmd {slot eng c dstBytes} (h : Safe s) : Safe (retireCmd s slot eng c dstBytes) := by
  unfold retireCmd
  grind only [safe_dropCmd, safe_setSlot, safe_freeFollowers, safe_checkEnd, safe_kickPlace, safe_kick]

/-! ### Copy -/

theorem safe_copyShape {t p k} (h : Safe s) (hk : ∀ s a, Safe s → Safe (k s a).state) : Safe (copyShape s t p k).state := by
  unfold copyShape
  grind only [safe_shapeCheck]

theorem safe_acceptCopy {t p} (h : Safe s) : Safe (acceptCopy s t p).state := by
  unfold acceptCopy
  grind only [safe_copyShape, safe_resolveSrc, safe_resolveDst, safe_translate, safe_loadSpans, Chk.state, OkSafe₁]

theorem safe_wholeLine {e sp} (h : Safe s) : OkSafe₁ (wholeLine e sp s) := safe_getRun h

theorem safe_move {e s dp sps} (h : Safe s) : Safe (movePiece.move e s dp sps).state :=
  safe_bind (safe_engRisk h (safe_readFor h fun _ => safe_moveSpans)) fun _ _ h => h

theorem safe_movePiece {e src dst n} (h : Safe s) : Safe (movePiece e src dst n s).state := by
  refine safe_bind (safe_engSpans h) fun s sps h => safe_bind (safe_engSpans h) fun s dps h => ?_
  simp only []
  split
  · split
    · exact safe_bind (safe_engRisk h (safe_readFor h fun _ => safe_wholeLine)) fun _ _ h => h
    · exact safe_move h
  · exact safe_move h

theorem safe_movePieces {e n va w m} (h : Safe s) : Safe (movePieces e n va w m s).state := by
  induction n generalizing va w m s with
  | zero => exact h
  | succ n ih =>
    unfold movePieces
    split
    · exact h
    · exact safe_bind (safe_movePiece h) fun _ _ h => safe_bind (ih h) fun _ _ h => h

theorem safe_plainPortion {e c} (h : Safe s) : Safe (plainPortion e c s).state := by
  unfold plainPortion
  grind only [safe_movePieces, safe_engWrite, EngR.state, safe_bind]

theorem safe_fillPortion {e c} (h : Safe s) : Safe (fillPortion e c s).state := by
  unfold fillPortion
  grind only [safe_engSpans, safe_engWrite, EngR.state, safe_bind]

theorem safe_convSource {e p r i k} (h : Safe s) : Safe (convSource e p r i k s).state := by
  unfold convSource
  grind only [safe_engSpans, safe_engRisk, safe_readFor, safe_loadSpans, safe_readRecord, safe_engReadAt, EngR.state, OkSafe₁,
    safe_bind]

theorem safe_convPortion {e c r} (h : Safe s) : Safe (convPortion e c r s).state := by
  unfold convPortion
  grind only [safe_convSource, safe_engWriteRuns, safe_mergeCounts, EngR.state, safe_bind]

theorem safe_copyPortion {e c r} (h : Safe s) : Safe (copyPortion e c r s).state := by
  unfold copyPortion
  grind only [safe_plainPortion, safe_fillPortion, safe_convPortion]

/-! ### Gather -/

theorem safe_acceptGather {p} (h : Safe s) : Safe (acceptGather s p).state := by
  unfold acceptGather
  grind only [Chk.state]

theorem safe_gatherIndex {e p j} (h : Safe s) : Safe (gatherIndex e p j s).state := by
  unfold gatherIndex
  grind only [safe_engReadAt, EngR.state, safe_bind]

theorem safe_gatherIndices {e p n} (h : Safe s) : Safe (gatherIndices e p n s).state := by
  induction n generalizing s with
  | zero => exact h
  | succ n ih => exact safe_bind (safe_gatherIndex h) fun _ _ => ih

theorem safe_gatherPortion {e c} (h : Safe s) : Safe (gatherPortion e c s).state := by
  unfold gatherPortion
  grind only [safe_gatherIndices, safe_gatherIndex, safe_movePieces, safe_engWrite, EngR.state, safe_bind]

/-! ### Sync -/

theorem safe_syncRead {slot sp} (h : Safe s) : OkSafe₁ (syncRead slot sp s) := by
  unfold syncRead
  grind only [safe_loadSpans, safe_homeRead, safe_countSubst, OkSafe₁]

theorem safe_acquireRead {slot sup sp} (h : Safe s) : OkSafe₁ (acquireRead s slot sup sp) := by
  unfold acquireRead
  grind only [safe_readFor, safe_syncRead, safe_acquireStep, OkSafe₁]

theorem safe_syncAccess {a n k t} (hk : ∀ s a b, Safe s → Safe (k s a b).state) (h : Safe s) :
    Safe (syncAccess a n k s t).state := by
  unfold syncAccess
  grind only [safe_aligned, safe_access, Res.state]

theorem safe_acqEff {d t sp} (h : Safe s) : Safe (acqEff d s t sp).state := by
  unfold acqEff
  grind only [safe_farPend, safe_acquireRead, safe_observe, safe_putResult, Res.state, OkSafe₁]

theorem safe_relEff {a b t} (h : Safe s) : Safe (relEff a b s t).state := by
  unfold relEff
  grind only [safe_aligned, safe_access, safe_outsideRegion, safe_pendStore, Res.state]

theorem safe_execRelFabricTimeout {slot q} (h : Safe s) : NextSafe (execRelFabricTimeout slot q s) := by
  unfold execRelFabricTimeout
  grind only [safe_takeTrap, safe_updSlot, NextSafe]

theorem safe_tableWrite {t off n v} (h : Safe s) : OkSafe (tableWrite s t off n v) := by
  unfold tableWrite
  grind only [safe_performOp, safe_slotWrite]

theorem safe_bindEff {a b c t} (h : Safe s) : Safe (bindEff a b c s t).state := by
  unfold bindEff
  grind only [safe_aligned, safe_tableWrite, Res.state, OkSafe]

theorem safe_invalidate {t l} (h : Safe s) : OkSafe (invalidate t s l) := by
  fun_induction invalidate t s l <;> grind only [safe_tableWrite, OkSafe]

theorem safe_unbindEff {a b t} (h : Safe s) : Safe (unbindEff a b s t).state := by
  unfold unbindEff
  grind only [safe_aligned, safe_invalidate, Res.state, OkSafe]

theorem safe_execFence {n} (h : Safe s) : NextSafe (execFence n s) := by
  unfold execFence
  grind only [safe_issueWord, Res.state]

theorem safe_xfenceEff {src t} (h : Safe s) : Safe (xfenceEff src s t).state := by
  unfold xfenceEff
  grind only [safe_setSlot, safe_observe, Res.state]

theorem safe_pageWidth {t va} (h : Safe s) : Safe (pageWidth s t va).1 := by
  unfold pageWidth
  grind only [safe_trPage]

theorem safe_drainRange {t va len} (h : Safe s) : OkSafe (drainRange s t va len) := by
  unfold drainRange
  grind only [safe_performAll, safe_updSlot, OkSafe]

theorem safe_cflushEff {a b t} (h : Safe s) : Safe (cflushEff a b s t).state := by
  unfold cflushEff
  grind only [safe_pageWidth, safe_drainRange, safe_writeBack, OkSafe, Res.state, safe_foldl]

theorem safe_cinvEff {a b t} (h : Safe s) : Safe (cinvEff a b s t).state := by
  unfold cinvEff
  grind only [safe_pageWidth, safe_dropRange, Res.state]

theorem safe_wpwaitEff {f ctx t} (h : Safe s) : Safe (wpwaitEff f ctx s t).state := by
  unfold wpwaitEff
  grind only [safe_observe, Res.state]

/-! ### Rings -/

theorem safe_readDesc {slot sp} (h : Safe s) : OkSafe₁ (readDesc s slot sp) := by
  unfold readDesc
  grind only [safe_homeRead, safe_countSubst, OkSafe₁]

theorem safe_setDescField {cluster sp off n v} (h : Safe s) : Safe (setDescField s cluster sp off n v) := by
  unfold setDescField
  grind only [safe_homeUpdate, OkSafe₁]

theorem safe_putDesc {loc off n v} (h : Safe s) : Safe (putDesc s loc off n v) := safe_setDescField h

theorem safe_setMarks {loc m} (h : Safe s) : Safe (setMarks s loc m) := h

theorem safe_ringAdvance {loc tag} (h : Safe s) : Safe (ringAdvance s loc tag) := by
  unfold ringAdvance
  grind only [safe_putDesc, safe_setMarks, safe_sendFlit, safe_enqueue, safe_foldl, Safe]

theorem safe_setHandle {slot rg h} (hs : Safe s) : Safe (setHandle s slot rg h) := by
  unfold setHandle
  grind only [safe_updSlot]

theorem safe_ringTrap {va} (h : Safe s) : Safe (ringTrap s va).state := h

theorem safe_withDesc {update rg t k} (h : Safe s) (hk : ∀ s a b c, Safe s → Safe (k s a b c).state) :
    Safe (withDesc update rg s t k).state := by
  unfold withDesc
  grind only [safe_access, safe_readDesc, safe_readFor, safe_ringTrap, Res.state, OkSafe₁]

theorem safe_ringWord {role zero graphOk update rg f t k} (h : Safe s) (hk : ∀ s a b c d, Safe s → Safe (k s a b c d).state) :
    Safe (ringWord role zero graphOk update rg f s t k).state := by
  unfold ringWord
  grind only [safe_ringTrap, safe_withDesc]

theorem safe_ringEscape {t sp} (h : Safe s) : OkSafe (ringEscape s t sp) := safe_escaping h

theorem safe_claimEff {role rg f t} (h : Safe s) : Safe (claimEff role rg f s t).state := by
  unfold claimEff
  grind only [safe_ringWord, safe_ringTrap, safe_setHandle, safe_ringEscape, safe_setDescField, safe_acquireStep,
    safe_dropRange, safe_putResult, safe_touchLost, Res.state, OkSafe]

theorem safe_markSlots {loc role l} (h : Safe s) : Safe (markSlots s loc role l) := by
  unfold markSlots
  grind only [safe_setMarks]

theorem safe_publishEff {role rg f t} (h : Safe s) : Safe (publishEff role rg f s t).state := by
  unfold publishEff
  grind only [safe_ringWord, safe_ringTrap, safe_ringEscape, safe_ringAdvance, safe_setMarks, safe_writeBackRange,
    safe_markSlots, safe_setHandle, Res.state, OkSafe]

theorem safe_ringWaitEff {role rg f t} (h : Safe s) : Safe (ringWaitEff role rg f s t).state := by
  unfold ringWaitEff
  grind only [safe_ringWord, safe_setHandle, safe_touchLost, safe_putResult, Res.state]

theorem safe_rstatEff {f rg t} (h : Safe s) : Safe (rstatEff f rg s t).state := by
  unfold rstatEff
  grind only [safe_putResult, safe_withDesc, safe_setHandle, Res.state]

theorem safe_rbindEff {rg f role t} (h : Safe s) : Safe (rbindEff rg f role s t).state := by
  unfold rbindEff
  grind only [safe_ringTrap, safe_setHandle, safe_aligned, safe_access, safe_readFor, safe_readDesc, Res.state, OkSafe₁]

/-! ### Matrix -/

theorem safe_mxShape {t kinds p rows k} (h : Safe s) (hk : ∀ s a, Safe s → Safe (k s a).state) :
    Safe (mxShape s t kinds p rows k).state := by
  unfold mxShape
  grind only [safe_shapeCheck]

theorem safe_acceptMatrix {t kinds p ext rows} (h : Safe s) : Safe (acceptMatrix s t kinds p ext rows).state := by
  unfold acceptMatrix
  grind only [safe_mxShape, safe_resolveDst, Chk.state]

theorem safe_tileRead {e origin va n} (h : Safe s) : Safe (tileRead e origin va n s).state := by
  unfold tileRead
  grind only [safe_engWindow, safe_engRead, EngR.state, safe_bind]

theorem safe_tileRows {e origin stride n m k} (h : Safe s) : Safe (tileRows e origin stride n m k s).state := by
  induction m generalizing k s with
  | zero => exact h
  | succ m ih => exact safe_bind (safe_tileRead h) fun _ _ h => safe_bind (ih h) fun _ _ h => h

theorem safe_convRow {e p g i n m} (h : Safe s) : Safe (convRow e p g i n m s).state := by
  induction n generalizing m s with
  | zero => exact h
  | succ n ih =>
    unfold convRow
    simp only []
    split
    · exact safe_bind (ih h) fun _ _ h => h
    · exact safe_bind (safe_tileRead h) fun _ _ h => safe_bind (ih h) fun _ _ h => h

theorem safe_convRows {e p g n m} (h : Safe s) : Safe (convRows e p g n m s).state := by
  induction n generalizing m s with
  | zero => exact h
  | succ n ih => exact safe_bind (safe_convRow h) fun _ _ h => safe_bind (ih h) fun _ _ h => h

theorem safe_mxOperands {e p ext} (h : Safe s) : Safe (mxOperands e p ext s).state := by
  unfold mxOperands
  grind only [safe_convRows, safe_tileRows, safe_tileRead, EngR.state, safe_bind]

theorem safe_mxAccumulate {e p ext} (h : Safe s) : Safe (mxAccumulate e p ext s).state := by
  unfold mxAccumulate
  grind only [safe_mxOperands, safe_updCmd, safe_setSlot, EngR.state, safe_bind]

theorem safe_mxRow {e p r part i} (h : Safe s) : Safe (mxRow e p r part i s).state := by
  unfold mxRow
  grind only [safe_updCmd, safe_updSlot, safe_engWriteRuns, safe_mergeCounts, safe_engWrite, safe_engWindow, safe_engSpans,
    EngR.state, safe_bind]

theorem safe_mxRows {slot uid e p r part n m} (h : Safe s) : Safe (mxRows slot uid e p r part n m s).state := by
  fun_induction mxRows slot uid e p r part n m s <;> grind only [safe_updCmd, safe_mxRow, EngR.state, MRun.state]

theorem safe_mxRun {slot c p ext r part} (h : Safe s) : Safe (mxRun slot c p ext r part s).state := by
  unfold mxRun
  grind only [safe_mxRows, safe_updCmd, safe_mxAccumulate, MRun.state, EngR.state]

/-! ### Queues -/

theorem safe_queueSpan {job desc off n} (h : Safe s) : Safe (queueSpan s job desc off n).1 := by
  unfold queueSpan
  grind only [safe_translate]

theorem safe_queueDesc {job desc} (h : Safe s) : Safe (queueDesc s job desc).1 := by
  unfold queueDesc
  grind only [safe_queueSpan, safe_countUnit]

theorem safe_queueRelease {job desc off v range} (h : Safe s) : Safe (queueRelease s job desc off v range) := by
  unfold queueRelease
  grind only [safe_queueSpan, safe_devRelease]

theorem safe_queueSet {job desc off n v} (h : Safe s) : Safe (queueSet s job desc off n v) := by
  unfold queueSet
  grind only [safe_queueSpan, safe_devUpdate]

theorem safe_queueDone {job desc v} (h : Safe s) : Safe (queueDone s job desc v) := by
  unfold queueDone
  grind only [safe_queueDesc, safe_unitWrite, safe_queueRelease]

/-! ### EngineRun -/

theorem safe_finishGmma {gid} (h : Safe s) : Safe (finishGmma s gid).state := by
  unfold finishGmma
  grind only [safe_updSlot, safe_checkEnd, safe_engRecord, safe_slotError, EngR.state, EStep.state, Safe]

theorem safe_endPart {slot c g} (h : Safe s) : Safe (endPart s slot c g).state := by
  unfold endPart
  grind only [safe_arriveLocal, safe_updSlot, safe_finishGmma, safe_checkEnd, safe_kickPlace, safe_kick, safe_dropCmd, Safe]

theorem safe_freeSpan {e sp} (h : Safe s) : Safe (freeSpan e s sp) := by
  unfold freeSpan
  grind only [safe_draw, safe_engWrite, EngR.state]

theorem safe_churn {slot eng c} (h : Safe s) : Safe (churn slot eng c s) := safe_foldl (fun _ _ => safe_freeSpan) h

theorem safe_checkAssertion {slot eng uid} (h : Safe s) : Safe (checkAssertion s slot eng uid) := by
  unfold checkAssertion
  grind only [safe_freeSpan, safe_updCmd, safe_foldl]

theorem safe_finishStep {slot eng c} (h : Safe s) : Safe (finishStep s slot eng c).state := by
  unfold finishStep
  grind only [safe_endPart, safe_retireCmd, safe_queueDone, safe_engRecord, safe_slotError, EStep.state, EngR.state]

theorem safe_cmdError {slot eng c b} (h : Safe s) : Safe (cmdError s slot eng c b).state := by
  unfold cmdError
  grind only [safe_postUncorrectable, safe_endCmd, safe_slotError, EStep.state]

theorem safe_matrixStep {slot c} (h : Safe s) : Safe (matrixStep s slot c).state := by
  unfold matrixStep
  grind only [safe_mxRun, safe_endCmd, safe_finishStep, safe_cmdError, safe_dropCmd, safe_updSlot, safe_checkEnd,
    safe_kickPlace, safe_kick, MRun.state, EStep.state]

theorem safe_advancePointer {slot eng c n} (h : Safe s) : Safe (advancePointer s slot eng c n) := by
  unfold advancePointer
  grind only [safe_updSlot]

theorem safe_portionStep {slot eng c} (h : Safe s) : Safe (portionStep s slot eng c).state := by
  unfold portionStep
  grind only [safe_enqueue, safe_updCmd, safe_copyPortion, safe_gatherPortion, safe_advancePointer, safe_endCmd,
    safe_cmdError, safe_stall, EngR.state, EStep.state, Safe]

theorem safe_raise {slot eng r} (hr : Safe r.state) : Safe (raise slot eng r) := by
  unfold raise
  grind only [safe_enqueue, EStep.state]

theorem safe_byTurn {slot eng c f} (h : Safe s) (hf : ∀ s, Safe s → Safe (f s)) : Safe (byTurn s slot eng c f) := by
  unfold byTurn
  grind only [safe_churn, safe_serve, safe_enqueue, safe_foldl]

theorem safe_workStep {slot eng uid} (h : Safe s) : Safe (workStep s slot eng uid) := by
  unfold workStep
  grind only [safe_hold, safe_byTurn, safe_raise, safe_matrixStep, safe_portionStep]

theorem safe_recordStep {slot eng r} (h : Safe s) (hr : recordStep s slot eng = some r) : Safe r.state := by
  unfold recordStep at hr
  grind only [safe_finishStep, safe_churn, safe_finishGmma, EStep.state, = Option.map_eq_some_iff]

theorem safe_completeStep {slot eng} (h : Safe s) : Safe (completeStep s slot eng) := by
  unfold completeStep
  grind only [safe_recordStep, safe_raise, safe_byTurn, safe_matrixStep]

theorem safe_execCopyPacketComplete {slot ctx} (h : Safe s) : NextSafe (execCopyPacketComplete slot ctx s) := by
  unfold execCopyPacketComplete
  grind only [safe_completeStep, NextSafe]

theorem safe_execGatherComplete {slot} (h : Safe s) : NextSafe (execGatherComplete slot s) := safe_completeStep h

theorem safe_execMatrixCommandComplete {slot} (h : Safe s) : NextSafe (execMatrixCommandComplete slot s) :=
  safe_completeStep h

theorem safe_faultNow {slot eng} (h : Safe s) : SomeSafe₁ (faultNow s slot eng) := by
  unfold faultNow
  split
  · trivial
  cases e : List.findSome? _ _ with
  | none => trivial
  | some p =>
    obtain ⟨r, hr, hp⟩ := List.exists_of_findSome?_eq_some e
    simp only [List.mem_append, Option.mem_toList, List.mem_map] at hr
    have hs : Safe r.state := by
      obtain hr | ⟨c, -, rfl⟩ := hr
      · exact safe_recordStep h hr
      · grind only [safe_matrixStep, safe_portionStep]
    grind only [SomeSafe₁, EStep.state]

theorem safe_pauseEngine {slot eng} (h : Safe s) : Safe (pauseEngine s slot eng) := by
  unfold pauseEngine
  grind only [safe_faultNow, safe_updCmd, safe_postEngineFault, safe_kick, SomeSafe₁, Safe]

theorem safe_redAdd {e p} (h : Safe s) : Safe (redAdd e p s).state := by
  unfold redAdd
  grind only [safe_engReadAt, safe_engSpans, safe_engRead, safe_engWrite, EngR.state, safe_bind]

theorem safe_setPass {q} (h : Safe s) : Safe (setPass s q) := by
  unfold setPass
  grind only [Safe]

theorem safe_endPass {q} (h : Safe s) : Safe (endPass s q) := by
  unfold endPass
  grind only [safe_enqueue, safe_foldl, Safe]

theorem safe_runPass {n r} (h : Safe s) : Safe (runPass n s r) := by
  fun_induction runPass n s r <;>
    grind only [safe_endCmd, safe_endPass, safe_updCmd, safe_redAdd, safe_churn, safe_advancePointer, safe_postUncorrectable,
      safe_postEngineFault, safe_setPass, safe_cmdError, EngR.state, EStep.state]

theorem safe_contribute {p} (h : Safe s) : Safe (contribute s p) := by
  unfold contribute
  split
  · exact h
  · next eng c _ =>
    extract_lets e pause join
    have hpause : ∀ s k va wr, Safe s → Safe (pause s k va wr) := fun _ _ _ _ h => safe_postEngineFault (safe_updCmd h)
    have hjoin : ∀ s q, Safe s → Safe (join s q) := by
      grind only [safe_setPass, safe_endCmd, safe_runPass]
    have h₁ : Safe (engSpans e false false p.table 512 s).state := safe_engSpans h
    clear_value e pause join
    split
    case h_1 s sps e₁ =>
      have h₂ : Safe (engSpans e true false p.dst 1 s).state := safe_engSpans (EngR.safe_of_ok h₁ e₁)
      split
      case h_1 s dps e₂ =>
        have h := EngR.safe_of_ok h₂ e₂
        have hl : OkSafe₁ (loadSpans 6 p.slot .home s sps) := safe_loadSpans h
        simp only []
        split
        · exact hjoin _ _ h
        · split
          · have hc : ∀ b, Safe (cmdError s p.slot eng c b).state := fun _ => safe_cmdError h
            grind only [EStep.state]
          · next e => have h := hl.of_eq e; grind only [safe_endCmd, Safe]
      all_goals grind only [safe_updCmd, EngR.state]
    all_goals grind only [safe_updCmd, EngR.state]

theorem safe_execFpReduceContribution {p} (h : Safe s) : NextSafe (execFpReduceContribution p s) := safe_contribute h

theorem safe_execFpReduceTimeout {table} (h : Safe s) : NextSafe (execFpReduceTimeout table s) := by
  unfold execFpReduceTimeout
  grind only [safe_endCmd, safe_endPass, NextSafe, safe_foldl]

/-! ### Stream -/

theorem safe_setSub {b} (h : Safe s) : Safe (setSub s b) := by
  unfold setSub
  grind only [Safe]

theorem safe_addSub {slot job by_ addr p origin home} (h : Safe s) : Safe (addSub s slot job by_ addr p origin home) := by
  unfold addSub
  grind only [safe_translate, safe_takeUid, safe_enqueue, Safe]

theorem safe_tileCopy {e p t slotVa n m} (h : Safe s) : Safe (tileCopy e p t slotVa n m s).state := by
  induction n generalizing m s with
  | zero => exact h
  | succ n ih => exact safe_bind (safe_movePieces h) fun _ _ h => safe_bind (safe_engWrite h) fun _ _ => ih

theorem safe_endSub {b status fcode} (h : Safe s) : Safe (endSub s b status fcode) := h

theorem safe_subError {b e} (h : Safe s) : Safe (subError s b e) := by
  unfold subError
  grind only [safe_endSub, safe_postUncorrectable, safe_slotError]

theorem safe_tileStep {b loc i} (h : Safe s) : Safe (tileStep s b loc i).state := by
  unfold tileStep
  grind only [safe_tileCopy, safe_ringAdvance, safe_markSlots, safe_setSub, safe_endSub, safe_enqueue, safe_subError,
    EngR.state, SStep.state]

theorem safe_subStep {b} (h : Safe s) : Safe (subStep s b).state := by
  unfold subStep
  grind only [safe_engSpans, safe_setSub, safe_tileStep, safe_endSub, safe_putDesc, safe_dropRange, safe_subError, EngR.state,
    SStep.state]

theorem safe_subFinish {b} (h : Safe s) : Safe (subFinish s b).state := by
  unfold subFinish
  grind only [safe_checkEnd, safe_queueDone, safe_enqueue, safe_engRecord, safe_slotError, EngR.state, SStep.state,
    safe_foldl, Safe]

theorem safe_raiseSub {uid r} (hr : Safe r.state) : Safe (raiseSub uid r) := by
  unfold raiseSub
  grind only [safe_enqueue, SStep.state]

theorem safe_execStreamTile {sub} (h : Safe s) : NextSafe (execStreamTile sub s) := by
  unfold execStreamTile
  grind only [safe_raiseSub, safe_subStep, NextSafe]

theorem safe_execStreamComplete {sub} (h : Safe s) : NextSafe (execStreamComplete sub s) := by
  unfold execStreamComplete
  grind only [safe_raiseSub, safe_subFinish, NextSafe]

theorem safe_pauseSub {uid} (h : Safe s) : Safe (pauseSub s uid) := by
  unfold pauseSub
  grind only [safe_subFinish, safe_subStep, safe_postEngineFault, safe_setSub, SStep.state]

/-! ### EngineWords -/

theorem safe_setDirty {slot} (h : Safe s) : Safe (setDirty s slot) := by
  unfold setDirty
  grind only [safe_updSlot]

theorem safe_queuePacket {t eng p ext after r} (h : Safe s) (hr : Safe r.state) :
    Safe (queuePacket s t eng p ext after r).state := by
  unfold queuePacket
  grind only [safe_addCmd, safe_checkAssertion, safe_setDirty, Res.state, Chk.state, Safe]

theorem safe_execCopy {n f ctx} (h : Safe s) : NextSafe (execCopy n f ctx s) := by
  unfold execCopy
  grind only [safe_issueWord, safe_readPacket, safe_queuePacket, safe_acceptCopy]

theorem safe_execGath {n f} (h : Safe s) : NextSafe (execGath n f s) := by
  unfold execGath
  grind only [safe_issueWord, safe_readPacket, safe_queuePacket, safe_acceptGather]

theorem safe_matrixEff {kind f t} (h : Safe s) : Safe (matrixEff kind f s t).state := by
  unfold matrixEff
  grind only [safe_readPacket, safe_queuePacket, safe_acceptMatrix]

theorem safe_acceptParts {t p rows every l} (h : Safe s) : ChkSafe₁ (acceptParts t p rows every l s) := by
  induction l generalizing s with
  | nil => exact h
  | cons m l ih =>
    unfold acceptParts
    have hm : Safe (acceptMatrix s ⟨m.1, t.seq⟩ [6] p 0 rows).state := safe_acceptMatrix h
    grind only [ChkSafe₁, Chk.state]

theorem safe_gmmaEff {f t} (h : Safe s) : Safe (gmmaEff f s t).state := by
  unfold gmmaEff
  split
  · exact h
  · extract_lets m ms
    refine safe_readPacket h fun s _ p h => ?_
    split
    · exact safe_queuePacket h (safe_acceptMatrix h)
    · extract_lets l
      have hp : ChkSafe₁ (acceptParts t p (if l then mxM p else ms.length * mxM p) l ms s) := safe_acceptParts h
      clear_value l ms
      split
      · next e => rw [e] at hp; exact safe_queuePacket h hp
      · next s₁ parts e =>
        rw [e] at hp
        refine safe_foldl ?_ (safe_takeUid hp)
        grind only [safe_addCmd, safe_checkAssertion, safe_setDirty]

theorem safe_bankEff {b t} (h : Safe s) : Safe (bankEff b s t).state := by
  unfold bankEff
  grind only [safe_setDirty, safe_addCmd, Res.state]

theorem safe_mstatrEff {f bank t} (h : Safe s) : Safe (mstatrEff f bank s t).state := by
  unfold mstatrEff
  grind only [safe_observe, safe_putResult, Res.state]

theorem safe_queueFollow {t eng q after} (h : Safe s) : Safe (queueFollow s t eng q after).state := by
  unfold queueFollow
  grind only [safe_acceptGather, safe_acceptMatrix, safe_acceptCopy, safe_addCmd, safe_kick, safe_updCmd, safe_queuePacket,
    Chk.state, Res.state]

theorem safe_copymEff {f ctx t} (h : Safe s) : Safe (copymEff f ctx s t).state := by
  unfold copymEff
  grind only [safe_readPacket, safe_addCmd, safe_acceptCopy, safe_queueFollow, safe_checkAssertion, safe_dropCmd, Res.state,
    Chk.state]

theorem safe_strsubEff {f t} (h : Safe s) : Safe (strsubEff f s t).state := by
  unfold strsubEff
  grind only [safe_readPacket, safe_addSub, Res.state]

theorem safe_strdropEff {f t} (h : Safe s) : Safe (strdropEff f s t).state := by
  unfold strdropEff
  grind only [safe_enqueue, safe_setSub, Res.state]

/-! ### Levels -/

theorem safe_ownRange {cluster job va n} (h : Safe s) : Safe (ownRange s cluster job va n) :=
  safe_foldl (fun _ _ => safe_purge) h

theorem safe_ownFor {cluster job va n} (h : Safe s) : Safe (ownFor s cluster job va n) := by
  unfold ownFor
  grind only [safe_ownRange]

theorem safe_releaseAll {slot va} (h : Safe s) : Safe (releaseAll s slot va) := safe_writeBackRange h

theorem safe_freeBars {job hdr} (h : Safe s) : Safe (freeBars s job hdr) := h

theorem safe_dropLevel {l} (h : Safe s) : Safe (dropLevel s l) := by
  unfold dropLevel
  grind only [safe_freeBars, safe_setJob, Safe]

theorem safe_levelWord {job hdr off n f} (h : Safe s) : Safe (levelWord s job hdr off n f).1 := safe_unitUpdate h

theorem safe_jobDec {job} (h : Safe s) : Safe (jobDec s job) := by
  unfold jobDec
  grind only [safe_setJob, safe_translate, safe_devRelease]

theorem safe_completeLevel {l} (h : Safe s) : Safe (completeLevel s l).1 := by
  unfold completeLevel
  grind only [safe_unitRead, safe_dropLevel, safe_levelWord, safe_regulate, safe_translate, safe_devReleased]

theorem safe_levelDecFrom {n m va r} (h : Safe s) : Safe (levelDecFrom n s m va r) := by
  induction n generalizing s va r with
  | zero => exact h
  | succ n ih => 
    unfold levelDecFrom
    grind only [safe_jobDec, safe_levelWord, safe_completeLevel, safe_dropLevel]

theorem safe_levelDec {job hdr failed} (h : Safe s) : Safe (levelDec s job hdr failed) := safe_levelDecFrom h

theorem safe_levelAdd {job hdr n} (h : Safe s) : Safe (levelAdd s job hdr n) := by
  unfold levelAdd
  grind only [safe_setJob, safe_levelWord, safe_levelDec, safe_dropLevel]

theorem safe_levelDies {job hdr bit} (h : Safe s) : Safe (levelDies s job hdr bit) := by
  unfold levelDies
  grind only [safe_levelWord, safe_levelDec, safe_dropLevel]

theorem safe_putHeader {job hdr count} (h : Safe s) : Safe (putHeader s job hdr count).1 := by
  unfold putHeader
  grind only [safe_levelWord]

theorem safe_parentOf {cluster job p kinds} (h : Safe s) : Safe (parentOf s cluster job p kinds).1 := by
  unfold parentOf
  grind only [safe_ownFor, safe_unitRead]

theorem safe_taskAt {cluster job va} (h : Safe s) : Safe (taskAt s cluster job va).1 := by
  unfold taskAt
  grind only [safe_ownFor, safe_unitRead]

theorem safe_setWork {k l} (h : Safe s) : Safe (setWork s k l) := h

theorem safe_pushWork {k item} (h : Safe s) : Safe (pushWork s k item) := h

theorem safe_pushTask {job own cluster va} (h : Safe s) : Safe (pushTask s job own cluster va).state := by
  unfold pushTask
  grind only [safe_taskAt, safe_parentOf, safe_levelAdd, safe_pushWork, safe_levelDies, Push.state]

theorem safe_slotPush {slot va} (h : Safe s) : Safe (slotPush s slot va).state := safe_pushTask (safe_releaseAll h)

def NodeSafe : State × Option (Except Bad (State × Word × Word)) → Prop
  | (s, some (.ok (s', _))) => Safe s ∧ Safe s'
  | (s, _) => Safe s

theorem safe_nodeAt {slot node} (h : Safe s) : NodeSafe (nodeAt s slot node) := by
  unfold nodeAt
  have ht : Safe (translate s (slotCtx s slot .K) node 16 { r := true }).1 := safe_translate h
  split
  · next s sp l e =>
    have h := safe_fst ht e
    split
    · exact h
    · split
      · exact h
      · next e => exact ⟨h, safe_countSubst ((safe_homeRead h).of_eq e)⟩
  · next s _ _ e => exact safe_fst ht e

theorem safe_fillStep {slot} (h : Safe s) : Safe (fillStep s slot) := by
  unfold fillStep
  split
  · exact h
  split
  · exact safe_checkEnd (safe_updSlot h)
  have hn : ∀ n, NodeSafe (nodeAt s slot n) := fun _ => safe_nodeAt h
  have hp : ∀ s va, Safe s → Safe (slotPush s slot va).state := fun _ _ => safe_slotPush
  grind only [safe_hold, safe_unwind, safe_machineCheck, safe_updSlot, safe_enqueue, Push.state, NodeSafe]

/-! ### TaskStart -/

theorem safe_startTask {slot st} (h : Safe s) : Safe (startTask s slot st) := by
  unfold startTask
  refine safe_dropRange (safe_disownWrs (safe_dropFetched ?_))
  exact wf_foldl (fun m g h => wf_setGranSyn m _ _ h) (wf_writeNat _ _ _ _ (safe_setSlot (safe_setJob h)))

theorem safe_startRecord {slot job prio record parent r index dealt idem} (h : Safe s) :
    Safe (startRecord s slot job prio record parent r index dealt idem) := by
  unfold startRecord
  grind only [safe_startTask]

theorem safe_allocBars {die n p owner lgid loc_} (h : Safe s) : Safe (allocBars s die n p owner lgid loc_).1 :=
  safe_foldl (fun _ _ => safe_setBar) h

theorem safe_startGang {g slots others} (h : Safe s) : Safe (startGang s g slots others) := by
  unfold startGang
  grind only [safe_unitRead, safe_allocBars, safe_startTask, safe_updSlot, safe_foldl, Safe]

/-! ### Graph -/

theorem safe_loadStages {cluster job r l} (h : Safe s) : Safe (loadStages s cluster job r l).1 := by
  fun_induction loadStages s cluster job r l <;> grind only [safe_taskAt]

theorem safe_ringAt {cluster job va} (h : Safe s) : Safe (ringAt s cluster job va).1 := by
  unfold ringAt
  grind only [safe_ownFor, safe_translate]

theorem safe_ringFits {job die sp d need} (h : Safe s) : Safe (ringFits s job die sp d need).1 := by
  unfold ringFits
  grind only [safe_translate]

theorem safe_loadRings {cluster job r l} (h : Safe s) : Safe (loadRings s cluster job r l).1 := by
  fun_induction loadRings s cluster job r l <;> grind only [safe_ringAt]

theorem safe_endFits {job die va e need} (h : Safe s) : Safe (endFits s job die va e need).1 := by
  unfold endFits
  grind only [safe_ringFits]

theorem safe_ringFault {job die r rings l} (h : Safe s) : Safe (ringFault s job die r rings l).1 := by
  fun_induction ringFault s job die r rings l <;> grind only [safe_endFits]

theorem safe_checkGraph {cluster issuer job va r} (h : Safe s) : Safe (checkGraph s cluster issuer job va r).1 := by
  unfold checkGraph
  grind only [safe_loadStages, safe_loadRings, safe_ringFault]

theorem safe_loadGraph {r g} (h : Safe s) : Safe (loadGraph s r g) := by
  unfold loadGraph
  grind only [safe_allocBars, safe_putDesc, safe_enqueue, safe_foldl, Safe]

theorem safe_setGraph {g} (h : Safe s) : Safe (setGraph s g) := by
  unfold setGraph
  grind only [Safe]

theorem safe_updStage {job hdr i f} (h : Safe s) : Safe (updStage s job hdr i f) := by
  unfold updStage
  grind only [safe_setGraph]

theorem safe_writeStatus {g i st} (h : Safe s) : Safe (writeStatus s g i st) := safe_unitWrite h

theorem safe_releaseCores {job hdr} (h : Safe s) : Safe (releaseCores s job hdr) := by
  unfold releaseCores
  grind only [safe_setGraph]

theorem safe_closeRing {loc tag} (h : Safe s) : Safe (closeRing s loc tag) :=
  safe_enqueue (safe_ringAdvance (safe_putDesc h))

theorem safe_finishStage {g i st state} (h : Safe s) : Safe (finishStage s g i st state) := by
  unfold finishStage
  grind only [safe_putDesc, safe_ringAdvance, safe_markSlots, safe_closeRing, safe_writeStatus, safe_releaseCores,
    safe_updStage, safe_enqueue, safe_levelDec]

theorem safe_finishStages {n m va} (h : Safe s) : Safe (finishStages n s m va) := by
  fun_induction finishStages n s m va <;> grind only [safe_finishStage]

theorem safe_grantInstance {slot} (h : Safe s) : Safe (grantInstance s slot) := by
  unfold grantInstance
  grind only [safe_putDesc, safe_levelAdd, safe_updStage, safe_startTask, safe_dropRange, safe_updSlot]

theorem safe_execInstanceGrant {slot} (h : Safe s) : NextSafe (execInstanceGrant slot s) := safe_grantInstance h

theorem safe_handleSpan {slot h} (hs : Safe s) : Safe (handleSpan s slot h).1 := by
  unfold handleSpan
  grind only [safe_translate]

theorem safe_closeHandle {slot job sp h role} (hs : Safe s) : Safe (closeHandle s slot job sp h role) := by
  unfold closeHandle
  grind only [safe_writeBackRange, safe_ringAdvance, safe_markSlots]

theorem safe_countAuto {slot n} (h : Safe s) : Safe (countAuto s slot n) := by
  unfold countAuto
  grind only [safe_updStage]

theorem safe_closeHandles {slot job l} (h : Safe s) : Safe (closeHandles slot job l s).state := by
  fun_induction closeHandles slot job l s <;>
    grind only [safe_countAuto, safe_closeHandle, safe_handleSpan, safe_setHandle, Closed.state]

theorem safe_instanceEnd {x core lost} (h : Safe s) : Safe (instanceEnd s x core lost) := by
  unfold instanceEnd
  grind only [safe_updStage, safe_setGraph, safe_finishStages, safe_releaseCores]

theorem safe_execEscapementSample {graph} (h : Safe s) : NextSafe (execEscapementSample graph s) := by
  unfold execEscapementSample
  grind only [safe_setGraph, NextSafe]

theorem safe_execBalanceDecision {graph} (h : Safe s) : NextSafe (execBalanceDecision graph s) := by
  unfold execBalanceDecision
  grind only [safe_setGraph, safe_writeStatus, safe_enqueue, NextSafe, safe_foldl]

/-! ### Contain -/

theorem safe_writeEntryArea {slot after} (h : Safe s) : Safe (writeEntryArea s slot after) := wf_blit _ _ _ h

theorem safe_cropenEff {n off t} (h : Safe s) : Safe (cropenEff n off s t).state := by
  unfold cropenEff
  grind only [safe_setSlot, safe_writeEntryArea, safe_clearJournal, safe_updSlot, Res.state, Safe]

theorem safe_crcloseEff {t} (h : Safe s) : Safe (crcloseEff s t).state := by
  unfold crcloseEff
  grind only [safe_takeUid, safe_updSlot, safe_enqueue, Res.state]

theorem safe_execCrclose {n} (h : Safe s) : NextSafe (execCrclose n s) :=
  safe_issueWord (fun _ _ h => safe_crcloseEff h) h

theorem safe_drainWrites {slot l r} (h : Safe s) : Safe (drainWrites slot s l r).1 := by
  fun_induction drainWrites slot s l r <;> grind only [safe_performOp, OkSafe]

theorem safe_resumeStores {slot} (h : Safe s) : Safe (resumeStores s slot) := by
  unfold resumeStores
  grind only [safe_enqueue, safe_kickSlot, safe_foldl]

theorem safe_drainAll {slot r} (h : Safe s) : Safe (drainAll s slot r) := by
  unfold drainAll
  grind only [safe_drainWrites, safe_clearJournal, safe_updSlot, safe_checkEnd, safe_resumeStores, safe_machineCheck]

theorem safe_drainStep {slot} (h : Safe s) : Safe (drainStep s slot) := by
  unfold drainStep
  grind only [safe_needFar, safe_hold, safe_drainAll, safe_enqueue, safe_updSlot, SomeSafe]

theorem safe_execRegionDrainComplete {slot} (h : Safe s) : NextSafe (execRegionDrainComplete slot s) :=
  safe_drainStep h

/-! ### Snapshot -/

theorem safe_takeCmds {t img eng off size depth prog region} (h : Safe s) :
    Safe (takeCmds s t img eng off size depth prog region).1 :=
  safe_foldl₁ (by grind only [safe_takeUid]) h

theorem safe_takeRegion {t img x kept} (h : Safe s) : Safe (takeRegion s t img x kept).1 := by
  unfold takeRegion
  split
  · exact h
  · simp only []
    refine safe_foldl₁ (fun a i h => ?_) h
    grind only [safe_translate]

theorem safe_loadImage {slot img kept} (h : Safe s) : Safe (loadImage s slot img kept) := by
  unfold loadImage
  grind only [safe_draw, safe_disownWrs, safe_dropFetched, safe_setSlot, safe_takeCmds, safe_updSlot, safe_takeRegion]

theorem safe_recallRegion {region} (h : Safe s) : Safe (recallRegion s region) := safe_foldl (fun _ _ => safe_purge) h

theorem safe_putArea {pa n m} (h : Safe s) : Safe (putArea s pa n m) := by
  unfold putArea
  split
  · exact h
  · refine safe_foldl (fun s e h => ?_) h
    exact wf_blit _ _ _ (safe_recallRegion h)

theorem safe_takeArea {pa n} (h : Safe s) : SomeSafe₁ (takeArea s pa n) := by
  unfold takeArea
  cases areaRegions s pa n with
  | none => trivial
  | some l => exact safe_foldl₁ (fun _ _ => safe_recallRegion) h

/-! ### Stop -/

theorem safe_completeWords {n m} (h : Safe s) : Safe (completeWords n s m) := by
  fun_induction completeWords n s m <;>
    grind only [safe_foldl, safe_drainStep, safe_performStore, safe_fillStep, safe_deliverLoad]

theorem safe_stopWords {slot} (h : Safe s) : Safe (stopWords s slot) := safe_completeWords h

theorem safe_endTask {slot aborted failed} (h : Safe s) : Safe (endTask s slot aborted failed) := by
  unfold endTask
  grind only [safe_writeBackRange, safe_setJob, safe_setSlot, safe_instanceEnd, safe_enqueue, safe_levelDec]

theorem safe_pauseRings {slot k va} (h : Safe s) : Safe (pauseRings s slot k va) := safe_postEngineFault h

theorem safe_finishTask {slot} (h : Safe s) : Safe (finishTask s slot) := by
  unfold finishTask
  grind only [safe_hold, safe_closeHandles, safe_endTask, safe_enqueue, Closed.state]

theorem safe_execTaskEnd {slot} (h : Safe s) : NextSafe (execTaskEnd slot s) := by
  unfold execTaskEnd
  grind only [safe_finishTask, NextSafe]

theorem safe_pauseClosing {slot} (h : Safe s) : Safe (pauseClosing s slot) := by
  unfold pauseClosing
  grind only [safe_closeHandles, safe_pauseRings, Closed.state]

theorem safe_abortRecord {slot eng c} (h : Safe s) : Safe (abortRecord s slot eng c) := by
  unfold abortRecord
  grind only [safe_engRecord, EngR.state]

theorem safe_abortEngines {slot} (h : Safe s) : Safe (abortEngines s slot) := by
  unfold abortEngines
  grind only [safe_abortRecord, safe_abortParts, safe_engRecord, safe_updSlot, safe_kickPlace, EngR.state, safe_foldl, Safe]

theorem safe_levelSub {job hdr n failed} (h : Safe s) : Safe (levelSub s job hdr n failed) := by
  unfold levelSub
  grind only [safe_levelDec, safe_setJob, safe_levelWord]

theorem safe_cancelSlot {slot} (h : Safe s) : Safe (cancelSlot s slot) := by
  unfold cancelSlot
  grind only [safe_stopWords, safe_hold, safe_updSlot, safe_endTask, safe_abortEngines]

theorem safe_dropSaved {job t} (h : Safe s) : Safe (dropSaved s job t) := safe_instanceEnd h

theorem safe_dropQueued {job set} (h : Safe s) : Safe (dropQueued s job set) := by
  unfold dropQueued
  grind only [safe_setWork, safe_dropSaved, safe_levelSub, safe_foldl, Safe]

theorem safe_cancelSet {job set} (h : Safe s) : Safe (cancelSet s job set) := by
  unfold cancelSet
  grind only [safe_freeBars, safe_dropQueued, safe_cancelSlot, safe_finishStages, safe_enqueue, safe_foldl]

theorem safe_cancelLevel {job hdr} (h : Safe s) : Safe (cancelLevel s job hdr) := by
  unfold cancelLevel
  grind only [safe_levelWord, safe_cancelSet, safe_foldl]

theorem safe_runPulled {n m} (h : Safe s) : Safe (runPulled n s m) := by
  fun_induction runPulled n s m <;> grind only [safe_foldl, safe_workStep]

theorem safe_kickCore {slot} (h : Safe s) : Safe (kickCore s slot) := safe_foldl (fun _ _ => safe_kickPlace) h

theorem safe_keepSaved {slot x area cause} (h : Safe s) : Safe (keepSaved s slot x area cause).1 := h

theorem safe_saveSlot {slot cause} (h : Safe s) : Safe (saveSlot s slot cause).1 := by
  unfold saveSlot
  grind only [safe_writeBackRange, safe_putArea, safe_keepSaved, safe_kickCore, safe_setSlot, Safe]

theorem safe_rejoinSlot {slot k} (h : Safe s) : Safe (rejoinSlot s slot k) := safe_foldl (fun _ _ => safe_enqueue) h

theorem safe_loseSaved {t} (h : Safe s) : Safe (loseSaved s t) := by
  unfold loseSaved
  grind only [safe_postUncorrectable, safe_enqueue, safe_levelDec, safe_dropSaved]

theorem safe_restoreSlot {slot t} (h : Safe s) : Safe (restoreSlot s slot t) := by
  unfold restoreSlot
  extract_lets parts
  have hp : SomeSafe₁ parts := by
    dsimp only [parts]
    split
    · exact h
    · next pa _ =>
      have h₁ := safe_takeArea (pa := pa) (n := 0x40000) h
      cases e : takeArea s pa 0x40000 with
      | none => trivial
      | some p =>
        have h₂ := safe_takeArea (pa := pa + 0x40000) (n := allocSize t.slot) (h₁.of_eq e)
        show SomeSafe₁ (Option.map _ (takeArea p.1 _ _))
        cases e₂ : takeArea p.1 (pa + 0x40000) (allocSize t.slot) with
        | none => trivial
        | some q => exact h₂.of_eq e₂
  clear_value parts
  split
  · exact safe_loseSaved h
  · next s img alloc =>
    have h : Safe s := hp
    split
    · exact safe_loseSaved h
    · exact safe_checkEnd (safe_resumeStores (safe_wakeSlot (safe_rejoinSlot (safe_dropRange (wf_blit _ _ _ (safe_loadImage h))))))

theorem safe_moveBars {t die} (h : Safe s) : Safe (moveBars s t die).1 := by
  unfold moveBars
  simp only []
  split
  · exact h
  · exact safe_foldl₁ (by grind only [safe_setBar]) h

theorem safe_savedGang {k g saved} (h : Safe s) : Safe (savedGang s k g saved) := by
  unfold savedGang
  grind only [safe_takeUid, Safe]

theorem safe_preempt {slot cause} (h : Safe s) : Safe (preempt s slot cause) := by
  unfold preempt
  extract_lets taskid l s₁
  have h₁ : Safe s₁ := safe_foldl (fun _ _ h => safe_runPulled (safe_stopWords h)) h
  split
  · exact h₁
  split
  · exact safe_hold h₁
  · have h₂ : Safe (l.foldl (fun (a : State × List Saved) k =>
        ((saveSlot a.1 k cause).1, a.2 ++ [(saveSlot a.1 k cause).2])) (s₁, [])).1 := by
      refine safe_foldl₁ (fun a k h => ?_) h₁
      dsimp only
      exact safe_saveSlot h
    simp only []
    generalize l.foldl _ (s₁, []) = p at h₂ ⊢
    grind only [safe_enqueue, safe_savedGang, safe_setWork]

theorem safe_preemptTask {slot taskid cause} (h : Safe s) : Safe (preemptTask s slot taskid cause) := by
  unfold preemptTask
  grind only [safe_preempt]

theorem safe_disposeTask {slot replay} (h : Safe s) : Safe (disposeTask s slot replay) := by
  unfold disposeTask
  grind only [safe_abortEngines, safe_updSlot, safe_stopWords, safe_pushWork, safe_levelAdd, safe_endTask]

/-! ### Sched -/

theorem safe_setLgang {g} (h : Safe s) : Safe (setLgang s g) := by
  unfold setLgang
  grind only [Safe]

theorem safe_toMembers {g kind} (h : Safe s) : Safe (toMembers s g kind) := safe_foldl (fun _ _ => safe_sendFlit) h

theorem safe_setGang {g} (h : Safe s) : Safe (setGang s g) := by
  unfold setGang
  grind only [Safe]

theorem safe_restoreGang {g slots} (h : Safe s) : Safe (restoreGang s g slots) := by
  unfold restoreGang
  grind only [safe_moveBars, safe_restoreSlot, safe_foldl, Safe]

theorem safe_gangHolds {g slots} (h : Safe s) : Safe (gangHolds s g slots) := by
  unfold gangHolds
  grind only [safe_restoreGang, safe_startGang, safe_setLgang, safe_toMembers, safe_sendFlit]

theorem safe_gangTurn {g} (h : Safe s) : Safe (gangTurn s g) := by
  unfold gangTurn
  grind only [safe_gangHolds, safe_setGang]

theorem safe_reservationStep (h : Safe s) : SomeSafe (reservationStep s) := by
  refine findSome?_ind trivial (fun g => ?_) _
  extract_lets waits
  split
  · trivial
  · exact someSafe_map (fun _ => safe_gangHolds h) _

theorem safe_gangYield {g} (h : Safe s) : Safe (gangYield s g) := by
  unfold gangYield
  grind only [safe_takeUid, safe_enqueue, Safe]

theorem safe_execGangReservationTimeout {gang} (h : Safe s) : NextSafe (execGangReservationTimeout gang s) := by
  unfold execGangReservationTimeout
  grind only [safe_gangYield, safe_enqueue, safe_sendFlit, NextSafe, Safe]

theorem safe_dealChunk {d c} (h : Safe s) : Safe (dealChunk s d c) := by
  unfold dealChunk
  grind only [safe_pushWork, safe_levelDies, Safe]

theorem safe_dealStep (h : Safe s) : SomeSafe (dealStep s) :=
  findSome?_ind trivial (fun d => by
    split
    · trivial
    · exact someSafe_map (fun _ => safe_dealChunk h) _) _

theorem safe_choose {slot} (h : Safe s) : SomeSafe₁ (choose s slot) := by
  unfold choose
  extract_lets floor c
  refine findSome?_ind trivial (fun p => ?_) _
  split
  · trivial
  split
  · trivial
  · next j left _ =>
    cases jobCand s slot j p with
    | none => trivial
    | some c => exact h

theorem safe_takeHead {slot key} (h : Safe s) : Safe (takeHead s slot key) := by
  unfold takeHead
  simp only []
  split
  · exact h
  split
  · split
    · exact safe_startRecord (safe_setWork h)
    · exact h
  · split
    · split
      · exact safe_startRecord (safe_setWork h)
      · exact h
    · exact h
  · exact safe_restoreSlot (safe_setWork h)

theorem safe_placeSlot {slot} (h : Safe s) : SomeSafe (placeSlot s slot) := by
  unfold placeSlot
  have hc : SomeSafe₁ (choose s slot) := safe_choose h
  split
  · trivial
  split
  · trivial
  · next e => exact safe_takeHead (hc.of_eq e)
  · next e => exact someSafe_map (fun _ => safe_gangTurn (hc.of_eq e)) _

theorem safe_placeOne (h : Safe s) : SomeSafe (placeOne s) :=
  findSome?_ind trivial (fun _ => findSome?_ind trivial (fun _ => safe_placeSlot h) _) _

theorem safe_stealFor {slot} (h : Safe s) : SomeSafe (stealFor s slot) := by
  unfold stealFor
  grind only [safe_takeUid, safe_setWork, SomeSafe, safe_foldl]

theorem safe_stealOne (h : Safe s) : SomeSafe (stealOne s) :=
  findSome?_ind trivial (fun _ => findSome?_ind trivial (fun _ => findSome?_ind trivial (fun _ => safe_stealFor h) _) _) _

theorem safe_forcedStep (h : Safe s) : SomeSafe (forcedStep s) :=
  someSafe_map (fun _ => safe_levelDec (safe_completeLevel h)) _

theorem safe_markHeads (h : Safe s) : Safe (markHeads s) := by
  unfold markHeads
  grind only [Safe]

theorem safe_scheduleStep (h : Safe s) : Safe (scheduleStep s) := by
  unfold scheduleStep
  split
  · exact h
  · extract_lets s₁
    have h₁ : Safe s₁ := safe_foldl (fun _ _ => safe_finishStages) h
    have hn : SomeSafe (dealStep s₁ <|> placeOne s₁ <|> reservationStep s₁) :=
      (safe_dealStep h₁).orElse ((safe_placeOne h₁).orElse (safe_reservationStep h₁))
    have hf : SomeSafe (forcedStep s₁) := safe_forcedStep h₁
    have hs : SomeSafe (stealOne s₁) := safe_stealOne h₁
    clear_value s₁
    split
    · next e => exact safe_enqueue (hf.of_eq e)
    split
    · exact safe_enqueue (safe_enqueue h₁)
    split
    · next e => exact safe_enqueue (safe_unhold (hn.of_eq e))
    split
    · next e =>
      have h := hs.of_eq e
      split
      · exact safe_enqueue (safe_unhold h)
      · exact safe_markHeads h
    · exact safe_markHeads h₁

theorem safe_execRecordAging {cluster job prio} (h : Safe s) : NextSafe (execRecordAging cluster job prio s) := by
  unfold execRecordAging
  grind only [safe_takeUid, safe_setWork, safe_enqueue, NextSafe, Safe]

theorem safe_execPreemptionDelay {cluster} (h : Safe s) : NextSafe (execPreemptionDelay cluster s) := by
  unfold execPreemptionDelay
  grind only [safe_preempt, NextSafe]

/-! ### Launch -/

theorem safe_deviceList {cluster job r} (h : Safe s) : Safe (deviceList s cluster job r).1 := by
  unfold deviceList
  grind only [safe_ownFor, safe_unitRead]

theorem safe_makeLive {job hdr parent kind count} (h : Safe s) : Safe (makeLive s job hdr parent kind count).1 := by
  unfold makeLive
  grind only [safe_levelAdd, safe_putHeader, safe_levelDec, Safe]

theorem safe_gangReq {job die va r tmpl lgid} (h : Safe s) : Safe (gangReq s job die va r tmpl lgid).1 := by
  unfold gangReq
  grind only [safe_takeUid]

theorem safe_issueLevel {cluster die job va gang} (h : Safe s) : Issue.Safe (issueLevel s cluster die job va gang) := by
  unfold issueLevel
  extract_lets s₁ 
  have h₁ : Safe s₁ := safe_ownFor h
  have hr : Safe (unitRead s₁ (jobCtx s₁ job) va (if gang then 128 else 64)).1 := safe_unitRead h₁
  clear_value s₁
  split
  · trivial
  · next s r e =>
    have h := safe_fst hr e
    extract_lets kind parent linked lgid
    have hp : ∀ s, Safe s → Safe (parent s).1 := fun _ => safe_parentOf
    clear_value kind parent lgid linked
    refine Issue.safe_ite ?_ (Issue.safe_ite trivial (Issue.safe_ite trivial ?_))
    · grind only [safe_ownFor, safe_unitRead, safe_checkGraph, safe_unitWrite, safe_makeLive, safe_loadGraph, Issue.Safe]
    · have ht : Safe (taskAt s cluster job (BitVec.ofNat 64 (rf r 32 8))).1 := safe_taskAt h
      split
      · trivial
      · next s tmpl e =>
        have h := safe_fst ht e
        have hd : Safe (if linked then deviceList s cluster job r else (s, some [])).1 := by
          split
          · exact safe_deviceList h
          · exact h
        split
        · trivial
        · next s devs e =>
          have h := safe_fst hd e
          refine Issue.safe_ite trivial ?_
          have hp := hp s h
          split
          · trivial
          · next e => exact safe_fst hp e
          · next s p e =>
            have h := safe_fst hp e
            refine Issue.safe_ite trivial ?_
            have hm := fun n => safe_makeLive (job := job) (hdr := va) (parent := p) (kind := kind) (count := n) h
            split
            · next e => exact safe_fst (hm _) e
            · next e =>
              have h := safe_fst (hm _) e
              exact Issue.safe_ite (safe_enqueue (safe_gangReq (job := job) (die := die) (va := va) (r := r) (tmpl := tmpl) (lgid := lgid) h)) (safe_enqueue h)

theorem safe_launchWord {t k} (h : Safe s) (hk : ∀ s, Safe s → Safe (k s).state) : Safe (launchWord s t k).state := by
  unfold launchWord
  split
  · exact h
  split
  · exact h
  · next s' e =>
    have hs : Safe s' := by grind only [safe_escape, OkSafe]
    have := hk s' hs
    grind only [Res.state]

theorem safe_launchStatus {t v} (h : Safe s) : Safe (launchStatus t s v).state := h

theorem safe_launchAccess {f n t k} (h : Safe s) (hk : ∀ s a, Safe s → Safe (k s a).state) :
    Safe (launchAccess f n s t k).state := by
  unfold launchAccess
  grind only [safe_access]

theorem safe_levelEff {gang f t} (h : Safe s) : Safe (levelEff gang f s t).state := by
  unfold levelEff
  grind only [safe_launchAccess, safe_unitWrite, safe_escape, safe_issueLevel, safe_launchStatus, safe_releaseAll, Res.state,
    OkSafe, Issue.Safe]

theorem safe_spawnEff {f t} (h : Safe s) : Safe (spawnEff f s t).state := by
  unfold spawnEff
  grind only [safe_access, safe_launchWord, safe_slotPush, safe_launchStatus, Res.state, Push.state]

theorem safe_jdecEff {a b t} (h : Safe s) : Safe (jdecEff a b s t).state := by
  refine safe_aligned h (safe_access h fun s sps h => safe_access h fun s _ h => safe_launchWord h fun s h => ?_)
  split
  · extract_lets bad dec
    have hdec : ∀ room, Safe (dec room).state := by
      intro room
      dsimp only [dec]
      split
      · exact h
      · next e =>
        have hs := (safe_atomicAt h).of_eq e
        grind only [safe_launchStatus, safe_slotPush, Push.state, Res.state]
    clear_value dec
    split
    · exact h
    · exact hdec _
    · exact hdec _
  · exact h

theorem safe_cancelEff {f t} (h : Safe s) : Safe (cancelEff f s t).state := by
  unfold cancelEff
  grind only [safe_launchAccess, safe_launchWord, safe_ownRange, safe_unitRead, safe_launchStatus, safe_levelWord, Res.state,
    safe_foldl, Safe]

theorem safe_cancelRest {job hdr} (h : Safe s) : Safe (cancelRest s job hdr) := safe_cancelSet h

theorem safe_closePhase {job next} (h : Safe s) : Safe (closePhase s job next) := by
  unfold closePhase
  grind only [safe_setJob, safe_levelDec]

theorem safe_phendEff {f t} (h : Safe s) : Safe (phendEff f s t).state := by
  unfold phendEff
  grind only [safe_launchWord, safe_launchStatus, safe_closePhase, safe_launchAccess, safe_ownRange, safe_unitRead,
    safe_setJob, safe_makeLive, safe_unitWrite, safe_releaseAll, Res.state]

/-! ### Collective -/

theorem safe_setColl {c} (h : Safe s) : Safe (setColl s c) := by
  unfold setColl
  grind only [Safe]

theorem safe_kickColl {c} (h : Safe s) : Safe (kickColl s c) := safe_foldl (fun _ _ => safe_enqueue) h

theorem safe_collSpans {c wr tt va n} (h : Safe s) : Safe (collSpans c wr tt va n s).state := by
  unfold collSpans
  grind only [safe_translate, EngR.state]

theorem safe_collMove {c va n} (h : Safe s) : Safe (collMove c va n s).state := by
  unfold collMove
  grind only [safe_collSpans, safe_moveSpans, EngR.state, OkSafe₁, safe_bind]

theorem safe_collRead {c va n} (h : Safe s) : Safe (collRead c va n s).state := by
  unfold collRead
  grind only [safe_collSpans, safe_engRisk, safe_loadSpans, EngR.state, safe_bind]

theorem safe_collWrite {c va n v codes stamp} (h : Safe s) : Safe (collWrite c va n v codes stamp s).state := by
  unfold collWrite
  grind only [safe_collSpans, safe_storeSpans, EngR.state, OkSafe, safe_bind]

theorem safe_freeElems {c gs} (h : Safe s) : Safe (freeElems s c gs) := by
  unfold freeElems
  grind only [safe_draw, safe_collWrite, EngR.state, safe_foldl]

theorem safe_scramble {c} (h : Safe s) : Safe (scramble s c) := safe_foldl (fun _ _ => safe_freeElems) h

theorem safe_freeMissing {c} (h : Safe s) : Safe (freeMissing s c) := by
  unfold freeMissing
  grind only [safe_freeElems]

theorem safe_endColl {c status fcode} (h : Safe s) : Safe (endColl s c status fcode) := by
  unfold endColl
  grind only [safe_scramble, safe_enqueue, safe_setColl]

theorem safe_collBad {c b} (h : Safe s) : Safe (collBad s c b) := safe_postUncorrectable (safe_endColl h)

theorem safe_takeAgreed {c f} (h : Safe s) : Safe (takeAgreed s c f) := by
  unfold takeAgreed
  grind only [safe_endColl, safe_enqueue, safe_setColl]

theorem safe_passFold {c f} (h : Safe s) : SomeSafe (passFold s c f) := by
  unfold passFold
  extract_lets own g s₁ next far s₂
  have h₁ : Safe s₁ := safe_setColl h
  have h₂ : Safe s₂ := safe_foldl (fun _ _ => safe_sendFlit) h₁
  split
  · split
    · exact someSafe_map (fun _ => safe_enqueue (safe_setColl h₁)) _
    · exact safe_sendFlit h₁
  · exact safe_foldl (fun _ _ => safe_takeAgreed) h₂

theorem safe_applyAgreed {c} (h : Safe s) : Safe (applyAgreed c s).state := by
  unfold applyAgreed
  grind only [safe_collSpans, safe_engRisk, safe_readRecord, safe_putRecord, EngR.state, safe_bind]

theorem safe_holdRecord {c on} (h : Safe s) : Safe (holdRecord s c on) := by
  unfold holdRecord
  grind only [safe_translate, safe_devUpdate, safe_runDeferred]

theorem safe_moveOut {c m k} (h : Safe s) : Safe (moveOut s c m k) := by
  unfold moveOut
  grind only [safe_setColl]

theorem safe_ringOf {o frm step} (h : Safe s) : Safe (ringOf o frm step s).state := by
  unfold ringOf
  grind only [safe_collSpans, EngR.state, safe_bind]

theorem sendNear_holds {c m} (h : Safe s) : (sendNear c m s).Holds SomeSafe := by
  unfold sendNear
  split
  · exact ⟨h, trivial⟩
  · refine holds_bind (safe_ringOf h) fun s loc h => ?_
    split
    · exact ⟨h, trivial⟩
    · simp only []
      split
      · exact ⟨h, trivial⟩
      · exact holds_bind (safe_collWrite h) fun s _ h => ⟨safe_putDesc h, safe_enqueue (safe_moveOut (safe_putDesc h))⟩

theorem safe_sendFar {c m} (h : Safe s) : SomeSafe (sendFar c m s) := by
  unfold sendFar
  grind only [safe_sendFlit, safe_moveOut, SomeSafe, safe_foldl, Safe]

theorem sendOne_holds {c l} (h : Safe s) : (sendOne c l s).Holds SomeSafe := by
  induction l generalizing s with
  | nil => exact ⟨h, trivial⟩
  | cons m l ih =>
    unfold sendOne
    split
    · refine (sendNear_holds h).bind fun s r h hr => ?_
      split
      · exact ⟨h, hr⟩
      · exact ih h
    · split
      · next e => exact ⟨h, (safe_sendFar h).of_eq e⟩
      · exact ih h

theorem recvOne_holds {c step l} (h : Safe s) : (recvOne c step l s).Holds SomeSafe := by
  induction l generalizing s with
  | nil => exact ⟨h, trivial⟩
  | cons e l ih =>
    unfold recvOne
    extract_lets len cur
    split
    · exact ih h
    · refine holds_bind (safe_ringOf h) fun s loc h => ?_
      split
      · exact ih h
      · extract_lets r n
        split
        · exact ih h
        · refine holds_bind (safe_collMove h) fun s x h => ?_
          extract_lets s₁ s₂ s₃ m c
          have h₂ : Safe s₂ := safe_putDesc (safe_putDesc h)
          have h₃ : Safe s₃ := by
            dsimp only [s₃]
            split
            · exact safe_sendFlit h₂
            · exact h₂
          exact ⟨h₃, safe_kickColl (safe_setColl h₃)⟩

theorem safe_reduceStep {c st step} (h : Safe s) : Safe (reduceStep c st step s).state := by
  unfold reduceStep
  grind only [safe_mergeCounts, EngR.state]

theorem safe_addReady {c l} (h : Safe s) : Safe (addReady s c l).1 := safe_foldl (fun _ _ => safe_enqueue) h

theorem safe_raiseNow {c step} (h : Safe s) : Safe (raiseNow s c step).1 := by
  unfold raiseNow
  simp only []
  split
  · exact safe_addReady h
  split
  · exact h
  · exact safe_foldl₁ (by grind only [safe_addReady]) h

theorem safe_enterStep {c step} (h : Safe s) : Safe (enterStep s c step) := safe_kickColl (safe_raiseNow h)

theorem beginColl_holds {c} (h : Safe s) : (beginColl c s).Holds Safe := by
  refine holds_bind (safe_collRead h) fun s t h => ?_
  extract_lets mems c
  refine EngR.holds_ite h (EngR.holds_ite h (holds_bind (safe_collRead h) fun s t h => ?_))
  extract_lets bad
  refine EngR.holds_ite h (holds_bind (safe_collMove h) fun s x h => ?_)
  have hd := safe_draw h
  refine EngR.holds_ite hd (holds_bind ?_ fun s resid h => ?_)
  · split
    · exact safe_collRead hd
    · exact hd
  refine EngR.holds_ite ⟨h, safe_kickColl (safe_setColl h)⟩ ?_
  exact ⟨safe_policyOf (safe_holdRecord h), safe_kickColl (safe_setColl (safe_policyOf (safe_holdRecord h)))⟩

theorem convertColl_holds {c} (h : Safe s) : (convertColl c s).Holds Safe := by
  refine holds_bind ?_ fun s c h => holds_bind ?_ fun s resid h => holds_bind ?_ fun s _ h => ⟨h, safe_enterStep (safe_freeMissing h)⟩
  · split
    · exact h
    · exact safe_applyAgreed h
  · split
    · exact safe_collRead h
    · exact h
  · split
    · exact safe_collWrite h
    · exact h

theorem safe_settleColl {c} (h : Safe s) : Safe (settleColl s c) := by
  unfold settleColl
  grind only [safe_endColl]

theorem collStep_holds {c} (h : Safe s) : (collStep c s).Holds SomeSafe := by
  unfold collStep
  split
  · exact (beginColl_holds h).bind fun s t h ht => ⟨h, ht⟩
  split
  · split
    · have hp : SomeSafe (c.folds.findSome? fun f => if f.num < c.vec.length then passFold s c f else none) :=
        findSome?_ind trivial (fun f => by split; exacts [safe_passFold h, trivial]) _
      split
      · next e => exact ⟨h, hp.of_eq e⟩
      · exact ⟨h, trivial⟩
    split
    · exact h
    · exact (convertColl_holds h).bind fun s t h ht => ⟨h, ht⟩
  · refine (sendOne_holds h).bind fun s r h hr => ?_
    split
    · exact ⟨h, safe_enqueue hr⟩
    refine (recvOne_holds h).bind fun s r h hr => ?_
    split
    · next t =>
      refine ⟨h, ?_⟩
      split
      · exact safe_raiseNow hr
      · exact hr
    split
    · refine ⟨h, ?_⟩
      split
      · exact safe_settleColl h
      · trivial
    split
    · exact ⟨h, trivial⟩
    · refine holds_bind ?_ fun s c h => ⟨h, safe_enterStep h⟩
      split
      · exact safe_reduceStep h
      · exact h

theorem safe_collWork {uid} (h : Safe s) : Safe (collWork s uid) := by
  unfold collWork
  split
  · exact h
  split
  · exact h
  · next c _ _ =>
    have hc : (collStep c s).Holds SomeSafe := collStep_holds h
    split <;> rename_i e <;> rw [e] at hc
    · exact hc.2
    · exact hc.1
    · exact safe_enqueue hc
    · exact hc
    · exact safe_collBad hc
    · exact safe_endColl hc

theorem safe_foldl_bind {α : Type} {f : EngR Unit → α → EngR Unit} (hf : ∀ r a, Safe r.state → Safe (f r a).state) {l : List α}
    {r : EngR Unit} (h : Safe r.state) : Safe (l.foldl f r).state := by
  induction l generalizing r with
  | nil => exact h
  | cons a l ih => exact ih (hf r a h)

theorem shardWrite_holds {c j els} (h : Safe s) : (shardWrite c j els s).Holds Safe := by
  unfold shardWrite
  extract_lets d w me gs runs stamp scales one
  have hone : ∀ r a, Safe r.state → Safe (one r a).state := by
    refine fun r a h => safe_bind h fun s _ h => safe_bind (safe_collWrite h) fun s _ h => ?_
    split
    · exact safe_collWrite h
    · exact h
  refine holds_bind (safe_foldl_bind hone h) fun s _ h => holds_bind (safe_collSpans h) fun s sps h => ?_
  split
  · exact ⟨h, safe_devRelease h⟩
  · exact ⟨h, h⟩

theorem shardStep_holds {c j} (h : Safe s) : (shardStep c j s).Holds Safe := by
  unfold shardStep
  split
  · exact ⟨h, h⟩
  · exact (shardWrite_holds h).bind fun s t h ht => ⟨h, safe_settleColl (safe_setColl ht)⟩

theorem safe_execShardComplete {coll shard} (h : Safe s) : NextSafe (execShardComplete coll shard s) := by
  unfold execShardComplete
  refine nextSafe ?_
  split
  · exact h
  · next c _ =>
    have hc : (shardStep c shard s).Holds Safe := shardStep_holds h
    split
    · exact h
    · split <;> rename_i e <;> rw [e] at hc
      · exact hc.2
      · exact safe_enqueue hc
      · exact hc
      · exact safe_collBad hc
      · exact safe_endColl hc

theorem safe_markTask {slot m} (h : Safe s) : Safe (markTask s slot m) := by
  unfold markTask
  grind only [safe_updSlot, safe_mapSaved]

theorem collReport_holds {c} (h : Safe s) : (collReport c s).Holds Safe := by
  unfold collReport
  extract_lets d crec st bytes range rel
  have hrel : ∀ va v s, Safe s → Safe (rel va v s).state := by
    refine fun va v s h => safe_bind (safe_collSpans h) fun s sps h => ?_
    split
    · exact safe_devRelease h
    · exact h
  refine holds_bind ?_ fun s _ h => holds_bind ?_ fun s _ h => ⟨h, h⟩
  · split
    · exact h
    · exact safe_bind (safe_collWrite h) fun s _ => hrel _ _ s
  · split
    · exact h
    · exact hrel _ _ s h

theorem safe_retireColl {c} (h : Safe s) : Safe (retireColl s c) := by
  unfold retireColl
  grind only [safe_holdRecord, safe_markTask, safe_queueDone, safe_checkEnd, Safe]

theorem safe_giveUp {c} (h : Safe s) : Safe (giveUp s c) := by
  unfold giveUp
  grind only [safe_retireColl, safe_enqueue, safe_setColl]

theorem safe_execCollectiveComplete {coll} (h : Safe s) : NextSafe (execCollectiveComplete coll s) := by
  unfold execCollectiveComplete
  refine nextSafe ?_
  split
  · exact h
  · next c _ =>
    have hc : (collReport c s).Holds Safe := collReport_holds h
    split
    · exact h
    · split <;> rename_i e <;> rw [e] at hc
      · exact safe_retireColl hc.2
      · exact safe_enqueue hc
      · exact hc
      · exact safe_giveUp hc
      · exact safe_giveUp hc

theorem safe_execCollectiveTimeout {coll} (h : Safe s) : NextSafe (execCollectiveTimeout coll s) := by
  unfold execCollectiveTimeout
  grind only [safe_endColl, NextSafe, safe_foldl]

theorem safe_collFault {c} (h : Safe s) : SomeSafe₁ (collFault s c) := by
  unfold collFault
  extract_lets r
  have hr : Safe r.state := by
    dsimp only [r]
    split
    · exact (collReport_holds h).safe
    split
    · next e =>
      obtain ⟨_, _, rfl⟩ := List.mem_map.1 (List.mem_of_find?_eq_some e)
      exact (shardStep_holds h).safe
    · exact safe_bind (collStep_holds h).safe fun _ _ h => h
  clear_value r
  split
  · exact hr
  · trivial

theorem safe_pauseColl {uid} (h : Safe s) : Safe (pauseColl s uid) := by
  unfold pauseColl
  grind only [safe_collFault, safe_setColl, safe_postEngineFault, SomeSafe₁]

theorem safe_acceptColl {ctx ovr slot job core addr d queue} (h : Safe s) :
    Safe (acceptColl s ctx ovr slot job core addr d queue).state := by
  unfold acceptColl
  simp only []
  have h := safe_takeUid h
  split
  · exact h
  split
  · exact h
  have ht := safe_translate (ctx := ctx) (va := cdTrec d) (len := 256) (n := { r := true }) h
  split
  · next e => exact safe_fst ht e
  · next e => exact safe_fst ht e
  · next e =>
    have h := safe_fst ht e
    split
    · split
      · exact h
      · next e =>
        have h := (safe_readRecord h).of_eq e
        have hr : ∀ s o r sp, Safe s → Resolve.Safe (resolveRecord s job o (cdTrec d) sp r) := fun _ _ _ _ => safe_resolveRecord
        grind only [Resolve.Safe, CollRes.state]
    · exact h

theorem safe_addColl {c} (h : Safe s) : Safe (addColl s c) := by
  unfold addColl
  grind only [safe_enqueue, Safe]

theorem safe_collEff {f t} (h : Safe s) : Safe (collEff f s t).state := by
  unfold collEff
  grind only [safe_readPacket, safe_acceptColl, safe_escape, safe_addColl, Res.state, CollRes.state, OkSafe]

theorem safe_kickJob {job} (h : Safe s) : Safe (kickJob s job) := by
  unfold kickJob
  grind only [safe_kickSlot, safe_enqueue, safe_foldl]

theorem safe_kickAll (h : Safe s) : Safe (kickAll s) := safe_foldl (fun _ _ => safe_kickJob) h

/-! ### Control -/

theorem safe_branchEff {taken off t} (h : Safe s) : Safe (branchEff taken off s t).state := by
  unfold branchEff
  grind only [Res.state]

theorem safe_execNop {n} (h : Safe s) : NextSafe (execNop n s) := by
  unfold execNop
  grind only [safe_issueWord, Res.state]

theorem safe_execBr {n off} (h : Safe s) : NextSafe (execBr n off s) :=
  safe_issueWord (fun _ _ h => safe_branchEff h) h

theorem safe_execBz {n a off} (h : Safe s) : NextSafe (execBz n a off s) :=
  safe_issueWord (fun _ _ h => safe_branchEff h) h

theorem safe_execBnz {n a off} (h : Safe s) : NextSafe (execBnz n a off s) :=
  safe_issueWord (fun _ _ h => safe_branchEff h) h

theorem safe_callEff {target t} (h : Safe s) : Safe (callEff target s t).state := h

theorem safe_execRet {n a} (h : Safe s) : NextSafe (execRet n a s) := by
  unfold execRet
  grind only [safe_issueWord, Res.state]

theorem safe_execJmpi {n a off} (h : Safe s) : NextSafe (execJmpi n a off s) := by
  unfold execJmpi
  grind only [safe_issueWord, Res.state]

theorem safe_execLoop {n off} (h : Safe s) : NextSafe (execLoop n off s) := by
  unfold execLoop
  grind only [safe_issueWord, safe_setSeq, Res.state]

theorem safe_execSetlc {n a b} (h : Safe s) : NextSafe (execSetlc n a b s) := by
  unfold execSetlc
  grind only [safe_issueWord, safe_updSeq, Res.state]

theorem safe_execStage {k} (h : Safe s) : NextSafe (execStage k s) := by
  unfold execStage
  grind only [safe_issueWord, safe_updSeq, Res.state]

theorem safe_closeSeg {t k} (h : Safe s) (hk : ∀ s, Safe s → Safe (k s).state) : Safe (closeSeg s t k).state := by
  unfold closeSeg
  grind only [safe_updSeq, Res.state]

theorem safe_tendEff {n t} (h : Safe s) : Safe (tendEff n s t).state := by
  unfold tendEff
  grind only [safe_closeSeg, safe_updSeq, safe_checkEnd, safe_observe, Res.state]

theorem safe_execYield {n} (h : Safe s) : NextSafe (execYield n s) := by
  unfold execYield
  grind only [safe_issueWord, Res.state, Safe]

theorem safe_execSeg {n cost sig} (h : Safe s) : NextSafe (execSeg n cost sig s) := by
  unfold execSeg
  grind only [safe_issueWord, safe_closeSeg, safe_updSeq, Res.state]

theorem safe_execSegend {n} (h : Safe s) : NextSafe (execSegend n s) := by
  unfold execSegend
  grind only [safe_issueWord, safe_closeSeg, Res.state]

/-! ### Fabric -/

theorem safe_dropFlit {port} (h : Safe s) : Safe (dropFlit s port) := safe_postSup h

theorem safe_heardFrom {port f} (h : Safe s) : Safe (heardFrom s port f) := by
  unfold heardFrom
  grind only [Safe]

theorem safe_onFlit {kind ok k} (hk : ∀ s a b, Safe s → Safe (k s a b)) (h : Safe s) : NextSafe (onFlit kind ok k s) := by
  unfold onFlit
  grind only [safe_dropFlit, safe_heardFrom, NextSafe, Safe]

theorem safe_execInvalidFlit {port f} (h : Safe s) : NextSafe (execInvalidFlit port f s) := by
  unfold execInvalidFlit
  grind only [safe_dropFlit, NextSafe]

theorem safe_execLinkRetry {port} (h : Safe s) : NextSafe (execLinkRetry port s) := by
  unfold execLinkRetry
  grind only [safe_enqueue, NextSafe, Safe]

theorem safe_execPortDown {port} (h : Safe s) : NextSafe (execPortDown port s) := by
  unfold execPortDown
  grind only [safe_unhold, NextSafe, Safe]

theorem safe_atHome {n k f} (hk : ∀ s a, Safe s → Safe (k s a)) (h : Safe s) : Safe (atHome n k s f) := by
  unfold atHome
  grind only [safe_postSup, safe_sendFlit]

theorem safe_dropStale {line} (h : Safe s) : Safe (dropStale s line) := safe_foldl (fun _ _ => safe_setView) h

theorem safe_putFlitLine {pa m data codes md} (h : Safe s) : Safe (putFlitLine s pa m data codes md) := by
  unfold putFlitLine
  grind only [safe_clearRanges, safe_putLine, safe_dropStale, safe_putHomeMeta, SomeSafe₁, safe_foldl]

theorem safe_putFlitLines {pa l} (h : Safe s) : Safe (putFlitLines s pa l) :=
  safe_foldl (fun _ _ => safe_putFlitLine) h

theorem safe_ackWrite {f} (h : Safe s) : Safe (ackWrite s f) := safe_sendFlit h

theorem safe_wrHome {f} (h : Safe s) : Safe (wrHome s f) := safe_ackWrite (safe_putFlitLines h)

theorem safe_execWr (h : Safe s) : NextSafe (execWr s) :=
  safe_onFlit (fun _ _ _ h => safe_atHome (fun _ _ h => safe_wrHome h) h) h

theorem safe_cwrHome {lines f} (h : Safe s) : Safe (cwrHome lines s f) := by
  unfold cwrHome
  grind only [safe_ackWrite, safe_putFlitLines]

theorem safe_execCwr (h : Safe s) : NextSafe (execCwr s) := by
  unfold execCwr
  grind only [safe_onFlit, safe_atHome, safe_cwrHome, safe_enqueue, Safe]

theorem safe_farAnswer {slot q o v} (h : Safe s) : Safe (farAnswer s slot q o v) := by
  unfold farAnswer
  grind only [safe_updSlot, safe_wordError, safe_checkEnd, safe_acquireStep]

theorem safe_ackFar {f} (h : Safe s) : Safe (ackFar s f) := by
  unfold ackFar
  grind only [safe_unhold, safe_farAnswer, Safe]

theorem safe_execWrack (h : Safe s) : NextSafe (execWrack s) := by
  refine safe_onFlit (fun s _ f h => ?_) h
  have h := safe_ackFar (f := f) h
  extract_lets s₁ s₂
  have h₂ : Safe s₂ := by
    refine safe_ite ?_ h
    cases getJobOfTag s₁ f.jobtag with
    | none => exact h
    | some j => exact safe_enqueue h
  exact safe_ite h₂ (safe_foldl (fun _ _ => safe_endColl) h₂)

theorem safe_rdHome {f} (h : Safe s) : Safe (rdHome s f) := by
  unfold rdHome
  grind only [safe_sendFlit]

theorem safe_execRd (h : Safe s) : NextSafe (execRd s) :=
  safe_onFlit (fun _ _ _ h => safe_atHome (fun _ _ h => safe_rdHome h) h) h

theorem safe_takeRead {f} (h : Safe s) : Safe (takeRead s f) := by
  unfold takeRead
  grind only [safe_fillFar, safe_kickAll, safe_unhold, safe_farAnswer, Safe]

theorem safe_execRdresp (h : Safe s) : NextSafe (execRdresp s) := safe_onFlit (fun _ _ _ h => safe_takeRead h) h

theorem safe_execAtomresp (h : Safe s) : NextSafe (execAtomresp s) := by
  unfold execAtomresp
  grind only [safe_onFlit, safe_ackFar, safe_farAnswer]

theorem safe_consumed {f} {k : State} (h : Safe s) (hk : Safe k) : Safe (consumed s f k) := by
  unfold consumed
  split
  · exact hk
  · exact safe_postUncorrectable h

theorem safe_atomHome {f} (h : Safe s) : Safe (atomHome s f) := by
  unfold atomHome
  grind only [safe_devUpdate, safe_sendFlit]

theorem safe_execAtom (h : Safe s) : NextSafe (execAtom s) := by
  unfold execAtom
  grind only [safe_onFlit, safe_atHome, safe_consumed, safe_atomHome]

theorem safe_relwHome {f} (h : Safe s) : Safe (relwHome s f) := by
  unfold relwHome
  grind only [safe_devUpdate, safe_ackWrite]

theorem safe_execRelw (h : Safe s) : NextSafe (execRelw s) := by
  unfold execRelw
  grind only [safe_onFlit, safe_atHome, safe_consumed, safe_relwHome]

theorem safe_kickRing {loc} (h : Safe s) : Safe (kickRing s loc) := by
  unfold kickRing
  grind only [safe_enqueue, safe_foldl]

theorem safe_fillnHome {f} (h : Safe s) : Safe (fillnHome s f) := by
  unfold fillnHome
  grind only [safe_putDesc, safe_kickRing, Safe]

theorem safe_execFilln (h : Safe s) : NextSafe (execFilln s) := by
  unfold execFilln
  grind only [safe_onFlit, safe_atHome, safe_consumed, safe_fillnHome]

theorem safe_freenHome {f} (h : Safe s) : Safe (freenHome s f) := by
  unfold freenHome
  grind only [safe_kickRing, safe_putDesc]

theorem safe_execFreen (h : Safe s) : NextSafe (execFreen s) := by
  unfold execFreen
  grind only [safe_onFlit, safe_consumed, safe_enqueue, safe_atHome, safe_freenHome, safe_foldl, Safe]

theorem safe_execSmax (h : Safe s) : NextSafe (execSmax s) := by
  refine safe_onFlit (fun s _ f h => ?_) h
  split
  · exact h
  · exact safe_ite (safe_postUncorrectable (safe_enqueue (safe_setColl h))) (safe_enqueue (safe_setColl h))

theorem safe_execSmaxres (h : Safe s) : NextSafe (execSmaxres s) := by
  unfold execSmaxres
  grind only [safe_onFlit, safe_takeAgreed, safe_foldl]

theorem safe_execHbeat (h : Safe s) : NextSafe (execHbeat s) := by
  unfold execHbeat
  grind only [safe_onFlit]

theorem safe_execDeviceHeartbeat (h : Safe s) : NextSafe (execDeviceHeartbeat s) := by
  unfold execDeviceHeartbeat
  grind only [NextSafe, Safe]

/-! ### Linked -/

theorem safe_dropLgang {lgid} (h : Safe s) : Safe (dropLgang s lgid) := h

theorem safe_memberGang {f} (h : Safe s) : SomeSafe₁ (memberGang s f) := by
  unfold memberGang
  extract_lets va
  split
  · trivial
  · next job _ =>
    have hr : Safe (unitRead s (jobCtx s job) va 128).1 := safe_unitRead h
    split
    · trivial
    · next s r e =>
      have h := safe_fst hr e
      split
      · trivial
      · grind only [safe_taskAt, safe_parentOf, safe_gangReq, SomeSafe₁, Safe]

theorem safe_gangAnswer {f kind ok} (h : Safe s) : Safe (gangAnswer s f kind ok) := by
  unfold gangAnswer
  grind only [safe_sendFlit]

theorem safe_execGres (h : Safe s) : NextSafe (execGres s) := by
  unfold execGres
  grind only [safe_onFlit, safe_memberGang, safe_gangAnswer, safe_enqueue, safe_gangTurn, SomeSafe₁]

theorem safe_startLinked {o g slots} (h : Safe s) : Safe (startLinked s o g slots) := by
  unfold startLinked
  grind only [safe_setLgang, safe_startGang, safe_unitRead, safe_parentOf, safe_makeLive, safe_dropLgang]

theorem safe_execGstart (h : Safe s) : NextSafe (execGstart s) := by
  unfold execGstart
  grind only [safe_onFlit, safe_startLinked, safe_gangAnswer]

theorem safe_loseBars {lgid} (h : Safe s) : Safe (loseBars s lgid) := by
  unfold loseBars
  grind only [safe_wakeDie, safe_setBar, safe_foldl]

theorem safe_execGcancel (h : Safe s) : NextSafe (execGcancel s) := by
  unfold execGcancel
  grind only [safe_onFlit, safe_dropLgang, safe_setLgang, safe_cancelLevel, safe_loseBars]

theorem safe_withdrawLinked {o} (h : Safe s) : Safe (withdrawLinked s o) := by
  unfold withdrawLinked
  grind only [safe_setLgang, safe_toMembers, safe_gangYield]

theorem safe_startAll {o} (h : Safe s) : Safe (startAll s o) := by
  unfold startAll
  grind only [safe_startLinked, safe_toMembers, safe_withdrawLinked]

theorem safe_execGresack (h : Safe s) : NextSafe (execGresack s) := by
  unfold execGresack
  grind only [safe_onFlit, safe_withdrawLinked, safe_setLgang, safe_startAll]

theorem safe_execGstartack (h : Safe s) : NextSafe (execGstartack s) := by
  unfold execGstartack
  grind only [safe_onFlit, safe_setLgang]

theorem safe_watchdog {o} (h : Safe s) : Safe (watchdog s o) := safe_loseBars h

theorem safe_failLinked {o} (h : Safe s) : Safe (failLinked s o) := by
  unfold failLinked
  grind only [safe_setLgang, safe_levelWord, safe_cancelLevel, safe_toMembers]

theorem safe_execGangTimeout {lgid} (h : Safe s) : NextSafe (execGangTimeout lgid s) := by
  unfold execGangTimeout
  grind only [safe_failLinked, safe_withdrawLinked, safe_watchdog, NextSafe]

theorem safe_execGangReservationExpiry {lgid} (h : Safe s) : NextSafe (execGangReservationExpiry lgid s) := by
  unfold execGangReservationExpiry
  grind only [safe_dropLgang, NextSafe]

theorem safe_loseMember {dev o} (h : Safe s) : Safe (loseMember dev s o) := by
  unfold loseMember
  grind only [safe_watchdog, safe_withdrawLinked]

theorem safe_loseFar {dev} (h : Safe s) : Safe (loseFar s dev) := by
  unfold loseFar
  grind only [safe_farAnswer, safe_enqueue, safe_kickAll, safe_unhold, safe_foldl, Safe]

theorem safe_execDeviceLost {dev} (h : Safe s) : NextSafe (execDeviceLost dev s) := by
  unfold execDeviceLost
  grind only [safe_loseFar, safe_endColl, safe_loseMember, safe_enqueue, safe_postSup, NextSafe, safe_foldl, Safe]

/-! ### Fence -/

theorem safe_execDistributorHeartbeat {die} (h : Safe s) : NextSafe (execDistributorHeartbeat die s) := by
  unfold execDistributorHeartbeat
  grind only [NextSafe, Safe]

theorem safe_execMasterElection (h : Safe s) : NextSafe (execMasterElection s) := by
  unfold execMasterElection
  grind only [safe_enqueue, NextSafe, Safe]

theorem safe_appendLost {job r i} (h : Safe s) : Safe (appendLost s job r i) := by
  unfold appendLost
  grind only [safe_unitUpdate, safe_unitWrite]

theorem safe_resolveIndices {l prio i n escaped} (h : Safe s) : Safe (resolveIndices s l prio i n escaped) := by
  unfold resolveIndices
  grind only [safe_levelSub, safe_levelDies, safe_pushWork, safe_appendLost, safe_foldl]

theorem safe_resolveTask {g} (h : Safe s) : Safe (resolveTask s g) := by
  unfold resolveTask
  extract_lets t s₁
  have h₁ : Safe s₁ := by grind only [safe_instanceEnd]
  grind only [safe_jobDec, safe_resolveIndices, safe_levelDec]

theorem safe_resolveEntry {key e} (h : Safe s) : Safe (resolveEntry s key e) := by
  unfold resolveEntry
  grind only [safe_resolveIndices, safe_levelDec, safe_jobDec, safe_resolveTask]

theorem safe_resolveLevel {die l} (h : Safe s) : Safe (resolveLevel die s l) := by
  unfold resolveLevel
  grind only [safe_levelDec, safe_dropLevel, safe_levelWord, safe_cancelLevel, Safe]

theorem safe_clearDie {die} (h : Safe s) : Safe (clearDie s die) := by
  unfold clearDie
  grind only [Safe]

theorem safe_poisonLines {die} (h : Safe s) : Safe (poisonLines s die) := by
  unfold poisonLines
  grind only [safe_lineWritten, safe_putHomeMeta, safe_foldl, Safe]

theorem safe_fenceDie {die} (h : Safe s) : Safe (fenceDie s die) := by
  unfold fenceDie
  split
  · exact h
  · extract_lets gone queued deals held gangs s₁ s₂ s₃ s₄ s₅ s₆ s₇ s₈ s₉ s₁₀ s₁₁ s₁₂
    have h₅ : Safe s₅ := by
      have h₃ : Safe s₃ := safe_clearDie (safe_updDie (safe_poisonLines h))
      dsimp only [s₅]
      split <;> exact h₃
    have h₆ : Safe s₆ := safe_foldl (fun _ _ => safe_resolveLevel) h₅
    have h₇ : Safe s₇ := safe_foldl (fun _ l h => safe_foldl (fun _ _ h => safe_foldl (fun _ _ => safe_resolveEntry) h)
      (safe_foldl (fun _ _ => safe_resolveTask) h)) h₆
    have h₈ : Safe s₈ := safe_foldl (fun _ _ => safe_resolveTask) h₇
    have h₉ : Safe s₉ := safe_foldl (fun _ _ h => safe_foldl (fun _ _ => safe_resolveEntry) h) h₈
    have h₁₀ : Safe s₁₀ := safe_foldl (by grind only [safe_resolveIndices]) h₉
    have h₁₁ : Safe s₁₁ := by
      refine safe_foldl (fun s g h => ?_) h₁₀
      have hd : Safe (g.saved.foldl (fun s t => dropSaved s g.job t) s) := safe_foldl (fun _ _ => safe_dropSaved) h
      grind only [safe_levelSub]
    exact safe_enqueue (safe_enqueue (safe_postSup h₁₁))

theorem safe_execDieFenced {cause} (h : Safe s) : NextSafe (execDieFenced cause s) := by
  unfold execDieFenced
  grind only [safe_fenceDie, NextSafe]

/-! ### HostQueue -/

theorem safe_setHqueue {q} (h : Safe s) : Safe (setHqueue s q) := by
  unfold setHqueue
  grind only [Safe]

theorem safe_disableQueue {q d} (h : Safe s) : Safe (disableQueue s q d) := safe_queueSet h

theorem safe_queueLine {q d} (h : Safe s) : Safe (queueLine s q d).1 := safe_unitRead h

theorem safe_nextSlot {job desc d} (h : Safe s) : Safe (nextSlot s job desc d) := by
  unfold nextSlot
  grind only [safe_queueRelease, safe_disableQueue, safe_setHqueue, safe_enqueue]

theorem safe_reportSlot {job desc status fcode} (h : Safe s) : Safe (reportSlot s job desc status fcode) :=
  safe_queueDone h

theorem safe_takeCopy {q d p} (h : Safe s) : SomeSafe (takeCopy s q d p) := by
  unfold takeCopy
  grind only [safe_takeUid, safe_checkAssertion, safe_kick, safe_updSlot, safe_acceptCopy, safe_postUncorrectable, Chk.state,
    SomeSafe]

theorem safe_takeHeld {q v ev} (h : Safe s) : Safe (takeHeld s q v ev) := by
  unfold takeHeld
  grind only [safe_enqueue, safe_setHqueue]

theorem safe_kickRequests (h : Safe s) : Safe (kickRequests s) := by
  unfold kickRequests
  grind only [safe_enqueue]

theorem safe_takeSlot {q d v} (h : Safe s) : SomeSafe (takeSlot s q d v) := by
  unfold takeSlot
  extract_lets fin
  have hfin : ∀ s, Safe s → Safe (fin s) := fun _ => safe_nextSlot
  split
  · have hc : SomeSafe (takeCopy s q d v) := safe_takeCopy h
    cases e : takeCopy s q d v with
    | none => trivial
    | some s => exact hfin _ (hc.of_eq e)
  · exact hfin _ (safe_takeHeld h)
  · exact hfin _ (safe_takeHeld h)
  · split
    · exact hfin _ (safe_kickRequests h)
    · split
      · trivial
      · exact hfin _ (safe_reportSlot h)
  · exact hfin _ (safe_addSub h)

theorem safe_lookSlot {job desc k} (h : Safe s) (hk : ∀ s a b c, Safe s → Safe (k s a b c)) :
    Safe (lookSlot s job desc k) := by
  unfold lookSlot
  grind only [safe_queueDesc, safe_postJob, safe_disableQueue, safe_setHqueue, safe_queueLine]

theorem safe_execQueueSlotAccept {job desc} (h : Safe s) : NextSafe (execQueueSlotAccept job desc s) := by
  refine safe_lookSlot h fun s q d v h => ?_
  split
  · exact safe_setHqueue h
  split
  · split
    · exact h
    · exact safe_nextSlot (safe_reportSlot h)
  · exact (safe_takeSlot h).getD h

theorem safe_execQueueStall {job desc} (h : Safe s) : NextSafe (execQueueStall job desc s) := by
  unfold execQueueStall
  grind only [safe_lookSlot, safe_nextSlot, safe_reportSlot, NextSafe]

theorem safe_issueRecord {job record kind rest} (h : Safe s) : Safe (issueRecord s job record kind rest).1 := by
  unfold issueRecord
  grind only [safe_taskAt, safe_pushTask, safe_issueLevel, safe_unitWrite, Push.state, Issue.Safe]

theorem safe_execIssuePacket {job desc record kind rest} (h : Safe s) :
    NextSafe (execIssuePacket job desc record kind rest s) := by
  unfold execIssuePacket
  grind only [safe_setHqueue, safe_issueRecord, safe_reportSlot, NextSafe]

theorem safe_endRequest {job desc status fcode} (h : Safe s) : Safe (endRequest s job desc status fcode) :=
  safe_queueDone h

theorem safe_rejectColl {job desc fcode} (h : Safe s) : Safe (rejectColl s job desc fcode) := safe_endRequest h

theorem safe_execCollRequest {job desc record rest} (h : Safe s) : NextSafe (execCollRequest job desc record rest s) := by
  unfold execCollRequest
  refine nextSafe ?_
  split
  · exact h
  · next q _ =>
    extract_lets die free
    have hfree : ∀ s, Safe s → Safe (free s) := fun _ => safe_setHqueue
    have hr : ∀ s c, Safe s → Safe (rejectColl (free s) job desc c) := fun _ _ h => safe_rejectColl (hfree _ h)
    have ht : ∀ c, Safe (translate s c record 256 { r := true }).1 := fun _ => safe_translate h
    have hl : ∀ s k sps, Safe s → OkSafe₁ (loadSpans 7 k .home s sps) := fun _ _ _ => safe_loadSpans
    clear_value free die
    split
    · exact h
    split
    · exact hr _ _ h
    split
    · exact hr _ _ h
    split
    · next e => exact hr _ _ (safe_fst (ht _) e)
    · next e => exact safe_fst (ht _) e
    · next s sps e =>
      have h := safe_fst (ht _) e
      split
      · exact safe_endRequest (safe_postUncorrectable (hfree _ h))
      · next s d e =>
        have h := (hl _ _ _ h).of_eq e
        have ha : Safe (acceptColl s (unitCtx die job false) 0 (unitSlot die job) job (die * 256) record d (some desc)).state :=
          safe_acceptColl h
        split <;> rename_i e <;> rw [e] at ha
        · exact safe_addColl (hfree _ ha)
        · exact ha
        · exact hr _ _ ha
        · exact safe_postUncorrectable (safe_addColl (hfree _ ha))

/-! ### Faults -/

theorem safe_execPageWalk {die job va} (h : Safe s) : NextSafe (execPageWalk die job va s) := by
  unfold execPageWalk
  grind only [safe_walkFill, NextSafe]

theorem safe_execWalkRestart {die job va} (h : Safe s) : NextSafe (execWalkRestart die job va s) := by
  unfold execWalkRestart
  grind only [safe_kickAll, safe_walkFill, NextSafe]

theorem safe_execEngineFault {slot eng} (h : Safe s) : NextSafe (execEngineFault slot eng s) := by
  unfold execEngineFault
  grind only [safe_pauseEngine, safe_pauseClosing, safe_pauseSub, safe_pauseColl, NextSafe]

theorem safe_resumeRing {slot} (h : Safe s) : Safe (resumeRing s slot) := h

theorem safe_abortRing {slot} (h : Safe s) : Safe (abortRing s slot) := by
  unfold abortRing
  grind only [safe_resumeRing, safe_setHandle]

theorem safe_execEngineFaultResume {source eng} (h : Safe s) : NextSafe (execEngineFaultResume source eng s) := by
  unfold execEngineFaultResume
  grind only [safe_kickPlace, safe_updCmd, safe_enqueue, safe_resumeRing, safe_setSub, safe_kickJob, safe_setColl, NextSafe,
    Safe]

theorem safe_abortCmd {slot eng c} (h : Safe s) : Safe (abortCmd s slot eng c) := by
  unfold abortCmd
  grind only [safe_updCmd, safe_retireCmd, safe_endCmd, safe_kickPlace]

theorem safe_abortGmma {g} (h : Safe s) : Safe (abortGmma s g) := safe_checkEnd h

theorem safe_abortSub {b} (h : Safe s) : Safe (abortSub s b) := by
  unfold abortSub
  grind only [safe_checkEnd, safe_endSub, Safe]

theorem safe_execEngineFaultAbort {source eng} (h : Safe s) : NextSafe (execEngineFaultAbort source eng s) := by
  unfold execEngineFaultAbort
  grind only [safe_abortCmd, safe_abortGmma, safe_abortRing, safe_abortSub, safe_giveUp, safe_endColl, NextSafe]

theorem safe_setBias {region host} (h : Safe s) : Safe (setBias s region host) := h

theorem safe_beginFlip {region host} (h : Safe s) : Safe (beginFlip s region host) := by
  unfold beginFlip
  grind only [safe_hold, safe_recallRegion, safe_enqueue, Safe]

theorem safe_execBiasFlipToHost {region} (h : Safe s) : NextSafe (execBiasFlipToHost region s) := safe_beginFlip h

theorem safe_execBiasFlipToDevice {region} (h : Safe s) : NextSafe (execBiasFlipToDevice region s) := safe_beginFlip h

theorem safe_execBiasFlipComplete {region} (h : Safe s) : NextSafe (execBiasFlipComplete region s) := by
  unfold execBiasFlipComplete
  grind only [safe_recallRegion, safe_setBias, safe_updDie, safe_enqueue, safe_unhold, safe_kickAll, NextSafe, Safe]

theorem safe_execMigrate {die region deviceSide} (h : Safe s) : NextSafe (execMigrate die region deviceSide s) := by
  unfold execMigrate
  grind only [safe_postSup, NextSafe, Safe]

theorem safe_execCounterHalving (h : Safe s) : NextSafe (execCounterHalving s) := by
  unfold execCounterHalving
  grind only [NextSafe, Safe]

theorem safe_execCommandPull {slot eng} (h : Safe s) : NextSafe (execCommandPull slot eng s) := by
  unfold execCommandPull
  grind only [safe_enqueue, safe_updCmd, NextSafe]

theorem safe_execDecoupleDeadlock {slot cycles} (h : Safe s) : NextSafe (execDecoupleDeadlock slot cycles s) := by
  unfold execDecoupleDeadlock
  grind only [safe_updSlot, safe_takeTrap, NextSafe]

theorem safe_execEccCounterRead {die} (h : Safe s) : NextSafe (execEccCounterRead die s) := by
  have hc : ∀ o, Safe (ctlRead s die o).1 := fun _ => safe_ctlRead h
  unfold execEccCounterRead
  refine nextSafe ?_
  split
  · exact h
  · exact hc _

theorem safe_countCorrection {l} (h : Safe s) : Safe (countCorrection s l) := by
  unfold countCorrection
  grind only [safe_updDie]

theorem safe_execSoftError {t} (h : Safe s) : NextSafe (execSoftError t s) := by
  cases t with
  | dataBit l bit => exact wf_setGranSyn _ _ _ (wf_writeByte _ _ _ h)
  | corrected l => exact safe_countCorrection h
  | uncorrectable l =>
    have hm : Safe { s with mem := setLineMeta s.mem (l / 64) (lineMeta s.mem (l / 64) ||| 8#8) } := wf_setLineMeta _ _ _ h
    unfold execSoftError NextSafe
    grind only [safe_fenceDie]
  | mainReg | vecReg | queue1 | acc | voted => exact h

/-! ### Futures -/

theorem safe_casRelease {slot sp old new} (h : Safe s) : OkSafe₁ (casRelease s slot sp old new) := by
  unfold casRelease
  grind only [safe_atomicAt, OkSafe₁]

theorem safe_execFtest {n d a} (h : Safe s) : NextSafe (execFtest n d a s) := by
  unfold execFtest
  grind only [safe_issueWord, safe_syncAccess, safe_acquireRead, safe_putResult, Res.state, OkSafe₁]

theorem safe_storeNode {slot sps node next cont} (h : Safe s) : OkSafe (storeNode s slot sps node next cont) := by
  unfold storeNode
  grind only [safe_performOp, safe_writeBackRange, OkSafe]

theorem safe_parkTask {slot} (h : Safe s) : Safe (parkTask s slot) := safe_checkEnd h

theorem safe_fwaitEff {a b c t} (h : Safe s) : Safe (fwaitEff a b c s t).state := by
  unfold fwaitEff
  refine safe_syncAccess (fun s t sp h => ?_) h
  have ha : OkSafe₁ (acquireRead s t.slot (isSup s t) sp) := safe_acquireRead h
  split
  · exact h
  · next s' v e =>
    refine Res.safe_ite (safe_putResult (ha.of_eq e)) (Res.safe_ite h (Res.safe_ite h (Res.safe_ite h ?_)))
    refine safe_aligned h (safe_access h fun s nsp h => ?_)
    grind only [safe_storeNode, safe_casRelease, safe_parkTask, OkSafe, OkSafe₁, Res.state]

theorem safe_nodesReach {t n va k} (h : Safe s) (hk : ∀ s, Safe s → Safe (k s).state) :
    Safe (nodesReach t n s va k).state := by
  induction n generalizing s va with
  | zero => exact hk s h
  | succ n ih =>
    refine Res.safe_ite (hk s h) (safe_access h fun s sps h => ?_)
    split
    · split
      · exact h
      · exact ih h
    · exact h

theorem safe_ffillEff {a b t} (h : Safe s) : Safe (ffillEff a b s t).state := by
  unfold ffillEff
  refine safe_syncAccess (fun s t sp h => ?_) h
  have hs : OkSafe (if isSup s t then .ok s else escape s t.slot s.nextUid escSig) := by
    split
    · exact h
    · exact safe_escape h
  split
  · exact h
  · next s₁ e =>
    have h₁ := hs.of_eq e
    have ha : OkSafe₁ (acquireRead s₁ t.slot true sp) := safe_acquireRead h₁
    split
    · exact h₁
    · next s₂ v e =>
      refine Res.safe_ite h (Res.safe_ite h ?_)
      generalize hk : (fun s₁ => _ : State → Res) = k
      have hr : Safe (nodesReach t 4096 s₂ (futureNode v) k).state := by
        refine safe_nodesReach (ha.of_eq e) fun s h => ?_
        grind only [safe_casRelease, safe_takeUid, safe_enqueue, OkSafe₁, Res.state]
      grind only [Res.state]

/-! ### HostIf -/

theorem safe_headHost {i t} (h : Safe s) (e : headHost s = some (i, t)) : Safe t := by
  unfold headHost at e
  grind only [Safe]

theorem safe_execSrqWrite (h : Safe s) : NextSafe (execSrqWrite s) := by
  unfold execSrqWrite
  grind only [safe_headHost, safe_setSrq, NextSafe]

theorem safe_execSevqWrite (h : Safe s) : NextSafe (execSevqWrite s) := by
  unfold execSevqWrite
  grind only [safe_headHost, safe_setSevq, NextSafe]

theorem safe_loadRoute {dst mask} (h : Safe s) : Safe (loadRoute s dst mask) := by
  unfold loadRoute
  grind only [safe_unhold, Safe]

theorem safe_loadWindow {i w} (h : Safe s) : Safe (loadWindow s i w) := by
  unfold loadWindow
  grind only [Safe]

theorem safe_loadOutWindow {i w} (h : Safe s) : Safe (loadOutWindow s i w) := by
  unfold loadOutWindow
  grind only [Safe]

theorem safe_raiseMinimum {kind svn sig} (h : Safe s) : Safe (raiseMinimum s kind svn sig) := by
  unfold raiseMinimum
  grind only [Safe]

theorem safe_execRegisterWrite (h : Safe s) : NextSafe (execRegisterWrite s) := by
  unfold execRegisterWrite
  refine nextSafe ?_
  have hh : ∀ i t, headHost s = some (i, t) → Safe t := fun _ _ => safe_headHost h
  have hc : ∀ s d o v, Safe s → Safe (ctlWrite s d o v) := fun _ _ _ _ => safe_ctlWrite
  split
  · next e => exact safe_ite (hc _ _ _ _ (hh _ _ e)) (hh _ _ e)
  · next e => exact safe_loadRoute (hh _ _ e)
  · next e => exact safe_loadWindow (hh _ _ e)
  · next e => exact safe_loadOutWindow (hh _ _ e)
  · next e => have h := hh _ _ e; exact h
  · next e => have h := hh _ _ e; exact safe_ite h h
  · next e => exact safe_raiseMinimum (hh _ _ e)
  · next e => have h := hh _ _ e; exact safe_ite h h
  · next e => exact safe_ite (safe_disposeTask (hh _ _ e)) (hh _ _ e)
  · next e => have h := hh _ _ e; exact safe_ite h h
  · exact h

theorem safe_hostTouch {line} (h : Safe s) : Safe (hostTouch s line) := by
  unfold hostTouch
  grind only [safe_setBias, safe_recallRegion, safe_enqueue, Safe]

theorem safe_hostReadLine {a line} (ha : Safe a.1) : Safe (hostReadLine a line).1 := by
  unfold hostReadLine
  grind only [! safe_hostTouch, safe_portError]

theorem safe_hostWriteLine {r line} (h : Safe s) : Safe (hostWriteLine r s line) := by
  unfold hostWriteLine
  grind only [safe_hostTouch, safe_putHomeGran, safe_lineWritten, safe_clearRanges, safe_putHomeMeta, safe_portError]

theorem safe_execHostMemRead (h : Safe s) : NextSafe (execHostMemRead s) := by
  unfold execHostMemRead
  split
  · next e =>
    have hs := safe_headHost h e
    split
    · trivial
    split
    · exact safe_hold h
    · exact safe_foldl₁ (fun _ _ => safe_hostReadLine) hs
  · next e =>
    have hs := safe_headHost h e
    split
    · exact safe_ctlRead hs
    · exact hs
  · exact h

theorem safe_hostWriteRuns {l n} (h : Safe s) : Safe (hostWriteRuns l n s) := by
  fun_induction hostWriteRuns l n s <;> grind only [safe_hostWriteLine, safe_foldl]

theorem safe_execHostMemWrite (h : Safe s) : NextSafe (execHostMemWrite s) := by
  unfold execHostMemWrite
  grind only [safe_headHost, safe_hold, safe_hostWriteRuns, NextSafe]

theorem safe_execHostSnoop (h : Safe s) : NextSafe (execHostSnoop s) := by
  unfold execHostSnoop
  grind only [safe_headHost, safe_purge, safe_putHomeGran, safe_putHomeMeta, safe_clearRanges, safe_lineWritten, NextSafe,
    safe_foldl, Safe]

/-! ### System -/

theorem safe_execSvc {n num} (h : Safe s) : NextSafe (execSvc n num s) := by
  unfold execSvc
  grind only [safe_issueWord, Res.state]

theorem safe_execTrap {n num} (h : Safe s) : NextSafe (execTrap n num s) := by
  unfold execTrap
  grind only [safe_issueWord, Res.state]

theorem safe_putStore {slot img l n} (h : Safe s) : OkSafe (putStore slot img s l n) := by
  fun_induction putStore slot img s l n <;> grind only [safe_storeSpans, OkSafe]

theorem safe_settleRange {slot l} (h : Safe s) : Safe (settleRange s slot l) :=
  safe_foldl (fun _ _ => safe_writeBackRange) h

theorem safe_snapEff {f t} (h : Safe s) : Safe (snapEff f s t).state := by
  unfold snapEff
  grind only [safe_aligned, safe_access, safe_runPulled, safe_stopWords, safe_putStore, safe_settleRange, safe_keepSaved,
    safe_kickCore, safe_updSlot, Res.state, OkSafe, Safe]

theorem safe_freeSnapped {slot} (h : Safe s) : Safe (freeSnapped s slot) := by
  unfold freeSnapped
  grind only [safe_setSlot, Safe]

theorem safe_eretEff {n t} (h : Safe s) : Safe (eretEff n s t).state := by
  unfold eretEff
  grind only [safe_enqueue, safe_freeSnapped, safe_updSlot, safe_cancelSlot, safe_kickSlot, safe_checkEnd, safe_resumeStores,
    Res.state]

theorem safe_takeStore {slot l n r} (h : Safe s) : OkSafe₁ (takeStore slot s l n r) := by
  fun_induction takeStore slot s l n r <;> grind only [safe_moveSpans, OkSafe₁]

theorem safe_moveGang {k die} (h : Safe s) : Safe (moveGang s k die) := by
  unfold moveGang
  grind only [safe_moveBars, Safe]

theorem safe_rejoin {slot k} (h : Safe s) : Safe (rejoin s slot k) := safe_rejoinSlot h

theorem safe_resumeSlot {slot} (h : Safe s) : Safe (resumeSlot s slot) := by
  unfold resumeSlot
  grind only [safe_updSlot, safe_kickSlot, safe_checkEnd, safe_resumeStores, safe_wakeSlot]

theorem safe_resumeMembers {slot job r} (h : Safe s) : Safe (resumeMembers s slot job r) := by
  unfold resumeMembers
  grind only [safe_resumeSlot, safe_updSlot, safe_foldl]

theorem safe_snapldEff {f t} (h : Safe s) : Safe (snapldEff f s t).state := by
  refine safe_aligned h (safe_access h fun s hps h => Res.safe_ite h ?_)
  split
  · exact h
  · next s head e =>
    have h := (safe_takeStore h).of_eq e
    extract_lets fin
    have hfin : ∀ s v, Safe s → Safe (fin s v).state := fun _ _ => safe_putResult
    refine Res.safe_ite (hfin _ _ h) (safe_access h fun s sps h => ?_)
    split
    · exact h
    · next s img e =>
      have h := (safe_takeStore h).of_eq e
      refine Res.safe_ite (hfin _ _ h) (safe_access h fun s aps h => ?_)
      split
      · exact h
      · next s alloc e =>
        have h := (safe_takeStore h).of_eq e
        extract_lets s₁ kept job s₂ x s₃ s₄ s₅
        have h₁ : Safe s₁ := by grind only [safe_moveGang]
        have h₄ : Safe s₄ := safe_dropRange (wf_blit _ _ _ (safe_loadImage h₁))
        have h₅ : Safe s₅ := by grind only [safe_rejoin]
        exact hfin _ _ (safe_resumeMembers h₅)

theorem safe_dropLeaves {hit} (h : Safe s) : Safe (dropLeaves hit s).state := by
  unfold dropLeaves
  grind only [Res.state, Safe]

theorem safe_tlbinvRangeEff {a b t} (h : Safe s) : Safe (tlbinvRangeEff a b s t).state := by
  unfold tlbinvRangeEff
  grind only [safe_dropLeaves, Res.state]

theorem safe_tlbinvJobEff {a t} (h : Safe s) : Safe (tlbinvJobEff a s t).state := by
  unfold tlbinvJobEff
  grind only [safe_dropLeaves, Res.state]

theorem safe_execTlbinvAll {n} (h : Safe s) : NextSafe (execTlbinvAll n s) :=
  safe_issueWord (fun _ _ h => safe_dropLeaves h) h

/-! ### Jobs -/

theorem safe_answer {status fcode} (h : Safe s) : Safe (answer s status fcode) := by
  unfold answer
  grind only [safe_kickRequests, safe_reportSlot, Safe]

theorem safe_refuse (h : Safe s) : Safe (refuse s) := safe_answer h

theorem safe_reply {r} (h : Safe s) : Safe (reply s r) := h

theorem safe_execCreateJob (h : Safe s) : NextSafe (execCreateJob s) := by
  unfold execCreateJob
  grind only [safe_draw, safe_refuse, safe_setJob, safe_reply, safe_answer, NextSafe]

theorem safe_abortQueued {job} (h : Safe s) : Safe (abortQueued s job) := by
  unfold abortQueued
  grind only [safe_queueDone, safe_kickPlace, safe_reportSlot, safe_setHqueue, safe_foldl, Safe]

theorem safe_dropJob {job} (h : Safe s) : Safe (dropJob s job) := h

theorem safe_killJob {job} (h : Safe s) : Safe (killJob s job) := by
  unfold killJob
  grind only [safe_setJob, safe_cancelLevel, safe_enqueue, safe_dropJob, safe_abortQueued]

theorem safe_execKillJob (h : Safe s) : NextSafe (execKillJob s) := by
  unfold execKillJob
  grind only [safe_answer, safe_killJob, safe_refuse, NextSafe]

theorem safe_execKillDone {job} (h : Safe s) : NextSafe (execKillDone job s) := by
  unfold execKillDone
  grind only [safe_setJob, safe_postSup, safe_postJob, safe_dropJob, NextSafe, Safe]

theorem safe_execHostCompletionTimeout {job} (h : Safe s) : NextSafe (execHostCompletionTimeout job s) := by
  unfold execHostCompletionTimeout
  grind only [safe_enqueue, NextSafe]

theorem safe_execCreateQueue (h : Safe s) : NextSafe (execCreateQueue s) := by
  unfold execCreateQueue
  grind only [safe_refuse, safe_queueDesc, safe_queueSet, safe_answer, safe_enqueue, NextSafe, Safe]

theorem safe_execDestroyQueue (h : Safe s) : NextSafe (execDestroyQueue s) := by
  unfold execDestroyQueue
  grind only [safe_refuse, safe_queueDesc, safe_answer, safe_enqueue, safe_setHqueue, NextSafe]

theorem safe_takeImage (h : Safe s) : Safe (takeImage s).1 := h

theorem safe_flushAll (h : Safe s) : Safe (flushAll s) := safe_foldl (fun _ _ => safe_writeBack) h

theorem safe_preemptAll (h : Safe s) : Safe (preemptAll s) := by
  unfold preemptAll
  grind only [safe_preempt, safe_foldl]

theorem safe_withJobsStopped {go} (h : Safe s) (hgo : ∀ s, Safe s → Safe (go s)) : Safe (withJobsStopped s go) := by
  unfold withJobsStopped
  grind only [safe_preemptAll, safe_flushAll, Safe]

theorem safe_execCheckpoint (h : Safe s) : NextSafe (execCheckpoint s) := by
  unfold execCheckpoint
  grind only [safe_refuse, safe_withJobsStopped, safe_takeImage, safe_reply, NextSafe]

theorem safe_putImage {i} (h : Safe s) : Safe (putImage s i) := by
  obtain ⟨hc, hs, hm⟩ := wf_iff.1 h
  exact safe_foldl (fun _ _ => safe_enqueue)
    (wf_iff.2 ⟨kvWf_foldl _ _ _ (kvWf_filter _ hc), kvWf_foldl _ _ _ (kvWf_filter _ hs), kvWf_foldl _ _ _ (kvWf_filter _ hm)⟩)

theorem safe_execRestore (h : Safe s) : NextSafe (execRestore s) := by
  unfold execRestore
  grind only [safe_refuse, safe_withJobsStopped, safe_putImage, NextSafe]

theorem safe_ckptEnd {st} (h : Safe s) : Safe (ckptEnd s st) := by
  unfold ckptEnd
  grind only [safe_postSup, safe_enqueue, safe_answer, safe_foldl, Safe]

theorem safe_execCkptDone {st} (h : Safe s) : NextSafe (execCkptDone st s) := by
  unfold execCkptDone
  grind only [safe_ckptEnd, NextSafe]

theorem safe_execCheckpointTargetStall (h : Safe s) : NextSafe (execCheckpointTargetStall s) := by
  unfold execCheckpointTargetStall
  grind only [safe_ckptEnd, NextSafe]

theorem safe_execAttest (h : Safe s) : NextSafe (execAttest s) := by
  unfold execAttest
  grind only [safe_refuse, safe_reply, safe_answer, NextSafe]

theorem safe_execFwStage (h : Safe s) : NextSafe (execFwStage s) := by
  unfold execFwStage
  grind only [safe_answer, safe_refuse, NextSafe, Safe]

theorem safe_execWarmReset (h : Safe s) : NextSafe (execWarmReset s) := by
  unfold execWarmReset
  grind only [safe_flushAll, safe_answer, NextSafe, Safe]

theorem safe_execFenceDie (h : Safe s) : NextSafe (execFenceDie s) := by
  unfold execFenceDie
  grind only [safe_refuse, safe_answer, safe_fenceDie, NextSafe]

/-! ### Fetch -/

theorem safe_fetchWord {t va} (h : Safe s) : Safe (fetchWord s t va).1 := by
  unfold fetchWord
  grind only [safe_trPage, safe_needFar, safe_countAccess, safe_cachePut, SomeSafe, Safe]

theorem safe_fetchAt {t va} (h : Safe s) : Safe (fetchAt s t va).1 := by
  unfold fetchAt
  grind only [safe_fetchWord]

theorem safe_issueUndecoded {t w ext} (h : Safe s) : Safe (issueUndecoded s t w ext) := by
  unfold issueUndecoded
  grind only [safe_retireWord, safe_pushVoid, safe_stall, safe_takeTrap]

theorem safe_fetchFault {t k va} (h : Safe s) : Safe (fetchFault s t k va) := by
  unfold fetchFault
  grind only [safe_freezeSlot, safe_takeTrap, safe_stall]

theorem safe_fetchBad {t b} (h : Safe s) : Safe (fetchBad s t b) := by
  unfold fetchBad
  grind only [safe_freezeSlot, safe_wordError, safe_stall]

/-! ### SysRegs -/

theorem safe_writeSr {t n v} (h : Safe s) : SomeSafe (writeSr s t n v) := by
  unfold writeSr
  grind only [safe_updSlot, safe_updSeq, SomeSafe]

theorem safe_execRdsr {n f sr} (h : Safe s) : NextSafe (execRdsr n f sr s) := by
  unfold execRdsr
  grind only [safe_issueWord, safe_putResult, safe_observe, Res.state]

theorem safe_execWrsr {n sr f} (h : Safe s) : NextSafe (execWrsr n sr f s) := by
  unfold execWrsr
  grind only [safe_issueWord, safe_writeSr, SomeSafe, Res.state]

/-! ### Power -/

theorem wf_hostStore {m} (h : Memory.wf m = true) : Memory.wf (hostStore m) = true := by
  obtain ⟨hc, hs, hm⟩ := wf_iff.1 h
  exact wf_iff.2 ⟨kvWf_filter _ hc, rfl, kvWf_filter _ hm⟩

theorem wf_warmStore {m} (h : Memory.wf m = true) : Memory.wf (warmStore m) = true := by
  obtain ⟨hc, hs, hm⟩ := wf_iff.1 h
  exact wf_iff.2 ⟨kvWf_filter _ hc, kvWf_filter _ hs, kvWf_filter _ hm⟩

theorem safe_startBase {a warm} (h : Safe s) : Safe (startBase s a warm) := by
  cases warm with
  | false => exact wf_hostStore h
  | true => exact wf_warmStore h

theorem safe_startLast {a warm} {s0 : State} (h : Safe s) : Safe (startLast s0 s a warm) := by
  unfold startLast
  grind only [safe_physWrite, safe_updDie, safe_enqueue, safe_foldl, Safe]

theorem safe_execStart {a} (h : Safe s) : NextSafe (execStart a s) := by
  unfold execStart
  grind only [safe_startLast, safe_startBase, NextSafe]

theorem safe_execResetNAssertion (h : Safe s) : NextSafe (execResetNAssertion s) := by
  unfold execResetNAssertion
  grind only [NextSafe, Safe]

theorem safe_execPwrgoodFall (h : Safe s) : NextSafe (execPwrgoodFall s) := h

theorem safe_execFreeze (h : Safe s) : NextSafe (execFreeze s) := by
  unfold execFreeze
  grind only [safe_draw, NextSafe, Safe]

theorem safe_execFreezeRelease (h : Safe s) : NextSafe (execFreezeRelease s) := h

theorem safe_execScanReadout {t} (h : Safe s) : NextSafe (execScanReadout t s) := by
  unfold execScanReadout
  grind only [NextSafe, Safe]

theorem safe_execUnlockToken {challenge token} (h : Safe s) : NextSafe (execUnlockToken challenge token s) := by
  unfold execUnlockToken
  grind only [NextSafe, Safe]

theorem safe_setPower {p} (h : Safe s) : Safe (setPower s p) := by
  unfold setPower
  grind only [Safe]

theorem safe_execPowerSample {watts} (h : Safe s) : NextSafe (execPowerSample watts s) := by
  unfold execPowerSample
  grind only [safe_setPower, NextSafe]

theorem safe_execThermalSample {die temp} (h : Safe s) : NextSafe (execThermalSample die temp s) := by
  unfold execThermalSample
  grind only [safe_setPower, safe_fenceDie, NextSafe]

theorem safe_execThermalStep (h : Safe s) : NextSafe (execThermalStep s) := by
  unfold execThermalStep
  grind only [safe_setPower, NextSafe]

theorem safe_execPowerLimit {thermal} (h : Safe s) : NextSafe (execPowerLimit thermal s) := by
  unfold execPowerLimit
  grind only [safe_postSup, NextSafe, Safe]

/-! ### Tensor -/

theorem safe_sttWrite {t va rec k ws o xs} (h : Safe s) : Safe (sttWrite s t va rec k ws o xs).state := by
  unfold sttWrite
  grind only [safe_slotWrite, safe_updSlot, safe_mergeCounts, OkSafe, Res.state]

theorem safe_sttStore {m t va rec r v src o} (h : Safe s) (hm : Memory.wf m = true) :
    Safe (sttStore m s t va rec r v src o).state := by
  unfold sttStore
  extract_lets f w n k back e
  have hback : ∀ s, Safe (back s) := fun _ => hm
  clear_value back
  refine Res.safe_ite (hback s) ?_
  split
  · exact hback s
  · next vs _ =>
    extract_lets xs out runs
    refine Res.safe_ite (hback s) ?_
    have ht : Safe (transRuns (slotCtx s t.slot t.seq) s runs).1 := safe_transRuns h
    split
    · exact hback _
    · exact hback _
    · next s ws e =>
      have h := safe_fst ht e
      extract_lets sps
      refine Res.safe_ite (hback s) (Res.safe_ite (hback s) (Res.safe_ite (hback s) (Res.safe_ite (hback s) ?_)))
      have hw : Safe (sttWrite s t va rec k ws out xs).state := safe_sttWrite h
      split
      · exact hback _
      · exact hw

theorem safe_sttEff {a b fmt t} (h : Safe s) : Safe (sttEff a b fmt s t).state := by
  refine safe_aligned h (safe_access h fun s sps h => ?_)
  split
  · split
    · exact h
    · next s r e =>
      have h := (safe_readRecord h).of_eq e
      have hr : ∀ o va sp, Resolve.Safe (resolveRecord s (getSlot s t.slot).job o va sp r) := fun _ _ _ => safe_resolveRecord h
      have hm : Memory.wf s.mem = true := h
      grind only [safe_sttStore, Resolve.Safe, Res.state]
  · exact h

theorem safe_vhistEff {a b t} (h : Safe s) : Safe (vhistEff a b s t).state := by
  refine Res.safe_ite h (safe_aligned h (safe_access h fun s sps h => ?_))
  split
  · split
    · exact h
    · next s r e =>
      have h := (safe_readRecord h).of_eq e
      have hc : ∀ j, Safe (checkRecord s j r).1 := fun _ => safe_checkRecord h
      split
      · next e => exact safe_fst (hc _) e
      · next e =>
        have h := safe_fst (hc _) e
        split
        · next e => exact (safe_slotWrite h).of_eq e
        · exact h
  · exact h

/-! ### Vote -/

theorem safe_passVote {t} (h : Safe s) : Safe (passVote s t) := h

theorem safe_voteTrap {t tr} (h : Safe s) : Safe (voteTrap s t tr) := safe_takeTrap h

theorem safe_voteRun {t i a ws sigs} (h : Safe s) : Safe (voteRun s t i a ws sigs) := by
  unfold voteRun
  grind only [safe_voteTrap, safe_updSlot, safe_wordError, safe_stall, safe_retireWord, safe_passVote, safe_writeAlu]

theorem safe_voteWord {t i} (h : Safe s) : Safe (voteWord s t i) := by
  unfold voteWord
  grind only [safe_passVote, safe_voteTrap, safe_retireWord, safe_pushVoid, safe_stall, safe_wordError, safe_voteRun]

theorem safe_voteStep (h : Safe s) : Safe (voteStep s) := by
  unfold voteStep
  grind only [safe_fetchAt, safe_voteWord, safe_issueUndecoded, safe_passVote, safe_voteTrap, safe_fetchFault, safe_fetchBad,
    safe_stall]

theorem safe_execVote (h : Safe s) : NextSafe (execVote s) := safe_voteStep h

/-! ### The step -/

theorem safe_exec {i} (h : Safe s) : NextSafe (exec i s) := by
  cases i with
  | start => exact safe_execStart h
  | scanReadout => exact safe_execScanReadout h
  | unlockToken => exact safe_execUnlockToken h
  | powerSample => exact safe_execPowerSample h
  | powerLimit => exact safe_execPowerLimit h
  | thermalSample => exact safe_execThermalSample h
  | dieFenced => exact safe_execDieFenced h
  | distributorHeartbeat => exact safe_execDistributorHeartbeat h
  | invalidFlit => exact safe_execInvalidFlit h
  | linkRetry => exact safe_execLinkRetry h
  | portDown => exact safe_execPortDown h
  | deviceLost => exact safe_execDeviceLost h
  | relFabricTimeout => exact safe_execRelFabricTimeout h
  | collectiveTimeout => exact safe_execCollectiveTimeout h
  | shardComplete => exact safe_execShardComplete h
  | collectiveComplete => exact safe_execCollectiveComplete h
  | gangTimeout => exact safe_execGangTimeout h
  | gangReservationExpiry => exact safe_execGangReservationExpiry h
  | killDone => exact safe_execKillDone h
  | hostCompletionTimeout => exact safe_execHostCompletionTimeout h
  | ckptDone => exact safe_execCkptDone h
  | queueSlotAccept => exact safe_execQueueSlotAccept h
  | queueStall => exact safe_execQueueStall h
  | issuePacket => exact safe_execIssuePacket h
  | collRequest => exact safe_execCollRequest h
  | pageWalk => exact safe_execPageWalk h
  | walkRestart => exact safe_execWalkRestart h
  | engineFault => exact safe_execEngineFault h
  | engineFaultResume => exact safe_execEngineFaultResume h
  | engineFaultAbort => exact safe_execEngineFaultAbort h
  | biasFlipToHost => exact safe_execBiasFlipToHost h
  | biasFlipToDevice => exact safe_execBiasFlipToDevice h
  | biasFlipComplete => exact safe_execBiasFlipComplete h
  | migrate => exact safe_execMigrate h
  | taskEnd => exact safe_execTaskEnd h
  | recordAging => exact safe_execRecordAging h
  | gangReservationTimeout => exact safe_execGangReservationTimeout h
  | preemptionDelay => exact safe_execPreemptionDelay h
  | barrierForward => exact safe_execBarrierForward h
  | instanceGrant => exact safe_execInstanceGrant h
  | escapementSample => exact safe_execEscapementSample h
  | balanceDecision => exact safe_execBalanceDecision h
  | commandPull => exact safe_execCommandPull h
  | decoupleDeadlock => exact safe_execDecoupleDeadlock h
  | loadDelivery => exact safe_execLoadDelivery h
  | regionDrainComplete => exact safe_execRegionDrainComplete h
  | copyPacketComplete => exact safe_execCopyPacketComplete h
  | matrixCommandComplete => exact safe_execMatrixCommandComplete h
  | gatherComplete => exact safe_execGatherComplete h
  | streamTile => exact safe_execStreamTile h
  | streamComplete => exact safe_execStreamComplete h
  | fpReduceContribution => exact safe_execFpReduceContribution h
  | fpReduceTimeout => exact safe_execFpReduceTimeout h
  | eccCounterRead => exact safe_execEccCounterRead h
  | nop => exact safe_execNop h
  | br => exact safe_execBr h
  | bz => exact safe_execBz h
  | bnz => exact safe_execBnz h
  | ret => exact safe_execRet h
  | jmpi => exact safe_execJmpi h
  | loop => exact safe_execLoop h
  | setlc => exact safe_execSetlc h
  | stage => exact safe_execStage h
  | yield => exact safe_execYield h
  | seg => exact safe_execSeg h
  | segend => exact safe_execSegend h
  | qput => exact safe_execQput h
  | qcnt => exact safe_execQcnt h
  | rdsr => exact safe_execRdsr h
  | wrsr => exact safe_execWrsr h
  | tsig => exact safe_execTsig h
  | twait => exact safe_execTwait h
  | fence => exact safe_execFence h
  | ftest => exact safe_execFtest h
  | bararr => exact safe_execBararr h
  | barwait => exact safe_execBarwait h
  | copy => exact safe_execCopy h
  | gath => exact safe_execGath h
  | svc => exact safe_execSvc h
  | trap => exact safe_execTrap h
  | crclose => exact safe_execCrclose h
  | tlbinvAll => exact safe_execTlbinvAll h
  | storePerformed => exact safe_execStorePerformed h
  | softError => exact safe_execSoftError h
  | wr => exact safe_execWr h
  | wrack => exact safe_execWrack h
  | rd => exact safe_execRd h
  | rdresp => exact safe_execRdresp h
  | atom => exact safe_execAtom h
  | atomresp => exact safe_execAtomresp h
  | relw => exact safe_execRelw h
  | filln => exact safe_execFilln h
  | freen => exact safe_execFreen h
  | smax => exact safe_execSmax h
  | smaxres => exact safe_execSmaxres h
  | gres => exact safe_execGres h
  | gresack => exact safe_execGresack h
  | gstart => exact safe_execGstart h
  | gstartack => exact safe_execGstartack h
  | gcancel => exact safe_execGcancel h
  | cwr => exact safe_execCwr h
  | hbeat => exact safe_execHbeat h
  | srqWrite => exact safe_execSrqWrite h
  | sevqWrite => exact safe_execSevqWrite h
  | registerWrite => exact safe_execRegisterWrite h
  | hostMemRead => exact safe_execHostMemRead h
  | hostMemWrite => exact safe_execHostMemWrite h
  | hostSnoop => exact safe_execHostSnoop h
  | createJob => exact safe_execCreateJob h
  | killJob => exact safe_execKillJob h
  | createQueue => exact safe_execCreateQueue h
  | destroyQueue => exact safe_execDestroyQueue h
  | checkpoint => exact safe_execCheckpoint h
  | restore => exact safe_execRestore h
  | attest => exact safe_execAttest h
  | fwStage => exact safe_execFwStage h
  | fenceDie => exact safe_execFenceDie h
  | freeze => exact safe_execFreeze h
  | thermalStep => exact safe_execThermalStep h
  | masterElection => exact safe_execMasterElection h
  | deviceHeartbeat => exact safe_execDeviceHeartbeat h
  | warmReset => exact safe_execWarmReset h
  | counterHalving => exact safe_execCounterHalving h
  | checkpointTargetStall => exact safe_execCheckpointTargetStall h
  | freezeRelease => exact safe_execFreezeRelease h
  | resetNAssertion => exact safe_execResetNAssertion h
  | pwrgoodFall => exact safe_execPwrgoodFall h
  | vote => exact safe_execVote h
  | beq | bne | blt | bge | bltu | bgeu => exact safe_issueWord (fun _ _ h => safe_branchEff h) h
  | call | calli => exact safe_issueWord (fun _ _ h => safe_callEff h) h
  | tend => exact safe_issueWord (fun _ _ h => safe_tendEff h) h
  | qget => exact safe_issueWord (fun _ _ h => safe_qgetEff h) h
  | qpeek => exact safe_issueWord (fun _ _ h => safe_qpeekEff h) h
  | ldb | ldh | ldw | ldd => exact safe_issueWord (fun _ _ h => safe_loadEff h) h
  | ldc => exact safe_issueWord (fun _ _ h => safe_ldcEff h) h
  | ldq | ldvq => exact safe_issueWord (fun _ _ h => safe_queueLoadEff h) h
  | stb | sth | stw | std => exact safe_issueWord (fun _ _ h => safe_storeEff h) h
  | stvq => exact safe_issueWord (fun _ _ h => safe_stvqEff h) h
  | stt => exact safe_issueWord (fun _ _ h => safe_sttEff h) h
  | pref => exact safe_issueWord (fun _ _ h => safe_prefEff h) h
  | aadd | amin | amax | aminu | amaxu | aand | aor | axor | aswap | cas | casw =>
    exact safe_issueWord (fun _ _ h => safe_atomEff h) h
  | red => exact safe_issueWord (fun _ _ h => safe_redEff h) h
  | acq => exact safe_issueWord (fun _ _ h => safe_syncAccess (fun _ _ _ => safe_acqEff) h) h
  | rel => exact safe_issueWord (fun _ _ h => safe_relEff h) h
  | bind => exact safe_issueWord (fun _ _ h => safe_bindEff h) h
  | unbind => exact safe_issueWord (fun _ _ h => safe_unbindEff h) h
  | xfence => exact safe_issueWord (fun _ _ h => safe_xfenceEff h) h
  | cflush => exact safe_issueWord (fun _ _ h => safe_cflushEff h) h
  | cinv => exact safe_issueWord (fun _ _ h => safe_cinvEff h) h
  | rclaim | rtake => exact safe_issueWord (fun _ _ h => safe_claimEff h) h
  | rfill | rfree => exact safe_issueWord (fun _ _ h => safe_publishEff h) h
  | rwaitf | rwaite => exact safe_issueWord (fun _ _ h => safe_ringWaitEff h) h
  | rstat => exact safe_issueWord (fun _ _ h => safe_rstatEff h) h
  | rbind => exact safe_issueWord (fun _ _ h => safe_rbindEff h) h
  | fwait => exact safe_issueWord (fun _ _ h => safe_fwaitEff h) h
  | ffill => exact safe_issueWord (fun _ _ h => safe_ffillEff h) h
  | barsync => exact safe_issueWord (fun _ _ h => safe_barsyncEff h) h
  | wpwait => exact safe_issueWord (fun _ _ h => safe_wpwaitEff h) h
  | vld => exact safe_issueWord (fun _ _ h => safe_vldEff h) h
  | vst => exact safe_issueWord (fun _ _ h => safe_vstEff h) h
  | vldx => exact safe_issueWord (fun _ _ h => safe_vldxEff h) h
  | vstx => exact safe_issueWord (fun _ _ h => safe_vstxEff h) h
  | vhist => exact safe_issueWord (fun _ _ h => safe_vhistEff h) h
  | mma | mconv | mepi => exact safe_issueWord (fun _ _ h => safe_matrixEff h) h
  | gmma => exact safe_issueWord (fun _ _ h => safe_gmmaEff h) h
  | mzero | mswap => exact safe_issueWord (fun _ _ h => safe_bankEff h) h
  | mstatr => exact safe_issueWord (fun _ _ h => safe_mstatrEff h) h
  | copym => exact safe_issueWord (fun _ _ h => safe_copymEff h) h
  | strsub => exact safe_issueWord (fun _ _ h => safe_strsubEff h) h
  | strdrop => exact safe_issueWord (fun _ _ h => safe_strdropEff h) h
  | coll => exact safe_issueWord (fun _ _ h => safe_collEff h) h
  | launch | gang => exact safe_issueWord (fun _ _ h => safe_levelEff h) h
  | spawn => exact safe_issueWord (fun _ _ h => safe_spawnEff h) h
  | jdec => exact safe_issueWord (fun _ _ h => safe_jdecEff h) h
  | cancel => exact safe_issueWord (fun _ _ h => safe_cancelEff h) h
  | phend => exact safe_issueWord (fun _ _ h => safe_phendEff h) h
  | eret => exact safe_issueWord (fun _ _ h => safe_eretEff h) h
  | cropen => exact safe_issueWord (fun _ _ h => safe_cropenEff h) h
  | snap => exact safe_issueWord (fun _ _ h => safe_snapEff h) h
  | snapld => exact safe_issueWord (fun _ _ h => safe_snapldEff h) h
  | tlbinvRange => exact safe_issueWord (fun _ _ h => safe_tlbinvRangeEff h) h
  | tlbinvJob => exact safe_issueWord (fun _ _ h => safe_tlbinvJobEff h) h
  | add | sub | mul | mulh | div | rem | and | or | xor | andn | shl | shr | sra | rot | min | max | clz | ctz |
    popc | sext | zext | cmp | sel | lea | mov | li | liw | lihi | addi | andi | ori | xori | shli | shri | srai |
    cmpi | vadd | vsub | vmul | vfma | vmin | vmax | vabs | vdiv | vsqrt | vrcp | vrsq | vexp2 | vlog2 | vcmp | vsel
    | viadd | visub | vimul | vlogic | vshift | viminmax | vsett | vbcast | vextr | vins | vperm | viota | vreds |
    vredm | vcvt | vquant | vdeq | vresid | vtopk | vamax | vpack | vunpk =>
    exact safe_issueAlu h

theorem safe_wordStep (h : Safe s) : NextSafe (wordStep s) := by
  refine NextSafe.ite ?_ h
  have hf : ∀ t p k pc, Safe (fetchAt (serve { s with turn := t } p k) t pc).1 := fun _ p k _ =>
    safe_fetchAt (safe_serve (place := p) (slot := k) h)
  split <;> rename_i e <;> have h := safe_fst (hf _ _ _ _) e
  · exact safe_exec h
  · exact safe_issueUndecoded h
  · exact safe_fetchFault h
  · exact safe_fetchBad h
  · exact safe_stall h

theorem safe_happen {w} (h : Safe s) : NextSafe (happen s w) := by
  refine NextSafe.ite h ?_
  cases w with
  | event i => exact NextSafe.ite (safe_exec h) h
  | issue => exact safe_wordStep h
  | schedule => exact safe_scheduleStep h
  | evict => exact safe_purge h
  | work => exact safe_workStep h
  | preempt => exact safe_preemptTask h
  | fill => exact safe_fillStep h
  | cancelled => exact safe_cancelRest h
  | coll => exact safe_collWork h
  | posting => exact safe_postWaiting h
  | portError => exact safe_portError h

theorem safe_step (h : Safe s) : NextSafe (step s) := by
  unfold step
  split
  · exact safe_happen h
  · have hw : NextSafe (wordStep s) := safe_wordStep h
    revert hw
    cases wordStep s with
    | next => exact id
    | fault | refused => exact fun _ => trivial

end

/-- Settles O25: a step is an instruction, an event or a happening, and each of them keeps storage canonical. -/
theorem storageStaysCanonical : Obligations.StorageStaysCanonical := by
  intro s t h e
  have hs : NextSafe (step s) := safe_step h
  rwa [e] at hs

end Sys2Proof.Machine
end

section
/-! PROOFS. A flit at the head of the receive queue (02 R37, R40), and a FREEN that brings a sender's shadow to zero (02 R46). -/

namespace Sys2Proof.Machine

section
variable {s : State} {port : Nat} {f : Flit} {rest : List (Nat × Flit)} {kind : BitVec 6} {ok : Flit → Bool}
  {k : State → Nat → Flit → State} {key : Nat}

/-! ### The head of the receive queue -/

/-- The state in which a flit that was at the head of the receive queue has its effect. -/
def received (s : State) (port : Nat) (f : Flit) (rest : List (Nat × Flit)) : State := heardFrom { s with rx := rest } port f

theorem takeFlit_head (hk : f.kind = kind) (ho : ok f = true) :
    takeFlit kind ok [] ((port, f) :: rest) = some ([], port, f, rest) := by
  simp [takeFlit, hk, ho]

theorem onFlit_head (hr : s.running = true) (hx : s.rx = (port, f) :: rest) (hb : flitBad f = false) (hk : f.kind = kind)
    (ho : ok f = true) : onFlit kind ok k s = .next (k (received s port f rest) port f) := by
  simp [onFlit, received, hr, hx, takeFlit_head hk ho, hb]

theorem onFlit_any (hr : s.running = true) (hx : s.rx = (port, f) :: rest) (hb : flitBad f = false) (hk : f.kind = kind) :
    onFlit kind anyFlit k s = .next (k (received s port f rest) port f) :=
  onFlit_head hr hx hb hk rfl

theorem onFlit_bad (hr : s.running = true) (hx : s.rx = (port, f) :: rest) (hb : flitBad f = true) (hk : f.kind = kind)
    (ho : ok f = true) : onFlit kind ok k s = .next (dropFlit { s with rx := rest } port) := by
  simp [onFlit, hr, hx, takeFlit_head hk ho, hb]

theorem onFlit_any_bad (hr : s.running = true) (hx : s.rx = (port, f) :: rest) (hb : flitBad f = true) (hk : f.kind = kind) :
    onFlit kind anyFlit k s = .next (dropFlit { s with rx := rest } port) :=
  onFlit_bad hr hx hb hk rfl

/-! ### FREEN at a sender's shadow -/

theorem shadows_foldl_enqueue {α : Type} {w : α → Happening} {l : List α} :
    (l.foldl (fun s a => enqueue s (w a)) s).shadows = s.shadows := by
  induction l generalizing s with
  | nil => rfl
  | cons a l ih => exact ih

theorem kvFind_kvErase {α : Type} {l : List (Nat × α)} : kvFind (kvErase l key) key = none := by
  induction l with
  | nil => rfl
  | cons e l ih =>
    obtain ⟨a, v⟩ := e
    by_cases ha : a = key
    · simpa [kvErase, ha] using ih
    · simpa [kvErase, ha, kvFind, Ne.symm ha] using ih

/-- A shadow that comes to FILL 0 and FREE 0 is listed no more. -/
theorem exec_freen_erases (hr : s.running = true) (hx : s.rx = (port, f) :: rest) (hb : flitBad f = false) (hk : f.kind = 9)
    (hs : freenShadow (received s port f rest) f = some key) (hc : flitCodes f.data = f.codes)
    (hfill : (shadowOf (received s port f rest) key).1 = 0) (hw : f.data.extractLsb' 0 32 = 0)
    (hn : newer 0 (shadowOf (received s port f rest) key).2 = true) :
    ∃ t, exec .freen s = .next t ∧ kvFind t.shadows key = none := by
  have he : execFreen s = _ := onFlit_any hr hx hb hk
  refine ⟨_, he, ?_⟩
  simp only [hs, consumed, hc, if_true, hw, hn, hfill, shadows_foldl_enqueue, kvSet]
  exact kvFind_kvErase

/-- A ring that a sender has not used has slots to send (R45). -/
theorem shadowOf_ne_zero (h : kvFind s.shadows key = none) : shadowOf s key ≠ (0, 0) := by
  unfold shadowOf
  rw [h]
  intro he
  obtain ⟨hfill, hfree⟩ := Prod.mk.inj he
  rw [show Config.farFill key = 0 from hfill, zero_add] at hfree
  have hn := congrArg BitVec.toNat hfree
  have hlt := (Config.farCount key).isLt
  rw [BitVec.toNat_ofNat] at hn
  change _ = 0 at hn
  omega

theorem freenShadow_head {v : BitVec 32 × BitVec 32} {l : List (Nat × (BitVec 32 × BitVec 32))} (h : s.shadows = (key, v) :: l)
    (hd : farDevice key = f.src) (ha : (Config.farRing key).toNat = f.addr.toNat * 128 + flitOff f) : freenShadow s f = some key := by
  simp [freenShadow, h, hd, ha]

theorem shadowOf_head {v : BitVec 32 × BitVec 32} {l : List (Nat × (BitVec 32 × BitVec 32))} (h : s.shadows = (key, v) :: l) :
    shadowOf s key = v := by
  simp [shadowOf, h, kvFind]

/-- The address that a word's flit names (log 25). -/
theorem wordFlit_addr {cls : BitVec 2} {dst tag jobtag : BitVec 12} {pa : BitVec 52} {v : Word} :
    (wordFlit s kind cls dst tag jobtag pa v).addr.toNat * 128 + flitOff (wordFlit s kind cls dst tag jobtag pa v) = pa.toNat := by
  have hoff : (wordFlit s kind cls dst tag jobtag pa v).data.extractLsb' 128 7 = pa.extractLsb' 0 7 := by
    ext i hi
    have h128 : 128 + i < 1024 := by omega
    simp [wordFlit, hi, h128, BitVec.getLsbD_of_ge v (128 + i) (by omega)]
  unfold flitOff
  rw [hoff]
  simp only [wordFlit, BitVec.extractLsb'_toNat, Nat.shiftRight_eq_div_pow]
  omega

end

/-- A far receive ring of device 5. -/
def wrapRing : Nat := 5 * 2 ^ 114

/-- Device 5's notice that the ring's FREE has come to 0. -/
def wrapNotice : Flit := { wordFlit State.reset 9 3 0 0 0 (Config.farRing wrapRing) 0 with src := 5 }

/-- The notice arrives at a sender whose shadow of the ring has FILL 0 and a FREE one short of its wrap. -/
def wrapState : State :=
  { State.reset with running := true, rx := [(0, wrapNotice)], shadows := [(wrapRing, (0, 0xFFFFFFFF))] }

theorem wrapNotice_addr : (Config.farRing wrapRing).toNat = wrapNotice.addr.toNat * 128 + flitOff wrapNotice :=
  (wordFlit_addr (s := State.reset) (kind := 9) (cls := 3) (dst := 0) (tag := 0) (jobtag := 0) (v := 0)).symm

theorem wrapNotice_low : wrapNotice.data.extractLsb' 0 32 = 0 := by
  ext i hi
  have h128 : i < 128 := by omega
  simp [wrapNotice, wordFlit, h128]

/-- Refutes O52: a FREEN that brings a shadow of FILL 0 to FREE 0 leaves no entry for the ring, because `kvSet` keeps none of (0, 0), and
the shadow then reads as that of a ring never used, whose FREE is ahead of its FILL. -/
theorem not_fabricRequests : ¬ Obligations.FabricRequests := by
  intro h
  obtain ⟨-, -, -, -, -, hfreen, -⟩ := h wrapState 0 wrapNotice [] 0 .hbm [] rfl rfl rfl
  obtain ⟨-, hshadow⟩ := hfreen rfl
  have hs : freenShadow (received wrapState 0 wrapNotice []) wrapNotice = some wrapRing :=
    freenShadow_head rfl (by decide) wrapNotice_addr
  have hu : shadowOf (received wrapState 0 wrapNotice []) wrapRing = (0, 0xFFFFFFFF) := shadowOf_head rfl
  have hu1 : (shadowOf (received wrapState 0 wrapNotice []) wrapRing).1 = 0 := congrArg Prod.fst hu
  have hn : newer 0 (shadowOf (received wrapState 0 wrapNotice []) wrapRing).2 = true := by
    rw [hu]
    decide
  obtain ⟨t, ht, hfill, hfree⟩ := hshadow wrapRing hs rfl
  obtain ⟨t', ht', hnone⟩ := exec_freen_erases (s := wrapState) rfl rfl rfl rfl hs rfl hu1 wrapNotice_low hn
  cases ht.symm.trans ht'
  rw [wrapNotice_low] at hfree
  exact shadowOf_ne_zero hnone (Prod.ext (hfill.trans hu1) (hfree.trans (if_pos hn)))

end Sys2Proof.Machine
end

section
/-! PROOFS. Answers, scale flits, ports and lost devices (02 R35, R37, R42, R43, R47, R48, R58, R61; 08 R208). -/

namespace Sys2Proof.Machine

section
variable {s : State} {port : Nat} {f : Flit} {rest : List (Nat × Flit)} {slot : Nat} {q : Seq} {o : Outst} {dev : BitVec 12}

theorem kvFind_heardFrom : kvFind (heardFrom s port f).heard f.src.toNat = some s.time :=
  (kvFind_kvInsert ..).trans (if_pos rfl)

/-! ### Answers (R37, R42, R43) -/

theorem takeRead_unawaited (hl : s.farReads = []) (hw : farWord s f.src f.tag = none) : takeRead s f = s := by
  simp [takeRead, hl, hw]

theorem takeRead_lines {r : FarRead} (hf : (s.farReads.find? fun r => r.tag == f.tag && r.dst == f.src) = some r)
    (hj : f.reject = false) : takeRead s f =
      kickAll (unhold (fillFar
        (fillFar { s with farReads := s.farReads.erase r } r.core r.line (f.data.extractLsb' 0 512) f.codes.toNat (flitMeta f 0))
        r.core (r.line + 1) (f.data.extractLsb' 512 512) (f.codes.toNat / 2 ^ 64) (flitMeta f 1))) := by
  simp [takeRead, hf, hj]

theorem farAnswer_value {sp : Span} {t : BitVec 12} {ord : MemOrd} {v : Nat} (hw : o.work = .far sp t ord) :
    farAnswer s slot q o (some v) =
      (let s := updSlot s slot fun x => settle (markDone (x.onBanks q fun r => deliver r o.tag (BitVec.ofNat 64 v)) q o.tag)
       checkEnd (if ordAcquires ord then acquireStep s slot sp else s) slot) := by
  unfold farAnswer
  rw [hw]

theorem ackFar_posted {w : OutWr} (hf : (s.outWrs.find? fun w => w.dst == f.src && w.tag == f.tag) = some w) :
    ackFar s f = unhold { s with outWrs := s.outWrs.erase w } := by
  have ha : (s.outWrs.any fun w => w.dst == f.src && w.tag == f.tag) = true :=
    List.any_eq_true.2 ⟨w, List.mem_of_find?_eq_some hf, by simpa using List.find?_some hf⟩
  simp only [ackFar, ha, if_true, ackedWr, hf]

theorem ackFar_unawaited (hl : s.outWrs = []) (hw : farWord s f.src f.tag = none) : ackFar s f = s := by
  simp [ackFar, hl, hw]

/-- The end of a stopping job is looked at again. -/
def killLooked (s : State) (tag : BitVec 12) : State :=
  (getJobOfTag s tag).elim s fun j => if (getJob s j).state = 3 then enqueue s (.event (.killDone j)) else s

/-- The collectives whose write a WRACK refuses (R58). -/
def refusedColls (s : State) (f : Flit) : List Coll :=
  s.colls.filter fun c => c.uid % 4096 == f.tag.toNat && (getJob s c.job).jobtag == f.jobtag && c.mems.any fun m => m % 4096 == f.src.toNat

section
variable (hr : s.running = true) (hx : s.rx = (port, f) :: rest) (hb : flitBad f = false)
include hr hx hb

theorem exec_wrack (hk : f.kind = 2) : exec .wrack s = .next
    (let v := killLooked (ackFar (received s port f rest) f) f.jobtag
     if f.reject then (refusedColls v f).foldl (fun s c => endColl s c 6 0) v else v) := by
  have hj : ∀ s : State, (if (getJobOfTag s f.jobtag).any fun j => (getJob s j).state == 3 then
      (getJobOfTag s f.jobtag).elim s fun j => enqueue s (.event (.killDone j)) else s) = killLooked s f.jobtag := by
    intro s
    unfold killLooked
    cases getJobOfTag s f.jobtag with
    | none => rfl
    | some j => simp
  show execWrack s = _
  refine (onFlit_any hr hx hb hk).trans (congrArg Host.Outcome.next ?_)
  simp only [hj]
  cases f.reject <;> rfl

theorem exec_rdresp (hk : f.kind = 4) : exec .rdresp s = .next (takeRead (received s port f rest) f) := by
  show execRdresp s = _
  exact onFlit_any hr hx hb hk

theorem exec_atomresp_unawaited (hk : f.kind = 6) (hl : (received s port f rest).outWrs = [])
    (hw : farWord (received s port f rest) f.src f.tag = none) :
    exec .atomresp s = .next (received s port f rest) := by
  show execAtomresp s = _
  refine (onFlit_any hr hx hb hk).trans (congrArg Host.Outcome.next ?_)
  simp [hl, hw]

theorem exec_atomresp_value (hk : f.kind = 6) (hl : (received s port f rest).outWrs = [])
    (hw : farWord (received s port f rest) f.src f.tag = some (slot, q, o)) (hj : f.reject = false)
    (hc : f.codes.extractLsb' 0 16 = granuleCode (f.data.extractLsb' 0 128)) :
    exec .atomresp s = .next (farAnswer (received s port f rest) slot q o (some (f.data.toNat % 2 ^ 64))) := by
  show execAtomresp s = _
  refine (onFlit_any hr hx hb hk).trans (congrArg Host.Outcome.next ?_)
  simp [hl, hw, hj, hc]

/-! ### Scale agreement (R47, R48) -/

theorem exec_smax {c : Coll} (hk : f.kind = 0x0A) (hm : (smaxMember s f).isSome = true)
    (hc : smaxMember (received s port f rest) f = some c) :
    exec .smax s = .next
      (let d := foldOf (fullNum c.got f.tag.toNat) f
       let v := enqueue (setColl (received s port f rest) { c with folds := c.folds ++ [d], got := c.got ++ [d.num] }) (.coll c.uid)
       if flitCodes f.data != f.codes then
         postUncorrectable v c.job c.source 0 (badDetail (getSlot v c.place) { cause := 1, src := 8, addr := 0 } false)
       else v) := by
  show execSmax s = _
  refine (onFlit_head hr hx hb hk (by rw [hm, Bool.or_true])).trans (congrArg Host.Outcome.next ?_)
  rw [hc]
  rfl

end

/-! ### Ports (R35) -/

theorem exec_invalidFlit (hr : s.running = true) (hb : flitBad f = true) (hp : port < 18) :
    exec (.invalidFlit port f) s = .next (dropFlit s port) := by
  refine congrArg Host.Outcome.next (if_pos ?_)
  simp [hr, hb, hp]

theorem exec_linkRetry (hr : s.running = true) (hp : port < 18) (hn : (kvGet Port.up s.ports port).retries < 8) :
    exec (.linkRetry port) s = .next
      (let p := kvGet Port.up s.ports port
       let t := { s with ports := kvSet .up s.ports port { p with retries := p.retries + 1 } }
       if p.retries = 7 then enqueue t (.event (.portDown port)) else t) := by
  refine congrArg Host.Outcome.next (if_pos ?_)
  simp [hr, hp, hn]

theorem exec_portDown (hr : s.running = true) (hn : 8 ≤ (kvGet Port.up s.ports port).retries) :
    exec (.portDown port) s = .next
      (unhold { s with ports := kvSet .up s.ports port { kvGet Port.up s.ports port with down := true } }) := by
  refine congrArg Host.Outcome.next (if_pos ?_)
  simp [hr, hn]

theorem exec_portDown_early (hn : (kvGet Port.up s.ports port).retries < 8) : exec (.portDown port) s = .next s := by
  refine congrArg Host.Outcome.next (if_neg ?_)
  simp [hn]

/-! ### Heartbeats and lost devices (R61) -/

/-- The HBEAT that goes out on a port. -/
def heartbeat (s : State) (p : Nat) : Flit :=
  { kind := 0x12, cls := 2, dst := Config.heartbeatDst p, src := s.devId, jobtag := 0, tag := 0, hops := 0, addr := 0,
    gmask := 0, meta0 := 0, meta1 := 0, rsvd := 0, codes := 0, data := 0, reject := false }

theorem exec_deviceHeartbeat (hr : s.running = true) (hd : ∀ r, s.hbAt = some r → r + 1000 ≤ s.time) :
    exec .deviceHeartbeat s = .next { s with
      hbAt := some s.time
      tx := s.tx ++ ((List.range 18).filter (portUp s)).map fun p => (p, heartbeat s p) } := by
  refine congrArg Host.Outcome.next (if_neg ?_)
  have hd : (s.hbAt.all fun t => decide (t + 1000 ≤ s.time)) = true := by
    cases h : s.hbAt with
    | none => rfl
    | some r => exact decide_eq_true (hd r h)
  simp [hr, hd]

theorem exec_deviceHeartbeat_early {r : Nat} (hh : s.hbAt = some r) (ht : s.time < r + 1000) : exec .deviceHeartbeat s = .next s := by
  refine congrArg Host.Outcome.next (if_pos ?_)
  simp [hh, ht]

theorem exec_deviceLost_early (ht : s.time < kvGet 0 s.heard dev.toNat + 20000) : exec (.deviceLost dev) s = .next s := by
  refine congrArg Host.Outcome.next (if_pos ?_)
  simp [ht]

/-- What a lost device takes with it: what was under way to it, its collectives, its linked gangs, and what held a kill (R42, R58, R60). -/
def afterLoss (s : State) (dev : BitVec 12) : State :=
  let a := loseFar { s with lostDevs := s.lostDevs ++ [dev] } dev
  let b := (a.colls.filter fun c => c.status.isNone && c.mems.any fun m => m % 4096 == dev.toNat).foldl (fun s c => endColl s c 3 0) a
  let d := b.lgangs.foldl (loseMember dev) b
  (d.jobs.filter fun e => e.2.state == 3).foldl (fun s e => enqueue s (.event (.killDone e.1))) d

theorem exec_deviceLost (hr : s.running = true) (hk : kvGet 0 s.routes dev.toNat ≠ 0 ∨ (kvFind s.heard dev.toNat).isSome = true)
    (hd : dev ≠ s.devId) (hl : dev ∉ s.lostDevs) (ht : kvGet 0 s.heard dev.toNat + 20000 ≤ s.time) :
    exec (.deviceLost dev) s = .next (enqueue (postSup (afterLoss s dev) (unitEvent (afterLoss s dev) 0x0A 0 0 0 dev.toNat)) .schedule) := by
  refine congrArg Host.Outcome.next (if_neg ?_)
  have hk : kvGet 0 s.routes dev.toNat = 0 → (kvFind s.heard dev.toNat).isSome = true := hk.resolve_left ∘ not_not.2
  simpa [hr, hd, hl, Nat.not_lt.2 ht, Option.isSome_iff_ne_none] using hk

theorem exec_relFabricTimeout (ho : relTimedOut s slot q = some o) {sp : Span} {l : List Span} (hs : o.work.spans = sp :: l) :
    exec (.relFabricTimeout slot q) s =
      .next (takeTrap (updSlot s slot fun x => dropIssued x q o.tag) slot q o.pc { cause := 27, addr := sp.va }) := by
  refine congrArg Host.Outcome.next ?_
  rw [ho]
  simp only [hs]

theorem exec_relFabricTimeout_early (ho : relTimedOut s slot q = none) : exec (.relFabricTimeout slot q) s = .next s := by
  refine congrArg Host.Outcome.next ?_
  rw [ho]

end

/-- Settles O53: a flit by what its kind does at the head of the receive queue, a port, heartbeat or loss by the branch that its condition
takes. -/
theorem linkEvents : Obligations.LinkEvents := by
  intro s port f rest dev slot q o c
  extract_lets u acked quiet drops p
  intro hr
  have hquiet : quiet = killLooked acked f.jobtag := by
    dsimp only [quiet, killLooked]
    cases getJobOfTag acked f.jobtag <;> rfl
  refine ⟨fun hx hb => ⟨fun hk hl hw => ?_, fun hk r hf hj => ?_, exec_atomresp_unawaited hr hx hb, fun hk hl hj hc sp ord hw ho => ?_,
      fun hk => ?_, kvFind_heardFrom, rfl, rfl, rfl, fun _ w hf => ackFar_posted hf, fun _ => ackFar_unawaited,
      fun hk hj => ?_, fun hk hj => ?_, fun hk hm hc => ⟨fun he => ?_, fun he => ?_⟩, fun hk => ?_⟩,
    fun hx hb => ⟨fun hk => ?_, fun hk => ?_, fun hk => ?_, fun hk => ?_, fun hk => ?_, fun hk => ?_, fun hk => ?_⟩,
    exec_invalidFlit hr, fun hp hn => ?_, fun hn => ?_, exec_portDown_early, fun hd => ?_, fun r => exec_deviceHeartbeat_early,
    fun hk hd hl => ⟨exec_deviceLost_early, exec_deviceLost hr hk hd hl⟩, fun sp l ho hs => exec_relFabricTimeout ho hs,
    exec_relFabricTimeout_early⟩
  · exact (exec_rdresp hr hx hb hk).trans (congrArg _ (takeRead_unawaited hl hw))
  · exact (exec_rdresp hr hx hb hk).trans (congrArg _ (takeRead_lines hf hj))
  · have hv : BitVec.ofNat 64 (f.data.toNat % 2 ^ 64) = f.data.extractLsb' 0 64 := by
      apply BitVec.eq_of_toNat_eq
      simp
    rw [exec_atomresp_value hr hx hb hk hl hw hj hc, farAnswer_value ho, hv]
    rfl
  · show execHbeat s = _
    exact onFlit_any hr hx hb hk
  · rw [exec_wrack hr hx hb hk, hquiet, hj]
    rfl
  · rw [exec_wrack hr hx hb hk, hquiet, hj]
    rfl
  · exact (exec_smax hr hx hb hk hm hc).trans (congrArg _ (if_neg (by simp [he])))
  · exact (exec_smax hr hx hb hk hm hc).trans (congrArg _ (if_pos (by simp [he])))
  · show execSmaxres s = _
    exact onFlit_any hr hx hb hk
  · show execWr s = _
    exact onFlit_any_bad hr hx hb hk
  · show execWrack s = _
    exact onFlit_any_bad hr hx hb hk
  · show execRd s = _
    exact onFlit_any_bad hr hx hb hk
  · show execRelw s = _
    exact onFlit_any_bad hr hx hb hk
  · show execSmax s = _
    exact onFlit_bad hr hx hb hk (by rw [hb, Bool.true_or])
  · show execCwr s = _
    exact onFlit_any_bad hr hx hb hk
  · show execHbeat s = _
    exact onFlit_any_bad hr hx hb hk
  · refine ⟨_, rfl, exec_linkRetry hr hp hn, ?_, fun k hne => ?_⟩
    · exact (kvGet_kvSet ..).trans (if_pos rfl)
    · exact (kvGet_kvSet ..).trans (if_neg hne)
  · have hg : kvGet Port.up (kvSet .up s.ports port { p with down := true }) port = { p with down := true } :=
      (kvGet_kvSet ..).trans (if_pos rfl)
    refine ⟨_, exec_portDown hr hn, rfl, hg, ?_⟩
    simp only [portUp, p] at hg ⊢
    rw [hg]
    rfl
  · refine ⟨_, exec_deviceHeartbeat hr hd, rfl, fun k hk hu => ⟨heartbeat s k, ?_, rfl, rfl⟩⟩
    exact List.mem_append_right _ (List.mem_map_of_mem (f := fun p => (p, heartbeat s p)) (List.mem_filter.2 ⟨List.mem_range.2 hk, hu⟩))

end Sys2Proof.Machine
end

section
/-! PROOFS. Linked gangs, reservations, forwarded arrivals and the ends of collectives (02 R55, R57-R61; 05 R129, R130, R141). -/

namespace Sys2Proof.Machine

section
variable {s t : State} {port die bar uid j : Nat} {f : Flit} {rest : List (Nat × Flit)} {o : LGang} {g : GangReq} {slots : List Nat}
  {c : Coll} {lgid : BitVec 32}

/-! ### The member (R59) -/

section
variable (hr : s.running = true) (hx : s.rx = (port, f) :: rest) (hb : flitBad f = false)
include hr hx hb

theorem exec_gres_invalid (hk : f.kind = 0x0C) (hm : memberGang (received s port f rest) f = none) :
    exec .gres s = .next (gangAnswer (received s port f rest) f 0x0D false) := by
  show execGres s = _
  refine (onFlit_any hr hx hb hk).trans (congrArg Host.Outcome.next ?_)
  simp only [hm]

theorem exec_gres_placed (hk : f.kind = 0x0C) (hm : memberGang (received s port f rest) f = some (t, g)) :
    exec .gres s = .next (if (freePosition t g).isNone && (bestPosition t g).isNone
      then gangAnswer (received s port f rest) f 0x0D false else enqueue (gangTurn t g) .schedule) := by
  show execGres s = _
  refine (onFlit_any hr hx hb hk).trans (congrArg Host.Outcome.next ?_)
  simp only [hm]

theorem exec_gstart_unknown (hk : f.kind = 0x0E) (hl : findLgang (received s port f rest) (flitLgid f) = none) :
    exec .gstart s = .next (gangAnswer (received s port f rest) f 0x0F false) := by
  show execGstart s = _
  refine (onFlit_any hr hx hb hk).trans (congrArg Host.Outcome.next ?_)
  simp only [hl]

theorem exec_gstart_held (hk : f.kind = 0x0E) (hl : findLgang (received s port f rest) (flitLgid f) = some o)
    (hg : lgangReq (received s port f rest) (flitLgid f) = some g) (hc : o.coord = false) (hp : o.phase = 0)
    (hs : heldSlots (received s port f rest) g = some slots) :
    exec .gstart s = .next (let v := startLinked (received s port f rest) o g slots
      gangAnswer v f 0x0F (findLgang v o.lgid).isSome) := by
  show execGstart s = _
  refine (onFlit_any hr hx hb hk).trans (congrArg Host.Outcome.next ?_)
  simp [hl, hg, hc, hp, hs]

theorem exec_gcancel_unknown (hk : f.kind = 0x10) (hl : findLgang (received s port f rest) (flitLgid f) = none) :
    exec .gcancel s = .next (received s port f rest) := by
  show execGcancel s = _
  refine (onFlit_any hr hx hb hk).trans (congrArg Host.Outcome.next ?_)
  simp only [hl]

theorem exec_gcancel_member (hk : f.kind = 0x10) (hl : findLgang (received s port f rest) (flitLgid f) = some o)
    (hc : o.coord = false) :
    exec .gcancel s = .next (let u := received s port f rest
      if o.phase = 0 then dropLgang u o.lgid
      else cancelLevel (loseBars (setLgang u { o with phase := 4, starts := o.acks ++ [u.devId] }) o.lgid) o.job o.hdr) := by
  show execGcancel s = _
  refine (onFlit_any hr hx hb hk).trans (congrArg Host.Outcome.next ?_)
  simp [hl, hc]

/-! ### The coordinator (R59) -/

/-- A linked gang with one more acceptance. -/
def LGang.accepted (o : LGang) (dev : BitVec 12) : LGang :=
  { o with acks := if o.acks.contains dev then o.acks else o.acks ++ [dev] }

theorem exec_gresack (hk : f.kind = 0x0D) (hl : findLgang (received s port f rest) (flitLgid f) = some o)
    (hc : o.coord = true) (hp : o.phase = 0) (ha : o.at_ ≠ 0) (hd : (o.devs.any fun d => d.1 == f.src) = true) :
    exec .gresack s = .next (let u := received s port f rest
      if f.tag.getLsbD 0 = false ∨ o.at_ + o.limit ≤ s.time then withdrawLinked u o
      else if ∀ d ∈ (o.accepted f.src).devs, d.1 ∈ (o.accepted f.src).acks
        then startAll (setLgang u (o.accepted f.src)) (o.accepted f.src)
        else setLgang u (o.accepted f.src)) := by
  show execGresack s = _
  refine (onFlit_any hr hx hb hk).trans (congrArg Host.Outcome.next ?_)
  have ht : (received s port f rest).time = s.time := rfl
  simp [hl, hc, hp, hd, ht, ha, LGang.accepted]

theorem exec_gstartack (hk : f.kind = 0x0F) (hl : findLgang (received s port f rest) (flitLgid f) = some o)
    (hc : o.coord = true) (hp : o.phase = 1) (ht : f.tag.getLsbD 0 = true) (hn : f.src ∉ o.starts) :
    exec .gstartack s = .next (setLgang (received s port f rest) { o with starts := o.starts ++ [f.src] }) := by
  show execGstartack s = _
  refine (onFlit_any hr hx hb hk).trans (congrArg Host.Outcome.next ?_)
  simp [hl, hc, hp, ht, hn]

end

/-! ### Time limits (R59, R60; 05 R130) -/

theorem exec_gangTimeout (hr : s.running = true) (hl : findLgang s lgid = some o) :
    exec (.gangTimeout lgid) s = .next (
      if o.phase = 3 then failLinked s o
      else if o.coord = false ∨ o.at_ = 0 ∨ s.time < o.at_ + o.limit then s
      else if o.phase = 0 then withdrawLinked s o
      else if o.phase = 1 ∧ ∃ d ∈ o.devs, d.1 ∉ o.starts then watchdog s o else s) := by
  refine congrArg Host.Outcome.next ?_
  simp only [hl]
  simp [hr, or_assoc]

theorem exec_gangReservationExpiry (hr : s.running = true) (hl : findLgang s lgid = some o) (hc : o.coord = false) (hp : o.phase = 0)
    (ha : o.at_ ≠ 0) (ht : o.at_ + 2 * o.limit ≤ s.time) : exec (.gangReservationExpiry lgid) s = .next (dropLgang s lgid) := by
  refine congrArg Host.Outcome.next ?_
  simp [hl, hr, hc, hp, ha, ht]

theorem exec_gangReservationExpiry_early (hl : findLgang s lgid = some o) (ht : s.time < o.at_ + 2 * o.limit) :
    exec (.gangReservationExpiry lgid) s = .next s := by
  refine congrArg Host.Outcome.next ?_
  simp [hl, ht]

theorem findLgang_dropLgang : findLgang (dropLgang s lgid) lgid = none := by
  simp [findLgang, dropLgang, enqueue]

theorem lgangReq_dropLgang : lgangReq (dropLgang s lgid) lgid = none := by
  simp [lgangReq, dropLgang, enqueue]

theorem exec_gangReservationTimeout {r : Nat × Nat × Nat} (hr : s.running = true) (hg : (s.gangs.find? fun g => g.uid == uid) = some g)
    (hv : g.resv = some r) (hl : g.lgid = none) :
    exec (.gangReservationTimeout uid) s = .next (if s.time < r.2.2 + 200000 then s else gangYield s g) := by
  refine congrArg Host.Outcome.next ?_
  simp [hg, hv, hl, hr]

/-! ### Barriers of linked gangs (R60; 05 R141) -/

theorem bars_foldl {α : Type} {f : State → α → State} (hf : ∀ s a, (f s a).bars = s.bars) {l : List α} :
    (l.foldl f s).bars = s.bars := by
  induction l generalizing s with
  | nil => rfl
  | cons a l ih => exact ih.trans (hf s a)

theorem bars_settleDrops : (settleDrops s).bars = s.bars := by
  unfold settleDrops
  extract_lets drops s₁ ended s₂
  have h₁ : s₁.bars = s.bars := by
    dsimp only [s₁]
    split <;> rfl
  have h₂ : s₂.bars = s.bars := (bars_foldl (f := fun s k => enqueue s (.event (.taskEnd k))) fun _ _ => rfl).trans h₁
  split
  · exact h₂
  · exact h₂

theorem bars_checkEnd {k : Nat} : (checkEnd s k).bars = s.bars := by
  refine Eq.trans ?_ bars_settleDrops
  unfold checkEnd
  extract_lets s₁ draining s₂
  have h₂ : s₂.bars = s₁.bars := by
    dsimp only [s₂]
    split <;> rfl
  split
  · exact h₂
  · exact h₂

theorem bars_touchLost {k : Nat} : (touchLost s k).bars = s.bars := by
  unfold touchLost gangTouched
  split
  · split <;> rfl
  · rfl

theorem bars_setSlot {k : Nat} {x : Slot} : (setSlot s k x).bars = s.bars := rfl

theorem bars_wakeSlot {k : Nat} : (wakeSlot s k).bars = s.bars := by
  unfold wakeSlot
  dsimp only
  split
  · rfl
  split
  · rfl
  split
  · rw [bars_checkEnd, bars_setSlot]
    split
    · exact bars_touchLost
    · rfl
  · rfl

theorem bars_wakeDie : (wakeDie s die).bars = s.bars := by
  refine bars_foldl fun s e => ?_
  split
  · exact bars_wakeSlot
  · rfl

theorem exec_barrierForward (lost : Bool) (hp : (getBar s (barKey die bar)).p ≠ 0) (hl : (getBar s (barKey die bar)).lgid ≠ none) :
    exec (.barrierForward die bar lost) s = .next (let b := getBar s (barKey die bar)
      if lost then wakeDie (setBar s (barKey die bar) { b with a := 0, ph := b.ph + 1, lost := true }) die else arrive s die bar) :=
  congrArg Host.Outcome.next (if_neg (by simp [hp, hl]))

/-! ### Collectives (R55, R57, R58) -/

theorem exec_collectiveTimeout (hc : findColl s uid = some c) (hu : collUp s c = true) (he : c.expects = true)
    (ht : c.at_ + cdTmo c.d ≤ s.time) : exec (.collectiveTimeout uid) s =
      .next ((s.colls.filter fun o => o.same c && o.status.isNone).foldl (fun s o => endColl s o 3 0) s) := by
  refine congrArg Host.Outcome.next ?_
  simp [hc, hu, he, ht]

theorem exec_collectiveTimeout_early (hc : findColl s uid = some c) (ht : s.time < c.at_ + cdTmo c.d) :
    exec (.collectiveTimeout uid) s = .next s := by
  refine congrArg Host.Outcome.next ?_
  simp [hc, ht]

theorem exec_shardComplete {v t : State} (hc : findColl s uid = some c) (hu : collUp s c = true) (h : shardStep c j s = .ok v t) :
    exec (.shardComplete uid j) s = .next t := by
  refine congrArg Host.Outcome.next ?_
  simp [hc, hu, h]

theorem shardStep_written {e : Nat × List CEl} {v t : State} (he : (c.ready.find? fun e => e.1 == j) = some e)
    (hw : shardWrite c j e.2 s = .ok v t) :
    shardStep c j s = .ok v (let c' : Coll := { c with ready := c.ready.filter fun e => e.1 != j, shards := c.shards ++ [j] }
      settleColl (setColl t c') c') := by
  simp only [shardStep, he, hw]
  rfl

theorem shardStep_unready (he : (c.ready.find? fun e => e.1 == j) = none) : shardStep c j s = .ok s s := by
  simp only [shardStep, he]

theorem exec_collectiveComplete {v t : State} (hc : findColl s uid = some c) (hr : s.running = true)
    (hf : (getDie s c.die).fenced = false) (hs : c.status.isSome = true) (hp : c.paused = none) (h : collReport c s = .ok v t) :
    exec (.collectiveComplete uid) s = .next (retireColl t c) := by
  refine congrArg Host.Outcome.next ?_
  have hn : c.status ≠ none := Option.isSome_iff_ne_none.1 hs
  simp [hc, hr, hf, hn, hp, h]

end

/-- Settles O54: each flit, time limit and end by the branch that its condition takes. -/
theorem gangAndCollectiveEvents : Obligations.GangAndCollectiveEvents := by
  intro s t1 port f rest o g slots c lgid uid j die bar r
  extract_lets u l b o1 c'
  refine ⟨fun hr hx hb => ⟨fun hk => ⟨exec_gres_invalid hr hx hb hk, fun hm => ⟨fun hf hbest => ?_, fun h => ?_⟩⟩,
      exec_gstart_unknown hr hx hb, exec_gstart_held hr hx hb, exec_gcancel_unknown hr hx hb,
      fun hk hl hc => ⟨fun hp => ?_, fun hp => ?_⟩, fun hk hl hc hp ha hd => ?_, exec_gstartack hr hx hb⟩,
    fun hr hl => ⟨fun hp => ?_, fun hc ha ht => ⟨fun hp => ?_, fun hp hm => ?_, fun hp hm => ?_⟩, fun hc hp ha ht => ?_,
      exec_gangReservationExpiry_early hl⟩,
    fun hr hg hv hl => ⟨fun ht => ?_, fun ht => ?_⟩,
    fun hp hl => ⟨exec_barrierForward false hp hl, _, exec_barrierForward true hp hl, ?_⟩,
    fun hc => ⟨fun hu ht he => exec_collectiveTimeout hc hu he ht, fun _ => exec_collectiveTimeout_early hc,
      fun hu => ⟨fun e v t he hw => exec_shardComplete hc hu (shardStep_written he hw),
        fun he => exec_shardComplete hc hu (shardStep_unready he)⟩,
      fun hr hf hs hp v t => exec_collectiveComplete hc hr hf hs hp⟩⟩
  · exact (exec_gres_placed hr hx hb hk hm).trans (congrArg _ (if_pos (by simp [hf, hbest])))
  · refine (exec_gres_placed hr hx hb hk hm).trans (congrArg _ (if_neg ?_))
    simpa [Option.isSome_iff_ne_none, imp_iff_not_or] using h
  · exact (exec_gcancel_member hr hx hb hk hl hc).trans (congrArg _ (if_pos hp))
  · exact (exec_gcancel_member hr hx hb hk hl hc).trans (congrArg _ (if_neg hp))
  · have he := exec_gresack hr hx hb hk hl hc hp ha hd
    refine ⟨fun h => he.trans (congrArg _ (if_pos h)), fun hy ht hall => ?_, fun hy ht hmiss => ?_⟩
    · exact he.trans (congrArg _ ((if_neg (by simp [hy, ht])).trans (if_pos hall)))
    · refine he.trans (congrArg _ ((if_neg (by simp [hy, ht])).trans (if_neg fun hall => ?_)))
      obtain ⟨d, hd, hn⟩ := hmiss
      exact hn (hall d hd)
  · exact (exec_gangTimeout hr hl).trans (congrArg _ (if_pos hp))
  · rw [exec_gangTimeout hr hl]
    simp [hc, ha, hp, Nat.not_lt.2 ht]
  · rw [exec_gangTimeout hr hl, if_neg (by omega), if_neg (by simp [hc, ha, ht]), if_neg (by omega), if_pos ⟨hp, hm⟩]
  · rw [exec_gangTimeout hr hl, if_neg (by omega), if_neg (by simp [hc, ha, ht]), if_neg (by omega), if_neg (by simpa [hp] using hm)]
  · exact ⟨_, exec_gangReservationExpiry hr hl hc hp ha ht, findLgang_dropLgang, lgangReq_dropLgang, rfl⟩
  · exact (exec_gangReservationTimeout hr hg hv hl).trans (congrArg _ (if_neg (Nat.not_lt.2 ht)))
  · exact (exec_gangReservationTimeout hr hg hv hl).trans (congrArg _ (if_pos ht))
  · show kvGet Bar.free (wakeDie _ die).bars (barKey die bar) = _
    rw [bars_wakeDie]
    exact (kvGet_kvSet ..).trans (if_pos rfl)

end Sys2Proof.Machine
end

section
/-! PROOFS. No word decodes to an access of the host, and every step but such an access outside its range answers a next state (12
R303-R307, 03 R63). -/

namespace Sys2Proof

/-! ### The decoder answers no access of the host -/

/-- A host access of device memory. -/
def HostAccess (i : Instr) : Prop := i = .hostMemRead ∨ i = .hostMemWrite

/-- Decoding fails, or answers no host access. -/
def NoAccess : Dec → Prop
  | .ok i => ¬ HostAccess i
  | .error _ => True

section
variable {p : BitVec 20} {n : Nib} {x : IWord}

@[simp] theorem noAccess_ok {i : Instr} : NoAccess (.ok i) ↔ ¬ HostAccess i := .rfl

@[simp] theorem noAccess_error {e : DecodeErr} : NoAccess (.error e) := trivial

@[simp] theorem noAccess_ite {c : Prop} [Decidable c] {a b : Dec} :
    NoAccess (if c then a else b) ↔ (c → NoAccess a) ∧ (¬ c → NoAccess b) := by
  split <;> simp [*]

@[simp] theorem noAccess_rDest {f : BitVec 6} {k : Dest → Dec} : NoAccess (rDest f k) ↔ ∀ d, dest? f = some d → NoAccess (k d) := by
  unfold rDest
  cases dest? f <;> simp

@[simp] theorem noAccess_rMod {α : Type} {o : Option α} {k : α → Dec} :
    NoAccess (rMod o k) ↔ ∀ m, o = some m → NoAccess (k m) := by
  unfold rMod
  cases o <;> simp

theorem noAccess_rC {k : Opnd → Fmt → Fmt → Bool → Bool → Instr} (h : ∀ a d s z hi, ¬ HostAccess (k a d s z hi)) :
    NoAccess (rC p k) := by
  unfold rC
  split <;> simp [h]

theorem noAccess_rTlbinv : NoAccess (rTlbinv n p) := by
  unfold rTlbinv
  split
  · split <;> simp [rZero, HostAccess]
  · trivial

theorem noAccess_decControl {op} : NoAccess (decControl n op p x) := by
  unfold decControl
  split <;> simp [HostAccess, rZ, rB2, rAI, rZero, rNoD, rStage, rVote]

theorem noAccess_decScalar {op} : NoAccess (decScalar n op p x) := by
  unfold decScalar
  split <;> simp [HostAccess, rZero, rA2, rA2m, rA2u, rA2um, rA3, rLea]

theorem noAccess_decImm {op} : NoAccess (decImm n op p x) := by
  unfold decImm
  split <;> simp [HostAccess, rZero, rAI, rAIsh, rQput, rWrsr, rAId, rLiw, rLihi, rCmpi, rQd, rRdsr, rTok]

theorem noAccess_decMem {op} : NoAccess (decMem n op p x) := by
  unfold decMem
  split <;> simp [HostAccess, rZero, rB2, rPref, rB2d, rQm, rStt, rA2m, rA3m, rRed]

theorem noAccess_decSync {op} : NoAccess (decSync n op p x) := by
  unfold decSync
  split <;> simp [HostAccess, rZ, rZero, rG, rBar, rBarwait, rCtx, rA2u, rNoD, rA3, rXfence, rRstat, rRbind]

theorem noAccess_decVec {op} : NoAccess (decVec n op p x) := by
  unfold decVec
  split <;> simp [HostAccess, rZero, rA2, rA2m, rA2u, rA2um, rA3, rA3m, rVabs, rVsett, rAId]

theorem noAccess_decVecMem {op} : NoAccess (decVecMem n op p x) := by
  unfold decVecMem
  split <;> simp [HostAccess, rZero, rB2, rB2d, rA2m, rA2u, rA2um, rA3, rA3m, rNoD, noAccess_rC, rVtopk]

theorem noAccess_decSys {op} : NoAccess (decSys n op p x) := by
  unfold decSys
  split <;> simp [HostAccess, rZ, rAI, rZero, rCtx, rImm, rMzero, rCropen, rMstatr, rNoD, noAccess_rTlbinv]

/-- Each class of the opcode map answers rows of its own. -/
theorem noAccess_decode {w : IWord} : NoAccess (decode w x) := by
  unfold decode
  extract_lets n op p
  split
  · exact noAccess_decControl
  · exact noAccess_decScalar
  · exact noAccess_decImm
  · exact noAccess_decMem
  · exact noAccess_decSync
  · exact noAccess_decVec
  · exact noAccess_decVecMem
  · exact noAccess_decSys

theorem not_hostAccess_of_decode {w : IWord} {i : Instr} (h : decode w x = .ok i) : ¬ HostAccess i := by
  have hd : NoAccess (decode w x) := noAccess_decode
  rwa [h] at hd

end

namespace Machine

/-! ### Fetched instructions -/

section
variable {s t : State} {i : Instr}

theorem not_hostAccess_of_fetchAt {th : Thread} {va : Word} (h : fetchAt s th va = (t, .word i)) : ¬ HostAccess i := by
  unfold fetchAt at h
  dsimp only at h
  repeat' split at h
  all_goals cases h
  all_goals exact not_hostAccess_of_decode ‹_›

/-! ### What an instruction or a step answers -/

/-- A next state, or the fault of an access outside every storage where `p` holds. -/
def NextOrNoStorage (p : Prop) (o : Host.Outcome State Fault Refusal) : Prop :=
  (∃ t, o = .next t) ∨ ∃ pa, o = .fault (.noStorage pa) ∧ p

theorem nextOrNoStorage_next {p : Prop} : NextOrNoStorage p (.next s) := .inl ⟨_, rfl⟩

theorem nextOrNoStorage_ite {p c : Prop} [Decidable c] {a b : Host.Outcome State Fault Refusal} (ha : NextOrNoStorage p a)
    (hb : NextOrNoStorage p b) : NextOrNoStorage p (if c then a else b) := by
  split
  · exact ha
  · exact hb

theorem nextOrNoStorage_execHostMemRead : NextOrNoStorage True (execHostMemRead s) := by
  unfold execHostMemRead
  split
  · split
    · exact .inr ⟨_, rfl, trivial⟩
    · split <;> exact nextOrNoStorage_next
  · split <;> exact nextOrNoStorage_next
  · exact nextOrNoStorage_next

theorem nextOrNoStorage_execHostMemWrite : NextOrNoStorage True (execHostMemWrite s) := by
  unfold execHostMemWrite
  split
  · split
    · exact .inr ⟨_, rfl, trivial⟩
    · split <;> exact nextOrNoStorage_next
  · exact nextOrNoStorage_next

theorem nextOrNoStorage_exec : NextOrNoStorage (HostAccess i) (exec i s) := by
  cases i with
  | hostMemRead => exact nextOrNoStorage_execHostMemRead.imp_right fun ⟨pa, h, _⟩ => ⟨pa, h, .inl rfl⟩
  | hostMemWrite => exact nextOrNoStorage_execHostMemWrite.imp_right fun ⟨pa, h, _⟩ => ⟨pa, h, .inr rfl⟩
  | _ => exact nextOrNoStorage_next

theorem exec_next_of_not_hostAccess (h : ¬ HostAccess i) : ∃ t, exec i s = .next t := by
  rcases nextOrNoStorage_exec (i := i) (s := s) with hn | ⟨pa, -, hi⟩
  · exact hn
  · exact absurd hi h

theorem wordStep_next : ∃ t, wordStep s = .next t := by
  unfold wordStep
  extract_lets th
  split
  · split
    · next e => exact exec_next_of_not_hostAccess (not_hostAccess_of_fetchAt e)
    all_goals exact ⟨_, rfl⟩
  · exact ⟨_, rfl⟩

theorem nextOrNoStorage_happen {w : Happening} :
    NextOrNoStorage (w = .event .hostMemRead ∨ w = .event .hostMemWrite) (happen s w) := by
  refine nextOrNoStorage_ite nextOrNoStorage_next ?_
  cases w with
  | event i =>
    refine nextOrNoStorage_ite (Or.imp_right ?_ nextOrNoStorage_exec) nextOrNoStorage_next
    exact fun ⟨pa, h, hi⟩ => ⟨pa, h, hi.imp (congrArg _) (congrArg _)⟩
  | issue => exact .inl wordStep_next
  | _ => exact nextOrNoStorage_next

end

/-- Settles O24: of the instructions only the host's two accesses fault, no word decodes to one of them, and so a step faults only where
one of them comes about. -/
theorem nothingElseStops : Obligations.NothingElseStops := by
  refine ⟨fun i s => nextOrNoStorage_exec, fun s => ?_⟩
  unfold step
  split
  · next it rest hs =>
    exact nextOrNoStorage_happen.imp_right fun ⟨pa, h, hw⟩ => ⟨pa, it, rest, h, hs, hw⟩
  · obtain ⟨t, h⟩ := wordStep_next (s := s)
    rw [h]
    exact .inl ⟨_, rfl⟩

end Machine
end Sys2Proof
end

section
/-! PROOFS. What translation, writes at their homes and the posting of events leave of the jobs (03 R79, R81). -/

namespace Sys2Proof.Machine

section
variable {s t : State}

theorem jobs_foldl {α : Type} {f : State → α → State} (hf : ∀ s a, (f s a).jobs = s.jobs) (l : List α) :
    (l.foldl f s).jobs = s.jobs := by
  induction l generalizing s with
  | nil => rfl
  | cons a l ih => exact ih.trans (hf s a)

/-! ### Translation -/

theorem jobs_tlbPut {e n} : (tlbPut e s n).jobs = s.jobs := by
  unfold tlbPut
  split
  · rfl
  · dsimp only
    split <;> rfl

theorem jobs_ptrPut {die p} : (ptrPut die s p).jobs = s.jobs := by
  unfold ptrPut
  split
  · rfl
  · dsimp only
    split <;> rfl

theorem jobs_walkFill {caches die job va} : (walkFill s caches die job va).1.jobs = s.jobs := by
  have hp : ∀ (f : Nat × Nat × List Nat → PtrEnt) (l : List (Nat × Nat × List Nat)),
      (l.foldl (fun s p => ptrPut die s (f p)) s).jobs = s.jobs :=
    fun _ l => jobs_foldl (fun _ _ => jobs_ptrPut) l
  unfold walkFill
  split
  · rfl
  split
  · rfl
  dsimp only
  split
  · exact (jobs_foldl (fun _ _ => jobs_tlbPut) _).trans (hp ..)
  · exact hp ..
  · exact hp ..

theorem jobs_trWindow {ctx va len} : (trWindow s ctx va len).1.jobs = s.jobs := by
  unfold trWindow
  simp only []
  repeat' split
  all_goals rfl

theorem jobs_trPage {ctx va len n} : (trPage s ctx va len n).1.jobs = s.jobs := by
  have hl : ∀ e, (ctx.caches.foldl (tlbPut e) s).jobs = s.jobs := fun e => jobs_foldl (fun _ _ => jobs_tlbPut) _
  unfold trPage
  simp only []
  split
  · rfl
  split
  · grind only [jobs_trWindow]
  · cases tlbHit s ctx.caches ctx.job va <;> grind only [jobs_walkFill]

theorem jobs_trRun {ctx n m va k} : (trRun ctx n m s va k).1.jobs = s.jobs := by
  fun_induction trRun ctx n m s va k <;> grind only [jobs_trPage]

theorem jobs_translate {ctx va len n} : (translate s ctx va len n).1.jobs = s.jobs := jobs_trRun

/-! ### Writes at their homes -/

theorem HomeWrite.jobs {b : Nat} (h : HomeWrite b s t) : t.jobs = s.jobs := by rw [h.1]

theorem jobs_lineWritten {line} : (lineWritten s line).jobs = s.jobs := (homeWrite_lineWritten (b := 0)).jobs

theorem jobs_putHomeGran {line g d y} : (putHomeGran s line g d y).jobs = s.jobs := by
  unfold putHomeGran
  extract_lets y s₁
  split <;> rfl

theorem jobs_postWr {job line mark l md} : (postWr s job line mark l md).jobs = s.jobs := by
  unfold postWr sendFlit
  split
  · rfl
  · dsimp only
    split <;> rfl

theorem jobs_putLine_home {area et line p m} (h : putLine s .home area et line p = some (t, m)) : t.jobs = s.jobs := by
  unfold putLine at h
  extract_lets s₁ md step at h
  split at h
  · cases h
  next l subs e =>
  have hg : (l.foldl (fun s e => putHomeGran s line e.1 e.2.1 e.2.2) s).jobs = s.jobs :=
    jobs_foldl (fun s (e : Nat × BitVec 128 × BitVec 16) => jobs_putHomeGran (s := s) (g := e.1) (d := e.2.1) (y := e.2.2)) l
  simp only [] at h
  split at h <;> obtain ⟨rfl, -⟩ := Prod.mk.inj (Option.some.inj h)
  · exact jobs_postWr
  · refine jobs_lineWritten.trans (Eq.trans ?_ hg)
    split <;> rfl

theorem jobs_putLines_home {area et r n line k m} (h : putLines .home area et r n line s k = some (t, m)) : t.jobs = s.jobs := by
  induction n generalizing line s k with
  | zero => cases h; rfl
  | succ n ih =>
    unfold putLines at h
    split at h
    · cases h; rfl
    split at h
    · cases h
    · next e => exact (ih h).trans (jobs_putLine_home e)

theorem jobs_putRun_home {area et r m} (h : putRun s .home area et r = some (t, m)) : t.jobs = s.jobs :=
  (jobs_putLines_home h :)

theorem jobs_putSpans_home {l v} (h : putSpans s .home l v = some t) : t.jobs = s.jobs := by
  induction l generalizing s v with
  | nil => cases h; rfl
  | cons sp l ih =>
    unfold putSpans at h
    split at h
    · next e => exact (ih h).trans (jobs_putRun_home e)
    · cases h

theorem jobs_unitWrite {ctx va n v} : (unitWrite s ctx va n v).1.jobs = s.jobs := by
  unfold unitWrite
  have ht := jobs_translate (s := s) (ctx := ctx) (va := va) (len := n) (n := { w := true })
  grind only [jobs_putSpans_home]

theorem jobs_physWrite {pa n v} : (physWrite s pa n v).jobs = s.jobs := by
  unfold physWrite
  split
  · split
    · next e => exact jobs_putRun_home e
    · rfl
  · rfl

/-! ### Posting -/

theorem jobs_publishAll {ctx q setWr i l} (hw : ∀ s a, (setWr s a).jobs = s.jobs) : (publishAll ctx q setWr s i l).1.jobs = s.jobs := by
  induction l generalizing s i with
  | nil => rfl
  | cons e l ih =>
    unfold publishAll
    split
    · exact ih.trans ((hw ..).trans (jobs_unitWrite.trans jobs_unitWrite))
    · rfl

theorem jobs_postTo {ctx q setWr lost e} (hw : ∀ s a, (setWr s a).jobs = s.jobs) : (postTo s ctx q setWr lost e).1.jobs = s.jobs := by
  unfold postTo
  grind only [jobs_publishAll]

theorem jobs_postSup {e} : (postSup s e).jobs = s.jobs := by
  unfold postSup
  grind only [jobs_postTo, jobs_physWrite]

theorem getJob_of_jobs (h : t.jobs = s.jobs) {j : Nat} : getJob t j = getJob s j := by
  unfold getJob
  rw [h]

theorem state_setJob {x : Job} {k j : Nat} (h : x.state = (getJob s k).state) : (getJob (setJob s k x) j).state = (getJob s j).state := by
  rw [getJob_setJob]
  split
  · next e => rw [e, h]
  · rfl

theorem state_dropped {k j n : Nat} : (getJob (setJob s k { getJob s k with dropped := n }) j).state = (getJob s j).state :=
  state_setJob rfl

theorem state_countUnit {job n j} : (getJob (countUnit s job n) j).state = (getJob s j).state := by
  unfold countUnit
  split
  · rfl
  · exact state_setJob rfl

theorem state_unitRead {ctx va n j} : (getJob (unitRead s ctx va n).1 j).state = (getJob s j).state := by
  unfold unitRead
  have ht : getJob _ j = getJob s j := getJob_of_jobs (jobs_translate (ctx := ctx) (va := va) (len := n) (n := { r := true }))
  grind only [state_countUnit]

theorem state_postJob {job ev j} : (getJob (postJob s job ev) j).state = (getJob s j).state := by
  have hr := state_unitRead (s := s) (ctx := unitCtx (lowDie s) job false) (va := (getJob s job).evq) (n := 64) (j := j)
  unfold postJob
  extract_lets k ctx
  split
  · next s₁ v e =>
    rw [e] at hr
    have hp := jobs_postTo (s := s₁) (ctx := ctx) (q := qdescOf v) (setWr := fun s i => (unitWrite s ctx (k.evq + 16) 8 i).1)
      (lost := k.dropped) (e := ev) fun _ _ => jobs_unitWrite
    split
    next s₂ lost b e₂ =>
    rw [e₂] at hp
    exact state_dropped.trans ((congrArg Job.state (getJob_of_jobs hp)).trans hr)
  · next s₁ e =>
    rw [e] at hr
    exact state_dropped.trans hr

end

end Sys2Proof.Machine
end

section
/-! PROOFS. Requests to the supervisor: jobs, queues, checkpoints, quotes, firmware and resets (03 R68-R70, R76, R77, R81-R87, R90, 01 R26,
R29). -/

namespace Sys2Proof.Machine

section
variable {s s₁ : State} {by_ : Option (Nat × Word)} {rest : List (Request × Option (Nat × Word))}

/-! ### The head request and its end -/

theorem headRequest_of_requests {x : Request} (hr : s.running = true) (h : s.requests = (x, by_) :: rest) :
    headRequest s = some (x, by_) := by
  simp [headRequest, hr, h]

theorem answer_of_no_queue {x : Request} {a b : Nat} (h : s.requests = (x, none) :: rest) :
    answer s a b = kickRequests { s with requests := rest } := by
  unfold answer
  rw [h]

theorem kickRequests_eq : kickRequests s = { s with agenda := (kickRequests s).agenda } := by
  unfold kickRequests
  split <;> rfl

/-! ### CREATE_JOB (R68-R70) -/

/-- The job that a record of CREATE_JOB asks for, under its tag. -/
def jobOf (r : JobReq) (tag : BitVec 12) : Job :=
  { Job.free with
    jobtag := tag, state := 2, weight := r.weight, maxprio := r.maxprio, flags := r.flags.setWidth 8,
    ptroot := r.ptroot, evq := r.evq, jobsync := r.jobsync, policy := r.policy, migth := r.migth, spill := r.spill, save := r.save }

theorem lt_of_jobIdFree {k : Nat} (h : jobIdFree s k = true) : k < 1024 := by
  simp only [jobIdFree, Bool.and_eq_true, decide_eq_true_eq] at h
  omega

theorem pickJob_of_free {n k : Nat} (h : jobIdFree s k = true) : ∃ j, pickJob s n = some j ∧ jobIdFree s j = true := by
  unfold pickJob
  split
  · next hc => exact ⟨_, rfl, hc⟩
  · have hs : ((List.range 1024).find? (jobIdFree s)).isSome = true :=
      List.find?_isSome.2 ⟨k, List.mem_range.2 (lt_of_jobIdFree h), h⟩
    obtain ⟨j, hj⟩ := Option.isSome_iff_exists.1 hs
    exact ⟨j, hj, List.find?_some hj⟩

theorem tagFree_pickTag {n : Nat} {g : BitVec 12} (h : tagFree s g = true) : tagFree s (pickTag s n) = true := by
  unfold pickTag
  split
  · assumption
  · have hm : g ∈ (List.range 4096).map (BitVec.ofNat 12) :=
      List.mem_map.2 ⟨g.toNat, List.mem_range.2 g.isLt, by simp⟩
    obtain ⟨j, hj⟩ := Option.isSome_iff_exists.1 (List.find?_isSome.2 ⟨g, hm, h⟩)
    rw [hj]
    exact List.find?_some (p := tagFree s) hj

theorem exec_createJob_refused {r : JobReq} (hr : s.running = true) (h : s.requests = (.createJob r, by_) :: rest)
    (hw : r.weight = 0 ∨ 255 < r.weight) : exec .createJob s = .next (refuse s) := by
  refine congrArg Host.Outcome.next ?_
  simp [headRequest_of_requests hr h, hw]

/-- The job is made under an id and the tag that is picked, and the request, which came by no queue, is answered. -/
def jobMade (s : State) (r : JobReq) (rest : List (Request × Option (Nat × Word))) (j : Nat) : State :=
  reply (kickRequests { setJob (draw s).2 j (jobOf r (pickTag s s.draws)) with requests := rest }) (.job j (pickTag s s.draws))

theorem exec_createJob_made {r : JobReq} {j : Nat} (hr : s.running = true) (h : s.requests = (.createJob r, none) :: rest)
    (hw : 1 ≤ r.weight) (hw' : r.weight ≤ 255) (hj : pickJob s s.draws = some j) : exec .createJob s = .next (jobMade s r rest j) := by
  have hn : ¬ (r.weight = 0 ∨ 255 < r.weight) := by omega
  have ha : answer (setJob (draw s).2 j (jobOf r (pickTag s s.draws))) 0 0 =
      kickRequests { setJob (draw s).2 j (jobOf r (pickTag s s.draws)) with requests := rest } := answer_of_no_queue h
  refine congrArg Host.Outcome.next ?_
  unfold jobMade
  rw [← ha]
  simp only [headRequest_of_requests hr h, draw, if_neg hn, hj]
  rfl

theorem jobMade_eq {r : JobReq} {j : Nat} : jobMade s r rest j = { setJob s j (jobOf r (pickTag s s.draws)) with
    draws := s.draws + 1, requests := rest, agenda := (jobMade s r rest j).agenda
    replies := s.replies ++ [.job j (pickTag s s.draws)] } := by
  unfold jobMade
  rw [kickRequests_eq]
  rfl

theorem getJob_jobMade {r : JobReq} {j i : Nat} :
    getJob (jobMade s r rest j) i = if i = j then jobOf r (pickTag s s.draws) else getJob s i := by
  rw [jobMade_eq]
  exact getJob_setJob ..

theorem jobMade_mem {r : JobReq} {j : Nat} : (jobMade s r rest j).mem = s.mem := by
  rw [jobMade_eq]
  rfl

/-! ### KILL_JOB (R81, R82) -/

theorem exec_killJob_held {j : Nat} (hr : s.running = true) (h : s.requests = (.killJob j, by_) :: rest) (hc : s.ckbusy = true) :
    exec .killJob s = .next s := by
  refine congrArg Host.Outcome.next ?_
  simp only [headRequest_of_requests hr h, if_pos hc]

theorem exec_killJob_live {j : Nat} (hr : s.running = true) (h : s.requests = (.killJob j, by_) :: rest) (hc : s.ckbusy = false)
    (hs : (getJob s j).state = 2) : exec .killJob s = .next (answer (killJob s j) 0 0) := by
  refine congrArg Host.Outcome.next ?_
  simp only [headRequest_of_requests hr h, hc, hs, Bool.false_eq_true, if_false]

theorem exec_killJob_stopped {j : Nat} (hr : s.running = true) (h : s.requests = (.killJob j, by_) :: rest) (hc : s.ckbusy = false)
    (hs : (getJob s j).state = 3 ∨ (getJob s j).state = 4) : exec .killJob s = .next (answer s 0 0) := by
  refine congrArg Host.Outcome.next ?_
  rcases hs with hs | hs
  all_goals simp only [headRequest_of_requests hr h, hc, hs, Bool.false_eq_true, if_false]

theorem exec_killJob_refused {j : Nat} (hr : s.running = true) (h : s.requests = (.killJob j, by_) :: rest) (hc : s.ckbusy = false)
    (hs : (getJob s j).state < 2 ∨ 4 < (getJob s j).state) : exec .killJob s = .next (refuse s) := by
  refine congrArg Host.Outcome.next ?_
  simp only [headRequest_of_requests hr h, hc, Bool.false_eq_true, if_false]
  split
  · omega
  · omega
  · omega
  · rfl

/-- A killed job is dead, and its event is posted (R81 step 6). -/
def jobDead (s : State) (job : Nat) : State :=
  let e (s : State) : Event := { unitEvent s 0x06 81 job 0 0 with job }
  let s := setJob s job { getJob s job with state := 4 }
  postSup (postJob s job (e s)) (e s)

/-- Nothing of a dead job is left (R81 step 5). -/
def jobCleared (s : State) (job : Nat) (tag : BitVec 12) : State :=
  { dropJob s job with
    windows := s.windows.filter fun w => w.2.tag != tag
    tlb := s.tlb.filter fun t => t.2.job != job
    ptrs := s.ptrs.filter fun t => t.2.job != job
    parked := s.parked.filter fun p => p.2.1 % 1024 != job
    hqueues := s.hqueues.filter fun q => q.job != job }

theorem getJob_jobCleared {j i : Nat} {g : BitVec 12} : getJob (jobCleared s j g) i = getJob s i := rfl

theorem jobCleared_tlb {j : Nat} {g : BitVec 12} : ∀ e ∈ (jobCleared s j g).tlb, e.2.job ≠ j := by
  intro e he
  simpa using List.of_mem_filter he

theorem jobCleared_hqueues {j : Nat} {g : BitVec 12} : ∀ q ∈ (jobCleared s j g).hqueues, q.job ≠ j := by
  intro q hq
  simpa using List.of_mem_filter hq

theorem jobCleared_windows {j : Nat} {g : BitVec 12} : ∀ w ∈ (jobCleared s j g).windows, w.2.tag ≠ g := by
  intro w hw
  simpa using List.of_mem_filter hw

theorem jobCleared_colls {j : Nat} {g : BitVec 12} : ∀ c ∈ (jobCleared s j g).colls, c.job ≠ j := by
  intro c hc
  simpa using List.of_mem_filter hc

theorem state_jobDead {j : Nat} : (getJob (jobDead s j) j).state = 4 := by
  unfold jobDead
  extract_lets e s₁
  rw [getJob_of_jobs jobs_postSup, state_postJob, getJob_setJob, if_pos rfl]

theorem exec_killDone_quiet {j : Nat} (hr : s.running = true) (h : (getJob s j).state = 3) (hq : killQuiet s j = true) :
    exec (.killDone j) s = .next (jobCleared (jobDead s j) j (getJob s j).jobtag) := by
  refine congrArg Host.Outcome.next (if_neg ?_)
  simp [hr, h, hq]

theorem exec_killDone_busy {j : Nat} (hq : killQuiet s j = false) : exec (.killDone j) s = .next s := by
  refine congrArg Host.Outcome.next (if_pos ?_)
  simp [hq]

theorem exec_hostCompletionTimeout {j : Nat} (hr : s.running = true) (h : (getJob s j).state = 3) :
    exec (.hostCompletionTimeout j) s = .next (enqueue s (.event (.killDone j))) := by
  refine congrArg Host.Outcome.next (if_pos ?_)
  simp [hr, h]

/-! ### CREATE_QUEUE and DESTROY_QUEUE (R68, R71) -/

theorem exec_createQueue_refused {j : Nat} {desc : Word} (hr : s.running = true) (h : s.requests = (.createQueue j desc, by_) :: rest)
    (hn : (getJob s j).state ≠ 2 ∨ (findQueue s j desc).isSome = true) : exec .createQueue s = .next (refuse s) := by
  refine congrArg Host.Outcome.next ?_
  simp only [headRequest_of_requests hr h, if_pos hn]

theorem exec_createQueue {j : Nat} {desc : Word} (hr : s.running = true) (h : s.requests = (.createQueue j desc, by_) :: rest)
    (hs : (getJob s j).state = 2) (hq : findQueue s j desc = none) :
    exec .createQueue s = .next (match queueDesc s j desc with
      | (s, none) => refuse s
      | (s, some d) =>
        if descOk j desc d && mappedWide s j desc 64 && mappedWide s j d.base (64 * 2 ^ d.log2n)
            && mappedWide s j d.cbase (32 * 2 ^ d.clog) then
          answer (enqueue { queueSet s j desc 14 1 (d.flags ||| 1#8).toNat with
            hqueues := (queueSet s j desc 14 1 (d.flags ||| 1#8).toNat).hqueues
              ++ [{ desc, job := j, kind := d.kind, since := none, upto := none }] } (.event (.queueSlotAccept j desc))) 0 0
        else refuse s) := by
  refine congrArg Host.Outcome.next ?_
  have hn : ¬ ((getJob s j).state ≠ 2 ∨ (findQueue s j desc).isSome = true) := by simp [hs, hq]
  simp only [headRequest_of_requests hr h, if_neg hn] <;> rfl

theorem exec_destroyQueue_refused {j : Nat} {desc : Word} (hr : s.running = true) (h : s.requests = (.destroyQueue j desc, by_) :: rest)
    (hq : findQueue s j desc = none) : exec .destroyQueue s = .next (refuse s) := by
  refine congrArg Host.Outcome.next ?_
  simp only [headRequest_of_requests hr h, hq]

theorem exec_destroyQueue {j : Nat} {desc : Word} {q : HQueue} {d : QDesc} (hr : s.running = true)
    (h : s.requests = (.destroyQueue j desc, by_) :: rest) (hq : findQueue s j desc = some q) (hd : queueDesc s j desc = (s₁, some d)) :
    exec .destroyQueue s =
      .next (answer (enqueue (setHqueue s₁ { q with upto := some (q.upto.getD d.wridx) }) (.event (.queueSlotAccept j desc))) 0 0) := by
  refine congrArg Host.Outcome.next ?_
  simp only [headRequest_of_requests hr h, hq, hd]

/-! ### Checkpoint and restore (R83-R85) -/

theorem withJobsStopped_moving {go : State → State} (h : s.ckStage = 2) : withJobsStopped s go = s := if_pos h

theorem withJobsStopped_waits {go : State → State} (h : s.ckStage < 2)
    (hl : tasksLeft (preemptAll { s with ckbusy := true, ckStage := 1 }) ≠ []) :
    withJobsStopped s go = preemptAll { s with ckbusy := true, ckStage := 1 } := by
  refine (if_neg (by omega)).trans (if_pos ?_)
  simpa using hl

theorem withJobsStopped_stopped {go : State → State} (h : s.ckStage < 2)
    (hl : tasksLeft (preemptAll { s with ckbusy := true, ckStage := 1 }) = []) :
    withJobsStopped s go = go { flushAll (preemptAll { s with ckbusy := true, ckStage := 1 }) with
      ckStage := 2, ckAt := (preemptAll { s with ckbusy := true, ckStage := 1 }).time } := by
  refine (if_neg (by omega)).trans ((if_neg ?_).trans ?_)
  · simpa using hl
  · rfl

theorem exec_checkpoint {tg : CkptTarget} (hr : s.running = true) (h : s.requests = (.checkpoint tg, by_) :: rest) :
    exec .checkpoint s = .next (if s.ckStage = 0 ∧ tg = .port1 ∧ s.boot.portMode ≠ 2 then refuse s
      else withJobsStopped s fun s => reply (takeImage s).1 (.image (takeImage s).2)) := by
  refine congrArg Host.Outcome.next ?_
  simp only [headRequest_of_requests hr h]

theorem exec_restore {im : Image} (hr : s.running = true) (h : s.requests = (.restore im, by_) :: rest) :
    exec .restore s = .next (if s.ckStage = 0 ∧ !imageOk im then refuse s else withJobsStopped s fun s => putImage s im) := by
  refine congrArg Host.Outcome.next ?_
  simp only [headRequest_of_requests hr h]

theorem exec_ckptDone {st : CkptStatus} (hr : s.running = true) (h : s.ckStage = 2) : exec (.ckptDone st) s = .next (ckptEnd s st) := by
  refine congrArg Host.Outcome.next (if_pos ?_)
  simp [hr, h]

theorem exec_checkpointTargetStall (hr : s.running = true) (h : s.ckStage = 2) :
    exec .checkpointTargetStall s = .next (if s.ckAt + 1000000000 ≤ s.time then ckptEnd s .targetStall else s) := by
  refine congrArg Host.Outcome.next ?_
  simp [hr, h]

/-! ### Attestation, firmware and resets (R86-R90) -/

theorem exec_attest {nonce : List Byte} (hr : s.running = true) (h : s.requests = (.attest nonce, by_) :: rest) :
    exec .attest s = .next (if nonce.length ≠ 32 then refuse s
      else reply (answer s 0 0) (.quote (quoteBody s nonce ++ Config.mldsaSign (quoteBody s nonce)))) := by
  refine congrArg Host.Outcome.next ?_
  simp only [headRequest_of_requests hr h]

theorem exec_fwStage {img : List Byte} (hr : s.running = true) (h : s.requests = (.fwStage img, by_) :: rest) :
    exec .fwStage s = .next (if fwOk s img then
      answer { s with boot := { s.boot with staged := kvInsert (fwField img 4 1) img s.boot.staged } } 0 0 else refuse s) := by
  refine congrArg Host.Outcome.next ?_
  simp only [headRequest_of_requests hr h]

theorem exec_warmReset (hr : s.running = true) (h : s.requests = (.warmReset, by_) :: rest) :
    exec .warmReset s = .next { flushAll (answer s 0 0) with
      running := false, boot := { (flushAll (answer s 0 0)).boot with clean := true } } := by
  refine congrArg Host.Outcome.next ?_
  simp only [headRequest_of_requests hr h]

theorem exec_fenceDie {die : Nat} (hr : s.running = true) (h : s.requests = (.fenceDie die, by_) :: rest) :
    exec .fenceDie s = .next (if 4 ≤ die then refuse s else answer (fenceDie s die) 0 0) := by
  refine congrArg Host.Outcome.next ?_
  simp only [headRequest_of_requests hr h]

end

/-- Settles O55: each request by the branch that its condition takes; a new job by the id and tag that are picked, a dead one by what the
posting of its event leaves. -/
theorem requestEvents : Obligations.RequestEvents := by
  intro s s1 by_ rest r j die desc d q im nonce img st tg hr
  extract_lets asks stopped moving sound
  refine ⟨fun h => ⟨exec_createJob_refused hr h, fun hw hw' hk hg hb => ?_⟩, fun hb x a b h => ?_,
    fun h => ⟨exec_killJob_held hr h,
      fun hc => ⟨exec_killJob_live hr h hc, exec_killJob_stopped hr h hc, exec_killJob_refused hr h hc⟩⟩,
    fun h3 => ?_, fun h => ⟨exec_createQueue_refused hr h, fun hs hq => ?_⟩,
    fun h => ⟨exec_destroyQueue_refused hr h, exec_destroyQueue hr h⟩, fun h => ?_, fun h => ?_,
    fun h2 => ⟨exec_ckptDone hr h2, fun ht => ?_, fun ht => ?_⟩, fun h => ?_, fun h => ⟨fun hf => ?_, fun hf hb => ?_⟩,
    fun h => ⟨_, exec_warmReset hr h, rfl, rfl, rfl⟩, fun h => ?_⟩
  · subst hb
    obtain ⟨k, hk⟩ := hk
    obtain ⟨g, hg⟩ := hg
    obtain ⟨i, hi, hf⟩ := pickJob_of_free (n := s.draws) hk
    exact ⟨_, i, pickTag s s.draws, exec_createJob_made hr h hw hw' hi, hf, tagFree_pickTag hg, getJob_jobMade.trans (if_pos rfl),
      fun e he => getJob_jobMade.trans (if_neg he), congrArg State.replies jobMade_eq, congrArg State.requests jobMade_eq,
      jobMade_mem⟩
  · subst hb
    exact answer_of_no_queue h
  · exact ⟨exec_hostCompletionTimeout hr h3, exec_killDone_busy, fun hq => ⟨_, exec_killDone_quiet hr h3 hq,
      (congrArg Job.state getJob_jobCleared).trans state_jobDead, jobCleared_tlb, jobCleared_hqueues, jobCleared_windows,
      jobCleared_colls⟩⟩
  · have he := exec_createQueue hr h hs hq
    refine ⟨fun hd => ?_, fun hd hs => ?_, fun hd hs => ?_⟩ <;> rw [he, hd]
    · exact congrArg _ (if_neg (ne_true_of_eq_false hs))
    · exact congrArg _ (if_pos hs)
  · have he := exec_checkpoint hr h
    refine ⟨fun h0 ht hp => he.trans (congrArg _ (if_pos ⟨h0, ht, hp⟩)), fun h2 => ?_, fun hl hp => ?_⟩
    · exact he.trans (congrArg _ ((if_neg (by omega)).trans (withJobsStopped_moving h2)))
    · have hn : ¬ (s.ckStage = 0 ∧ tg = .port1 ∧ s.boot.portMode ≠ 2) := fun ⟨h0, ht, hm⟩ => (hp h0).elim (· ht) hm
      rw [if_neg hn] at he
      exact ⟨fun ht => he.trans (congrArg _ (withJobsStopped_waits hl ht)),
        fun ht => he.trans (congrArg _ (withJobsStopped_stopped hl ht))⟩
  · have he := exec_restore hr h
    refine ⟨fun h0 hi => he.trans (congrArg _ (if_pos (by simp [h0, hi]))), fun hl hi => ?_⟩
    have hn : ¬ (s.ckStage = 0 ∧ !imageOk im) := fun ⟨h0, hm⟩ => by simp [hi h0] at hm
    rw [if_neg hn] at he
    exact ⟨fun ht => he.trans (congrArg _ (withJobsStopped_waits hl ht)),
        fun ht => he.trans (congrArg _ (withJobsStopped_stopped hl ht))⟩
  · exact (exec_checkpointTargetStall hr h2).trans (congrArg _ (if_pos ht))
  · exact (exec_checkpointTargetStall hr h2).trans (congrArg _ (if_neg (Nat.not_le.2 ht)))
  · have he := exec_attest hr h
    exact ⟨fun hn => he.trans (congrArg _ (if_pos hn)), fun hn => he.trans (congrArg _ (if_neg (not_not.2 hn)))⟩
  · exact (exec_fwStage hr h).trans (congrArg _ (if_neg (ne_true_of_eq_false hf)))
  · subst hb
    have ha := answer_of_no_queue (a := 0) (b := 0)
      (s := { s with boot := { s.boot with staged := kvInsert (fwField img 4 1) img s.boot.staged } }) h
    refine ⟨_, (exec_fwStage hr h).trans (congrArg _ ((if_pos hf).trans (ha.trans kickRequests_eq))), ?_, fun k hk => ?_⟩
    · exact (kvFind_kvInsert ..).trans (if_pos rfl)
    · exact (kvFind_kvInsert ..).trans (if_neg hk)
  · have he := exec_fenceDie hr h
    exact ⟨fun hd => he.trans (congrArg _ (if_pos hd)), fun hd => he.trans (congrArg _ (if_neg (Nat.not_le.2 hd)))⟩

end Sys2Proof.Machine
end

section
/-! PROOFS. What the host reads of device memory, and what a snoop leaves (03 R63, 04 R100, R107). -/

namespace Sys2Proof.Machine

section
variable {s t : State} {line : Nat}

/-! ### The bytes of device memory -/

/-- A region of device memory lies in one piece. -/
theorem locate_hdm {pa : Nat} (h : pa < 0xC000000000) :
    ∃ loc, locate pa = some (loc, .hbm) ∧
      ∀ i, i < 65536 - pa % 65536 → pa + i < 0xC000000000 → locate (pa + i) = some (loc + i, .hbm) := by
  refine ⟨_, if_pos h, fun i hi hb => (if_pos hb).trans ?_⟩
  have hd : (pa + i) / 65536 = pa / 65536 := by omega
  have hm : (pa + i) % 65536 = pa % 65536 + i := by omega
  simp only [hd, hm]
  rw [← Nat.add_assoc]

/-- The bytes of one run. -/
def runBytes (s : State) (e : Nat × Nat) : List Byte := (List.range e.2).map fun i => readByte s.mem (e.1 + i)

theorem runsBytes_cons {e : Nat × Nat} {l : List (Nat × Nat)} : runsBytes s (e :: l) = runBytes s e ++ runsBytes s l := rfl

theorem length_runBytes {e : Nat × Nat} : (runBytes s e).length = e.2 := by simp [runBytes]

theorem getD_runBytes {e : Nat × Nat} {i : Nat} (h : i < e.2) : (runBytes s e).getD i 0 = readByte s.mem (e.1 + i) := by
  simp [runBytes, List.getD_eq_getElem?_getD, h]

/-- The runs of a range of device memory hold its bytes in their order. -/
theorem runsBytes_hdmRuns {fuel pa n : Nat} (hf : 0 < n → pa % 65536 + n ≤ 65536 * fuel) (hn : pa + n ≤ 0xC000000000) :
    (runsBytes s (hdmRuns fuel pa n)).length = n ∧
      ∀ k, k < n → ∃ loc, locate (pa + k) = some (loc, .hbm) ∧ (runsBytes s (hdmRuns fuel pa n)).getD k 0 = readByte s.mem loc := by
  induction fuel generalizing pa n with
  | zero =>
    obtain rfl : n = 0 := by omega
    exact ⟨rfl, by omega⟩
  | succ fuel ih =>
    unfold hdmRuns
    split
    · next h0 => exact ⟨by simp [runsBytes, h0], by omega⟩
    next h0 =>
    extract_lets m
    have hm : m = n ∨ m = 65536 - pa % 65536 ∧ m ≤ n := by
      rcases Nat.le_total n (65536 - pa % 65536) with h | h
      · exact .inl (min_eq_left h)
      · exact .inr ⟨min_eq_right h, min_le_left ..⟩
    have hle : m ≤ 65536 - pa % 65536 := min_le_right ..
    clear_value m
    obtain ⟨loc, hl, hr⟩ := locate_hdm (pa := pa) (by omega)
    obtain ⟨hlen, hget⟩ := ih (pa := pa + m) (n := n - m) (by omega) (by omega)
    simp only [hl, runsBytes_cons]
    refine ⟨by rw [List.length_append, hlen, length_runBytes]; dsimp only; omega, fun k hk => ?_⟩
    by_cases hkm : k < m
    · refine ⟨_, hr k (by omega) (by omega), ?_⟩
      rw [List.getD_append _ _ _ _ (by rw [length_runBytes]; exact hkm), getD_runBytes hkm]
    · obtain ⟨l, hl, hg⟩ := hget (k - m) (by omega)
      refine ⟨l, ?_, ?_⟩
      · rw [← hl]
        congr 1
        omega
      · rw [List.getD_append_right _ _ _ _ (by rw [length_runBytes]; dsimp only; omega), length_runBytes]
        exact hg

/-! ### A granule written at its home -/

theorem readByte_writeNat_of_mem {m : Store} {a n v i : Nat} (h : i < n) :
    readByte (writeNat m a n v) (a + i) = BitVec.ofNat 8 (v / 256 ^ i) := by
  induction n generalizing m a v i with
  | zero => omega
  | succ n ih =>
    unfold writeNat
    cases i with
    | zero =>
      rw [readByte_writeNat_of_not_mem _ _ _ _ _ (by omega)]
      simp
    | succ i =>
      rw [show a + (i + 1) = a + 1 + i by omega, ih (by omega), Nat.div_div_eq_div_mul, pow_succ']

theorem ofNat_toNat_div {w : Nat} (x : BitVec w) (i : Nat) : BitVec.ofNat 8 (x.toNat / 256 ^ i) = x.extractLsb' (8 * i) 8 := by
  rw [show 256 ^ i = 2 ^ (8 * i) by rw [pow_mul]; norm_num, ← Nat.shiftRight_eq_div_pow]
  rfl

theorem readByte_putHomeGran_same {g i : Nat} {d : BitVec 128} {y : BitVec 16} (hi : i < 16) :
    readByte (putHomeGran s line g d y).mem (64 * line + 16 * g + i) = d.extractLsb' (8 * i) 8 := by
  have hw : readByte (writeNat s.mem (64 * line + 16 * g) 16 d.toNat) (64 * line + 16 * g + i) = d.extractLsb' (8 * i) 8 :=
    (readByte_writeNat_of_mem hi).trans (ofNat_toNat_div ..)
  unfold putHomeGran
  extract_lets y s₁
  split <;> exact hw

theorem readByte_putHomeGran_other {g x : Nat} {d : BitVec 128} {y : BitVec 16}
    (hx : x < 64 * line + 16 * g ∨ 64 * line + 16 * g + 16 ≤ x) : readByte (putHomeGran s line g d y).mem x = readByte s.mem x := by
  have hw : readByte (writeNat s.mem (64 * line + 16 * g) 16 d.toNat) x = readByte s.mem x := readByte_writeNat_of_not_mem _ _ _ _ _ hx
  unfold putHomeGran
  extract_lets y s₁
  split <;> exact hw

/-- The four granules of a line written at its home. -/
def putHomeLine (s : State) (line : Nat) (d : BitVec 512) : State :=
  let put (s : State) (g : Nat) : State := putHomeGran s line g (granBits d g) 0
  putHomeMeta (clearRanges (put (put (put (put s 0) 1) 2) 3) (64 * line) 64) line 0

theorem extractLsb'_granBits {d : BitVec 512} {g i : Nat} (hi : i < 16) :
    (granBits d g).extractLsb' (8 * i) 8 = d.extractLsb' (8 * (16 * g + i)) 8 := by
  ext k hk
  simp only [granBits, BitVec.getElem_extractLsb', BitVec.getLsbD_extractLsb']
  rw [decide_eq_true (by omega), Bool.true_and]
  congr 1
  omega

theorem readByte_putHomeLine {d : BitVec 512} {k : Nat} (hk : k < 64) :
    readByte (putHomeLine s line d).mem (line * 64 + k) = d.extractLsb' (8 * k) 8 := by
  have same : ∀ (s : State) g, g = k / 16 →
      readByte (putHomeGran s line g (granBits d g) 0).mem (line * 64 + k) = d.extractLsb' (8 * k) 8 := by
    rintro s g rfl
    rw [show line * 64 + k = 64 * line + 16 * (k / 16) + k % 16 by omega, readByte_putHomeGran_same (by omega),
      extractLsb'_granBits (by omega), show 16 * (k / 16) + k % 16 = k by omega]
  have other : ∀ (s : State) g, g ≠ k / 16 →
      readByte (putHomeGran s line g (granBits d g) 0).mem (line * 64 + k) = readByte s.mem (line * 64 + k) :=
    fun s g hg => readByte_putHomeGran_other (by omega)
  rcases (by omega : k / 16 = 0 ∨ k / 16 = 1 ∨ k / 16 = 2 ∨ k / 16 = 3) with h | h | h | h
  · exact (other _ 3 (by omega)).trans ((other _ 2 (by omega)).trans ((other _ 1 (by omega)).trans (same _ 0 h.symm)))
  · exact (other _ 3 (by omega)).trans ((other _ 2 (by omega)).trans (same _ 1 h.symm))
  · exact (other _ 3 (by omega)).trans (same _ 2 h.symm)
  · exact same _ 3 h.symm

/-! ### A line that the host takes back (R100) -/

theorem foldl_enqueue {α : Type} {w : α → Happening} {l : List α} :
    l.foldl (fun s a => enqueue s (w a)) s = { s with agenda := s.agenda ++ l.map fun a => ⟨0, w a⟩ } := by
  induction l generalizing s with
  | nil => simp
  | cons a l ih =>
    rw [List.foldl_cons, ih]
    simp [enqueue]

theorem lineWritten_tlb : (lineWritten s line).tlb = s.tlb.filter fun e => !e.2.entries.contains line := by
  unfold lineWritten
  simp only [foldl_enqueue]
  split <;> rfl

theorem HomeWrite.clines {b : Nat} (h : HomeWrite b s t) : t.clines = s.clines := by rw [h.1]

theorem HomeWrite.ccache {b : Nat} (h : HomeWrite b s t) : t.ccache = s.ccache := by rw [h.1]

theorem homeWrite_putHomeLine {d : BitVec 512} : HomeWrite (line + 1) s (putHomeLine s line d) :=
  have hg (s : State) (g : Nat) (hg : g < 4) : HomeWrite (line + 1) s (putHomeGran s line g (granBits d g) 0) :=
    homeWrite_putHomeGran (Nat.lt_succ_self line) hg
  ((hg s 0 (by decide)).trans ((hg _ 1 (by decide)).trans ((hg _ 2 (by decide)).trans (hg _ 3 (by decide))))).trans
    (homeWrite_clearRanges.trans homeWrite_putHomeMeta)

theorem mem_kvSet {α : Type} [DecidableEq α] {d v : α} {l : List (Nat × α)} {a : Nat} {e : Nat × α} (h : e ∈ kvSet d l a v) :
    e.1 = a ∨ e ∈ l := by
  unfold kvSet at h
  split at h
  · exact .inr (List.mem_of_mem_filter h)
  · exact (mem_kvInsert _ _ _ _ h).imp_left (congrArg Prod.fst)

theorem putHomeGran_clines {g : Nat} {d : BitVec 128} {y : BitVec 16} : (putHomeGran s line g d y).clines = s.clines := by
  unfold putHomeGran
  extract_lets y s₁
  split <;> rfl

theorem mem_writeBack_clines {c : Nat} {who : BitVec 4 → Bool} {e : Nat × CLine} (h : e ∈ (writeBack s c line who).clines) :
    e.1 = viewKey c line ∨ e ∈ s.clines := by
  unfold writeBack at h
  extract_lets v pick whole put s₁ s₂ gr at h
  have hp : ∀ s g, (put s g).clines = s.clines := by
    intro s g
    dsimp only [put]
    split
    · split
      · exact putHomeGran_clines
      · rfl
    · rfl
  have h₂ : s₂.clines = s.clines := by
    refine Eq.trans (b := s₁.clines) ?_ ((hp ..).trans ((hp ..).trans ((hp ..).trans (hp ..))))
    dsimp only [s₂]
    split <;> rfl
  split at h
  · rw [(homeWrite_lineWritten (b := 0)).clines] at h
    exact h₂ ▸ mem_kvSet h
  · exact .inr h

theorem purge_clines {c : Nat} : (purge s c line).clines = kvErase (writeBack s c line fun _ => true).clines (viewKey c line) := by
  unfold purge setView
  simp [kvSet]

theorem mem_purge_clines {c : Nat} {e : Nat × CLine} (h : e ∈ (purge s c line).clines) : e.1 ≠ viewKey c line ∧ e ∈ s.clines := by
  rw [purge_clines] at h
  have hn : e.1 ≠ viewKey c line := by simpa using List.of_mem_filter h
  exact ⟨hn, (mem_writeBack_clines (List.mem_of_mem_filter h)).resolve_left hn⟩

theorem mem_foldl_purge_clines {l : List (Nat × CLine)} {e : Nat × CLine}
    (h : e ∈ (l.foldl (fun s e => purge s (e.1 / 2 ^ 64) line) s).clines) :
    e ∈ s.clines ∧ ∀ x ∈ l, e.1 ≠ viewKey (x.1 / 2 ^ 64) line := by
  induction l generalizing s with
  | nil => exact ⟨h, by simp⟩
  | cons x l ih =>
    obtain ⟨hm, hl⟩ := ih h
    obtain ⟨hn, hm⟩ := mem_purge_clines hm
    exact ⟨hm, List.forall_mem_cons.2 ⟨hn, hl⟩⟩

/-- The line goes home from every cluster that holds it and is dropped there and from every constant cache. -/
def lineDropped (s : State) (line : Nat) : State :=
  let s := (s.clines.filter fun e => e.1 % 2 ^ 64 == line).foldl (fun s e => purge s (e.1 / 2 ^ 64) line) s
  { s with ccache := s.ccache.filter fun e => e.1 % 2 ^ 64 != line }

theorem lineDropped_clines : ∀ e ∈ (lineDropped s line).clines, e.1 % 2 ^ 64 ≠ line := by
  intro e he hl
  obtain ⟨hm, hn⟩ := mem_foldl_purge_clines he
  refine hn e (List.mem_filter.2 ⟨hm, beq_iff_eq.2 hl⟩) ?_
  rw [viewKey, ← hl]
  omega

theorem lineDropped_ccache : ∀ e ∈ (lineDropped s line).ccache, e.1 % 2 ^ 64 ≠ line := by
  intro e he
  simpa using List.of_mem_filter he

/-- What the host has written stands in the line. -/
def lineTaken (s : State) (line : Nat) : Option (BitVec 512) → State
  | some d => lineWritten (putHomeLine (lineDropped s line) line d) line
  | none => lineWritten (lineDropped s line) line

theorem homeWrite_lineTaken {data : Option (BitVec 512)} : HomeWrite (line + 1) (lineDropped s line) (lineTaken s line data) := by
  cases data with
  | none => exact homeWrite_lineWritten
  | some d => exact homeWrite_putHomeLine.trans homeWrite_lineWritten

theorem lineTaken_tlb {data : Option (BitVec 512)} : ∀ e ∈ (lineTaken s line data).tlb, line ∉ e.2.entries := by
  intro e he
  cases data
  all_goals
    rw [lineTaken, lineWritten_tlb] at he
    simpa using List.of_mem_filter he

theorem readByte_lineTaken {d : BitVec 512} {k : Nat} (hk : k < 64) :
    readByte (lineTaken s line (some d)).mem (line * 64 + k) = d.extractLsb' (8 * k) 8 :=
  ((homeWrite_lineWritten (b := 0)).2 _ (Nat.zero_le _)).trans (readByte_putHomeLine hk)

end

end Sys2Proof.Machine
end

section
/-! PROOFS. Shared queues and what the host writes, reads and snoops (02 R34, R41, 03 R65, R66, R72-R77, 04 R100, R107, R108,
13 R336, R475). -/

namespace Sys2Proof.Machine

section
variable {s s₁ s₂ s₃ : State} {j : Nat} {desc : Word} {q : HQueue} {d : QDesc}

/-! ### The consumer at its head slot (03 R75) -/

section
variable {k : State → HQueue → QDesc → Nat → State}

theorem lookSlot_unknown (hq : findQueue s j desc = none) : lookSlot s j desc k = s := by
  unfold lookSlot
  rw [hq]

theorem lookSlot_up (hq : findQueue s j desc = some q) (hu : queueUp s q = true) (hd : queueDesc s j desc = (s₁, some d)) :
    lookSlot s j desc k =
      if 2 ^ 56 ≤ d.wridx then postJob (disableQueue s₁ q d) j (unitEvent s₁ 0x07 81 j desc 0)
      else if q.upto.any fun n => decide (n ≤ d.rdidx) then disableQueue s₁ q d
      else if d.idle then setHqueue s₁ { q with since := none }
      else match queueLine s₁ q d with
        | (s, none) => s
        | (s, some v) => k s q d v := by
  unfold lookSlot
  simp only [hq, hu, hd] <;> rfl

theorem lookSlot_overrun (hq : findQueue s j desc = some q) (hu : queueUp s q = true) (hd : queueDesc s j desc = (s₁, some d))
    (hw : 2 ^ 56 ≤ d.wridx) : lookSlot s j desc k = postJob (disableQueue s₁ q d) j (unitEvent s₁ 0x07 81 j desc 0) :=
  (lookSlot_up hq hu hd).trans (if_pos hw)

theorem lookSlot_ended (hq : findQueue s j desc = some q) (hu : queueUp s q = true) (hd : queueDesc s j desc = (s₁, some d))
    (hw : d.wridx < 2 ^ 56) (hm : ∃ m, q.upto = some m ∧ m ≤ d.rdidx) : lookSlot s j desc k = disableQueue s₁ q d := by
  obtain ⟨m, hm, hle⟩ := hm
  exact (lookSlot_up hq hu hd).trans ((if_neg (Nat.not_le.2 hw)).trans (if_pos (by simp [hm, hle])))

theorem upto_any_false (hm : ∀ m, q.upto = some m → d.rdidx < m) : ¬ (q.upto.any fun n => decide (n ≤ d.rdidx)) = true := by
  simpa [Option.any_eq_true] using hm

theorem lookSlot_idle (hq : findQueue s j desc = some q) (hu : queueUp s q = true) (hd : queueDesc s j desc = (s₁, some d))
    (hw : d.wridx < 2 ^ 56) (hm : ∀ m, q.upto = some m → d.rdidx < m) (hi : d.idle = true) :
    lookSlot s j desc k = setHqueue s₁ { q with since := none } :=
  (lookSlot_up hq hu hd).trans ((if_neg (Nat.not_le.2 hw)).trans ((if_neg (upto_any_false hm)).trans (if_pos hi)))

/-- The consumer works at a claimed slot of a queue that is not at its end (R75, R76). -/
def AtSlot (s : State) (j : Nat) (desc : Word) (q : HQueue) (d : QDesc) (s₂ : State) (v : Nat) : Prop :=
  ∃ s₁, findQueue s j desc = some q ∧ queueUp s q = true ∧ queueDesc s j desc = (s₁, some d) ∧ d.wridx < 2 ^ 56
    ∧ (∀ m, q.upto = some m → d.rdidx < m) ∧ d.idle = false ∧ queueLine s₁ q d = (s₂, some v)

theorem lookSlot_line {v : Nat} (h : AtSlot s j desc q d s₂ v) : lookSlot s j desc k = k s₂ q d v := by
  obtain ⟨s₁, hq, hu, hd, hw, hm, hi, hl⟩ := h
  rw [lookSlot_up hq hu hd, if_neg (Nat.not_le.2 hw), if_neg (upto_any_false hm), if_neg (ne_true_of_eq_false hi), hl]

end

theorem exec_queueSlotAccept_line {v : Nat} (h : AtSlot s j desc q d s₂ v) :
    exec (.queueSlotAccept j desc) s = .next (if !seenSlot d v then setHqueue s₂ { q with since := some (q.since.getD s₂.time) }
      else if rf v 63 1 ≠ 1 then
        if ordered q.kind && inFlight s₂ q then s₂ else nextSlot (reportSlot s₂ j desc 2 17) j desc d
      else (takeSlot s₂ q d v).getD s₂) :=
  congrArg Host.Outcome.next (lookSlot_line h)

theorem exec_queueStall_line {v : Nat} (h : AtSlot s j desc q d s₂ v) :
    exec (.queueStall j desc) s = .next (
      if seenSlot d v || !(q.since.any fun t => decide (t + d.limit ≤ s₂.time)) || (ordered q.kind && inFlight s₂ q) then s₂
      else nextSlot (reportSlot s₂ j desc 1 0) j desc d) :=
  congrArg Host.Outcome.next (lookSlot_line h)

/-! ### Issue packets and COLL requests (13 R336, R475) -/

theorem exec_issuePacket {record : Word} {kind : Byte} {more : List Byte} (hr : s.running = true) (hq : findQueue s j desc = some q)
    (hm : s.master ≠ none) (hs : (getJob s j).state = 2) (hp : q.pkt = some (record, kind, more)) (hk : q.kind = 1) :
    exec (.issuePacket j desc record kind more) s = .next (
      let t := issueRecord (setHqueue s { q with pkt := none }) j record kind more
      reportSlot t.1 j desc t.2.1 t.2.2) := by
  refine congrArg Host.Outcome.next ?_
  simp only [hq]
  refine if_neg ?_
  simp [hr, hm, hs, hp, hk]

/-- A held COLL request comes about: the package runs, the die of its queue is not fenced, and its job is live. -/
structure CollHeld (s : State) (j : Nat) (desc : Word) (q : HQueue) (record : Word) (more : List Byte) : Prop where
  running : s.running = true
  queue : findQueue s j desc = some q
  die : (getDie s (queueDie s q)).fenced = false
  job : (getJob s j).state = 2
  pkt : q.pkt = some (record, 0, more)
  kind : q.kind = 2

theorem CollHeld.not_idle {record : Word} {more : List Byte} (h : CollHeld s j desc q record more) :
    ¬ (!s.running || (getDie s (queueDie s q)).fenced || (getJob s j).state != 2 || q.pkt != some (record, 0, more)
      || q.kind != 2) = true := by
  obtain ⟨hr, -, hf, hs, hp, hk⟩ := h
  simp [hr, hf, hs, hp, hk]

theorem exec_collRequest_reserved {record : Word} {more : List Byte} (h : CollHeld s j desc q record more) (hb : ∃ b ∈ more, b ≠ 0) :
    exec (.collRequest j desc record more) s = .next (rejectColl (setHqueue s { q with pkt := none }) j desc 17) := by
  refine congrArg Host.Outcome.next ?_
  simp only [h.queue]
  exact (if_neg h.not_idle).trans (if_pos (by simpa using hb))

theorem exec_collRequest_misaligned {record : Word} {more : List Byte} (h : CollHeld s j desc q record more) (hb : ∀ b ∈ more, b = 0)
    (ha : record.toNat % 64 ≠ 0) :
    exec (.collRequest j desc record more) s = .next (rejectColl (setHqueue s { q with pkt := none }) j desc 19) := by
  refine congrArg Host.Outcome.next ?_
  simp only [h.queue]
  exact (if_neg h.not_idle).trans ((if_neg (by simpa using hb)).trans (if_pos ha))

theorem exec_collRequest_accepted {record : Word} {more : List Byte} {sps : List Span} {v : Nat} {c : Coll}
    (h : CollHeld s j desc q record more) (hb : ∀ b ∈ more, b = 0) (ha : record.toNat % 64 = 0)
    (ht : translate s (unitCtx (queueDie s q) j false) record 256 { r := true } = (s₁, .ok sps))
    (hl : loadSpans 7 (unitSlot (queueDie s q) j) .home s₁ sps = .ok (s₃, v))
    (hc : acceptColl s₃ (unitCtx (queueDie s q) j false) 0 (unitSlot (queueDie s q) j) j (queueDie s q * 256) record v (some desc)
      = .ok s₂ c) :
    exec (.collRequest j desc record more) s = .next (addColl (setHqueue s₂ { q with pkt := none }) c) := by
  refine congrArg Host.Outcome.next ?_
  simp only [h.queue]
  refine (if_neg h.not_idle).trans ((if_neg (by simpa using hb)).trans ((if_neg (not_not.2 ha)).trans ?_))
  simp only [ht, hl, hc]

/-! ### What the host writes (02 R34, R41, 03 R65, R66) -/

section
variable {x : HostIn} {rest : List HostIn}

theorem headHost_of_hostIn (hr : s.running = true) (h : s.hostIn = x :: rest) : headHost s = some (x, { s with hostIn := rest }) := by
  simp [headHost, hostUp, hr, h]

theorem exec_srqWrite {w : Word} (hr : s.running = true) (h : s.hostIn = .srq w :: rest) :
    exec .srqWrite s = .next (setSrq { s with hostIn := rest } w) := by
  refine congrArg Host.Outcome.next ?_
  simp only [headHost_of_hostIn hr h]

theorem exec_sevqWrite {w : Word} (hr : s.running = true) (h : s.hostIn = .sevq w :: rest) :
    exec .sevqWrite s = .next (setSevq { s with hostIn := rest } w) := by
  refine congrArg Host.Outcome.next ?_
  simp only [headHost_of_hostIn hr h]

theorem setSevq_sevq {w : Word} : (setSevq s w).sevq = paField w := by
  unfold setSevq
  extract_lets s₁
  split <;> rfl

/-- The effect of a register write that is taken, or the state as it was where what stands at the head is none. -/
def registerWritten (was s : State) : HostIn → State
  | .reg die off v => if off < 0x1000 then ctlWrite s die off v else s
  | .route d m => loadRoute s d m
  | .window i w => loadWindow s i w
  | .outWindow i w => loadOutWindow s i w
  | .device id => { s with devId := id }
  | .progress => if s.ckStage = 2 then { s with ckAt := s.time } else s
  | .minimum kind svn sig => raiseMinimum s kind svn sig
  | .delay ns => if 10000 ≤ ns ∧ ns ≤ 10000000 then { s with delay := ns } else s
  | .dispose slot replay => if s.running then disposeTask s slot replay else s
  | .limit w => if Config.boardLimit then { s with power := { s.power with limit := w } } else s
  | _ => was

theorem exec_registerWrite (hr : s.running = true) (h : s.hostIn = x :: rest) :
    exec .registerWrite s = .next (registerWritten s { s with hostIn := rest } x) := by
  refine congrArg Host.Outcome.next ?_
  simp only [headHost_of_hostIn hr h]
  cases x <;> rfl

theorem loadRoute_routes {dst : BitVec 12} {mask : BitVec 18} : kvGet 0 (loadRoute s dst mask).routes dst.toNat = mask := by
  have h : kvGet 0 (kvSet 0 s.routes dst.toNat mask) dst.toNat = mask := (kvGet_kvSet ..).trans (if_pos rfl)
  unfold loadRoute
  extract_lets s₁
  split <;> exact h

theorem loadRoute_rejoins {dst : BitVec 12} {mask : BitVec 18} (hl : dst ∈ s.lostDevs) (hf : dst ∈ s.freshWins) :
    dst ∉ (loadRoute s dst mask).lostDevs := by
  unfold loadRoute
  extract_lets s₁
  rw [if_pos (by simp [s₁, unhold, hl, hf])]
  simp

theorem loadRoute_stale {dst : BitVec 12} {mask : BitVec 18} (hf : dst ∉ s.freshWins) : (loadRoute s dst mask).lostDevs = s.lostDevs := by
  unfold loadRoute
  extract_lets s₁
  rw [if_neg (by simp [s₁, unhold, hf])]
  rfl

/-! ### What the host reads, writes and snoops of memory (03 R63, R65, 04 R100, R107, R108) -/

theorem exec_hostMemRead_bar {die off : Nat} (hr : s.running = true) (h : s.hostIn = .bar die off :: rest) :
    exec .hostMemRead s = .next (
      let u : State := { s with hostIn := rest }
      if off < 0x1000 then
        { (ctlRead u die off).1 with replies := (ctlRead u die off).1.replies ++ [.data (ctlRead u die off).2.toNat] }
      else { u with replies := u.replies ++ [.data 0] }) := by
  show execHostMemRead s = _
  unfold execHostMemRead
  simp only [headHost_of_hostIn hr h]
  split <;> rfl

/-- The state after a read of the host, and whether a granule was bad. -/
def hostRead (s : State) (pa n : Nat) : State × Bool :=
  ((hdmRuns (n / 65536 + 2) pa n).flatMap fun e => linesOf e.1 e.2).foldl hostReadLine (s, false)

theorem exec_hostMemRead {pa n : Nat} (hr : s.running = true) (h : s.hostIn = .read pa n :: rest) :
    exec .hostMemRead s =
      if pa + n ≤ 0xC000000000 then
        if hostWaits s pa n then .next (hold s (.event .hostMemRead))
        else
          let t := hostRead { s with hostIn := rest } pa n
          .next { t.1 with replies := t.1.replies ++ [.read (runsBytes t.1 (hdmRuns (n / 65536 + 2) pa n)) t.2] }
      else .fault (.noStorage (BitVec.ofNat 64 pa)) := by
  show execHostMemRead s = _
  unfold execHostMemRead
  simp only [headHost_of_hostIn hr h, hdm, Bool.not_eq_true', decide_eq_false_iff_not, ite_not] <;> rfl

theorem exec_hostMemWrite {pa n v : Nat} (hr : s.running = true) (h : s.hostIn = .write pa n v :: rest) :
    exec .hostMemWrite s =
      if pa + n ≤ 0xC000000000 then
        if hostWaits s pa n then .next (hold s (.event .hostMemWrite))
        else .next (hostWriteRuns (hdmRuns (n / 65536 + 2) pa n) v { s with hostIn := rest })
      else .fault (.noStorage (BitVec.ofNat 64 pa)) := by
  show execHostMemWrite s = _
  unfold execHostMemWrite
  simp only [headHost_of_hostIn hr h, hdm, Bool.not_eq_true', decide_eq_false_iff_not, ite_not]

theorem exec_hostSnoop {pa : Nat} {data : Option (BitVec 512)} (hr : s.running = true) (h : s.hostIn = .snoop pa data :: rest) :
    exec .hostSnoop s = .next (if hostLine (pa / 64) = false then { s with hostIn := rest }
      else lineTaken { s with hostIn := rest } (pa / 64) data) := by
  refine congrArg Host.Outcome.next ?_
  simp only [headHost_of_hostIn hr h, Bool.not_eq_true']
  cases data <;> rfl

end

end

/-- Settles O56: a queue's consumer by the branch that its condition takes, what the host writes as it is taken, a read by the runs of its
range, and a snoop by what the line's write takes with it. -/
theorem queueAndHostEvents : Obligations.QueueAndHostEvents := by
  intro s s1 s2 s3 j v pa n die off i desc record w kind more q d h rest sps c dst mask win data ow sig replay hr
  extract_lets u t at_ freed
  refine ⟨fun hq => ⟨congrArg _ (lookSlot_unknown hq), congrArg _ (lookSlot_unknown hq)⟩, fun hq hu hd => ?_,
    fun hq hm hs hp hk => exec_issuePacket hr hq hm hs hp hk, fun hq hf hs hp hk => ?_, fun hh => ?_⟩
  · refine ⟨fun hw => congrArg _ (lookSlot_overrun hq hu hd hw), fun hw hm => congrArg _ (lookSlot_ended hq hu hd hw hm),
      fun hw hm => ⟨fun hi => congrArg _ (lookSlot_idle hq hu hd hw hm hi), fun hi hl => ?_⟩⟩
    have ha := exec_queueSlotAccept_line ⟨s1, hq, hu, hd, hw, hm, hi, hl⟩
    have hs := exec_queueStall_line ⟨s1, hq, hu, hd, hw, hm, hi, hl⟩
    refine ⟨fun hv => ⟨?_, fun ht ho => ?_, fun ht => ?_⟩,
      fun hv => ⟨?_, fun h1 => ⟨fun t ht => ?_, fun ht => ?_⟩, fun h1 ho => ?_⟩⟩
    · exact ha.trans (congrArg _ (if_pos (by simp [hv])))
    · obtain ⟨a, ha, hle⟩ := ht
      exact hs.trans (congrArg _ (if_neg (by simp [hv, ho, ha, hle])))
    · refine hs.trans (congrArg _ (if_pos ?_))
      cases ha : q.since with
      | none => simp
      | some a => simp [ht a ha]
    · exact hs.trans (congrArg _ (if_pos (by simp [hv])))
    · simpa [hv, h1, ht] using ha
    · simpa [hv, h1, ht] using ha
    · simpa [hv, h1, ho] using ha
  · have hc : CollHeld s j desc q record more := ⟨hr, hq, hf, hs, hp, hk⟩
    exact ⟨exec_collRequest_reserved hc, exec_collRequest_misaligned hc, exec_collRequest_accepted hc⟩
  · have hw := exec_registerWrite hr hh
    refine ⟨?_, ?_, ?_, ?_, ?_, ?_, ?_, ?_, ?_, ?_, ?_, ?_, ?_, ?_, ?_, ?_, ?_, ?_, ?_, ?_, ?_, ?_, ?_⟩ <;> rintro rfl
    · exact ⟨exec_srqWrite hr hh, rfl⟩
    · exact ⟨exec_sevqWrite hr hh, setSevq_sevq⟩
    · exact hw
    · exact ⟨hw, loadRoute_routes (s := u), loadRoute_rejoins (s := u), loadRoute_stale (s := u)⟩
    · exact hw
    · exact hw
    · exact hw
    · exact fun hb => hw.trans (congrArg _ (if_pos hb))
    · exact fun hb => hw.trans (congrArg _ (if_neg (ne_true_of_eq_false hb)))
    · exact hw
    · exact hw
    · exact fun hn hn' => hw.trans (congrArg _ (if_pos ⟨hn, hn'⟩))
    · exact fun hn => hw.trans (congrArg _ (if_neg (by omega)))
    · exact hw.trans (congrArg _ (if_pos hr))
    · have hb := exec_hostMemRead_bar hr hh
      exact ⟨fun ho => hb.trans (congrArg _ (if_pos ho)), fun ho => hb.trans (congrArg _ (if_neg (Nat.not_lt.2 ho)))⟩
    · exact fun hn ha => (exec_hostMemRead hr hh).trans ((if_pos hn).trans (if_pos ha))
    · intro hn ha
      obtain ⟨hlen, hget⟩ := runsBytes_hdmRuns (s := (hostRead u pa n).1) (fuel := n / 65536 + 2) (fun _ => by omega) hn
      exact ⟨_, _, _, _, (exec_hostMemRead hr hh).trans ((if_pos hn).trans (if_neg (ne_true_of_eq_false ha))), rfl, hlen, hget⟩
    · exact fun hn => (exec_hostMemRead hr hh).trans (if_neg (Nat.not_le.2 hn))
    · exact fun hn ha => (exec_hostMemWrite hr hh).trans ((if_pos hn).trans (if_pos ha))
    · exact fun hn ha => (exec_hostMemWrite hr hh).trans ((if_pos hn).trans (if_neg (ne_true_of_eq_false ha)))
    · exact fun hn => (exec_hostMemWrite hr hh).trans (if_neg (Nat.not_le.2 hn))
    · exact fun hl => (exec_hostSnoop hr hh).trans (congrArg _ (if_pos hl))
    · intro hl
      have hk : HomeWrite (pa / 64 + 1) (lineDropped u (pa / 64)) (lineTaken u (pa / 64) data) := homeWrite_lineTaken
      refine ⟨_, (exec_hostSnoop hr hh).trans (congrArg _ (if_neg (by simp [hl]))), ?_, ?_, lineTaken_tlb, ?_⟩
      · exact hk.clines ▸ lineDropped_clines
      · exact hk.ccache ▸ lineDropped_ccache
      · rintro b rfl k hk
        exact readByte_lineTaken hk

end Sys2Proof.Machine
end

section
/-! PROOFS. A fetch that faults, and a word that does not decode (04 R104, 12 R305, R306). -/

namespace Sys2Proof.Machine

section
variable {s s₁ : State}

/-- The thread that a step of an empty agenda serves, with its port's turn taken. -/
def servedTurn (s : State) : State :=
  let t := portTurn s s.turn
  serve { s with turn := t } (portPlace (coreOf t.slot) t.seq) t.slot

/-- What the step fetches, by name. -/
def fetchTurn (s : State) : State × Fetched := fetchAt (servedTurn s) (portTurn s s.turn) (getSeq s (portTurn s s.turn)).pc

theorem step_of_agenda_nil (h : s.agenda = []) : step s = after (passTurn s.turn) (wordStep s) := by
  unfold step
  rw [h]

theorem wordStep_of_fault {k : Kind} {a : Word} (hr : ready s (portTurn s s.turn) = true) (hf : fetchTurn s = (s₁, .fault k a)) :
    wordStep s = .next (fetchFault s₁ (portTurn s s.turn) k a) := by
  unfold fetchTurn servedTurn at hf
  unfold wordStep
  simp only [hr, if_true, hf]

theorem wordStep_of_undecoded {w x : IWord} (hr : ready s (portTurn s s.turn) = true) (hf : fetchTurn s = (s₁, .undecoded w x)) :
    wordStep s = .next (issueUndecoded s₁ (portTurn s s.turn) w x) := by
  unfold fetchTurn servedTurn at hf
  unfold wordStep
  simp only [hr, if_true, hf]

theorem fetchFault_of_not_lastFetch {t : Thread} {k : Kind} {a : Word} (h : lastFetch s t = false) :
    fetchFault s t k a = takeTrap (stall s t false) t.slot t.seq a { cause := 4, kind := k, addr := a } :=
  if_neg (ne_true_of_eq_false h)

/-- SEQCLASS is the cause only of a word whose opcode is assigned (12 R305). -/
theorem undecodedTrap_eq {w : IWord} {q : Seq} :
    undecodedTrap w q =
      { cause := if opcodeAssigned (opcodeOf w) && (!opcodePermits (opcodeOf w) q || queueRoleFails q w) then 2 else 1 } := by
  unfold undecodedTrap
  cases opcodeAssigned (opcodeOf w)
  · rfl
  · exact (apply_ite (fun n => ({ cause := n } : Trap)) ..).symm

theorem issueUndecoded_of_predOn_false {t : Thread} {w x : IWord} (h : (getSeq s t).predOn = false) :
    issueUndecoded s t w x = takeTrap (stall s t false) t.slot t.seq (getSeq s t).pc (undecodedTrap w t.seq) := by
  refine if_neg ?_
  rw [show ((getSlot s t.slot).seq t.seq).predOn = false from h]
  exact Bool.false_ne_true

end

/-- Settles O17: the step runs the fetch of the thread that its port serves, and takes the trap of what the fetch answers. -/
theorem fetchStops : Obligations.FetchStops := by
  intro s s1 t pc served ha hr
  refine ⟨fun k a hf hl => ?_, fun w x hf hp => ?_⟩
  · rw [step_of_agenda_nil ha, wordStep_of_fault hr hf, fetchFault_of_not_lastFetch hl]
    rfl
  · rw [step_of_agenda_nil ha, wordStep_of_undecoded hr hf, issueUndecoded_of_predOn_false hp, undecodedTrap_eq]
    rfl

end Sys2Proof.Machine
end

section
/-! PROOFS. Walks and the leaves that they cache (04 R93, R98, R99, R111). -/

namespace Sys2Proof.Machine

section
variable {s : State} {die job : Nat} {va : Word}

theorem tlbPut_eq {e : TlbEnt} {n : Nat} : tlbPut e s n = { s with tlb := (tlbPut e s n).tlb, draws := (tlbPut e s n).draws } := by
  unfold tlbPut
  split
  · rfl
  · dsimp only
    split <;> rfl

theorem mem_tlbPut {e : TlbEnt} {n : Nat} : (n, e) ∈ (tlbPut e s n).tlb := by
  unfold tlbPut
  split
  · next h => exact List.contains_iff_mem.1 h
  · dsimp only
    split <;> exact List.mem_append_right _ (List.mem_singleton_self _)

theorem ptrPut_eq {p : PtrEnt} : ptrPut die s p = { s with ptrs := (ptrPut die s p).ptrs, draws := (ptrPut die s p).draws } := by
  unfold ptrPut
  split
  · rfl
  · dsimp only
    split <;> rfl

/-- The pointer entries that a walk reads stand in the walk cache of its die (R98). -/
def ptrsFilled (s : State) (die job : Nat) (va : Word) : State :=
  let w := walkStart s die job va
  (walkPtrs s va.toNat w.1 w.2.1 w.2.2).foldl
    (fun s p => ptrPut die s { job, upper := upperHalf va, level := p.1, index := ptrIndex va p.1, table := p.2.1, lines := p.2.2 }) s

theorem ptrsFilled_eq : ptrsFilled s die job va =
    { s with ptrs := (ptrsFilled s die job va).ptrs, draws := (ptrsFilled s die job va).draws } := by
  refine List.foldlRecOn (motive := fun t : State => t = { s with ptrs := t.ptrs, draws := t.draws }) _ _ rfl fun t ht p _ => ?_
  rw [ptrPut_eq]
  rw [ht]

/-- The leaf that a walk finds, as a cache holds it. -/
def leafEntry (job : Nat) (va : Word) (leaf : Word) (base size : Nat) (lines : List Nat) : TlbEnt :=
  { job, upper := upperHalf va, base := BitVec.ofNat 64 base, size, leaf, entries := lines }

section
variable (hp : (s.parked.find? fun p => p.2 == (die * 1024 + job, walkPage va)) = none) (hw : walksHeld s die < 4096)
include hp hw

theorem walkFill_leaf {caches : List Nat} {leaf : Word} {base size : Nat} {lines : List Nat}
    (h : walk s die job va = .leaf leaf base size lines) :
    (walkFill s caches die job va).1 = caches.foldl (tlbPut (leafEntry job va leaf base size lines)) (ptrsFilled s die job va) := by
  unfold walk at h
  unfold walkFill
  rw [hp]
  simp only [if_neg (Nat.not_le.2 hw), h]
  rfl

theorem walkFill_mig {caches : List Nat} {line : Nat} (h : walk s die job va = .mig line) :
    (walkFill s caches die job va).1 =
      { ptrsFilled s die job va with parked := (ptrsFilled s die job va).parked ++ [(line, die * 1024 + job, walkPage va)] } := by
  unfold walk at h
  unfold walkFill
  rw [hp]
  simp only [if_neg (Nat.not_le.2 hw), h]
  rfl

theorem walkFill_fault {caches : List Nat} {k : Kind} (h : walk s die job va = .fault k) :
    (walkFill s caches die job va).1 = ptrsFilled s die job va := by
  unfold walk at h
  unfold walkFill
  rw [hp]
  simp only [if_neg (Nat.not_le.2 hw), h]
  rfl

end

theorem walkFill_stalled {caches : List Nat}
    (h : (s.parked.find? fun p => p.2 == (die * 1024 + job, walkPage va)) ≠ none ∨ 4096 ≤ walksHeld s die) :
    (walkFill s caches die job va).1 = s := by
  unfold walkFill
  split
  · rfl
  · next hn => rw [if_pos (h.resolve_left (not_not.2 hn))]

section
variable (hr : s.running = true) (h4 : die < 4) (hf : (getDie s die).fenced = false)
include hr h4 hf

theorem exec_pageWalk_miss (hc : canonical va = true) (hi : inWindow va = false) (hu : upperHalf va = false ∨ (getDie s die).supen = true)
    (ht : tlbHit s [tlbDie die] job va = none) :
    exec (.pageWalk die job va) s = .next (walkFill s [tlbDie die] die job va).1 := by
  refine congrArg Host.Outcome.next (if_pos ?_)
  rcases hu with hu | hu <;> simp [hr, h4, hf, hc, hi, hu, ht]

theorem exec_walkRestart :
    exec (.walkRestart die job va) s =
      .next (kickAll (if (tlbHit s [tlbDie die] job va).isNone then (walkFill s [tlbDie die] die job va).1 else s)) := by
  refine congrArg Host.Outcome.next (if_pos ?_)
  simp [hr, h4, hf]

end

theorem exec_pageWalk_hit (ht : tlbHit s [tlbDie die] job va ≠ none) : exec (.pageWalk die job va) s = .next s := by
  refine congrArg Host.Outcome.next (if_neg ?_)
  simp [ht]

theorem exec_pageWalk_upper (hu : upperHalf va = true) (hs : (getDie s die).supen = false) :
    exec (.pageWalk die job va) s = .next s := by
  refine congrArg Host.Outcome.next (if_neg ?_)
  simp [hu, hs]

end

end Sys2Proof.Machine
end

section
/-! PROOFS. Channels that a fault pauses, and the replies to them (04 R105). -/

namespace Sys2Proof.Machine

section
variable {s s₁ : State} {slot eng : Nat} {source : BitVec 32}

theorem pauseEngine_of_fault {c : Cmd} {k : Kind} {va : Word} {wr : Bool} (h : faultNow s slot eng = some (s₁, c, k, va, wr)) :
    pauseEngine s slot eng =
      (let u := updCmd s₁ slot eng c.uid fun c => { c with paused := some (k, va, wr) }
       postEngineFault { u with
         gcmds := u.gcmds.map fun (g : GCmd) => if g.gid = c.uid then { g with paused := some (k, va, wr) } else g }
         (slotJob u slot) (c.source slot) eng (pkTag c.pkt) k va wr) := by
  unfold pauseEngine
  rw [h]
  rfl

theorem pauseEngine_of_none (h : faultNow s slot eng = none) : pauseEngine s slot eng = kick s slot eng := by
  unfold pauseEngine
  rw [h]

theorem pauseClosing_of_fault {u : State} {k : Kind} {va : Word} (ht : taskFinished s slot = true)
    (hp : (getSlot s slot).rpause = none) (hc : closeHandles slot (slotJob s slot) (closing (getSlot s slot)) s = .fault u k va) :
    pauseClosing s slot = pauseRings u slot k va := by
  unfold pauseClosing
  rw [if_pos ⟨ht, Option.isNone_iff_eq_none.2 hp⟩, hc]

theorem pauseClosing_of_done {u : State} (hc : closeHandles slot (slotJob s slot) (closing (getSlot s slot)) s = .done u) :
    pauseClosing s slot = s := by
  unfold pauseClosing
  rw [hc]
  exact ite_self _

theorem pauseClosing_of_unfinished (ht : taskFinished s slot = false) : pauseClosing s slot = s :=
  if_neg (by simp [ht])

section
variable (hr : s.running = true)
include hr

theorem exec_engineFault_engine (he : eng < 6) : exec (.engineFault slot eng) s = .next (pauseEngine s slot eng) := by
  refine congrArg Host.Outcome.next ?_
  rw [hr]
  exact if_pos he

theorem exec_engineFault_ring : exec (.engineFault slot 6) s = .next (pauseClosing s slot) := by
  refine congrArg Host.Outcome.next ?_
  rw [hr]
  rfl

theorem exec_engineFault_sub : exec (.engineFault slot 7) s = .next (pauseSub s slot) := by
  refine congrArg Host.Outcome.next ?_
  rw [hr]
  rfl

theorem exec_engineFault_coll : exec (.engineFault slot 8) s = .next (pauseColl s slot) := by
  refine congrArg Host.Outcome.next ?_
  rw [hr]
  rfl

theorem exec_engineFaultReply_cmd {c : Cmd} (he : eng < 6) (h : pausedCmd s source eng = some (slot, c)) :
    exec (.engineFaultResume source (BitVec.ofNat 8 eng)) s =
        .next (kickPlace (updCmd s slot eng c.uid fun c => { c with paused := none }) (c.place slot eng))
      ∧ exec (.engineFaultAbort source (BitVec.ofNat 8 eng)) s = .next (abortCmd s slot eng c) := by
  have hn : (BitVec.ofNat 8 eng).toNat = eng := Nat.mod_eq_of_lt (by omega)
  constructor
  all_goals
    refine congrArg Host.Outcome.next ?_
    simp [hr, hn, he, h]

theorem exec_engineFaultReply_gmma {g : GCmd} (hc : pausedCmd s source 5 = none) (h : pausedGmma s source = some g) :
    exec (.engineFaultResume source 5) s = .next (enqueue { s with
        gcmds := s.gcmds.map fun (o : GCmd) => if o.gid = g.gid then { o with paused := none } else o }
        (.event (.matrixCommandComplete g.owner)))
      ∧ exec (.engineFaultAbort source 5) s = .next (abortGmma s g) := by
  constructor
  all_goals
    refine congrArg Host.Outcome.next ?_
    simp [hr, hc, h]

theorem exec_engineFaultReply_ring (h : pausedRing s source = some slot) :
    exec (.engineFaultResume source 6) s = .next (resumeRing s slot)
      ∧ exec (.engineFaultAbort source 6) s = .next (abortRing s slot) := by
  constructor
  all_goals
    refine congrArg Host.Outcome.next ?_
    simp [hr, h]

theorem exec_engineFaultReply_sub {b : Sub} (h : pausedSub s source = some b) :
    exec (.engineFaultResume source 7) s = .next (enqueue (setSub s { b with paused := none })
        (.event (if b.status.isSome then .streamComplete b.uid else .streamTile b.uid)))
      ∧ exec (.engineFaultAbort source 7) s = .next (abortSub s b) := by
  constructor
  all_goals
    refine congrArg Host.Outcome.next ?_
    simp [hr, h]

theorem exec_engineFaultReply_coll {c : Coll} (h : pausedColl s source = some c) :
    exec (.engineFaultResume source 8) s = .next (kickJob (setColl s { c with paused := none }) c.job)
      ∧ exec (.engineFaultAbort source 8) s =
        .next (if c.status.isSome then giveUp s c else endColl s c 3 (pauseCode c.paused)) := by
  constructor
  all_goals
    refine congrArg Host.Outcome.next ?_
    simp [hr, h]

end

end

end Sys2Proof.Machine
end

section
/-! PROOFS. A region of device memory changes its bias (04 R106-R108). -/

namespace Sys2Proof.Machine

section
variable {s t u : State} {line region : Nat}

/-! ### Lines that go home -/

/-- What lines that go home from the clusters change. -/
def SentHome (s t : State) : Prop :=
  t = { s with mem := t.mem, ranges := t.ranges, tlb := t.tlb, ptrs := t.ptrs, drops := t.drops, parked := t.parked,
               agenda := t.agenda, clines := t.clines, ccache := t.ccache }

theorem SentHome.refl : SentHome s s := rfl

theorem SentHome.trans (h₁ : SentHome s t) (h₂ : SentHome t u) : SentHome s u := by
  unfold SentHome at *
  rw [h₂, h₁]

theorem SentHome.bias (h : SentHome s t) : t.bias = s.bias := by rw [h]

theorem HomeWrite.sentHome {b : Nat} (h : HomeWrite b s t) : SentHome s t := by
  unfold SentHome
  rw [h.1]

theorem sentHome_writeBack {c : Nat} {who : BitVec 4 → Bool} : SentHome s (writeBack s c line who) := by
  unfold writeBack
  extract_lets v pick whole put s₁ s₂ gr
  have hp : ∀ s, ∀ g < 4, HomeWrite (line + 1) s (put s g) := by
    intro s g hg
    dsimp only [put]
    split
    · split
      · exact homeWrite_clearRanges.trans (homeWrite_putHomeGran (Nat.lt_succ_self line) hg)
      · exact .refl
    · exact .refl
  have h₁ : HomeWrite (line + 1) s s₁ :=
    (hp _ 0 (by decide)).trans ((hp _ 1 (by decide)).trans ((hp _ 2 (by decide)).trans (hp _ 3 (by decide))))
  have h₂ : HomeWrite (line + 1) s₁ s₂ := by
    dsimp only [s₂]
    split
    · exact homeWrite_putHomeMeta
    · exact .refl
  split
  · have hv : ∀ w, SentHome s₂ (setView s₂ c line w) := fun _ => rfl
    exact (h₁.trans h₂).sentHome.trans ((hv _).trans (homeWrite_lineWritten (b := 0)).sentHome)
  · exact .refl

theorem sentHome_purge {c : Nat} : SentHome s (purge s c line) := sentHome_writeBack.trans rfl

theorem sentHome_recallRegion : SentHome s (recallRegion s region) := by
  unfold recallRegion
  extract_lets mine s₁
  have h₁ : SentHome s s₁ := List.foldlRecOn _ _ .refl fun _ ht _ _ => ht.trans sentHome_purge
  exact h₁.trans rfl

theorem mem_foldl_purge_own_clines {l : List (Nat × CLine)} {e : Nat × CLine}
    (h : e ∈ (l.foldl (fun s e => purge s (e.1 / 2 ^ 64) (e.1 % 2 ^ 64)) s).clines) : e ∈ s.clines ∧ ∀ x ∈ l, e.1 ≠ x.1 := by
  induction l generalizing s with
  | nil => exact ⟨h, by simp⟩
  | cons x l ih =>
    obtain ⟨hm, hl⟩ := ih h
    obtain ⟨hn, hm⟩ := mem_purge_clines hm
    refine ⟨hm, List.forall_mem_cons.2 ⟨?_, hl⟩⟩
    rwa [viewKey, Nat.div_add_mod'] at hn

/-- No cluster holds a line of a region after its recall (R108). -/
theorem recallRegion_clines : ∀ e ∈ (recallRegion s region).clines, e.1 % 2 ^ 64 / 1024 ≠ region := by
  intro e he hr
  obtain ⟨hm, hn⟩ := mem_foldl_purge_own_clines he
  exact hn e (List.mem_filter.2 ⟨hm, beq_iff_eq.2 hr⟩) rfl

/-! ### What waits looks again -/

theorem homeWrite_kick {slot eng : Nat} : HomeWrite 0 s (kick s slot eng) := by
  unfold kick
  extract_lets s₁
  have h₁ : HomeWrite 0 s s₁ := by
    dsimp only [s₁]
    split
    · exact homeWrite_enqueue
    · exact .refl
  refine h₁.trans (homeWrite_foldl fun s c _ => ?_)
  split <;> exact homeWrite_enqueue

theorem homeWrite_kickJob {job : Nat} : HomeWrite 0 s (kickJob s job) := by
  unfold kickJob
  extract_lets s₁ s₂
  have h₁ : HomeWrite 0 s s₁ := homeWrite_foldl fun _ _ _ => homeWrite_foldl fun _ _ _ => homeWrite_kick
  have h₂ : HomeWrite 0 s₁ s₂ := homeWrite_foldl fun _ _ _ => homeWrite_enqueue
  refine (h₁.trans h₂).trans (homeWrite_foldl fun s c _ => ?_)
  split
  · exact homeWrite_enqueue
  · exact homeWrite_enqueue.trans (homeWrite_foldl fun _ _ _ => homeWrite_enqueue)

theorem homeWrite_kickAll : HomeWrite 0 s (kickAll s) := homeWrite_foldl fun _ _ _ => homeWrite_kickJob

/-! ### A flip's beginning and end -/

section
variable {rg : BitVec 36} {f : Flip} {host : Bool}

theorem beginFlip_held (hr : s.running = true) (hg : hbmRegion rg = some region) (hf : firstFlip s region = some f)
    (hb : f.begun = false) (hh : f.host = host) (ha : (accessing s s.nextUid fun sp => sp.loc / 65536 == region) = true) :
    beginFlip s rg host = hold s (.event (flipEvent f)) := by
  unfold beginFlip
  simp [hr, hg, hf, hb, hh, ha]

theorem beginFlip_begins (hr : s.running = true) (hg : hbmRegion rg = some region) (hf : firstFlip s region = some f)
    (hb : f.begun = false) (hh : f.host = host) (ha : (accessing s s.nextUid fun sp => sp.loc / 65536 == region) = false) :
    beginFlip s rg host =
      (let u := if host then recallRegion s region else s
       enqueue { u with flips := { f with begun := true } :: u.flips.erase f } (.event (.biasFlipComplete region))) := by
  unfold beginFlip
  simp [hr, hg, hf, hb, hh, ha]

theorem beginFlip_other_side (hg : hbmRegion rg = some region) (hf : firstFlip s region = some f) (hh : f.host ≠ host) :
    beginFlip s rg host = s := by
  unfold beginFlip
  simp [hg, hf, hh]

/-- The new bias stands and the flip is no more; BUSY of the die that asked for it is clear. -/
def flipEnded (s : State) (region : Nat) (f : Flip) : State :=
  let u := if f.host then recallRegion s region else s
  let u := setBias { u with flips := u.flips.erase f } region f.host
  match f.by_ with
  | some d => updDie u d fun d => { d with bbusy := false }
  | none => u

theorem flipEnded_bias : (flipEnded s region f).bias = kvSet false s.bias region f.host := by
  have hu : (if f.host then recallRegion s region else s).bias = s.bias := by
    split
    · exact sentHome_recallRegion.bias
    · rfl
  unfold flipEnded
  extract_lets u v
  have hv : v.bias = kvSet false s.bias region f.host := congrArg (kvSet false · region f.host) hu
  split
  · unfold updDie
    split <;> exact hv
  · exact hv

theorem flipEnded_bbusy {d : Nat} (hd : f.by_ = some d) (h4 : d < 4) : (getDie (flipEnded s region f) d).bbusy = false := by
  unfold flipEnded
  simp only [hd]
  rw [getDie_updDie h4, if_pos rfl]

theorem flipEnded_clines (hh : f.host = true) : ∀ e ∈ (flipEnded s region f).clines, e.1 % 2 ^ 64 / 1024 ≠ region := by
  unfold flipEnded
  extract_lets u v
  have hu : u = recallRegion s region := if_pos hh
  have hv : ∀ e ∈ v.clines, e.1 % 2 ^ 64 / 1024 ≠ region := by
    show ∀ e ∈ u.clines, _
    rw [hu]
    exact recallRegion_clines
  split
  · unfold updDie
    split <;> exact hv
  · exact hv

/-- The region's next flip begins, or what waited goes on (R108). -/
def afterFlip (s : State) (region : Nat) : State :=
  match firstFlip s region with
  | some g => enqueue s (.event (flipEvent g))
  | none => unhold (kickAll s)

theorem afterFlip_keeps :
    (afterFlip s region).bias = s.bias ∧ (afterFlip s region).dies = s.dies ∧ (afterFlip s region).clines = s.clines := by
  unfold afterFlip
  split
  · exact ⟨rfl, rfl, rfl⟩
  · have hk : HomeWrite 0 s (kickAll s) := homeWrite_kickAll
    exact ⟨hk.sentHome.bias, hk.dies, hk.clines⟩

/-- A flip sets the bias of its own region alone. -/
theorem hostBias_afterFlip {r : Nat} :
    hostBias (afterFlip (flipEnded s region f) region) r = if r = region then f.host else hostBias s r := by
  unfold hostBias
  rw [afterFlip_keeps.1, flipEnded_bias, kvGet_kvSet]

theorem exec_biasFlipComplete (hr : s.running = true) (hf : firstFlip s region = some f) (hb : f.begun = true) :
    exec (.biasFlipComplete region) s = .next (afterFlip (flipEnded s region f) region) := by
  refine congrArg Host.Outcome.next ?_
  simp only [hf, hr, hb]
  rfl

end

end

end Sys2Proof.Machine
end

section
/-! PROOFS. Access counters, correction counters and soft errors (04 R109, R110, 11 R283). -/

namespace Sys2Proof.Machine

section
variable {s : State} {die region : Nat}

/-! ### Counters -/

/-- The event that posts a count of an entry that has reached its threshold (R110). -/
def migrateEvent (s : State) (region : Nat) (c : Counter) (detail : Nat) : Event :=
  { type := 0x03, reply := false, job := c.job, source := (unitEvent s 0x03 1 c.job 0 0).source,
    addr := BitVec.ofNat 64 (physOf (region * 65536)), time := now s, detail := BitVec.ofNat 64 detail }

/-- The count of a side begins again (R110). -/
def countReset (c : Counter) (dev : Bool) : Counter := if dev then { c with dev := 0 } else { c with host := 0 }

theorem exec_migrate {c : Counter} {dev : Bool} (hr : s.running = true) (hc : kvFind s.counts (countKey die region) = some c)
    (h0 : 0 < migThreshold s c dev) (hn : migThreshold s c dev ≤ if dev then c.dev else c.host) :
    ∃ u, u = { s with counts := u.counts }
      ∧ kvFind u.counts (countKey die region) = some (countReset c dev)
      ∧ exec (.migrate die region dev) s = .next (postSup u
        (migrateEvent s region c (if dev then 1 + migThreshold s c dev * 65536 else migThreshold s c dev * 65536))) := by
  refine ⟨{ s with counts := kvInsert (countKey die region) (countReset c dev) s.counts }, rfl, (kvFind_kvInsert ..).trans (if_pos rfl), ?_⟩
  refine congrArg Host.Outcome.next ?_
  simp only [hc]
  refine (if_neg (by simp [hr, Nat.pos_iff_ne_zero.1 h0, hn])).trans ?_
  cases dev with
  | true => rfl
  | false =>
    simp only [Bool.false_eq_true, if_false, Nat.zero_add]
    rfl

theorem kvFind_map {α β : Type} {g : α → β} {l : List (Nat × α)} {k : Nat} :
    kvFind (l.map fun e => (e.1, g e.2)) k = (kvFind l k).map g := by
  induction l with
  | nil => rfl
  | cons e l ih =>
    obtain ⟨a, v⟩ := e
    rw [List.map_cons]
    unfold kvFind
    split
    · rfl
    · exact ih

/-- Both counts of an entry halve (R109). -/
def halved (c : Counter) : Counter := { c with host := c.host / 2, dev := c.dev / 2 }

theorem exec_counterHalving (hr : s.running = true) :
    exec .counterHalving s = .next { s with counts := s.counts.map fun e => (e.1, halved e.2) } := by
  refine congrArg Host.Outcome.next (if_neg ?_)
  simp [hr]

theorem ctlRead_corrections (h4 : die < 4) :
    ctlRead s die (0x200000 + 8 * die) =
      (updDie s die fun d => { d with sramcorr := 0, hbmcorr := 0 }, (getDie s die).hbmcorr ++ (getDie s die).sramcorr) := by
  match die, h4 with
  | 0, _ | 1, _ | 2, _ | 3, _ => rfl

theorem toNat_append_words {x y : BitVec 32} : (x ++ y).toNat = y.toNat + 2 ^ 32 * x.toNat := by
  rw [BitVec.toNat_append, ← Nat.shiftLeft_add_eq_or_of_lt y.isLt, Nat.shiftLeft_eq]
  omega

theorem exec_eccCounterRead (hr : s.running = true) (h4 : die < 4) :
    exec (.eccCounterRead die) s = .next (
      let u := updDie s die fun d => { d with sramcorr := 0, hbmcorr := 0 }
      { u with replies := u.replies ++ [.data ((getDie s die).sramcorr.toNat + 2 ^ 32 * (getDie s die).hbmcorr.toNat)] }) := by
  refine congrArg Host.Outcome.next ?_
  simp only [ctlRead_corrections h4, toNat_append_words]
  exact if_neg (by simp [hr, h4])

theorem updDie_replies {f : Die → Die} : (updDie s die f).replies = s.replies := by
  unfold updDie
  split <;> rfl

theorem updDie_mem {f : Die → Die} : (updDie s die f).mem = s.mem := by
  unfold updDie
  split <;> rfl

/-! ### Soft errors -/

/-- The ECC beneath meets an error that it cannot correct: the line is poisoned (R283). -/
def linePoisoned (s : State) (l : Loc) : State := { s with mem := setLineMeta s.mem (l / 64) (lineMeta s.mem (l / 64) ||| 8#8) }

theorem poisoned_linePoisoned {l : Loc} : poisoned (lineMeta (linePoisoned s l).mem (l / 64)) = true := by
  simp [linePoisoned, lineMeta, setLineMeta, poisoned]

theorem exec_softError_uncorrectable_system {l : Loc} {d : Nat} (hr : s.running = true) (h : inSysRegion l = some d) :
    exec (.softError (.uncorrectable l)) s = .next (fenceDie (linePoisoned s l) d) := by
  refine congrArg Host.Outcome.next ?_
  simp only [h]
  exact if_pos hr

theorem exec_softError_uncorrectable {l : Loc} (h : inSysRegion l = none) :
    exec (.softError (.uncorrectable l)) s = .next (linePoisoned s l) := by
  refine congrArg Host.Outcome.next ?_
  simp only [h]
  rfl

theorem vget_vset_same {α : Type} {w : Nat} {v : Vector α (2 ^ w)} {i : BitVec w} {x : α} : vget (vset v i x) i = x :=
  Vector.getElem_set_self ..

theorem getSlot_updSeq_of_ne {th : Thread} {f : SeqSt → SeqSt} {k : Nat} (h : k ≠ th.slot) :
    getSlot (updSeq s th f) k = getSlot s k :=
  (getSlot_updSlot ..).trans (if_neg h)

end

/-- Settles O57: a walk by what it finds, a pause and its reply by the channel, a flip by what its beginning and end leave, and each count
and error by what it changes. -/
theorem memoryEvents : Obligations.MemoryEvents := by
  intro s s1 die job slot eng l bit region size va lines leaf base line source c kd wr b co f rg cn q m x y z gm hr
  extract_lets posted mine parkedAt
  refine ⟨fun h4 hf => ⟨fun hc hi hu ht => ?_, fun ht => ⟨exec_pageWalk_hit ht, ?_⟩, exec_pageWalk_upper, fun ht => ?_⟩, fun he h => ?_,
    fun he h => ?_, fun ht hp => ⟨fun u hu => ?_, fun u hu => ?_⟩, fun ht => ?_, ⟨exec_engineFault_sub hr, exec_engineFault_coll hr⟩,
    exec_engineFaultReply_cmd hr, exec_engineFaultReply_gmma hr, exec_engineFaultReply_ring hr, exec_engineFaultReply_sub hr,
    exec_engineFaultReply_coll hr, fun hg hf hb ha => ?_, fun hg hf hb ha => ⟨fun hh => ?_, fun hh => ?_⟩, fun hf hb => ?_,
    fun hc => ⟨exec_migrate (dev := true) hr hc, exec_migrate (dev := false) hr hc⟩,
    ⟨_, exec_counterHalving hr, rfl, fun k => kvFind_map (g := halved)⟩, fun h4 => ?_, ?_,
    fun d => exec_softError_uncorrectable_system hr, fun h => ?_, ?_, ?_⟩
  · have hw := exec_pageWalk_miss hr h4 hf hc hi hu ht
    refine ⟨fun hp hn => ⟨fun hl => ?_, fun hm => ?_, fun hk => ?_⟩, fun h => hw.trans (congrArg _ (walkFill_stalled h))⟩
    · refine ⟨_, hw.trans (congrArg _ (walkFill_leaf hp hn hl)), ?_, mem_tlbPut⟩
      rw [List.foldl_cons, List.foldl_nil, tlbPut_eq, ptrsFilled_eq]
    · refine ⟨_, hw.trans (congrArg _ (walkFill_mig hp hn hm)), ?_, ?_⟩
      · rw [ptrsFilled_eq]
      · rw [ptrsFilled_eq]
    · exact ⟨_, hw.trans (congrArg _ (walkFill_fault hp hn hk)), ptrsFilled_eq⟩
  · rw [exec_walkRestart hr h4 hf, if_neg (by simpa using ht)]
  · rw [exec_walkRestart hr h4 hf, if_pos (by simpa using ht)]
  · exact (exec_engineFault_engine hr he).trans (congrArg _ (pauseEngine_of_fault h))
  · exact (exec_engineFault_engine hr he).trans (congrArg _ (pauseEngine_of_none h))
  · exact (exec_engineFault_ring hr).trans (congrArg _ (pauseClosing_of_fault ht hp hu))
  · exact (exec_engineFault_ring hr).trans (congrArg _ (pauseClosing_of_done hu))
  · exact (exec_engineFault_ring hr).trans (congrArg _ (pauseClosing_of_unfinished ht))
  · split
    · next hh => exact congrArg _ (beginFlip_held hr hg hf hb hh ha)
    · next hh => exact congrArg _ (beginFlip_held hr hg hf hb (Bool.eq_false_iff.2 hh) ha)
  · exact ⟨congrArg _ (beginFlip_begins hr hg hf hb hh ha), congrArg _ (beginFlip_other_side hg hf (by simp [hh]))⟩
  · exact ⟨congrArg _ (beginFlip_begins hr hg hf hb hh ha), congrArg _ (beginFlip_other_side hg hf (by simp [hh]))⟩
  · obtain ⟨-, htd, htc⟩ := afterFlip_keeps (s := flipEnded s region f) (region := region)
    refine ⟨_, exec_biasFlipComplete hr hf hb, hostBias_afterFlip.trans (if_pos rfl),
      fun r hne => hostBias_afterFlip.trans (if_neg hne),
      fun d hd h4 => ?_, fun hh => ?_⟩
    · unfold getDie
      rw [htd]
      exact flipEnded_bbusy hd h4
    · rw [htc]
      exact flipEnded_clines hh
  · have hd : getDie (updDie s die fun d => { d with sramcorr := 0, hbmcorr := 0 }) die =
        { getDie s die with sramcorr := 0, hbmcorr := 0 } := (getDie_updDie h4).trans (if_pos rfl)
    exact ⟨_, exec_eccCounterRead hr h4, congrArg (· ++ _) updDie_replies, congrArg Die.sramcorr hd, congrArg Die.hbmcorr hd, updDie_mem⟩
  · exact ⟨_, rfl, rfl, (readByte_writeByte ..).trans (if_pos rfl), fun a ha => (readByte_writeByte ..).trans (if_neg ha)⟩
  · exact ⟨_, exec_softError_uncorrectable h, rfl, poisoned_linePoisoned, fun _ => rfl⟩
  · refine ⟨_, rfl, rfl, ?_, fun k hk => getSlot_updSeq_of_ne hk⟩
    rw [getSeq_updSeq, vget_vset_same]
    rfl
  · refine ⟨_, rfl, rfl, ?_⟩
    rw [getSlot_updSlot, if_pos rfl]

end Sys2Proof.Machine
end

section
/-! PROOFS. Barriers: arrivals, waits, and the words that make them (05 R138-R140, 15 R386). -/

namespace Sys2Proof.Machine

/-- What every step of a fold leaves of a state, the fold leaves. -/
theorem foldl_keeps {α β γ : Type} {p : β → γ} {f : β → α → β} (hf : ∀ b a, p (f b a) = p b) {l : List α} {b : β} :
    p (l.foldl f b) = p b :=
  l.foldlRecOn (motive := fun c => p c = p b) f rfl fun c hc a _ => (hf c a).trans hc

section
variable {s s1 : State} {die i k : Nat} {b : Bar}

/-! ### Storage while slots wake (R140) -/

theorem settleDrops_mem : (settleDrops s).mem = s.mem := by
  unfold settleDrops
  extract_lets drops s₁ ended s₂
  have h₁ : s₁.mem = s.mem := by
    dsimp only [s₁]
    split <;> rfl
  have h₂ : s₂.mem = s.mem := (foldl_keeps (p := State.mem) (f := fun s k => enqueue s (.event (.taskEnd k))) fun _ _ => rfl).trans h₁
  split
  · exact h₂
  · exact h₂

theorem checkEnd_mem : (checkEnd s k).mem = s.mem := by
  refine Eq.trans ?_ settleDrops_mem
  unfold checkEnd
  extract_lets s₁ draining s₂
  have h₂ : s₂.mem = s₁.mem := by
    dsimp only [s₂]
    split <;> rfl
  split
  · exact h₂
  · exact h₂

theorem touchLost_mem : (touchLost s k).mem = s.mem := by
  unfold touchLost gangTouched
  split
  · split <;> rfl
  · rfl

theorem wakeSlot_mem : (wakeSlot s k).mem = s.mem := by
  unfold wakeSlot
  dsimp only
  split
  · rfl
  split
  · rfl
  split
  · rw [checkEnd_mem, setSlot_mem]
    split
    · exact touchLost_mem
    · rfl
  · rfl

theorem wakeDie_mem : (wakeDie s die).mem = s.mem :=
  foldl_keeps (p := State.mem) fun s e => by
    split
    · exact wakeSlot_mem
    · rfl

/-! ### Barriers by key -/

theorem getBar_setBar {j : Nat} : getBar (setBar s k b) j = if j = k then b else getBar s j := kvGet_kvSet ..

theorem getBar_wakeDie : getBar (wakeDie s die) k = getBar s k := congrArg (fun l => kvGet Bar.free l k) bars_wakeDie

/-! ### An arrival (R139) -/

theorem arrive_of_lt (h : (getBar s (barKey die i)).a + 1 < (getBar s (barKey die i)).p) :
    arrive s die i = setBar s (barKey die i) { getBar s (barKey die i) with a := (getBar s (barKey die i)).a + 1 } :=
  if_neg (Nat.not_le.2 h)

theorem arrive_of_le (h : (getBar s (barKey die i)).p ≤ (getBar s (barKey die i)).a + 1) :
    arrive s die i =
      wakeDie (setBar s (barKey die i) { getBar s (barKey die i) with a := 0, ph := (getBar s (barKey die i)).ph + 1 }) die :=
  if_pos h

theorem getBar_arrive_of_ne (hk : k ≠ barKey die i) : getBar (arrive s die i) k = getBar s k := by
  rcases Nat.lt_or_ge ((getBar s (barKey die i)).a + 1) (getBar s (barKey die i)).p with h | h
  · rw [arrive_of_lt h, getBar_setBar, if_neg hk]
  · rw [arrive_of_le h, getBar_wakeDie, getBar_setBar, if_neg hk]

theorem arrive_mem : (arrive s die i).mem = s.mem := by
  rcases Nat.lt_or_ge ((getBar s (barKey die i)).a + 1) (getBar s (barKey die i)).p with h | h
  · rw [arrive_of_lt h]
    rfl
  · rw [arrive_of_le h, wakeDie_mem]
    rfl

/-! ### The wait for a phase (R139, R140) -/

section
variable {t : Thread} {bn : BitVec 4} {p : BitVec 32}

theorem barFires_eq_true {ph : BitVec 32} : barFires ph p = true ↔ (ph - p).toNat < 2 ^ 31 := by
  simp [barFires, BitVec.ult]

theorem barWait_armRange (h : p - (getBar s (barKey (dieOfCore (coreOf t.slot)) i)).ph = 0x80000000#32) :
    barWait bn i p s t = .trap s { cause := 18 } :=
  if_pos (beq_iff_eq.2 h)

section
variable (hr : p - (getBar s (barKey (dieOfCore (coreOf t.slot)) i)).ph ≠ 0x80000000#32)
include hr

theorem barWait_lost (hl : (getBar s (barKey (dieOfCore (coreOf t.slot)) i)).lost = true) :
    barWait bn i p s t = .done (putResult (touchLost s t.slot) t .push 1) := by
  simp [barWait, armRange, barStatus, hr, hl]

variable (hl : (getBar s (barKey (dieOfCore (coreOf t.slot)) i)).lost = false)
include hl

theorem barWait_fires (hf : ((getBar s (barKey (dieOfCore (coreOf t.slot)) i)).ph - p).toNat < 2 ^ 31) :
    barWait bn i p s t = .done (putResult s t .push 0) := by
  have hf := barFires_eq_true.2 hf
  simp [barWait, armRange, barStatus, hr, hl, hf]

/-- The task leaves the ready set, armed for the phase, its word under way. -/
theorem barWait_arms (hf : 2 ^ 31 ≤ ((getBar s (barKey (dieOfCore (coreOf t.slot)) i)).ph - p).toNat) (hu : isSup s t = false) :
    barWait bn i p s t = .pend (updSlot { s with nextUid := s.nextUid + 1 } t.slot fun x => { x with armed := some (bn, p) })
      s.nextUid .none := by
  have hf := Bool.eq_false_iff.2 (mt barFires_eq_true.1 (Nat.not_lt.2 hf))
  simp [barWait, armRange, takeUid, hr, hl, hf, hu]

end

/-! ### The words (15 R386) -/

theorem withBar_unmapped {f : Nat → Res} (h : barOf (getSlot s t.slot) bn = none) : withBar bn s t f = .trap s { cause := 17 } := by
  simp only [withBar, h]

theorem withBar_mapped {f : Nat → Res} (h : barOf (getSlot s t.slot) bn = some i) : withBar bn s t f = f i := by
  simp only [withBar, h]

theorem arriveWord_of_escape {f : State → Res} (hp : pending s t = false)
    (he : (if isSup s t then .ok s else escape s t.slot s.nextUid escSig) = .ok s1) :
    arriveWord s t i f = f (arriveLocal s1 t.slot i) := by
  unfold arriveWord
  rw [hp, if_neg Bool.false_ne_true, he]

theorem barsyncEff_of_user (h : barOf (getSlot s t.slot) bn = some i) (hp : pending s t = false)
    (he : (if isSup s t then .ok s else escape s t.slot s.nextUid escSig) = .ok s1) (hs : isSup s t = false)
    (hu : isSup (arriveLocal s1 t.slot i) t = false) :
    barsyncEff bn s t =
      barWait bn i ((getBar s (barKey (dieOfCore (coreOf t.slot)) i)).ph + 1) (arriveLocal s1 t.slot i) t := by
  have hn : ((getSlot s t.slot).fence.find? fun f => f.1 == t.seq && isSup s t) = none := by simp [hs]
  unfold barsyncEff
  rw [withBar_mapped h, hn]
  simp only [arriveWord_of_escape hp he, hu, Bool.false_eq_true, if_false]

end

end

/-- Settles O42: an arrival either counts, or is the last and begins the next phase, and the slots that wake then leave every barrier and
byte. -/
theorem barrierArrival : Obligations.BarrierArrival := by
  intro s die i b
  refine ⟨fun h => ⟨arrive_of_lt h, ?_⟩, fun h => ?_, fun k => getBar_arrive_of_ne, fun a => by rw [arrive_mem]⟩
  · rw [arrive_of_lt h, getBar_setBar, if_pos rfl]
  · rw [arrive_of_le h, getBar_wakeDie, getBar_setBar, if_pos rfl]

/-- Settles O41: an unmapped bn traps; a wait answers by the range, the phase and the loss of its barrier, after an arrival for BARSYNC. -/
theorem barrierWords : Obligations.BarrierWords := by
  intro n f bn s s1 t die v armed
  refine ⟨fun h => ⟨entersTrap_of_trap rfl (withBar_unmapped h), entersTrap_of_trap rfl (withBar_unmapped h),
    entersTrap_of_trap rfl (withBar_unmapped h)⟩, fun i h => ?_⟩
  extract_lets b u e
  refine ⟨fun hr => entersTrap_of_trap rfl ((withBar_mapped h).trans (barWait_armRange hr)), fun hr => ⟨fun hf hl => ?_, fun hl => ?_,
    fun hf hl hs => ?_⟩, fun hp he => ⟨?_, fun hs hu hl hr => ?_⟩⟩
  · exact yields_of_done rfl ((withBar_mapped h).trans (barWait_fires hr hl hf))
  · exact yields_of_done rfl ((withBar_mapped h).trans (barWait_lost hr hl))
  · exact pends_of_pend rfl ((withBar_mapped h).trans (barWait_arms hr hl hf hs))
  · exact yields_of_done rfl ((withBar_mapped h).trans (arriveWord_of_escape hp he))
  · have hb := barsyncEff_of_user h hp he hs hu
    exact ⟨fun hf => yields_of_done rfl (hb.trans (barWait_fires hr hl hf)),
      fun hf => pends_of_pend rfl (hb.trans (barWait_arms hr hl hf hu))⟩

end Sys2Proof.Machine
end

section
/-! PROOFS. Accesses that translate, and futures (05 R121, R142, R143, 15 R385). -/

namespace Sys2Proof.Machine

section
variable {s s1 s2 s3 s4 s5 s6 : State}

/-! ### Translation keeps the turn -/

theorem walkFill_turn {caches : List Nat} {die job : Nat} {va : Word} : (walkFill s caches die job va).1.turn = s.turn := by
  by_cases h : (s.parked.find? fun p => p.2 == (die * 1024 + job, walkPage va)) = none ∧ walksHeld s die < 4096
  · obtain ⟨hp, hw⟩ := h
    have hf : (ptrsFilled s die job va).turn = s.turn := by rw [ptrsFilled_eq]
    cases hr : walk s die job va with
    | leaf e base size lines =>
      rw [walkFill_leaf hp hw hr]
      exact List.foldlRecOn (motive := fun t : State => t.turn = s.turn) _ _ hf fun t ht n _ => by rw [tlbPut_eq]; exact ht
    | mig line =>
      rw [walkFill_mig hp hw hr]
      exact hf
    | fault k =>
      rw [walkFill_fault hp hw hr]
      exact hf
  · rw [walkFill_stalled ((Decidable.not_and_iff_or_not.1 h).imp_right Nat.not_lt.1)]

theorem trWindow_turn {ctx : TCtx} {va : Word} {len : Nat} : (trWindow s ctx va len).1.turn = s.turn := by
  unfold trWindow
  simp only []
  repeat' split
  all_goals rfl

theorem trPage_turn {ctx : TCtx} {va : Word} {len : Nat} {n : Need} : (trPage s ctx va len n).1.turn = s.turn := by
  have hl : ∀ e, (ctx.caches.foldl (tlbPut e) s).turn = s.turn := fun e =>
    List.foldlRecOn (motive := fun t : State => t.turn = s.turn) _ _ rfl fun t ht n _ => by rw [tlbPut_eq]; exact ht
  unfold trPage
  simp only []
  split
  · rfl
  split
  · grind only [trWindow_turn]
  · cases tlbHit s ctx.caches ctx.job va <;> grind only [walkFill_turn]

theorem trRun_turn {ctx : TCtx} {n : Need} {m : Nat} {va : Word} {k : Nat} : (trRun ctx n m s va k).1.turn = s.turn := by
  fun_induction trRun ctx n m s va k <;> grind only [trPage_turn]

/-! ### Accesses -/

section
variable {t : Thread} {va : Word} {len : Nat} {need : Need} {sps : List Span} {k : State → List Span → Res}

theorem turn_of_reaches (h : reaches s va len need s1 sps) : s1.turn = s.turn := by
  exact (congrArg (fun r => r.1.turn) h.1).symm.trans trRun_turn

theorem aligned_of_mod {r : Res} (h : va.toNat % len = 0) : aligned s va len r = r := if_pos h

theorem access_of_translate (h : translate s (slotCtx s t.slot t.seq) va len need = (s1, .ok sps)) (hf : flipping s1 sps = false)
    (hn : needFar s1 t.slot (sps.filter fun sp => !need.atHome || decide (sp.sw < 2)) = none) :
    access s t va len need k = k s1 sps := by
  simp only [access, h, hf, hn, Bool.false_eq_true, if_false]

theorem access_of_reaches (he : s.turn = t) (h : reaches s va len need s1 sps) : access s t va len need k = k s1 sps := by
  subst he
  obtain ⟨ht, hf, hn⟩ := h
  exact access_of_translate ht hf hn

theorem syncAccess_of_reaches {a : Opnd} {sp : Span} {k : State → Thread → Span → Res} (hv : (srcVal s s.turn a).toNat % 8 = 0)
    (h : reaches s (srcVal s s.turn a) 8 need s1 [sp]) (hp : pending s1 s.turn = false) :
    syncAccess a need k s s.turn = k s1 s.turn sp := by
  unfold syncAccess
  rw [aligned_of_mod hv, access_of_reaches rfl h]
  simp only [hp, Bool.false_eq_true, if_false]

end

/-! ### FWAIT (15 R385) -/

theorem futureFull_of_bad {v : Word} (h : futureBad v = true) : futureFull v = false := by
  unfold futureBad at h
  exact Bool.eq_false_of_not_eq_true' (Bool.and_eq_true_iff.1 h).1

section
variable {a b c : Opnd} {sp : Span} {v : Word} (hv : (srcVal s s.turn a).toNat % 8 = 0)
    (hr : reaches s (srcVal s s.turn a) 8 { r := true, w := true } s1 [sp]) (hp : pending s1 s.turn = false)
include hv hr hp

section
variable (ha : acquireRead s1 s.turn.slot (isSup s1 s.turn) sp = .ok (s2, v))
include ha

theorem fwaitEff_full (h : futureFull v = true) :
    fwaitEff a b c s s.turn = .done (putResult s2 s.turn .push (v &&& 0x7FFFFFFFFFFFFFFF#64)) := by
  unfold fwaitEff
  extract_lets node cont
  rw [syncAccess_of_reaches hv hr hp]
  simp only [ha, h, if_true]

theorem fwaitEff_bad (h : futureBad v = true) : fwaitEff a b c s s.turn = .trap s1 { cause := 20, addr := sp.va } := by
  unfold fwaitEff
  extract_lets node cont
  rw [syncAccess_of_reaches hv hr hp]
  simp only [ha, futureFull_of_bad h, h, if_true, Bool.false_eq_true, if_false]

variable (hf : futureFull v = false) (hb : futureBad v = false) (hs : isSup s1 s.turn = false)
include hf hb hs

theorem fwaitEff_region (ho : (getSlot s1 s.turn.slot).regionOpen = true) : fwaitEff a b c s s.turn = .trap s1 { cause := 10 } := by
  unfold fwaitEff
  extract_lets node cont
  rw [syncAccess_of_reaches hv hr hp]
  simp only [ha, hf, hb, Bool.false_eq_true, if_false]
  simp only [hs, ho, if_true, Bool.false_eq_true, if_false]

theorem fwaitEff_parks {nsp : List Span} (ho : (getSlot s1 s.turn.slot).regionOpen = false) (hn : (srcVal s s.turn b).toNat % 16 = 0)
    (hr' : reaches s1 (srcVal s s.turn b) 16 { w := true } s3 nsp)
    (hst : storeNode s3 s.turn.slot nsp (srcVal s s.turn b) v (srcVal s s.turn c) = .ok s4)
    (hc : casRelease s4 s.turn.slot sp v (((srcVal s s.turn b).extractLsb' 4 53 ++ 0#4).setWidth 64) = .ok (s5, true)) :
    fwaitEff a b c s s.turn = .done (parkTask s5 s.turn.slot) := by
  have hx : ∀ k : State → List Span → Res, access s1 s.turn (srcVal s s.turn b) 16 { w := true } k = k s3 nsp := fun k =>
    access_of_reaches (turn_of_reaches hr) hr'
  unfold fwaitEff
  extract_lets node cont
  rw [syncAccess_of_reaches hv hr hp]
  simp only [ha, hf, hb, Bool.false_eq_true, if_false]
  simp only [hs, ho, Bool.false_eq_true, if_false, node, cont, aligned_of_mod hn, hx, hst, hc]

end

/-! ### FFILL (05 R143) -/

omit hv hr hp in
theorem nodesReach_of_reachesNodes {t : Thread} {k : State → Res} {fuel : Nat} {node : Word} (h : reachesNodes t fuel s node s1) :
    nodesReach t fuel s node k = k s1 := by
  induction fuel generalizing s node with
  | zero => exact congrArg k h.symm
  | succ fuel ih =>
    unfold nodesReach
    obtain ⟨h0, rfl⟩ | ⟨h0, u, u', sp, sps, v, n, ht, hf, hn, hh, hu⟩ := h
    · rw [if_pos h0]
    · rw [if_neg h0, access_of_translate ht hf (by simpa using hn)]
      simp only [hh]
      exact ih hu

section
variable (he : (if isSup s1 s.turn then .ok s1 else escape s1 s.turn.slot s1.nextUid escSig) = .ok s3)
    (ha : acquireRead s3 s.turn.slot true sp = .ok (s4, v))
include he ha

theorem ffillEff_full (h : futureFull v = true) : ffillEff a b s s.turn = .trap s1 { cause := 21, addr := sp.va } := by
  unfold ffillEff
  extract_lets new
  rw [syncAccess_of_reaches hv hr hp]
  simp only [he, ha, h, if_true]

theorem ffillEff_bad (h : futureBad v = true) : ffillEff a b s s.turn = .trap s1 { cause := 20, addr := sp.va } := by
  unfold ffillEff
  extract_lets new
  rw [syncAccess_of_reaches hv hr hp]
  simp only [he, ha, futureFull_of_bad h, h, if_true, Bool.false_eq_true, if_false]

theorem ffillEff_fills (hf : futureFull v = false) (hb : futureBad v = false) (hn : reachesNodes s.turn 4096 s4 (futureNode v) s5)
    (hc : casRelease s5 s.turn.slot sp v (srcVal s s.turn b ||| 0x8000000000000000#64) = .ok (s6, true)) :
    ffillEff a b s s.turn =
      .pend (enqueue { s6 with nextUid := s6.nextUid + 1 } (.fill s.turn.slot)) s6.nextUid (.fill (futureNode v)) := by
  unfold ffillEff
  extract_lets new
  rw [syncAccess_of_reaches hv hr hp]
  simp only [he, ha, hf, hb, Bool.false_eq_true, if_false, nodesReach_of_reachesNodes hn, new, hc, takeUid]

end

end

/-! ### The pushes of an FFILL (R121) -/

section
variable {slot tag : Nat} {sup : Bool} {node next va : Word} (hf : fillOf (getSlot s slot) = some (tag, sup, node))
include hf

theorem fillStep_end (h : node = 0) : fillStep s slot = checkEnd (updSlot s slot fun x => settle (markDone x .K tag)) slot := by
  simp only [fillStep, hf, h, if_true]

section
variable (h : node ≠ 0)
include h

theorem fillStep_unreached (hn : nodeAt s slot node = (s1, none)) : fillStep s slot = hold s1 (.fill slot) := by
  simp only [fillStep, hf, if_neg h, hn]

variable (hn : nodeAt s slot node = (s1, some (.ok (s2, next, va))))
include hn

theorem fillStep_pushed (hp : slotPush s2 slot va = .ok s3) :
    fillStep s slot = enqueue (updSlot s3 slot fun x => setFill x tag next) (.fill slot) := by
  simp only [fillStep, hf, if_neg h, hn, hp]

theorem fillStep_full (hp : slotPush s2 slot va = .full s3) : fillStep s slot = hold s1 (.fill slot) := by
  simp only [fillStep, hf, if_neg h, hn, hp]

end

end

theorem step_of_fill {it : Item} {rest : List Item} {slot : Nat} (ha : s.agenda = it :: rest) (hw : it.what = .fill slot)
    (hr : s.running = true) : step s = .next (fillStep { s with agenda := rest, time := s.time + it.dt } slot) := by
  unfold step
  simp only [ha, hw, happen, hr, Bool.not_true, Bool.false_and, Bool.false_eq_true, if_false]

end

/-- Settles O40: each word by what it reads of the future, and a push under way by the node it comes to. -/
theorem futureWords : Obligations.FutureWords := by
  refine ⟨?_, ?_⟩
  · intro n a b c s s1 s2 s3 s4 s5 s6 sp nsp v t va node r2 r3 filled hv hr hp
    refine ⟨fun ha => ⟨fun h => ?_, fun h => ?_, fun hf hb hs => ⟨fun ho => ?_, fun ho hn hr' hst hc => ?_⟩⟩,
      fun he ha => ⟨fun h => ?_, fun h => ?_, fun hf hb hn hc => ?_⟩⟩
    · exact yields_of_done rfl (fwaitEff_full hv hr hp ha h)
    · exact entersTrap_of_trap rfl (fwaitEff_bad hv hr hp ha h)
    · exact entersTrap_of_trap rfl (fwaitEff_region hv hr hp ha hf hb hs ho)
    · exact yields_of_done rfl (fwaitEff_parks hv hr hp ha hf hb hs ho hn hr' hst hc)
    · exact entersTrap_of_trap rfl (ffillEff_full hv hr hp he ha h)
    · exact entersTrap_of_trap rfl (ffillEff_bad hv hr hp he ha h)
    · exact pends_of_pend rfl (ffillEff_fills hv hr hp he ha hf hb hn hc)
  · intro s s1 s2 s3 it rest slot tag sup node next va hag hw hrun u hf
    have hs : step s = .next (fillStep u slot) := step_of_fill hag hw hrun
    refine ⟨fun h => ?_, fun h hn => ?_, fun h hn => ⟨fun hp => ?_, fun hp => ?_⟩⟩
    · rw [hs, fillStep_end hf h]
    · rw [hs, fillStep_unreached hf h hn]
    · rw [hs, fillStep_pushed hf h hn hp]
    · rw [hs, fillStep_full hf h hn hp]

end Sys2Proof.Machine
end

section
/-! PROOFS. Task ends, ageing, pre-emption, instances, the Escapement, pulls, the deadlock count and drains (05 R116, R125, R145, R146,
06 R158, R161-R166, 07 R171, R175, 11 R292-R294). -/

namespace Sys2Proof.Machine

section
variable {s u : State} {slot : Nat}

/-! ### The end of a task (07 R171, 06 R159) -/

theorem exec_taskEnd_finished (hr : s.running = true) (hf : taskFinished s slot = true) (hp : (getSlot s slot).rpause = none) :
    exec (.taskEnd slot) s = .next (finishTask s slot) :=
  congrArg Host.Outcome.next (if_pos (by simp [hr, hf, hp]))

theorem exec_taskEnd_unfinished (h : taskFinished s slot = false ∨ (getSlot s slot).rpause ≠ none) :
    exec (.taskEnd slot) s = .next s := by
  refine congrArg Host.Outcome.next (if_neg ?_)
  rcases h with h | h <;> simp [h]

theorem finishTask_held (h : endHeld s slot = true) : finishTask s slot = hold s (.event (.taskEnd slot)) := if_pos h

section
variable (h : endHeld s slot = false)
include h

theorem finishTask_done (hc : closeHandles slot (slotJob s slot) (closing (getSlot s slot)) s = .done u) :
    finishTask s slot = endTask u slot false false := by
  simp only [finishTask, h, hc, Bool.false_eq_true, if_false]

theorem finishTask_fault {k : Kind} {va : Word}
    (hc : closeHandles slot (slotJob s slot) (closing (getSlot s slot)) s = .fault u k va) :
    finishTask s slot = enqueue u (.event (.engineFault slot 6)) := by
  simp only [finishTask, h, hc, Bool.false_eq_true, if_false]

theorem finishTask_stall (hc : closeHandles slot (slotJob s slot) (closing (getSlot s slot)) s = .stall u) :
    finishTask s slot = hold u (.event (.taskEnd slot)) := by
  simp only [finishTask, h, hc, Bool.false_eq_true, if_false]

end

/-! ### Ageing (05 R125) -/

section
variable {cluster job prio : Nat}

theorem getWork_setWork {k j : Nat} {l : List WorkEnt} : getWork (setWork s k l) j = if j = k then l else getWork s j := kvGet_kvSet ..

theorem workKey_succ_ne : workKey cluster job (prio + 1) ≠ workKey cluster job prio := by
  unfold workKey
  omega

/-- An entry has waited 1 ms in one queue, and has not moved up before. -/
def ripe (s : State) (e : WorkEnt) : Bool := !e.aged && decide (e.at_ + 1000000 ≤ s.time)

/-- A gang has waited 1 ms in a job's queue at a cluster, and has not moved up before. -/
def ripeGang (s : State) (cluster job prio : Nat) (g : GangReq) : Bool :=
  g.job == job && g.prio == prio && gangCovers g cluster && !g.aged && decide (g.at_ + 1000000 ≤ s.time)

/-- The state in which the entry e of a queue stands at the tail of another. -/
def movedUp (s : State) (key up : Nat) (e : WorkEnt) : State :=
  let t := setWork { s with nextUid := s.nextUid + 1 } key ((getWork s key).erase e)
  setWork t up (getWork t up ++ [{ e with at_ := s.time, aged := true, ord := s.nextUid, since := none }])

theorem getWork_movedUp_from {key up : Nat} {e : WorkEnt} (h : up ≠ key) :
    getWork (movedUp s key up e) key = (getWork s key).erase e := by
  unfold movedUp
  rw [getWork_setWork, if_neg h.symm, getWork_setWork, if_pos rfl]

theorem getWork_movedUp_to {key up : Nat} {e : WorkEnt} (h : up ≠ key) :
    getWork (movedUp s key up e) up =
      getWork s up ++ [{ e with at_ := s.time, aged := true, ord := s.nextUid, since := none }] := by
  unfold movedUp
  rw [getWork_setWork, if_pos rfl, getWork_setWork, if_neg h]
  rfl

variable (hr : s.running = true) (hp : prio < 3) (hj : job ≤ 1023)
include hr hp hj

theorem exec_recordAging_entry {e : WorkEnt} (h : (getWork s (workKey cluster job prio)).find? (ripe s) = some e) :
    exec (.recordAging cluster job prio) s =
      .next (enqueue (movedUp s (workKey cluster job prio) (workKey cluster job (prio + 1)) e) .schedule) := by
  refine congrArg Host.Outcome.next ((if_neg (by simp [hr]; omega)).trans ?_)
  unfold ripe at h
  simp only [h]
  rfl

variable (hn : (getWork s (workKey cluster job prio)).find? (ripe s) = none)
include hn

theorem exec_recordAging_gang {g : GangReq} (h : s.gangs.find? (ripeGang s cluster job prio) = some g) :
    exec (.recordAging cluster job prio) s = .next (enqueue { s with
      nextUid := s.nextUid + 1
      gangs := (s.gangs.filter fun o => o.uid != g.uid)
        ++ [{ g with prio := prio + 1, at_ := s.time, aged := true, ord := s.nextUid, since := none }] } .schedule) := by
  refine congrArg Host.Outcome.next ((if_neg (by simp [hr]; omega)).trans ?_)
  unfold ripe at hn
  unfold ripeGang at h
  simp only [hn, h]
  rfl

theorem exec_recordAging_none (h : s.gangs.find? (ripeGang s cluster job prio) = none) :
    exec (.recordAging cluster job prio) s = .next s := by
  refine congrArg Host.Outcome.next ((if_neg (by simp [hr]; omega)).trans ?_)
  unfold ripe at hn
  unfold ripeGang at h
  simp only [hn, h]

end

/-! ### Pre-emption (05 R145) -/

/-- A record of a priority is held up at a cluster, and a task there can give way to it. -/
def pressDue (s : State) (cluster p : Nat) : Bool := pressed s cluster p && (victim s cluster p).isSome

section
variable {cluster : Nat} (hr : s.running = true) (hb : s.ckbusy = false)
include hr hb

theorem exec_preemptionDelay_none (h : ∀ p, 1 ≤ p → p ≤ 3 → pressDue s cluster p = false) :
    exec (.preemptionDelay cluster) s = .next s := by
  have hf : [3, 2, 1].find? (pressDue s cluster) = none := by
    simp [h 1, h 2, h 3]
  refine congrArg Host.Outcome.next ((if_neg (by simp [hr, hb])).trans ?_)
  unfold pressDue at hf
  simp only [hf]

theorem exec_preemptionDelay_victim {p v : Nat} (h1 : 1 ≤ p) (h3 : p ≤ 3) (hp : pressed s cluster p = true)
    (hv : victim s cluster p = some v) (h : ∀ o, p < o → o ≤ 3 → pressDue s cluster o = false) :
    exec (.preemptionDelay cluster) s = .next (preempt s v 0) := by
  have hd : pressDue s cluster p = true := by simp [pressDue, hp, hv]
  have hf : [3, 2, 1].find? (pressDue s cluster) = some p := by
    interval_cases p
    · simp [hd, h 2, h 3]
    · simp [hd, h 3]
    · simp [hd]
  refine congrArg Host.Outcome.next ((if_neg (by simp [hr, hb])).trans ?_)
  unfold pressDue at hf
  simp only [hf, hv]

end

/-! ### The start of a task (07 R170) -/

theorem getSlot_of_slots {t : State} {k : Nat} (h : t.slots = s.slots) : getSlot t k = getSlot s k :=
  congrArg (fun l => kvGet Slot.vacant l k) h

theorem dropRange_slots {core job width : Nat} {rs : List (Nat × Nat)} : (dropRange s core job width rs).slots = s.slots := by
  unfold dropRange
  extract_lets s₁
  exact Eq.trans (foldl_keeps (p := State.slots) fun _ _ => by rfl) (foldl_keeps (p := State.slots) fun _ _ => by rfl)

/-- The slot of a task that has started: R170's state, with the task that its record and level give. -/
theorem getSlot_startTask {st : Start} : ∃ info : TaskInfo,
    getSlot (startTask s slot st) slot =
        { Slot.vacant with
          task := some info, k := startSeq st .K, l := startSeq st .L, c := startSeq st .C, s := startSeq st .S
          ksup := (getSlot s slot).ksup }
      ∧ info.job = st.job ∧ info.parent = st.parent ∧ info.graph = st.graph ∧ info.index = st.index ∧ info.record = st.record := by
  unfold startTask
  extract_lets j n s₁ info vacant x s₂ table m₁ m₂
  refine ⟨info, Eq.trans (getSlot_of_slots dropRange_slots) ?_, rfl, rfl, rfl, rfl, rfl⟩
  exact Eq.trans (getSlot_of_slots (s := s₂) rfl) ((getSlot_setSlot s₁ slot slot x).trans (if_pos rfl))

/-! ### Instances (06 R158) -/

theorem exec_instanceGrant_none (h : grantable s slot = none) : exec (.instanceGrant slot) s = .next s := by
  refine congrArg Host.Outcome.next ?_
  simp only [grantInstance, h, ite_self]

section
variable {g : Graph} {i : Nat} {st : Stage} {a b : Option (Span × RDesc)}

/-- The handle that a grant binds to a stage's ring, unbound for an absent one. -/
def ringHandle (e : Option (Span × RDesc)) (va : Word) (role : Role) (need : Nat) : Handle :=
  match e with
  | some (_, d) => grantHandle va d role need
  | none => .unbound

/-- The slot of a stage's task that has started, with its two handles bound and its graph's barriers mapped. -/
def grantedSlot (g : Graph) (st : Stage) (a b : Option (Span × RDesc)) (x : Slot) : Slot :=
  mapBars { x with
    handles := vset (vset x.handles 0 (ringHandle a st.inr .consumer st.inneed)) 1 (ringHandle b st.outr .producer st.outneed) } g.bars

/-- What a task of a stage starts from, at a priority (R158). -/
def instanceStart (g : Graph) (i : Nat) (st : Stage) (prio : Nat) : Start :=
  let r := st.tmpl.toNat
  { record := st.tva, rec_ := r, job := g.job, prio, need := trNeed r, parent := g.hdr, child := g.hdr,
    index := BitVec.ofNat 32 st.started, graph := some (g.hdr, i), idem := trIdem r }

/-- The core of a slot has acquired the slots that a grant takes from a stage's input ring. -/
def takenAcquired (slot job : Nat) (st : Stage) (a : Option (Span × RDesc)) (t : State) : State :=
  match a with
  | some (sp, d) => dropRange t (coreOf slot) job sp.sw (slotRanges d d.take st.inneed)
  | none => t

theorem getSlot_takenAcquired {job k : Nat} : getSlot (takenAcquired slot job st a s) k = getSlot s k := by
  unfold takenAcquired
  split
  · exact getSlot_of_slots dropRange_slots
  · rfl

theorem exec_instanceGrant_some (hr : s.running = true) (h : grantable s slot = some (g, i, st, a, b)) :
    ∃ (u : State) (prio : Nat), exec (.instanceGrant slot) s = .next (updSlot
      (takenAcquired slot g.job st a (startTask u slot (instanceStart g i st prio))) slot (grantedSlot g st a b)) := by
  refine ⟨?_, ?_, congrArg Host.Outcome.next ?_⟩
  rotate_left 2
  · simp only [grantInstance, hr, h]
    rfl

theorem vget_vset_of_ne {α : Type} {w : Nat} {v : Vector α (2 ^ w)} {i j : BitVec w} {x : α} (h : j ≠ i) :
    vget (vset v i x) j = vget v j :=
  Vector.getElem_set_ne _ _ (mt BitVec.eq_of_toNat_eq h.symm)

theorem grantedSlot_task {x : Slot} : (grantedSlot g st a b x).task = x.task := by rfl

theorem grantedSlot_k {x : Slot} : (grantedSlot g st a b x).k = x.k := by rfl

theorem grantedSlot_handle_0 {x : Slot} : vget (grantedSlot g st a b x).handles 0 = ringHandle a st.inr .consumer st.inneed :=
  (vget_vset_of_ne (by decide)).trans vget_vset_same

theorem grantedSlot_handle_1 {x : Slot} : vget (grantedSlot g st a b x).handles 1 = ringHandle b st.outr .producer st.outneed :=
  vget_vset_same

end

/-! ### The Escapement (06 R161, R162) -/

section
variable {g : Graph} {n hi lo core : Nat} (hg : graphByTag s n = some g)
include hg

theorem exec_escapementSample_due (hu : escapementUp s g = true) (hl : g.samples.length < 8)
    (ht : g.at_ + g.samples.length * g.interval * 125 ≤ s.time) :
    exec (.escapementSample n) s = .next (setGraph s { g with samples := g.samples ++ [g.stages.map (stageSample s)] }) := by
  refine congrArg Host.Outcome.next ?_
  simp only [hg]
  exact if_neg (by simp [hu, hl, ht])

theorem exec_escapementSample_early (ht : s.time < g.at_ + g.samples.length * g.interval * 125) :
    exec (.escapementSample n) s = .next s := by
  refine congrArg Host.Outcome.next ?_
  simp only [hg]
  exact if_pos (by simp [ht])

theorem exec_balanceDecision_early (hl : g.samples.length < 8) : exec (.balanceDecision n) s = .next s := by
  refine congrArg Host.Outcome.next ?_
  simp only [hg]
  exact if_pos (by simp [hl.ne])

/-- A graph with a core moved from one of its stages to another (R162). -/
def coreMoved (g : Graph) (hi lo core : Nat) : Graph :=
  { g with
    stages := g.stages.zipIdx.map fun (st, i) =>
      if i = lo then { st with cores := st.cores.filter fun o => o != core }
      else if i = hi then { st with cores := st.cores ++ [core] } else st
    moves := (g.moves.filter fun m => m.1 != core) ++ [(core, lo)] }

/-- A graph's next interval begins, with the status entries of its stages as they stand (06 R151). -/
def intervalBegun (s : State) (g : Graph) : State :=
  enqueue (g.stages.zipIdx.foldl (fun u e => writeStatus u g e.2 e.1)
    (setGraph s { g with samples := [], at_ := g.at_ + g.interval * 1000 })) .schedule

variable (hu : escapementUp s g = true) (hl : g.samples.length = 8) (ht : g.at_ + g.interval * 1000 ≤ s.time)
include hu hl ht

theorem exec_balanceDecision_stays (h : levelClosing s g.job g.hdr = true ∨ balanceMove s g = none) :
    exec (.balanceDecision n) s = .next (intervalBegun s g) := by
  have hm : (if levelClosing s g.job g.hdr then none else balanceMove s g) = none := by
    rcases h with h | h
    · exact if_pos h
    · rw [h, ite_self]
  refine congrArg Host.Outcome.next ?_
  simp only [hg]
  refine (if_neg (by simp [hu, hl, ht])).trans ?_
  simp only [hm]
  rfl

theorem exec_balanceDecision_moves (hc : levelClosing s g.job g.hdr = false)
    (hm : balanceMove s g = some (hi, lo, core)) :
    exec (.balanceDecision n) s = .next (intervalBegun s (coreMoved g hi lo core)) := by
  refine congrArg Host.Outcome.next ?_
  simp only [hg]
  refine (if_neg (by simp [hu, hl, ht])).trans ?_
  simp only [hc, hm]
  rfl

end

/-! ### Pulls (06 R163-R166) -/

/-- A lower idle engine of the same cluster and class has something to pull, and goes first (R165). -/
def lowerPulls (s : State) (core eng : Nat) : Bool :=
  (List.range 8).any fun j => (classOf eng).any fun e =>
    let c := core / 8 * 8 + j
    decide (c * 8 + e < core * 8 + eng) && engineIdle s c e && (pullSource s c e).isSome

section
variable {eng : Nat} (hr : s.running = true) (hs : isUnit slot = false) (he : eng < 6) (hi : engineIdle s (coreOf slot) eng = true)
    (hl : lowerPulls s (coreOf slot) eng = false)
include hr hs he hi hl

theorem commandPull_unguarded :
    ¬(!s.running || isUnit slot || decide (6 ≤ eng) || !engineIdle s (coreOf slot) eng || lowerPulls s (coreOf slot) eng) = true := by
  simp [hr, hs, hi, hl, he]

theorem exec_commandPull_none (h : pullSource s (coreOf slot) eng = none) : exec (.commandPull slot eng) s = .next s := by
  refine congrArg Host.Outcome.next ((if_neg (commandPull_unguarded hr hs he hi hl)).trans ?_)
  simp only [h]

theorem exec_commandPull_some {k n : Nat} {c : Cmd} (h : pullSource s (coreOf slot) eng = some (k, n, c)) :
    exec (.commandPull slot eng) s =
      .next (enqueue (updCmd s k n c.uid fun c => { c with pulled := some (coreOf slot * 8 + eng) }) (.work k n c.uid)) := by
  refine congrArg Host.Outcome.next ((if_neg (commandPull_unguarded hr hs he hi hl)).trans ?_)
  simp only [h]

end

/-! ### The deadlock count (07 R175) -/

theorem exec_decoupleDeadlock {n : Nat} (hr : s.running = true) (hs : isUnit slot = false) (hc : coreLive s (coreOf slot) = true)
    (ht : (getSlot s slot).task ≠ none) (hm : (getSlot s slot).mode = .user) (hh : (getSlot s slot).held = false)
    (ha : (getSlot s slot).armed = none)
    (hq : [(getSlot s slot).k, (getSlot s slot).l, (getSlot s slot).c, (getSlot s slot).s].all (counted (getSlot s slot)) = true)
    (he : [(getSlot s slot).k, (getSlot s slot).l, (getSlot s slot).c, (getSlot s slot).s].all (·.tend) = false) :
    exec (.decoupleDeadlock slot n) s = .next
      (let u := updSlot s slot fun x => { x with deadlock := min ((getSlot s slot).deadlock + n) (2 ^ 20) }
       if (getSlot s slot).deadlock + n < 2 ^ 20 then u else takeTrap u slot .K (getSlot s slot).k.pc { cause := 9 }) := by
  refine congrArg Host.Outcome.next (if_neg ?_)
  simp only [hr, hs, hc, Option.isNone_eq_false_iff.2 (Option.isSome_iff_ne_none.2 ht), hm, hh, ha, hq, he]
  decide

/-! ### A region's drain (11 R292, R294) -/

theorem drainStep_closed (h : (getSlot s slot).region = none) : drainStep s slot = s := by
  simp only [drainStep, h]

section
variable {r : Region} (h : (getSlot s slot).region = some r)
include h

theorem drainStep_performing (hp : r.phase = .performing) (hn : needFar s slot (bufMerges (getSlot s slot)) = none) :
    drainStep s slot = drainAll s slot r := by
  simp only [drainStep, h, hp, if_true, hn]

theorem drainStep_far (hp : r.phase = .performing) (hn : needFar s slot (bufMerges (getSlot s slot)) = some u) :
    drainStep s slot = hold u (.event (.regionDrainComplete slot)) := by
  simp only [drainStep, h, hp, if_true, hn]

variable (hp : r.phase = .draining)
include hp

theorem drainStep_quiet (hq : regionQuiet (getSlot s slot) r = true) :
    drainStep s slot = enqueue (updSlot s slot fun x => { x with region := some { r with phase := .performing } })
      (.event (.regionDrainComplete slot)) := by
  simp [drainStep, h, hp, hq]

theorem drainStep_busy (hq : regionQuiet (getSlot s slot) r = false) : drainStep s slot = s := by
  simp [drainStep, h, hp, hq]

end

end

/-- Settles O58: each event by the branch that its condition takes; a grant by the slot that the start of its task leaves. -/
theorem schedulingEvents : Obligations.SchedulingEvents := by
  intro s slot cluster job prio k n p v eng e g r c i hi lo core st a b gq hr
  refine ⟨fun hf hp => ⟨fun h => ?_, fun h u => ⟨fun hc => ?_, fun k va hc => ?_, fun hc => ?_⟩⟩, exec_taskEnd_unfinished, ?_, ?_,
    exec_instanceGrant_none, fun h => ?_, fun hg hu => ⟨exec_escapementSample_due hg hu, exec_escapementSample_early hg,
      exec_balanceDecision_stays hg hu, exec_balanceDecision_moves hg hu, exec_balanceDecision_early hg⟩,
    fun hs he hi hl => ⟨exec_commandPull_none hr hs he hi hl, exec_commandPull_some hr hs he hi hl⟩, ?_,
    fun h => congrArg _ (drainStep_closed h),
    fun h => ⟨fun hp hn => congrArg _ (drainStep_performing h hp hn), fun u hp hn => congrArg _ (drainStep_far h hp hn),
      fun hp hq => congrArg _ (drainStep_quiet h hp hq), fun hp hq => congrArg _ (drainStep_busy h hp hq)⟩⟩
  · rw [exec_taskEnd_finished hr hf hp, finishTask_held h]
  · rw [exec_taskEnd_finished hr hf hp, finishTask_done h hc]
  · rw [exec_taskEnd_finished hr hf hp, finishTask_fault h hc]
  · rw [exec_taskEnd_finished hr hf hp, finishTask_stall h hc]
  · intro key up old oldGang hp hj
    exact ⟨fun h => ⟨_, exec_recordAging_entry hr hp hj h, rfl, getWork_movedUp_from workKey_succ_ne,
        getWork_movedUp_to workKey_succ_ne⟩,
      exec_recordAging_none hr hp hj, fun hn h => ⟨_, exec_recordAging_gang hr hp hj hn h, rfl, rfl⟩⟩
  · intro due hb
    exact ⟨exec_preemptionDelay_none hr hb, exec_preemptionDelay_victim hr hb⟩
  · obtain ⟨u, q, he⟩ := exec_instanceGrant_some hr h
    obtain ⟨k, hk, hjob, hparent, hgraph, hindex, hrecord⟩ := getSlot_startTask (s := u) (slot := slot) (st := instanceStart g i st q)
    have hx := fun t => (getSlot_updSlot t slot slot (grantedSlot g st a b)).trans (if_pos rfl)
    refine ⟨_, k, he, ?_, hjob, hparent, hgraph, hindex, hrecord, ?_, ?_, ?_⟩
    · rw [hx, grantedSlot_task, getSlot_takenAcquired, hk]
    · rw [hx, grantedSlot_k, getSlot_takenAcquired, hk]
      rfl
    · rw [hx]
      exact grantedSlot_handle_0
    · rw [hx]
      exact grantedSlot_handle_1
  · intro x qs hs hc ht hm hh ha hq hend
    have hd := exec_decoupleDeadlock (n := n) hr hs hc ht hm hh ha hq hend
    refine ⟨fun hlt => ?_, fun hle => ?_⟩
    · rw [hd, if_pos hlt, Nat.min_eq_left hlt.le]
      rfl
    · rw [hd, if_neg (Nat.not_lt.2 hle), Nat.min_eq_right hle]

end Sys2Proof.Machine
end

section
/-! PROOFS. What an engine of a slot does at its completion event (06 R163, R166, 07 R184, 13 R321, 17 R416, R417, R420, R423). -/

namespace Sys2Proof.Machine

section
variable {s s1 : State} {slot eng : Nat} {c : Cmd}

/-! ### The record that an engine writes next (13 R321, 03 R77) -/

/-- RVER of a command's completion record: the version of what it resolved. -/
def Cmd.rver (c : Cmd) : Nat :=
  match c.res with
  | some r => r.rver.toNat
  | none => 0

theorem finishStep_of_part {g : GPart} (hg : c.part = some g) : finishStep s slot eng c = endPart s slot c g := by
  simp only [finishStep, hg]

section
variable (hg : c.part = none)
include hg

theorem finishStep_of_queue {desc : Word} (hq : c.queue = some desc) :
    finishStep s slot eng c = .next (retireCmd (queueDone s (slotJob s slot) desc
      (queueRecord (c.status.getD 0) c.finalCode (pkKind c.pkt) c.rver (pkTag c.pkt) (doneBytes eng c) c.sats 0)) slot eng c 0) := by
  simp only [finishStep, hg, hq]
  rfl

theorem finishStep_of_record {a : Unit} (hq : c.queue = none)
    (hw : engRecord (c.eng slot eng) (pkCrec c.pkt)
      (recordBytes (c.status.getD 0) c.finalCode (pkKind c.pkt) c.rver (pkTag c.pkt) (doneBytes eng c) c.sats) (pkTag c.pkt)
      (cmdRange eng c) s = .ok s1 a) :
    finishStep s slot eng c = .next (retireCmd s1 slot eng c c.progress) := by
  cases hr : c.res
  all_goals
    simp only [Cmd.rver, hr] at hw
    simp only [finishStep, hg, hq, hr, hw]

end

theorem recordStep_of_finishing {t : State} (hc : finishing (getSlot s slot) eng = some c) (h : finishStep s slot eng c = .next t) :
    recordStep s slot eng = some (.next (churn slot eng c t)) := by
  simp only [recordStep, hc, h]

theorem recordStep_of_not_matrix (hc : finishing (getSlot s slot) eng = none) (he : eng ≠ 5) : recordStep s slot eng = none := by
  simp only [recordStep, hc, if_pos he]

/-- A GMMA of the slot with every part ended, whose record is to be written (17 R417). -/
def wholeGmma (s : State) (slot : Nat) : Option GCmd :=
  s.gcmds.find? fun g => g.owner == slot && g.paused.isNone && !partsLeft s g.gid

theorem recordStep_matrix (hc : finishing (getSlot s slot) 5 = none) :
    recordStep s slot 5 = (wholeGmma s slot).map fun g => finishGmma s g.gid := by
  simp only [recordStep, hc]
  rfl

theorem recordStep_matrix_none (hc : finishing (getSlot s slot) 5 = none) (hg : wholeGmma s slot = none) :
    recordStep s slot 5 = none := by
  rw [recordStep_matrix hc, hg, Option.map_none]

/-! ### Turns at an engine (07 R184, R186) -/

/-- A state without what is about to come about. -/
def offAgenda (s : State) : State := { s with agenda := [] }

theorem eq_of_offAgenda {t : State} (h : offAgenda t = offAgenda s) : t = { s with agenda := t.agenda } :=
  congrArg (fun u : State => { u with agenda := t.agenda }) h

theorem byTurn_in_turn {f : State → State} (ht : engTurn s (c.place slot eng) slot = true) :
    byTurn s slot eng c f = churn slot eng c (f (serve s (c.place slot eng) slot)) := if_pos ht

theorem byTurn_out_of_turn {f : State → State} (ht : engTurn s (c.place slot eng) slot = false) :
    offAgenda (byTurn s slot eng c f) = offAgenda s := by
  simp only [byTurn, ht, Bool.false_eq_true, if_false]
  refine foldl_keeps (p := offAgenda) fun u e => ?_
  split
  · rfl
  · refine foldl_keeps (p := offAgenda) fun _ _ => ?_
    rfl

/-! ### The completion event -/

theorem exec_completeEvent (he : eng < 6) : exec (completeEvent slot eng) s = .next (completeStep s slot eng) := by
  unfold completeEvent
  split
  · exact congrArg Host.Outcome.next (if_neg (by omega))
  split
  · next h => exact congrArg (fun e => Host.Outcome.next (completeStep s slot e)) h.symm
  · next h => exact congrArg (fun e => Host.Outcome.next (completeStep s slot e)) (by omega : 5 = eng)

theorem completeStep_of_down (hu : engineUp s slot = false) : completeStep s slot eng = s := by
  simp [completeStep, hu]

section
variable (hu : engineUp s slot = true)
include hu

theorem completeStep_of_recordStep {r : EStep} (h : recordStep s slot eng = some r) : completeStep s slot eng = raise slot eng r := by
  simp only [completeStep, hu, h, Bool.not_true, Bool.false_eq_true, if_false]

theorem completeStep_idle (h : recordStep s slot eng = none) (he : eng ≠ 5) : completeStep s slot eng = s := by
  simp only [completeStep, hu, h, Bool.not_true, Bool.false_eq_true, if_false, if_pos he]

variable (h : recordStep s slot 5 = none)
include h

theorem completeStep_matrix_idle (hr : runnable s slot 5 = []) : completeStep s slot 5 = s := by
  simp only [completeStep, hu, h, hr, Bool.not_true, Bool.false_eq_true, if_false, ne_eq, not_true_eq_false]

theorem completeStep_matrix_runs {rest : List Cmd} (hr : runnable s slot 5 = c :: rest) :
    completeStep s slot 5 = byTurn s slot 5 c fun s => raise slot 5 (matrixStep s slot c) := by
  simp only [completeStep, hu, h, hr, Bool.not_true, Bool.false_eq_true, if_false, ne_eq, not_true_eq_false]

end

section
variable (he : eng < 6)
include he

theorem exec_completeEvent_of_down (hu : engineUp s slot = false) : exec (completeEvent slot eng) s = .next s :=
  (exec_completeEvent he).trans (congrArg _ (completeStep_of_down hu))

theorem exec_completeEvent_of_finishing {t : State} (hu : engineUp s slot = true) (hc : finishing (getSlot s slot) eng = some c)
    (h : finishStep s slot eng c = .next t) : exec (completeEvent slot eng) s = .next (churn slot eng c t) :=
  (exec_completeEvent he).trans (congrArg _ (completeStep_of_recordStep hu (recordStep_of_finishing hc h)))

end

theorem exec_completeEvent_idle (hu : engineUp s slot = true) (hc : finishing (getSlot s slot) eng = none) (he : eng < 5) :
    exec (completeEvent slot eng) s = .next s :=
  (exec_completeEvent (by omega)).trans
    (congrArg _ (completeStep_idle hu (recordStep_of_not_matrix hc (by omega)) (by omega)))

section
variable (hu : engineUp s slot = true) (hc : finishing (getSlot s slot) 5 = none)
include hu hc

theorem exec_matrixCommandComplete_gmma {g : GCmd} {t : State} (hg : wholeGmma s slot = some g) (h : finishGmma s g.gid = .next t) :
    exec (.matrixCommandComplete slot) s = .next t := by
  refine congrArg Host.Outcome.next ((completeStep_of_recordStep hu (r := .next t) ?_).trans rfl)
  rw [recordStep_matrix hc, hg, Option.map_some, h]

variable (hg : wholeGmma s slot = none)
include hg

theorem exec_matrixCommandComplete_idle (hr : runnable s slot 5 = []) : exec (.matrixCommandComplete slot) s = .next s :=
  congrArg Host.Outcome.next (completeStep_matrix_idle hu (recordStep_matrix_none hc hg) hr)

theorem exec_matrixCommandComplete_runs {rest : List Cmd} (hr : runnable s slot 5 = c :: rest) :
    exec (.matrixCommandComplete slot) s =
      .next (byTurn s slot 5 c fun s => raise slot 5 (matrixStep s slot c)) :=
  congrArg Host.Outcome.next (completeStep_matrix_runs hu (recordStep_matrix_none hc hg) hr)

end

end

end Sys2Proof.Machine
end

section
/-! PROOFS. Streamers: the next tile of a subscription, and its record (13 R321, R330, 17 R424, R425). -/

namespace Sys2Proof.Machine

section
variable {s s1 v : State} {uid : Nat} {b : Sub} {sp : Span}

/-! ### A tile moves (13 R330) -/

/-- Slot i of the ring at loc, as its descriptor reads now. -/
def slotAddr (s : State) (loc : Loc) (i : BitVec 32) : Word :=
  (descAt s loc).base + BitVec.ofNat 64 (i.toNat % (descAt s loc).n * (descAt s loc).size)

/-- A subscription with one tile more behind it and no slot held. -/
def Sub.tiled (b : Sub) : Sub := { b with tiles := b.tiles + 1, held := none }

/-- A tile has been moved, and its slot i is published or released. -/
def tileMoved (s : State) (b : Sub) (loc : Loc) (i : BitVec 32) : State :=
  ringAdvance (markSlots (setSub s b.tiled) loc (stRole b.pkt.toNat) [i.toNat]) loc (getJob s b.job).jobtag

/-- After a tile the subscription ends, complete or dropped, or its next tile comes about. -/
def tileDone (s : State) (b : Sub) (loc : Loc) (i : BitVec 32) : State :=
  if stTiles b.pkt.toNat ≤ b.tiles + 1 then endSub (tileMoved s b loc i) b.tiled 0 0
  else if b.drop then endSub (tileMoved s b loc i) b.tiled 4 0
  else enqueue (tileMoved s b loc i) (.event (.streamTile b.uid))

theorem tileStep_of_copied {loc : Loc} {i : BitVec 32} {a : Unit}
    (h : tileCopy b.eng b.pkt.toNat b.tiles (slotAddr s loc i) (stRows b.pkt.toNat) 0 s = .ok v a) :
    tileStep s b loc i = .next (tileDone v b loc i) := by
  unfold slotAddr at h
  simp only [tileStep, h, tileDone, apply_ite SStep.next]
  rfl

/-! ### The slot of the next tile (17 R424) -/

/-- A subscription whose ring has been reached at loc. -/
def Sub.atRing (b : Sub) (loc : Loc) : Sub := { b with ring := loc }

/-- The absolute number of the slot that a subscription claims or takes next. -/
def Sub.nextSlot (b : Sub) (r : RDesc) : BitVec 32 := if stDrain b.pkt.toNat then r.take else r.claim

/-- CLAIM or TAKE of the ring has passed the next slot, and a consumer's stale copies of it are gone. -/
def slotTaken (s : State) (b : Sub) (sp : Span) : State :=
  let first := b.nextSlot (descAt s sp.loc)
  let put := putDesc s sp.loc (if stDrain b.pkt.toNat then 16 else 20) 4 (first + 1).toNat
  if stDrain b.pkt.toNat = true ∧ isUnit b.slot = false then
    dropRange put (coreOf b.slot) b.job sp.sw (slotRanges (descAt s sp.loc) first 1)
  else put

/-- A subscription that holds the slot i. -/
def Sub.holding (b : Sub) (i : BitVec 32) : Sub := { b with held := some i }

/-- A subscription has claimed or taken the next slot, and holds it. -/
def slotHeld (s : State) (b : Sub) (sp : Span) : State :=
  setSub (slotTaken s b sp) (b.holding (b.nextSlot (descAt s sp.loc)))

/-- What a claim of one slot answers a subscription at the ring at loc. -/
def ringAnswer (s : State) (b : Sub) (loc : Loc) : Option Nat :=
  claimStatus (stRole b.pkt.toNat) (descAt s loc) (ringLost s loc (descAt s loc) (stRole b.pkt.toNat)) 1

/-- The next step of a subscription whose ring has been reached at sp: the tile of the slot that it holds, or of one that it claims now. -/
def ringStep (s : State) (b : Sub) (sp : Span) : SStep :=
  match b.held with
  | some i => tileStep s b sp.loc i
  | none =>
    if b.drop then .next (endSub s b 4 0) else
      match ringAnswer s b sp.loc with
      | none => .next s
      | some 0 =>
        let i := b.nextSlot (descAt s sp.loc)
        tileStep (slotHeld s b sp) (b.holding i) sp.loc i
      | some _ => .next (endSub s b 4 0)

theorem subStep_of_ring (h : engSpans b.eng true false (stRing b.pkt.toNat) 32 s = .ok s1 [sp]) :
    subStep s b = ringStep (setSub s1 (b.atRing sp.loc)) (b.atRing sp.loc) sp := by
  simp only [subStep, h]
  unfold ringStep slotHeld slotTaken Sub.nextSlot
  cases hd : stDrain b.pkt.toNat
  all_goals
    simp only [hd, Sub.atRing, if_true, if_false, Bool.false_eq_true, true_and, false_and, Bool.not_eq_true'] <;> rfl

theorem subStep_of_fault {k : Kind} {va : Word} {wr : Bool}
    (h : engSpans b.eng true false (stRing b.pkt.toNat) 32 s = .fault s1 k va wr) : subStep s b = .fault s1 k va wr := by
  simp only [subStep, h]

theorem ringStep_of_held {i : BitVec 32} {a : Unit} (hi : b.held = some i)
    (hv : tileCopy b.eng b.pkt.toNat b.tiles (slotAddr s sp.loc i) (stRows b.pkt.toNat) 0 s = .ok v a) :
    ringStep s b sp = .next (tileDone v b sp.loc i) := by
  rw [ringStep, hi]
  exact tileStep_of_copied hv

section
variable (hi : b.held = none)
include hi

theorem ringStep_of_dropped (hd : b.drop = true) : ringStep s b sp = .next (endSub s b 4 0) := by
  rw [ringStep, hi]
  exact if_pos hd

variable (hd : b.drop = false)
include hd

theorem ringStep_of_wait (h : ringAnswer s b sp.loc = none) : ringStep s b sp = .next s := by
  rw [ringStep, hi, hd, h]
  rfl

theorem ringStep_of_closed {n : Nat} (h : ringAnswer s b sp.loc = some (n + 1)) : ringStep s b sp = .next (endSub s b 4 0) := by
  rw [ringStep, hi, hd, h]
  rfl

theorem ringStep_of_claim {a : Unit} (h : ringAnswer s b sp.loc = some 0)
    (hv : tileCopy b.eng b.pkt.toNat b.tiles (slotAddr (slotHeld s b sp) sp.loc (b.nextSlot (descAt s sp.loc))) (stRows b.pkt.toNat) 0
      (slotHeld s b sp) = .ok v a) :
    ringStep s b sp = .next (tileDone v b sp.loc (b.nextSlot (descAt s sp.loc))) := by
  rw [ringStep, hi, hd, h]
  exact tileStep_of_copied (b := b.holding _) hv

end

section
variable (hb : (s.subs.find? fun b => b.uid == uid && b.status.isNone) = some b)
include hb

theorem exec_streamTile_of_down (hu : subUp s b = false) : exec (.streamTile uid) s = .next s := by
  refine congrArg Host.Outcome.next ?_
  simp only [hb, hu, Bool.false_eq_true, if_false]

theorem exec_streamTile_of_up (hu : subUp s b = true) : exec (.streamTile uid) s = .next (raiseSub uid (subStep s b)) := by
  refine congrArg Host.Outcome.next ?_
  simp only [hb, hu, if_true]

theorem exec_streamTile_of_next {t : State} (hu : subUp s b = true) (h : subStep s b = .next t) :
    exec (.streamTile uid) s = .next t :=
  (exec_streamTile_of_up hb hu).trans (by rw [h]; rfl)

end

/-! ### The record of a subscription (13 R321) -/

/-- A subscription has left; its slot may end. -/
def subGone (s : State) (b : Sub) : State :=
  let t : State := { s with subs := s.subs.filter fun o => o.uid != b.uid }
  if isUnit b.slot then t else checkEnd t b.slot

theorem subFinish_of_record {crec : Word} {a : Unit} (ho : b.origin = .record crec)
    (h : engRecord b.eng crec (recordBytes (b.status.getD 0) b.fcode (pkKind b.pkt.toNat) 0 (pkTag b.pkt.toNat) (subBytes b) 0)
      (pkTag b.pkt.toNat) (subRange s b) s = .ok s1 a) : subFinish s b = .next (subGone s1 b) := by
  simp only [subFinish, ho, h]
  rfl

theorem exec_streamComplete_of_next {t : State} (hb : (s.subs.find? fun b => b.uid == uid && b.status.isSome) = some b)
    (hu : subUp s b = true) (h : subFinish s b = .next t) : exec (.streamComplete uid) s = .next t := by
  refine congrArg Host.Outcome.next ?_
  simp only [hb, hu, if_true, h]
  rfl

end

end Sys2Proof.Machine
end

section
/-! PROOFS. Floating-point reductions at memory: contributions and the time limit of a pass (08 R226, R227). -/

namespace Sys2Proof.Machine

section
variable {s s1 s2 : State} {eng : Nat} {c : Cmd} {p : RedPacket} {pass : RedPass} {tsp dsp : Span} {loc : Loc}

theorem exec_fpReduceContribution_none (h : redCmd s p = none) : exec (.fpReduceContribution p) s = .next s := by
  refine congrArg Host.Outcome.next ?_
  simp only [contribute, h]

/-- The table that a pass follows lists the source of a contribution. -/
def listedIn (pass : RedPass) (c : Cmd) (p : RedPacket) : Bool := pass.entries.any fun ent => redIdent c p == ent % 2 ^ 48

/-- A pass with one contribution more. -/
def RedPass.holding (pass : RedPass) (p : RedPacket) : RedPass := { pass with held := pass.held ++ [p] }

section
variable (hc : redCmd s p = some (eng, c)) (ht : engSpans (c.eng p.slot eng) false false p.table 512 s = .ok s1 [tsp])
  (hd : engSpans (c.eng p.slot eng) true false p.dst 1 s1 = .ok s2 [dsp])
  (hp : (s2.passes.find? fun q => q.table == tsp.loc && q.home == dsp.loc / 2 ^ 36) = some pass)
include hc ht hd hp

/-- The pass of its table takes a contribution in, or refuses it (08 R225, R226). -/
theorem exec_fpReduceContribution_join : exec (.fpReduceContribution p) s = .next
    (if !listedIn pass c p then setPass (endCmd s2 p.slot eng c.uid 2 fcTable) pass
     else if pass.active then runPass 65 s2 (pass.holding p) else setPass s2 (pass.holding p)) := by
  refine congrArg Host.Outcome.next ?_
  simp only [contribute, hc, ht, hd, List.headD_cons, hp]
  rfl

theorem exec_fpReduceContribution_unlisted (hl : listedIn pass c p = false) :
    exec (.fpReduceContribution p) s = .next (setPass (endCmd s2 p.slot eng c.uid 2 fcTable) pass) := by
  rw [exec_fpReduceContribution_join hc ht hd hp, hl]
  rfl

variable (hl : listedIn pass c p = true)
include hl

theorem exec_fpReduceContribution_waits (ha : pass.active = false) :
    exec (.fpReduceContribution p) s = .next (setPass s2 (pass.holding p)) := by
  rw [exec_fpReduceContribution_join hc ht hd hp, hl, ha]
  rfl

theorem exec_fpReduceContribution_runs (ha : pass.active = true) :
    exec (.fpReduceContribution p) s = .next (runPass 65 s2 (pass.holding p)) := by
  rw [exec_fpReduceContribution_join hc ht hd hp, hl, ha]
  rfl

end

/-- An active pass of a table that has waited 100 µs for its entry. -/
def latePass (s : State) (loc : Loc) : Option RedPass :=
  s.passes.find? fun q => q.table == loc && q.active && decide (q.since + 100000 ≤ s.time)

/-- The command of a contribution ends TIMEOUT. -/
def timeOutHeld (s : State) (p : RedPacket) : State :=
  match redCmd s p with
  | some (eng, c) => endCmd s p.slot eng c.uid 5 23
  | none => s

theorem exec_fpReduceTimeout_none (h : latePass s loc = none) : exec (.fpReduceTimeout loc) s = .next s := by
  unfold latePass at h
  refine congrArg Host.Outcome.next ?_
  simp only [h]

theorem exec_fpReduceTimeout_some (h : latePass s loc = some pass) :
    exec (.fpReduceTimeout loc) s = .next (endPass (pass.held.foldl timeOutHeld s) { pass with held := [] }) := by
  unfold latePass at h
  refine congrArg Host.Outcome.next ?_
  simp only [h]
  rfl

end

end Sys2Proof.Machine
end

section
/-! PROOFS. Engines, streamers and reductions complete their work (06 R163, R166, 08 R226, 13 R330). -/

namespace Sys2Proof.Machine

/-- Settles O59: an engine's event by the record that is next to be written, else by the matrix engine's turn; a tile by its slot and what the
ring answers; a contribution by its pass. -/
theorem engineEvents : Obligations.EngineEvents := by
  intro s s1 s2 v slot eng uid c rest g gc b sp tsp dsp i crec n p pass loc
  extract_lets ends pk b1 u r b2 moved tile first put took held slotVa gone
  intro he
  have finishes {t : State} := exec_completeEvent_of_finishing (s := s) (slot := slot) (c := c) (t := t) he
  refine ⟨exec_completeEvent_of_down he, fun hu hc => ⟨fun hg t ht => ?_, fun hg desc hq => ?_, fun hg hq hw => ?_⟩,
    exec_completeEvent_idle, fun hu hc => ⟨fun hg t ht => ?_, fun hg => ⟨fun hr ht => ?_, fun hr ht => ?_, ?_⟩⟩,
    fun hb => ⟨exec_streamTile_of_down hb, fun hu hs => ⟨fun hi hd => ?_, fun hi hd => ⟨fun hc => ?_, fun hc hv => ?_, fun hc => ?_⟩,
      fun hi hv => ?_⟩, fun hu t k va wr hf => ?_⟩,
    fun hb hu ho hw => ?_, fun hb hu t => exec_streamComplete_of_next hb hu, exec_fpReduceContribution_none,
    fun hc ht hd hp => ⟨exec_fpReduceContribution_unlisted hc ht hd hp, exec_fpReduceContribution_waits hc ht hd hp,
      exec_fpReduceContribution_runs hc ht hd hp⟩,
    exec_fpReduceTimeout_none, exec_fpReduceTimeout_some⟩
  · exact finishes hu hc ((finishStep_of_part hg).trans ht)
  · exact finishes hu hc (finishStep_of_queue hg hq)
  · obtain ⟨a, hw⟩ := hw
    exact finishes hu hc (finishStep_of_record hg hq hw)
  · exact exec_matrixCommandComplete_gmma hu hc hg ht
  · rw [exec_matrixCommandComplete_runs hu hc hg hr, byTurn_in_turn ht]
  · exact ⟨_, exec_matrixCommandComplete_runs hu hc hg hr, eq_of_offAgenda (byTurn_out_of_turn ht)⟩
  · exact exec_matrixCommandComplete_idle hu hc hg
  · exact exec_streamTile_of_next hb hu ((subStep_of_ring hs).trans (ringStep_of_dropped hi hd))
  · exact exec_streamTile_of_next hb hu ((subStep_of_ring hs).trans (ringStep_of_wait hi hd hc))
  · exact exec_streamTile_of_next hb hu ((subStep_of_ring hs).trans (ringStep_of_claim hi hd hc hv))
  · exact exec_streamTile_of_next hb hu ((subStep_of_ring hs).trans (ringStep_of_closed hi hd hc))
  · exact exec_streamTile_of_next hb hu ((subStep_of_ring hs).trans (ringStep_of_held hi hv))
  · rw [exec_streamTile_of_up hb hu, subStep_of_fault hf]
    rfl
  · obtain ⟨a, hw⟩ := hw
    exact exec_streamComplete_of_next hb hu (subFinish_of_record ho hw)

end Sys2Proof.Machine
end

section
/-! PROOFS. What a translation and the count of an access leave (04 R98, R109). -/

namespace Sys2Proof.Machine

section
variable {s t u : State}

/-- What a translation may change: cached leaves and pointers, parked walks, and a slot's mark of a neighbour's window. -/
def Translated (s t : State) : Prop :=
  t = { s with tlb := t.tlb, ptrs := t.ptrs, draws := t.draws, parked := t.parked, slots := t.slots }

theorem Translated.refl : Translated s s := rfl

theorem Translated.trans (h₁ : Translated s t) (h₂ : Translated t u) : Translated s u := by
  unfold Translated at *
  rw [h₂, h₁]

theorem Translated.mem (h : Translated s t) : t.mem = s.mem := by rw [h]

theorem translated_tlbPut {e : TlbEnt} {n : Nat} : Translated s (tlbPut e s n) := by
  unfold Translated
  rw [tlbPut_eq]

theorem translated_leaves {e : TlbEnt} {caches : List Nat} : Translated s (caches.foldl (tlbPut e) s) :=
  List.foldlRecOn (motive := Translated s) _ _ .refl fun _ h _ _ => h.trans translated_tlbPut

theorem translated_walkFill {caches : List Nat} {die job : Nat} {va : Word} : Translated s (walkFill s caches die job va).1 := by
  by_cases h : (s.parked.find? fun p => p.2 == (die * 1024 + job, walkPage va)) = none ∧ walksHeld s die < 4096
  · obtain ⟨hp, hw⟩ := h
    have hf : Translated s (ptrsFilled s die job va) := by
      unfold Translated
      rw [ptrsFilled_eq]
    cases hr : walk s die job va with
    | leaf e base size lines =>
      rw [walkFill_leaf hp hw hr]
      exact hf.trans translated_leaves
    | mig line =>
      rw [walkFill_mig hp hw hr]
      exact hf.trans rfl
    | fault k =>
      rw [walkFill_fault hp hw hr]
      exact hf
  · rw [walkFill_stalled ((Decidable.not_and_iff_or_not.1 h).imp_right Nat.not_lt.1)]
    exact .refl

theorem translated_trWindow {ctx : TCtx} {va : Word} {len : Nat} : Translated s (trWindow s ctx va len).1 := by
  unfold trWindow
  simp only []
  repeat' split
  all_goals rfl

theorem translated_trPage {ctx : TCtx} {va : Word} {len : Nat} {n : Need} : Translated s (trPage s ctx va len n).1 := by
  have hl : ∀ e, Translated s (ctx.caches.foldl (tlbPut e) s) := fun e => translated_leaves
  unfold trPage
  simp only []
  split
  · rfl
  split
  · grind only [translated_trWindow, Translated.refl]
  · cases tlbHit s ctx.caches ctx.job va <;> grind only [translated_walkFill, Translated.refl]

/-- What the count of an access may change (R109). -/
def Counted (s t : State) : Prop := t = { s with counts := t.counts, nextUid := t.nextUid, agenda := t.agenda }

theorem counted_touchCount {die region job : Nat} {f : Counter → Counter} : Counted s (touchCount s die region job f) := by
  unfold touchCount
  simp only []
  split <;> rfl

theorem counted_countAccess {core job : Nat} {area : Area} {line : Nat} : Counted s (countAccess s core job area line) := by
  unfold countAccess
  extract_lets fresh
  split
  · exact counted_touchCount
  · split
    · next die th u c _ _ =>
      have hu : Counted s u := counted_touchCount
      split
      · unfold Counted at *
        rw [hu]
        rfl
      · exact hu
    · rfl
  · rfl

theorem Counted.mem (h : Counted s t) : t.mem = s.mem := by rw [h]

theorem Counted.getView (h : Counted s t) {cluster line : Nat} : getView t cluster line = getView s cluster line := by
  rw [h]
  rfl

theorem Counted.homeMeta (h : Counted s t) {line : Nat} : homeMeta t line = homeMeta s line := by
  rw [h]
  rfl

end

end Sys2Proof.Machine
end

section
/-! PROOFS. A word is fetched from its four bytes in storage (07 R169, 14 R340). -/

namespace Sys2Proof.Machine

/-! ### Bytes of a granule -/

theorem readNat_lt (m : Store) (a : Nat) (n : Nat) : readNat m a n < 256 ^ n := by
  induction n generalizing a with
  | zero => exact Nat.one_pos
  | succ n ih =>
    have hb := (readByte m a).isLt
    have hr := ih (a + 1)
    rw [readNat, pow_succ]
    omega

theorem readNat_add (m : Store) (a : Nat) (k n : Nat) :
    readNat m a (k + n) = readNat m a k + 256 ^ k * readNat m (a + k) n := by
  induction k generalizing a with
  | zero => simp [readNat]
  | succ k ih =>
    rw [Nat.succ_add, readNat, ih, readNat, pow_succ, Nat.add_right_comm a 1 k, Nat.add_assoc a k 1]
    ring

/-- Some bytes of a run of bytes, by a shift of its value. -/
theorem readNat_shiftRight (m : Store) (a : Nat) (k n r : Nat) :
    BitVec.ofNat (8 * n) (readNat m a (k + (n + r)) >>> (8 * k)) = BitVec.ofNat (8 * n) (readNat m (a + k) n) := by
  have h256 : ∀ j, 2 ^ (8 * j) = 256 ^ j := fun j => pow_mul 2 8 j
  refine BitVec.eq_of_toNat_eq ?_
  rw [BitVec.toNat_ofNat, BitVec.toNat_ofNat, Nat.shiftRight_eq_div_pow, h256, h256, readNat_add,
    Nat.add_mul_div_left _ _ (Nat.pow_pos (by decide)), Nat.div_eq_of_lt (readNat_lt m a k), Nat.zero_add, readNat_add,
    Nat.add_mul_mod_self_left]

/-- A word's bits in its granule are the word's own four bytes. -/
theorem word_of_granule (m : Store) {loc : Nat} (h4 : loc % 4 = 0) :
    BitVec.ofNat 32 ((BitVec.ofNat 128 (readNat m (16 * (loc / 16)) 16)).toNat >>> (8 * (loc % 16)))
      = BitVec.ofNat 32 (readNat m loc 4) := by
  have hlt : readNat m (16 * (loc / 16)) 16 < 2 ^ 128 := readNat_lt m _ 16
  have h := readNat_shiftRight m (16 * (loc / 16)) (loc % 16) 4 (12 - loc % 16)
  rw [Nat.div_add_mod, show loc % 16 + (4 + (12 - loc % 16)) = 16 by omega] at h
  rw [BitVec.toNat_ofNat, Nat.mod_eq_of_lt hlt]
  exact h

theorem homeGran_of_loc (s : State) (loc : Nat) : homeGran s (loc / 64) (loc / 16 % 4) =
    { data := BitVec.ofNat 128 (readNat s.mem (16 * (loc / 16)) 16), syn := granSyn s.mem (loc / 16), dirty := none } := by
  have hd : 64 * (loc / 64) + 16 * (loc / 16 % 4) = 16 * (loc / 16) := by omega
  have hg : 4 * (loc / 64) + loc / 16 % 4 = loc / 16 := by omega
  rw [homeGran, hd, hg]

/-! ### A line that no cache holds -/

section
variable {s s₁ : State} {c job line : Nat} {area : Area}

theorem seeGran_engine_of_empty {g : Nat} (h : getView s (clusterOf c) line = .empty) :
    seeGran s (.engine c job) area line g = homeGran s line g := by
  have hn : CLine.empty.gr.toList.getD g none = none := by
    match g with
    | 0 | 1 | 2 | 3 | _ + 4 => rfl
  simp only [seeGran, h, hn, ite_self]

theorem seeMeta_engine_of_empty (h : getView s (clusterOf c) line = .empty) :
    seeMeta s (.engine c job) area line = homeMeta s line := by
  have hn : CLine.empty.gr.toList.all Option.isNone = true := by decide
  simp only [seeMeta, h, hn, Bool.not_true, Bool.and_false, Bool.false_eq_true, if_false]

theorem cachePut_mem {β : Type} {l : List (Nat × β)} {size key : Nat} {v : β} : (cachePut s l size key v).1.mem = s.mem := by
  unfold cachePut
  extract_lets mine
  split <;> rfl

/-- A granule that was fetched stands in its instruction cache. -/
def granuleFetched (s : State) (key : Nat) (d : BitVec 128) : State :=
  let (u, icache) := cachePut s s.icache 1024 key d
  { u with icache }

theorem granuleFetched_mem {key : Nat} {d : BitVec 128} : (granuleFetched s key d).mem = s.mem := cachePut_mem

/-- A word that no instruction cache holds comes from its granule at home, where that has a matching code. -/
theorem fetchWord_of_home {t : Thread} {va : Word} {sp : Span}
    (ht : trPage s (fetchCtx s t.slot t.seq) va 4 { x := true } = (s₁, .ok sp)) (hf : flipping s₁ [sp] = false)
    (hn : needFar s₁ t.slot [sp] = none) (hi : kvFind s₁.icache (fetchKey (coreOf t.slot) t.seq (sp.loc / 16)) = none)
    (hv : getView s₁ (clusterOf (coreOf t.slot)) (sp.loc / 64) = .empty) (hg : granSyn s₁.mem (sp.loc / 16) = 0)
    (hp : poisoned (homeMeta s₁ (sp.loc / 64)) = false) :
    ∃ u, u.mem = s₁.mem ∧ fetchWord s t va =
      (u, .ok (BitVec.ofNat 32 ((BitVec.ofNat 128 (readNat s₁.mem (16 * (sp.loc / 16)) 16)).toNat >>> (8 * (sp.loc % 16))))) := by
  have hc : Counted s₁ (countAccess s₁ (coreOf t.slot) (getSlot s₁ t.slot).job sp.area (sp.loc / 64)) := counted_countAccess
  have hview := hc.getView.trans hv
  refine ⟨granuleFetched (countAccess s₁ (coreOf t.slot) (getSlot s₁ t.slot).job sp.area (sp.loc / 64))
    (fetchKey (coreOf t.slot) t.seq (sp.loc / 16)) (BitVec.ofNat 128 (readNat s₁.mem (16 * (sp.loc / 16)) 16)),
    granuleFetched_mem.trans hc.mem, ?_⟩
  simp only [fetchWord, ht, hf, hn, hi, seeGran_engine_of_empty hview, seeMeta_engine_of_empty hview, homeGran_of_loc, hc.mem, hg,
    hc.homeMeta, hp, Bool.false_eq_true, if_false, bne_self_eq_false, Bool.or_self]
  rfl

end

/-- Settles O16: the translation and the count of the access leave storage, where the word's granule is read. -/
theorem fetchReadsStorage : Obligations.FetchReadsStorage := by
  intro s s1 t pc sp ht hf hn hi hv hg hp h4
  obtain ⟨u, hu, hw⟩ := fetchWord_of_home ht hf hn hi hv hg hp
  have hm : s1.mem = s.mem := by
    have h := (translated_trPage (s := s) (ctx := fetchCtx s t.slot t.seq) (va := pc) (len := 4) (n := { x := true })).mem
    rwa [ht] at h
  exact ⟨u, hw.trans (by rw [word_of_granule _ h4]), fun a => by rw [hu, hm]⟩

end Sys2Proof.Machine
end

section
/-! PROOFS. A step runs the word that its port's thread fetches (07 R169, 12 R300, R306). -/

namespace Sys2Proof.Machine

section
variable {s s₁ s₂ : State} {t : Thread} {va : Word} {w x : IWord} {i : Instr}

theorem fetchAt_short (hf : fetchWord s t va = (s₁, .ok w)) (hl : opcodeLong (opcodeOf w) = false) (hd : decode w 0 = .ok i) :
    fetchAt s t va = (s₁, .word i) := by
  simp only [fetchAt, hf, hl, hd, Bool.false_eq_true, if_false]

theorem fetchAt_long (hf : fetchWord s t va = (s₁, .ok w)) (hl : opcodeLong (opcodeOf w) = true)
    (hx : fetchWord s₁ t (va + 4) = (s₂, .ok x)) (hd : decode w x = .ok i) : fetchAt s t va = (s₂, .word i) := by
  simp only [fetchAt, hf, hl, hx, hd, if_true]

theorem wordStep_of_word (hr : ready s (portTurn s s.turn) = true) (hf : fetchTurn s = (s₁, .word i)) : wordStep s = exec i s₁ := by
  unfold fetchTurn servedTurn at hf
  unfold wordStep
  simp only [hr, if_true, hf]

end

/-- Settles O15: the word that the step fetches, short or with its extension, is the one that it runs. -/
theorem stepRunsWord : Obligations.StepRunsWord := by
  intro s s1 s2 w x i t pc served ha hr hf
  refine ⟨fun hl hd => ?_, fun hl hx hd => ?_⟩
  · rw [step_of_agenda_nil ha, wordStep_of_word hr (fetchAt_short hf hl hd)]
  · rw [step_of_agenda_nil ha, wordStep_of_word hr (fetchAt_long hf hl hx hd)]

end Sys2Proof.Machine
end

section
/-! PROOFS. LOOP, SETLC and STAGE (07 R182, 14 R342-R344). -/

namespace Sys2Proof.Machine

/-- A word offset counts four bytes each (12 R304). -/
theorem wordOff_eq_ofInt {w : Nat} (o : BitVec w) : wordOff o = BitVec.ofInt 64 (4 * o.toInt) := by
  rw [wordOff, BitVec.signExtend, BitVec.shiftLeft_eq_mul_twoPow, mul_comm, BitVec.ofInt_mul]
  rfl

section
variable {s : State} {n : Nib} {off : BitVec 20}

/-- A LOOP that is taken: its target counts from its own PC. -/
theorem jumps_loop {q : SeqSt} (h : loopStep (getSeq s s.turn) = (q, true)) :
    jumps (.loop n off) n {} s (setSeq s s.turn q) (q.pc + BitVec.ofInt 64 (4 * off.toInt)) := by
  refine jumps_of_jump rfl ?_
  have hq : getSeq (setSeq s s.turn q) s.turn = q := getSeq_updSeq s s.turn fun _ => q
  simp only [h, if_true, pcOf, hq, wordOff_eq_ofInt]

theorem yields_loop {q : SeqSt} (h : loopStep (getSeq s s.turn) = (q, false)) :
    yields (.loop n off) n {} s (setSeq s s.turn q) := by
  refine yields_of_done rfl ?_
  simp only [h, Bool.false_eq_true, if_false]

end

section
variable {q : SeqSt}

/-- A sequencer after a LOOP that leaves these counters and moves this stage predicate in (R182). -/
def SeqSt.turned (q : SeqSt) (lc ec : Word) (n0 : BitVec 8) : SeqSt :=
  { q with lc, ec, stg := (q.stg <<< 1) ||| n0, rrb := q.rrb - 1, predOn := false }

theorem loopStep_of_lc_ne_zero (h : q.lc ≠ 0) : loopStep q = (q.turned (q.lc - 1) q.ec 1, true) := by
  simp only [loopStep, SeqSt.turned, h, false_and, if_false, bne_iff_ne.2 h, Bool.true_or]

theorem loopStep_of_ec_ne_zero (h : q.lc = 0) (he : q.ec ≠ 0) : loopStep q = (q.turned 0 (q.ec - 1) 0, true) := by
  simp only [loopStep, SeqSt.turned, if_pos h, if_pos (And.intro h he), bne_iff_ne.2 he, Bool.or_true]

theorem loopStep_of_zero (h : q.lc = 0) (he : q.ec = 0) : loopStep q = (q.turned 0 0 0, false) := by
  simp [loopStep, SeqSt.turned, h, he]

end

/-- Settles O6: LOOP by its two counters; SETLC and STAGE write their fields. -/
theorem loopWords : Obligations.LoopWords := by
  intro n a b o20 k s q to20 turned
  exact ⟨fun hl => jumps_loop (loopStep_of_lc_ne_zero hl), fun hl he => jumps_loop (loopStep_of_ec_ne_zero hl he),
    fun hl he => yields_loop (loopStep_of_zero hl he), yields_of_done rfl rfl, yields_of_done rfl rfl⟩

end Sys2Proof.Machine
end

section
/-! PROOFS. A command that joins its engine's queue (07 R184, R185, 17 R414). -/

namespace Sys2Proof.Machine

section
variable {s : State} {x : Slot} {e eng : Nat} {l : List Cmd}

/-- An engine of a slot is a copy context, the gather unit or the matrix engine (04 R105). -/
theorem engQueue_setQueue_same : engQueue (setQueue x eng l) eng = l := by
  unfold engQueue setQueue
  split
  · exact vget_vset_same
  · split <;> rfl

theorem engQueue_setQueue_of_ne (hn : eng < 6) (he : e < 6) (h : e ≠ eng) : engQueue (setQueue x eng l) e = engQueue x e := by
  unfold engQueue setQueue
  by_cases h4 : eng < 4
  · rw [if_pos h4]
    split
    · next h4' =>
      refine vget_vset_of_ne fun hb => h ?_
      simpa [Nat.mod_eq_of_lt h4, Nat.mod_eq_of_lt h4'] using congrArg BitVec.toNat hb
    · rfl
  · rw [if_neg h4]
    by_cases h5 : eng = 4
    · subst h5
      rw [if_pos rfl, if_neg h, if_neg h]
    · rw [if_neg h5]
      dsimp only
      split
      · rfl
      · rw [if_pos (by omega), if_pos (by omega)]

theorem getSlot_kick {slot k : Nat} : getSlot (kick s slot eng) k = getSlot s k :=
  getSlot_of_slots (by rw [homeWrite_kick.1])

theorem nextUid_kick {slot : Nat} : (kick s slot eng).nextUid = s.nextUid := by rw [homeWrite_kick.1]

/-- A new command has a number of its own and nothing done, and its engine looks at it (R184, R185). -/
theorem addCmd_eq {slot : Nat} {q : Seq} {body : CmdBody} {after reject : Option Nat} :
    ∃ c, addCmd s slot eng q body after reject
        = (kick (updSlot { s with nextUid := s.nextUid + 1 } slot fun x => setQueue x eng (engQueue x eng ++ [c])) slot eng, s.nextUid)
      ∧ c.uid = s.nextUid ∧ c.body = body ∧ c.progress = 0 ∧ c.started = false ∧ c.by_ = q
      ∧ c.status = reject.map (fun _ => 2) ∧ c.fcode = reject.getD 0 :=
  ⟨_, rfl, rfl, rfl, rfl, rfl, rfl, rfl, rfl⟩

end

/-- Settles O45: the command is appended to one queue of one slot, and the engine's look at it leaves slots and storage. -/
theorem queuedCommand : Obligations.QueuedCommand := by
  intro s slot eng q body after reject hn
  obtain ⟨c, hc, hfields⟩ := addCmd_eq (s := s) (slot := slot) (eng := eng) (q := q) (body := body) (after := after) (reject := reject)
  rw [hc]
  refine ⟨rfl, nextUid_kick, ⟨c, ?_, hfields⟩, fun e he hne => ?_, fun k hk => ?_, fun a => homeWrite_kick.2 a (Nat.zero_le _)⟩
  · rw [getSlot_kick, getSlot_updSlot, if_pos rfl, engQueue_setQueue_same]
    rfl
  · rw [getSlot_kick, getSlot_updSlot, if_pos rfl, engQueue_setQueue_of_ne hn he hne]
    rfl
  · rw [getSlot_kick, getSlot_updSlot, if_neg hk]
    rfl

end Sys2Proof.Machine
end

section
/-! PROOFS. What a read of storage may change on its way: lines that make room, what the posting of an event writes, and counts (08 R200-R203,
11 R285, 18 R447). -/

namespace Sys2Proof.Machine

section
variable {s t u : State}

/-- What a read of storage by a core or a unit may change: storage and the lines of the clusters, what the writing of a line takes with it, the
caches of translations, counts, flits sent, slots and jobs. -/
def Accessed (s t : State) : Prop :=
  t = { s with mem := t.mem, ranges := t.ranges, tlb := t.tlb, ptrs := t.ptrs, drops := t.drops, parked := t.parked, agenda := t.agenda,
               clines := t.clines, ccache := t.ccache, counts := t.counts, nextUid := t.nextUid, tx := t.tx, outWrs := t.outWrs,
               draws := t.draws, slots := t.slots, jobs := t.jobs }

theorem Accessed.refl : Accessed s s := rfl

theorem Accessed.trans (h₁ : Accessed s t) (h₂ : Accessed t u) : Accessed s u := by
  unfold Accessed at *
  rw [h₂, h₁]

theorem Accessed.turn (h : Accessed s t) : t.turn = s.turn := by rw [h]

theorem SentHome.accessed (h : SentHome s t) : Accessed s t := by
  unfold Accessed
  rw [h]

theorem HomeWrite.accessed {b : Nat} (h : HomeWrite b s t) : Accessed s t := h.sentHome.accessed

theorem Counted.accessed (h : Counted s t) : Accessed s t := by
  unfold Accessed
  rw [h]

theorem Translated.accessed (h : Translated s t) : Accessed s t := by
  unfold Accessed
  rw [h]

theorem accessed_foldl {α : Type} {f : State → α → State} (hf : ∀ s a, Accessed s (f s a)) {l : List α} : Accessed s (l.foldl f s) :=
  List.foldlRecOn (motive := Accessed s) _ _ .refl fun _ h _ _ => h.trans (hf _ _)

/-! ### Lines in the clusters -/

theorem accessed_leaveL1 {core line : Nat} : Accessed s (leaveL1 s core line) := by
  unfold leaveL1
  extract_lets cl me s₁ c l1 pass
  have h₁ : Accessed s s₁ := by
    dsimp only [s₁]
    split
    · exact .refl
    · exact sentHome_writeBack.accessed
  exact h₁.trans rfl

theorem accessed_leaveCluster {cl line : Nat} : Accessed s (leaveCluster s cl line) := sentHome_writeBack.accessed.trans rfl

theorem accessed_anyOf {α : Type} {l : List α} : Accessed s (anyOf s l).1 := rfl

theorem accessed_roomL1 {core line : Nat} : Accessed s (roomL1 s core line) := by
  unfold roomL1
  extract_lets bit mine
  split
  · exact .refl
  · have hd := accessed_anyOf (s := s) (l := mine)
    split
    · next h =>
      rw [h] at hd
      exact hd.trans accessed_leaveL1
    · next h =>
      rw [h] at hd
      exact hd

theorem accessed_roomCluster {cl line : Nat} : Accessed s (roomCluster s cl line) := by
  unfold roomCluster
  extract_lets mine
  split
  · exact .refl
  · have hd := accessed_anyOf (s := s) (l := mine)
    split
    · next h =>
      rw [h] at hd
      exact hd.trans accessed_leaveCluster
    · next h =>
      rw [h] at hd
      exact hd

theorem accessed_fillLine {core line : Nat} {area : Area} : Accessed s (fillLine s core line area) := by
  unfold fillLine
  extract_lets cl me s₁ c fill fresh
  have h₁ : Accessed s s₁ := by
    dsimp only [s₁]
    refine .trans ?_ accessed_roomL1
    split
    · exact accessed_roomCluster
    · exact sentHome_writeBack.accessed
  exact h₁.trans rfl

theorem accessed_touchLine {w : Who} {area : Area} {line : Nat} : Accessed s (touchLine s w area line) := by
  have hc : ∀ core job, Accessed s (countAccess s core job area line) := fun _ _ => counted_countAccess.accessed
  cases w with
  | home => exact .refl
  | engine c job => exact hc c job
  | core c job =>
    unfold touchLine
    dsimp only
    split
    · exact (hc c job).trans accessed_fillLine
    · exact hc c job

theorem accessed_getGrans {w : Who} {area : Area} {stop n m : Nat} {l : List GRead} : Accessed s (getGrans w area stop n m s l).1 := by
  fun_induction getGrans w area stop n m s l with
  | case1 => exact .refl
  | case2 => exact .refl
  | case3 n m s l h s₁ x ih =>
    refine .trans ?_ ih
    dsimp only [s₁]
    split
    · exact accessed_touchLine
    · exact .refl

/-! ### The posting of an event -/

theorem accessed_postWr {job line mark : Nat} {l : List (Nat × BitVec 128 × BitVec 16)} {md : Byte} :
    Accessed s (postWr s job line mark l md) := by
  unfold postWr sendFlit
  split
  · rfl
  · dsimp only
    split <;> rfl

theorem accessed_putHomeGran {line g : Nat} {d : BitVec 128} {y : BitVec 16} : Accessed s (putHomeGran s line g d y) := by
  unfold putHomeGran
  extract_lets y s₁
  split <;> rfl

theorem accessed_putLine {area : Area} {et : Bool} {line m : Nat} {p : LinePut} (h : putLine s .home area et line p = some (t, m)) :
    Accessed s t := by
  unfold putLine at h
  extract_lets s₁ md step at h
  split at h
  · cases h
  next l subs e =>
  have hg : Accessed s (l.foldl (fun s e => putHomeGran s line e.1 e.2.1 e.2.2) s) := accessed_foldl fun _ _ => accessed_putHomeGran
  simp only [] at h
  split at h <;> obtain ⟨rfl, -⟩ := Prod.mk.inj (Option.some.inj h)
  · exact accessed_postWr
  · refine hg.trans (.trans ?_ (homeWrite_lineWritten (b := 0)).accessed)
    split <;> rfl

theorem accessed_putLines {area : Area} {et : Bool} {r : RunPut} {n line k m : Nat}
    (h : putLines .home area et r n line s k = some (t, m)) : Accessed s t := by
  induction n generalizing line s k with
  | zero => cases h; rfl
  | succ n ih =>
    unfold putLines at h
    split at h
    · cases h; rfl
    split at h
    · cases h
    · next e => exact (accessed_putLine e).trans (ih h)

theorem accessed_putRun {area : Area} {et : Bool} {r : RunPut} {m : Nat} (h : putRun s .home area et r = some (t, m)) : Accessed s t :=
  have hc : Accessed s (clearRanges s r.loc r.n) := rfl
  hc.trans (accessed_putLines (h :))

theorem accessed_putSpans {l : List Span} {v : Nat} (h : putSpans s .home l v = some t) : Accessed s t := by
  induction l generalizing s v with
  | nil => cases h; rfl
  | cons sp l ih =>
    unfold putSpans at h
    split at h
    · next e => exact (accessed_putRun e).trans (ih h)
    · cases h

theorem accessed_translate {ctx : TCtx} {va : Word} {len : Nat} {n : Need} : Accessed s (translate s ctx va len n).1 := by
  have hp : ∀ {s va k}, Accessed s (trPage s ctx va k n).1 := translated_trPage.accessed
  unfold translate
  fun_induction trRun ctx n (len / 4096 + 2) s va len <;> grind only [Accessed.trans, Accessed.refl]

theorem accessed_unitWrite {ctx : TCtx} {va : Word} {n v : Nat} : Accessed s (unitWrite s ctx va n v).1 := by
  have ht := accessed_translate (s := s) (ctx := ctx) (va := va) (len := n) (n := { w := true })
  unfold unitWrite
  split
  · next s₁ sps e =>
    rw [e] at ht
    split
    · next h => exact ht.trans (accessed_putSpans h)
    · exact ht
  · next s₁ r e =>
    rw [e] at ht
    exact ht

theorem accessed_countUnit {job n : Nat} : Accessed s (countUnit s job n) := by
  unfold countUnit
  split <;> rfl

theorem accessed_unitRead {ctx : TCtx} {va : Word} {n : Nat} : Accessed s (unitRead s ctx va n).1 := by
  have ht := accessed_translate (s := s) (ctx := ctx) (va := va) (len := n) (n := { r := true })
  unfold unitRead
  split
  · next s₁ sps e =>
    rw [e] at ht
    split
    · exact ht.trans accessed_countUnit
    · exact ht
  · next s₁ r e =>
    rw [e] at ht
    exact ht

theorem accessed_publishAll {ctx : TCtx} {q : QDesc} {setWr : State → Nat → State} {i : Nat} {l : List Event}
    (hw : ∀ s a, Accessed s (setWr s a)) : Accessed s (publishAll ctx q setWr s i l).1 := by
  induction l generalizing s i with
  | nil => exact .refl
  | cons e l ih =>
    unfold publishAll
    split
    · exact (accessed_unitWrite.trans accessed_unitWrite).trans ((hw _ _).trans ih)
    · exact .refl

theorem accessed_postTo {ctx : TCtx} {q : QDesc} {setWr : State → Nat → State} {lost : Nat} {e : Event}
    (hw : ∀ s a, Accessed s (setWr s a)) : Accessed s (postTo s ctx q setWr lost e).1 := by
  unfold postTo
  extract_lets l
  split
  next s₁ n h =>
  have hp : Accessed s s₁ := by
    have := accessed_publishAll (s := s) (ctx := ctx) (q := q) (i := q.wridx) (l := l) hw
    rwa [h] at this
  split
  · exact hp
  · split <;> exact hp

theorem accessed_postJob {job : Nat} {e : Event} : Accessed s (postJob s job e) := by
  unfold postJob
  extract_lets j ctx
  have hr := accessed_unitRead (s := s) (ctx := ctx) (va := j.evq) (n := 64)
  split
  · next s₁ v h =>
    rw [h] at hr
    have hp := accessed_postTo (s := s₁) (ctx := ctx) (q := qdescOf v) (setWr := fun s i => (unitWrite s ctx (j.evq + 16) 8 i).1)
      (lost := j.dropped) (e := e) fun _ _ => accessed_unitWrite
    exact (hr.trans hp).trans rfl
  · next s₁ h =>
    rw [h] at hr
    exact hr.trans rfl

/-! ### Reads of a moving unit (11 R280, R285) -/

theorem accessed_countSubst {slot n : Nat} : Accessed s (countSubst s slot n) := by
  unfold countSubst
  split
  · exact .refl
  split
  · rfl
  extract_lets old s₁ x
  have h₁ : Accessed s s₁ := rfl
  split
  · exact h₁
  · exact h₁.trans accessed_postJob

theorem accessed_moveSpans {src slot n k : Nat} {w : Who} {l : List Span} (h : moveSpans src slot w s l = .ok (t, n, k)) : Accessed s t := by
  induction l generalizing s t n k with
  | nil => cases h; rfl
  | cons sp l ih =>
    have hg : Accessed s (getRun s w sp.area sp.loc sp.len).1 := accessed_getGrans
    unfold moveSpans at h
    extract_lets fin at h
    have hfin : ∀ {u gs f}, Accessed s u → fin u gs f = .ok (t, n, k) → Accessed s t := fun {u gs f} hu h => by
      dsimp only [fin] at h
      split at h
      · cases h
      · next e =>
        cases h
        exact hu.trans (ih e)
    generalize getRun s w sp.area sp.loc sp.len = r at hg h
    obtain ⟨s₁, gs⟩ := r
    dsimp only at hg h
    split at h
    · split at h
      · cases h
      · exact hfin (hg.trans accessed_countSubst) h
    · exact hfin hg h

theorem accessed_takeStore {slot off : Nat} {l : List Span} {m m' : Store} (h : takeStore slot s l off m = .ok (t, m')) : Accessed s t := by
  induction l generalizing s off m with
  | nil => cases h; rfl
  | cons sp l ih =>
    unfold takeStore at h
    split at h
    · cases h
    · next e => exact (accessed_moveSpans e).trans (ih h)

end

end Sys2Proof.Machine
end

section
/-! PROOFS. SNAP and SNAPLD (07 R192, R193, R198, 18 R446, R447). -/

namespace Sys2Proof.Machine

section
variable {s s1 s2 s3 s4 s5 s6 : State} {f : Opnd}

/-! ### SNAP -/

theorem snapEff_illegal (h : (turnSlot s).mode ≠ .handler ∨ (turnSlot s).task = none) : snapEff f s s.turn = .trap s { cause := 1 } :=
  if_pos (h.imp_right Option.isNone_iff_eq_none.2)

/-- The slot's words and relocated commands complete before SNAP looks at what is left (R192, 18 R446). -/
def stoppedForSnap (s : State) (slot : Nat) : State := runPulled 100000 (stopWords s slot) slot

/-- A slot that SNAP has saved: its engines hold nothing (18 R446). -/
def snappedSlot (x : Slot) : Slot := { x with snapped := true, mq := [], gq := [], ctxs := .replicate _ [] }

/-- The device's record of a slot whose image and allocation are written: what is dirty at their pages' width goes home, the task joins the
saved ones in place of an earlier snapshot of it, and the slot's subscriptions go with it (18 R446; log 46). -/
def snapKept (s : State) (slot : Nat) (y : Slot) (sps aps : List Span) : State × Saved :=
  let (u, k) := keepSaved (settleRange (settleRange s slot sps) slot aps) slot y none 3
  ({ u with
      snaps := u.snaps.filter (fun o => o.slot.task.map (·.taskid) != y.task.map (·.taskid)) ++ [k]
      subs := u.subs.filter fun b => b.slot != slot }, k)

theorem mem_snapKept {slot : Nat} {y : Slot} {sps aps : List Span} :
    (snapKept s slot y sps aps).2 ∈ (snapKept s slot y sps aps).1.snaps :=
  List.mem_append_right _ (List.mem_singleton_self _)

theorem snapKept_saved {slot : Nat} {y : Slot} {sps aps : List Span} :
    (snapKept s slot y sps aps).2.slot = y ∧ (snapKept s slot y sps aps).2.cause = 3 ∧ (snapKept s slot y sps aps).2.place = slot :=
  ⟨rfl, rfl, rfl⟩

section
variable (hm : (turnSlot s).mode = .handler) (ht : (turnSlot s).task ≠ none)
include hm ht

theorem snapEff_handler : ¬ ((getSlot s s.turn.slot).mode ≠ .handler ∨ (getSlot s s.turn.slot).task.isNone = true) :=
  fun h => h.elim (· hm) fun h => ht (Option.isNone_iff_eq_none.1 h)

theorem snapEff_misaligned (hv : (srcVal s s.turn f).toNat % 4096 ≠ 0) :
    snapEff f s s.turn = .trap s { cause := 5, addr := srcVal s s.turn f } :=
  (if_neg (snapEff_handler hm ht)).trans (if_neg hv)

/-- A SNAP whose image and allocation are written keeps the slot's task among the saved ones. -/
theorem snapEff_saves {sps aps : List Span} {z : Slot} (hv : (srcVal s s.turn f).toNat % 4096 = 0)
    (hi : reaches s (srcVal s s.turn f) (imageSize (turnSlot s).region.isSome) { w := true } s1 sps)
    (ha : reaches s1 (srcVal s s.turn f + 0x40000) (allocSize (turnSlot s)) { w := true } s2 aps) (hp : pending s2 s.turn = false)
    (hz : getSlot (stoppedForSnap s2 s.turn.slot) s.turn.slot = z) (hl : pulledLeft z = false)
    (hu : (undone z).any (fun e => e.2.work != .none) = false)
    (h3 : putStore s.turn.slot (snapImage (stoppedForSnap s2 s.turn.slot) s.turn.slot (savedForm z) 3)
      (stoppedForSnap s2 s.turn.slot) (pageSpans sps) 0 = .ok s3)
    (h4 : putStore s.turn.slot (extract s3.mem (allocLoc z s.turn.slot 0) (allocSize z)) s3 (pageSpans aps) 0 = .ok s4) :
    snapEff f s s.turn =
      .done (kickCore (updSlot (snapKept s4 s.turn.slot (savedForm z) sps aps).1 s.turn.slot snappedSlot) s.turn.slot) := by
  subst hz
  refine (if_neg (snapEff_handler hm ht)).trans ((aligned_of_mod hv).trans ((access_of_reaches rfl hi).trans
    ((access_of_reaches (turn_of_reaches hi) ha).trans ?_)))
  unfold stoppedForSnap at *
  simp only [hp, hl, hu, h3, h4, Bool.or_self, Bool.false_eq_true, if_false]
  rfl

end

/-! ### SNAPLD -/

theorem turn_of_takeStore {slot off : Nat} {l : List Span} {m m' : Store} (h : takeStore slot s l off m = .ok (s1, m')) :
    s1.turn = s.turn :=
  (accessed_takeStore h).turn

section
variable {hps sps aps : List Span} {head img alloc : Store} (hv : (srcVal s s.turn f).toNat % 4096 = 0)
    (hh : reaches s (srcVal s s.turn f) 0x1000 { r := true } s1 hps) (hp : pending s1 s.turn = false)
    (h2 : takeStore s.turn.slot s1 (pageSpans hps) 0 .empty = .ok (s2, head))
include hv hh hp h2

/-- An image of another layout is reported, with nothing else of it read (R447). -/
theorem snapldEff_layout (hl : readNat head 0 2 ≠ 1) : snapldEff f s s.turn = .done (putResult s2 s.turn .push 1) := by
  refine (aligned_of_mod hv).trans ((access_of_reaches rfl hh).trans ?_)
  simp only [hp, h2, Bool.false_eq_true, if_false]
  exact if_pos hl

variable (hl : readNat head 0 2 = 1)
    (hi : reaches s2 (srcVal s s.turn f) (imageSize (readNat head 2 2 % 2 == 1)) { r := true } s3 sps)
    (h4 : takeStore s.turn.slot s3 (pageSpans sps) 0 .empty = .ok (s4, img))
include hl hi h4

theorem snapldEff_refused (hst : snapldStatus s4 s.turn img ≠ 0) :
    snapldEff f s s.turn = .done (putResult s4 s.turn .push (BitVec.ofNat 64 (snapldStatus s4 s.turn img))) := by
  have he : s2.turn = s.turn := (turn_of_takeStore h2).trans (turn_of_reaches hh)
  refine (aligned_of_mod hv).trans ((access_of_reaches rfl hh).trans ?_)
  simp only [hp, h2, Bool.false_eq_true, if_false]
  refine (if_neg (not_not.2 hl)).trans ((access_of_reaches he hi).trans ?_)
  simp only [h4]
  exact if_pos hst

/-- The other slot of the core holds the task of an image and resumes (R198, R447; log 46). -/
def snapLoaded (s : State) (other : Nat) (img alloc : Store) : State :=
  let kept := keptFor s img
  let u := match kept with | some k => moveGang s k (dieOfCore (coreOf other)) | none => s
  let kept := keptFor u img
  let u := loadImage u other img kept
  let y := getSlot u other
  let u := dropRange { u with mem := blit u.mem alloc (allocLoc y other 0) (allocSize y) } (coreOf other) (readNat img 24 2) 5 [wholeRange]
  let u := match kept with | some k => rejoin u other k | none => u
  resumeMembers u other (readNat img 24 2) (y.task.bind (·.gang))

theorem snapldEff_loads (hst : snapldStatus s4 s.turn img = 0)
    (ha : reaches s4 (srcVal s s.turn f + 0x40000) (max 1 (readNat img 27 1) * 65536) { r := true } s5 aps)
    (h6 : takeStore s.turn.slot s5 (pageSpans aps) 0 .empty = .ok (s6, alloc)) :
    snapldEff f s s.turn = .done (putResult (snapLoaded s6 (otherSlot s.turn.slot) img alloc) s.turn .push 0) := by
  have he : s2.turn = s.turn := (turn_of_takeStore h2).trans (turn_of_reaches hh)
  have he' : s4.turn = s.turn := (turn_of_takeStore h4).trans ((turn_of_reaches hi).trans he)
  refine (aligned_of_mod hv).trans ((access_of_reaches rfl hh).trans ?_)
  simp only [hp, h2, Bool.false_eq_true, if_false]
  refine (if_neg (not_not.2 hl)).trans ((access_of_reaches he hi).trans ?_)
  simp only [h4]
  refine (if_neg (not_not.2 hst)).trans ((access_of_reaches he' ha).trans ?_)
  simp only [h6]
  rfl

end

/-! ### A snapped slot after its word -/

theorem homeWrite_kickPlace {place : Nat} : HomeWrite 0 s (kickPlace s place) :=
  homeWrite_foldl fun _ _ _ => homeWrite_foldl fun _ _ _ => by
    split
    · exact homeWrite_kick
    · exact .refl

theorem homeWrite_kickCore {slot : Nat} : HomeWrite 0 s (kickCore s slot) := homeWrite_foldl fun _ _ _ => homeWrite_kickPlace

theorem getSlot_kickCore {slot k : Nat} : getSlot (kickCore s slot) k = getSlot s k := getSlot_of_slots (by rw [homeWrite_kickCore.1])

theorem snaps_kickCore {slot : Nat} : (kickCore s slot).snaps = s.snaps := by rw [homeWrite_kickCore.1]

theorem Slot.movedOn.engines {q : Seq} {x y : Slot} (h : Slot.movedOn q x y) : y.snapped = x.snapped ∧ y.mq = x.mq ∧ y.gq = x.gq := by
  obtain ⟨h, -⟩ := h
  exact ⟨(congrArg Slot.snapped h :), (congrArg Slot.mq h :), (congrArg Slot.gq h :)⟩

theorem State.onlySlot.snaps {k : Nat} {u : State} (h : State.onlySlot k s u) : u.snaps = s.snaps :=
  (congrArg State.snaps h.1 :)

/-- The retirement of the SNAP itself leaves the slot saved and its engines empty, and every saved task. -/
theorem snap_completes {n : Nib} {u : State} {k : Saved} (hk : k ∈ u.snaps)
    (he : snapEff f s s.turn = .done (kickCore (updSlot u s.turn.slot snappedSlot) s.turn.slot)) :
    issues (.snap n f) n none (sources [f]) s = true → ∃ v, exec (.snap n f) s = .next v ∧ (getSlot v s.turn.slot).snapped = true
      ∧ (getSlot v s.turn.slot).mq = [] ∧ (getSlot v s.turn.slot).gq = [] ∧ k ∈ v.snaps := by
  intro hi
  have hy : yields (.snap n f) n (sources [f]) s (kickCore (updSlot u s.turn.slot snappedSlot) s.turn.slot) := yields_of_done rfl he
  have hz : getSlot (kickCore (updSlot u s.turn.slot snappedSlot) s.turn.slot) s.turn.slot = snappedSlot (getSlot u s.turn.slot) := by
    rw [getSlot_kickCore, getSlot_updSlot, if_pos rfl]
  obtain ⟨hs, hx⟩ := retireWord_frame (kickCore (updSlot u s.turn.slot snappedSlot) s.turn.slot) s.turn (wordsOf (.snap n f))
    (waitsOf s.turn.seq n none) (sigsOf s.turn.seq n none) none
  obtain ⟨hsnapped, hmq, hgq⟩ := hx.engines
  rw [hz] at hsnapped hmq hgq
  exact ⟨_, hy hi, hsnapped, hmq, hgq, (hs.snaps.trans snaps_kickCore) ▸ hk⟩

end

/-- Settles O49: SNAP by where it stands, its address and what it writes; SNAPLD by the image's checks. -/
theorem snapshotWords : Obligations.SnapshotWords := by
  intro n f s s1 s2 s3 s4 s5 s6 sps aps hps head img alloc t x va reads
  refine ⟨fun h => entersTrap_of_trap rfl (snapEff_illegal h), fun hm ht hv => entersTrap_of_trap rfl (snapEff_misaligned hm ht hv),
    fun hm ht hv hi ha hp => ?_, fun hv hh hp h2 => ⟨fun hl => ?_, fun hl hi h4 => ⟨fun hst => ?_, fun hst ha h6 => ?_⟩⟩⟩
  · intro w z hl hu y h3 h4 hissue
    obtain ⟨v, hv, hsnapped, hmq, hgq, hk⟩ :=
      snap_completes mem_snapKept (snapEff_saves hm ht hv hi ha hp rfl hl hu h3 h4) hissue
    exact ⟨v, hv, hsnapped, hmq, hgq, _, hk, snapKept_saved⟩
  · exact yields_of_done rfl (snapldEff_layout hv hh hp h2 hl)
  · exact yields_of_done rfl (snapldEff_refused hv hh hp h2 hl hi h4 hst)
  · exact yields_of_done rfl (snapldEff_loads hv hh hp h2 hl hi h4 hst ha h6)

end Sys2Proof.Machine
end

section
/-! PROOFS. What a core reads and writes of storage that no cache holds (08 R200, 11 R280, R281, 00 R4). -/

namespace Sys2Proof.Machine

section
variable {s t : State} {c job line : Nat} {area : Area}

/-- The granules that hold some of the n bytes at a location match their codes, in lines that are not poisoned. -/
def GoodGrans (s : State) (loc n : Nat) : Prop :=
  ∀ g, loc / 16 ≤ g → 16 * g < loc + n → granSyn s.mem g = 0 ∧ poisoned (homeMeta s (g / 4)) = false

/-! ### An access that no cache serves -/

section
variable (ha : area.cached = false)
include ha

theorem touchLine_of_uncached : touchLine s (.core c job) area line = s := by
  have hc : countAccess s c job area line = s := by
    cases area with
    | hbm | host => cases ha
    | _ => rfl
  rw [touchLine, hc, ha]
  rfl

theorem seeGran_of_uncached {g : Nat} : seeGran s (.core c job) area line g = homeGran s line g := by
  simp only [seeGran, ha, Bool.false_eq_true, if_false]

theorem seeMeta_of_uncached : seeMeta s (.core c job) area line = homeMeta s line := by
  simp only [seeMeta, ha, Bool.false_and, Bool.false_eq_true, if_false]

end

/-! ### A run that is read -/

/-- A granule as it is read at its home. -/
def homeGRead (s : State) (g : Nat) : GRead :=
  ⟨g, BitVec.ofNat 128 (readNat s.mem (16 * g) 16), granSyn s.mem g, poisoned (homeMeta s (g / 4))⟩

theorem homeGran_of_gran {g : Nat} : homeGran s (g / 4) (g % 4) =
    { data := BitVec.ofNat 128 (readNat s.mem (16 * g) 16), syn := granSyn s.mem g, dirty := none } := by
  rw [homeGran, show 64 * (g / 4) + 16 * (g % 4) = 16 * g by omega, Nat.div_add_mod]

theorem homeGran_syn {g : Nat} : (homeGran s line g).syn = granSyn s.mem (4 * line + g) := rfl

/-- The granules below `stop` are read one by one, and nothing changes. -/
theorem getGrans_of_uncached (ha : area.cached = false) {stop n g : Nat} {acc : List GRead} (hs : stop ≤ 16 * (g + n)) :
    getGrans (.core c job) area stop n g s acc = (s, acc ++ (List.range' g ((stop + 15) / 16 - g)).map (homeGRead s)) := by
  induction n generalizing g acc with
  | zero => simp [getGrans, show (stop + 15) / 16 - g = 0 by omega]
  | succ n ih =>
    unfold getGrans
    split
    · next h => simp [show (stop + 15) / 16 - g = 0 by omega]
    · next h =>
      simp only [touchLine_of_uncached ha, seeGran_of_uncached ha, seeMeta_of_uncached ha, ite_self, homeGran_of_gran]
      rw [ih (by omega), show (stop + 15) / 16 - g = (stop + 15) / 16 - (g + 1) + 1 by omega, List.range'_succ,
        List.map_cons, List.append_assoc]
      rfl

/-- Granules that follow one another hold the bytes from the first on. -/
theorem foldr_homeGRead {g k : Nat} :
    ((List.range' g k).map (homeGRead s)).foldr (fun x acc => x.data.toNat + 2 ^ 128 * acc) 0 = readNat s.mem (16 * g) (16 * k) := by
  induction k generalizing g with
  | zero => rfl
  | succ k ih =>
    have hlt : readNat s.mem (16 * g) 16 < 2 ^ 128 := readNat_lt ..
    rw [List.range'_succ, List.map_cons, List.foldr_cons, ih, show 16 * (k + 1) = 16 + 16 * k by omega, readNat_add,
      homeGRead, BitVec.toNat_ofNat, Nat.mod_eq_of_lt hlt]
    rfl

/-- The value of the granules that hold n bytes at a location is the bytes' own. -/
theorem runValue_homeGRead {loc n k : Nat} (hk : loc % 16 + n ≤ 16 * k) :
    runValue ((List.range' (loc / 16) k).map (homeGRead s)) loc n = readNat s.mem loc n := by
  have h := readNat_shiftRight s.mem (16 * (loc / 16)) (loc % 16) n (16 * k - (loc % 16 + n))
  rw [← Nat.add_assoc, Nat.add_sub_cancel' hk, Nat.div_add_mod] at h
  have hlt : readNat s.mem loc n < 2 ^ (8 * n) := (readNat_lt s.mem loc n).trans_eq (pow_mul 2 8 n).symm
  have hv := congrArg BitVec.toNat h
  rw [BitVec.toNat_ofNat, BitVec.toNat_ofNat, Nat.mod_eq_of_lt hlt] at hv
  rw [runValue, foldr_homeGRead, hv]

theorem consume_of_good {gs : List GRead} {et : Bool} (h : ∀ g ∈ gs, g.bad = false) : consume gs et = .ok (gs, 0) := by
  have hb : gs.filter GRead.bad = [] := List.filter_eq_nil_iff.2 fun g hg => ne_true_of_eq_false (h g hg)
  simp only [consume, hb, List.isEmpty_nil, if_true]

theorem loadSpans_of_uncached {src slot : Nat} {sp : Span} (ha : sp.area.cached = false) (hg : GoodGrans s sp.loc sp.len) :
    loadSpans src slot (.core c job) s [sp] = .ok (s, readNat s.mem sp.loc sp.len) := by
  have hr : getRun s (.core c job) sp.area sp.loc sp.len = (s, (List.range' (sp.loc / 16)
      ((sp.loc + sp.len + 15) / 16 - sp.loc / 16)).map (homeGRead s)) := by
    rw [getRun, getGrans_of_uncached ha (by omega), List.nil_append]
  have hc : ∀ x ∈ (List.range' (sp.loc / 16) ((sp.loc + sp.len + 15) / 16 - sp.loc / 16)).map (homeGRead s), x.bad = false := by
    intro x hx
    obtain ⟨g, hm, rfl⟩ := List.mem_map.1 hx
    rw [List.mem_range'_1] at hm
    obtain ⟨hsyn, hmeta⟩ := hg g hm.1 (by omega)
    simp [GRead.bad, homeGRead, hsyn, hmeta]
  simp only [loadSpans, hr, consume_of_good hc, countSubst, if_true]
  rw [runValue_homeGRead (by omega), Nat.mul_zero, Nat.add_zero]

/-! ### The part of a run in one line -/

/-- Bit i of byte k of a number. -/
theorem getElem_ofNat_div_pow {v k i : Nat} (hi : i < 8) : (BitVec.ofNat 8 (v / 256 ^ k))[i] = v.testBit (8 * k + i) := by
  rw [show 256 ^ k = 2 ^ (8 * k) from (pow_mul 2 8 k).symm, BitVec.getElem_eq_testBit_toNat, BitVec.toNat_ofNat,
    Nat.testBit_mod_two_pow, decide_eq_true hi, Bool.true_and, Nat.testBit_div_two_pow, Nat.add_comm]

/-- Bit q of a line's part of a run is the run's own bit, and clear outside the run. -/
theorem getLsbD_linePart {loc n v q : Nat} (hq : q < 512) :
    (linePart loc n v line).getLsbD q
      = (decide (8 * loc ≤ 512 * line + q) && decide (512 * line + q < 8 * (loc + n)) && v.testBit (512 * line + q - 8 * loc)) := by
  rw [linePart, BitVec.getLsbD_ofNat, decide_eq_true hq, Bool.true_and]
  split
  · next h =>
    rw [Nat.testBit_shiftLeft, Nat.testBit_mod_two_pow, show q - 8 * (loc - 64 * line) = 512 * line + q - 8 * loc by omega,
      ← Bool.and_assoc]
    congr 1
    rw [← Bool.decide_and, ← Bool.decide_and, decide_eq_decide]
    omega
  · next h =>
    rw [Nat.testBit_shiftRight, Nat.testBit_mod_two_pow, show 8 * (64 * line - loc) + q = 512 * line + q - 8 * loc by omega,
      decide_eq_true (show 8 * loc ≤ 512 * line + q by omega), Bool.true_and]
    congr 1
    rw [decide_eq_decide]
    omega

/-- Byte k of a line's part of a run is the run's own byte, and zero outside the run. -/
theorem extractLsb'_linePart {loc n v k : Nat} (hk : k < 64) :
    (linePart loc n v line).extractLsb' (8 * k) 8
      = if loc ≤ 64 * line + k ∧ 64 * line + k < loc + n then BitVec.ofNat 8 (v / 256 ^ (64 * line + k - loc)) else 0 := by
  ext i hi
  rw [BitVec.getElem_extractLsb', getLsbD_linePart (by omega)]
  split
  · next h =>
    rw [getElem_ofNat_div_pow, decide_eq_true (by omega), decide_eq_true (by omega), Bool.true_and, Bool.true_and]
    congr 1
    omega
  · next h =>
    rw [← Bool.decide_and, decide_eq_false (by omega), Bool.false_and]
    exact (BitVec.getElem_zero hi).symm

/-- Byte k of a line is wholly written or not at all. -/
theorem extractLsb'_part_mask {r : RunPut} {k : Nat} (hk : k < 64) :
    (r.part line).mask.extractLsb' (8 * k) 8
      = if r.loc ≤ 64 * line + k ∧ 64 * line + k < r.loc + r.n then BitVec.allOnes 8 else 0 := by
  refine (extractLsb'_linePart hk).trans ?_
  split
  · next h =>
    ext i hi
    rw [getElem_ofNat_div_pow, Nat.testBit_two_pow_sub_one, decide_eq_true (by omega), BitVec.getElem_allOnes]
  · rfl

/-- A granule that a run writes to holds some of its bytes. -/
theorem granBits_part_mask_ne_zero {r : RunPut} {g : Nat} (hg : g < 4) (h : granBits (r.part line).mask g ≠ 0) :
    r.loc / 16 ≤ 4 * line + g ∧ 16 * (4 * line + g) < r.loc + r.n := by
  by_contra hn
  refine h (BitVec.eq_of_getElem_eq fun i hi => ?_)
  rw [granBits, BitVec.getElem_extractLsb', RunPut.part, getLsbD_linePart (by omega), ← Bool.decide_and,
    decide_eq_false (by omega), Bool.false_and]
  exact (BitVec.getElem_zero hi).symm

/-! ### A line that is written -/

/-- All bits put over some leave the new ones. -/
theorem put_all_bits {w : Nat} {x d : BitVec w} : (x &&& ~~~BitVec.allOnes w) ||| (d &&& BitVec.allOnes w) = d := by
  rw [BitVec.not_allOnes, BitVec.and_zero, BitVec.zero_or, BitVec.and_allOnes]

/-- No bits put over some leave the old ones. -/
theorem put_no_bits {w : Nat} {x d : BitVec w} : (x &&& ~~~0) ||| (d &&& 0) = x :=
  show (x &&& ~~~0#w) ||| (d &&& 0#w) = x by rw [BitVec.not_zero, BitVec.and_allOnes, BitVec.and_zero, BitVec.or_zero]

/-- Granule g of a line with the bits of a write put over it. -/
def granMerged (s : State) (line : Nat) (p : LinePut) (g : Nat) : BitVec 128 :=
  ((homeGran s line g).data &&& ~~~granBits p.mask g) ||| (granBits p.data g &&& granBits p.mask g)

/-- The granules of a line that a write reaches. -/
def gransPut (p : LinePut) : List Nat := [0, 1, 2, 3].filter fun g => decide (granBits p.mask g ≠ 0)

/-- The line after a write that merged over good granules: its granules, then its metadata. -/
def lineMerged (s : State) (line : Nat) (p : LinePut) : State :=
  let md := homeMeta s line
  let u := (gransPut p).foldl (fun u g => putHomeGran u line g (granMerged s line p g) 0) s
  lineWritten (if metaAfter md p = md then u else putHomeMeta u line (metaAfter md p)) line

theorem mergeGran_of_good {md : Byte} {et : Bool} {p : LinePut} {g : Nat} (hs : p.syns = none)
    (hg : (homeGran s line g).syn = 0) (hm : poisoned md = false) :
    mergeGran (homeGran s line g) md et p g = some (granMerged s line p g, 0, 0) := by
  have hb : ((homeGran s line g).syn != 0 || poisoned md) = false := by rw [hg, hm]; rfl
  unfold mergeGran granMerged
  extract_lets m d
  split
  · next h => rw [show granBits p.mask g = BitVec.allOnes 128 from h, put_all_bits, hs]
  · rw [hb]
    rfl

theorem putLine_of_good {p : LinePut} {et : Bool} (ha : area.cached = false) (hs : p.syns = none)
    (hg : ∀ g, g < 4 → granBits p.mask g ≠ 0 → granSyn s.mem (4 * line + g) = 0 ∧ poisoned (homeMeta s line) = false) :
    putLine s (.core c job) area et line p = some (lineMerged s line p, 0) := by
  have hr : area ≠ .remote := by rintro rfl; cases ha
  unfold putLine
  extract_lets s₁ md step md'
  have hs₁ : s₁ = s := touchLine_of_uncached ha
  have hmd : md = homeMeta s line := (congrArg (seeMeta · _ _ _) hs₁).trans (seeMeta_of_uncached ha)
  have hstep : ∀ g l, g < 4 → step g (some (l.map fun g => (g, granMerged s line p g, 0), [])) =
      some ((l ++ [g].filter fun g => decide (granBits p.mask g ≠ 0)).map fun g => (g, granMerged s line p g, 0), []) := by
    intro g l h4
    dsimp only [step]
    split
    · next h => simp [h]
    · next h =>
      obtain ⟨hsyn, hmeta⟩ := hg g h4 h
      have hfilter : ([g].filter fun g => decide (granBits p.mask g ≠ 0)) = [g] :=
        List.filter_cons_of_pos (decide_eq_true (p := granBits p.mask g ≠ 0) h)
      rw [hs₁, hmd, seeGran_of_uncached ha, mergeGran_of_good hs (homeGran_syn.trans hsyn) hmeta, hfilter, List.map_append]
      rfl
  have hput : step 3 (step 2 (step 1 (step 0 (some ([], []))))) =
      some ((gransPut p).map fun g => (g, granMerged s line p g, 0), []) := by
    refine (congrArg (fun x => step 3 (step 2 (step 1 x))) (hstep 0 [] (by decide))).trans ?_
    rw [hstep 1 _ (by decide), hstep 2 _ (by decide), hstep 3 _ (by decide), List.nil_append, ← List.filter_append,
      ← List.filter_append, ← List.filter_append]
    rfl
  have hmd' : md' = metaAfter (homeMeta s line) p := congrArg (metaAfter · p) hmd
  simp only [hput, if_neg hr, ha, List.foldl_map, hs₁, hmd, hmd']
  rfl

/-! ### The bytes of a line that is written -/

theorem lineWritten_mem : (lineWritten s line).mem = s.mem := by
  unfold lineWritten
  simp only [foldl_enqueue]
  split <;> rfl

theorem lineMerged_mem_cells {p : LinePut} : (lineMerged s line p).mem.cells
    = ((gransPut p).foldl (fun u g => putHomeGran u line g (granMerged s line p g) 0) s).mem.cells := by
  rw [lineMerged, lineWritten_mem]
  split <;> rfl

/-- Granules written at their home, byte by byte. -/
theorem readByte_foldl_putHomeGran {gs : List Nat} {f : Nat → BitVec 128} {g i : Nat} (hi : i < 16) :
    readByte (gs.foldl (fun u g => putHomeGran u line g (f g) 0) s).mem (64 * line + 16 * g + i)
      = if g ∈ gs then (f g).extractLsb' (8 * i) 8 else readByte s.mem (64 * line + 16 * g + i) := by
  induction gs generalizing s with
  | nil => rfl
  | cons k gs ih =>
    rw [List.foldl_cons, ih]
    by_cases hk : g = k
    · subst hk
      rw [readByte_putHomeGran_same hi, ite_self, if_pos (List.mem_cons_self ..)]
    · rw [readByte_putHomeGran_other (by omega)]
      simp only [List.mem_cons, hk, false_or]

/-- A byte of a granule at its home. -/
theorem homeGran_data_byte {g i : Nat} (hi : i < 16) :
    (homeGran s line g).data.extractLsb' (8 * i) 8 = readByte s.mem (64 * line + 16 * g + i) := by
  have h := readNat_shiftRight s.mem (64 * line + 16 * g) i 1 (15 - i)
  rw [show i + (1 + (15 - i)) = 16 by omega] at h
  have hlt : readNat s.mem (64 * line + 16 * g) 16 < 2 ^ 128 := readNat_lt ..
  rw [homeGran, BitVec.extractLsb', BitVec.toNat_ofNat, Nat.mod_eq_of_lt hlt]
  refine Eq.trans h ?_
  simp [readNat]

theorem granMerged_byte {p : LinePut} {g i : Nat} (hi : i < 16) : (granMerged s line p g).extractLsb' (8 * i) 8
    = (readByte s.mem (64 * line + 16 * g + i) &&& ~~~p.mask.extractLsb' (8 * (16 * g + i)) 8)
      ||| (p.data.extractLsb' (8 * (16 * g + i)) 8 &&& p.mask.extractLsb' (8 * (16 * g + i)) 8) := by
  rw [← homeGran_data_byte hi, ← extractLsb'_granBits hi, ← extractLsb'_granBits hi]
  ext j hj
  simp [granMerged, show 8 * i + j < 128 by omega]

theorem mem_gransPut {p : LinePut} {g : Nat} (hg : g < 4) : g ∈ gransPut p ↔ granBits p.mask g ≠ 0 := by
  have h4 : g ∈ [0, 1, 2, 3] := by
    simp only [List.mem_cons, List.not_mem_nil, or_false]
    omega
  rw [gransPut, List.mem_filter, decide_eq_true_iff]
  exact and_iff_right h4

/-- A byte of the line has the bits of the write put over it. -/
theorem readByte_lineMerged {p : LinePut} {k : Nat} (hk : k < 64) : readByte (lineMerged s line p).mem (64 * line + k)
    = (readByte s.mem (64 * line + k) &&& ~~~p.mask.extractLsb' (8 * k) 8)
      ||| (p.data.extractLsb' (8 * k) 8 &&& p.mask.extractLsb' (8 * k) 8) := by
  obtain ⟨g, i, hg, hi, rfl⟩ : ∃ g i, g < 4 ∧ i < 16 ∧ k = 16 * g + i :=
    ⟨k / 16, k % 16, by omega, by omega, (Nat.div_add_mod k 16).symm⟩
  rw [readByte, lineMerged_mem_cells, ← readByte, ← Nat.add_assoc, readByte_foldl_putHomeGran hi, ← granMerged_byte hi]
  split
  · rfl
  · next h =>
    have h0 : granBits p.mask g = 0 := not_not.1 ((mem_gransPut hg).not.1 h)
    rw [granMerged, h0, put_no_bits, homeGran_data_byte hi]

/-- A part of a run puts the run's own bytes into the line, and no other. -/
theorem readByte_lineMerged_part {r : RunPut} {k : Nat} (hk : k < 64) :
    readByte (lineMerged s line (r.part line)).mem (64 * line + k)
      = if r.loc ≤ 64 * line + k ∧ 64 * line + k < r.loc + r.n then BitVec.ofNat 8 (r.v / 256 ^ (64 * line + k - r.loc))
        else readByte s.mem (64 * line + k) := by
  have hd : (r.part line).data.extractLsb' (8 * k) 8 = _ := extractLsb'_linePart hk
  rw [readByte_lineMerged hk, extractLsb'_part_mask hk, hd]
  split
  · exact put_all_bits
  · exact put_no_bits

/-! ### What a written line leaves -/

/-- Of the storage of s, at most one line differs in t. -/
def OtherLinesKept (line : Nat) (s t : State) : Prop :=
  (∀ a, a / 64 ≠ line → readByte t.mem a = readByte s.mem a) ∧ (∀ g, g / 4 ≠ line → granSyn t.mem g = granSyn s.mem g)
    ∧ ∀ l, l ≠ line → homeMeta t l = homeMeta s l

theorem OtherLinesKept.refl : OtherLinesKept line s s := ⟨fun _ _ => rfl, fun _ _ => rfl, fun _ _ => rfl⟩

theorem OtherLinesKept.trans {u : State} (h₁ : OtherLinesKept line s t) (h₂ : OtherLinesKept line t u) : OtherLinesKept line s u := by
  obtain ⟨hb, hs, hm⟩ := h₁
  obtain ⟨hb', hs', hm'⟩ := h₂
  exact ⟨fun a h => (hb' a h).trans (hb a h), fun g h => (hs' g h).trans (hs g h), fun l h => (hm' l h).trans (hm l h)⟩

theorem homeMeta_congr {l : Nat} (hm : lineMeta t.mem l = lineMeta s.mem l) (hd : t.dies = s.dies) :
    homeMeta t l = homeMeta s l := by
  unfold homeMeta fencePoison getDie
  rw [hm, hd]

theorem writeNat_metadata {m : Store} {a n v : Nat} : (writeNat m a n v).syns = m.syns ∧ (writeNat m a n v).metas = m.metas := by
  induction n generalizing m a v with
  | zero => exact ⟨rfl, rfl⟩
  | succ n ih => exact ih

theorem putHomeGran_mem {g : Nat} {d : BitVec 128} : (putHomeGran s line g d 0).mem
    = setGranSyn (writeNat s.mem (64 * line + 16 * g) 16 d.toNat) (4 * line + g) 0 := by
  simp only [putHomeGran, ite_self, if_true]

theorem otherLinesKept_putHomeGran {g : Nat} {d : BitVec 128} (hg : g < 4) :
    OtherLinesKept line s (putHomeGran s line g d 0) := by
  refine ⟨fun a ha => readByte_putHomeGran_other (by omega), fun k hk => ?_, fun l hl => ?_⟩
  · rw [putHomeGran_mem, granSyn, setGranSyn, kvGet_kvSet, if_neg (by omega), writeNat_metadata.1]
    rfl
  · refine homeMeta_congr ?_ (homeWrite_putHomeGran (Nat.lt_succ_self line) hg).dies
    rw [putHomeGran_mem, lineMeta, setGranSyn, writeNat_metadata.2]
    rfl

theorem otherLinesKept_putHomeMeta {md : Byte} : OtherLinesKept line s (putHomeMeta s line md) := by
  refine ⟨fun _ _ => rfl, fun _ _ => rfl, fun l hl => homeMeta_congr ?_ rfl⟩
  rw [putHomeMeta, lineMeta, setLineMeta, kvGet_kvSet, if_neg hl]
  rfl

theorem otherLinesKept_lineWritten : OtherLinesKept line s (lineWritten s line) := by
  have hm : (lineWritten s line).mem = s.mem := lineWritten_mem
  exact ⟨fun a _ => by rw [hm], fun g _ => by rw [hm], fun l _ => homeMeta_congr (by rw [hm]) (homeWrite_lineWritten (b := 0)).dies⟩

theorem otherLinesKept_lineMerged {p : LinePut} : OtherLinesKept line s (lineMerged s line p) := by
  refine .trans ?_ otherLinesKept_lineWritten
  have hg : OtherLinesKept line s ((gransPut p).foldl (fun u g => putHomeGran u line g (granMerged s line p g) 0) s) := by
    refine List.foldlRecOn (motive := OtherLinesKept line s) _ _ .refl fun u h g hg => h.trans (otherLinesKept_putHomeGran ?_)
    have h4 := List.mem_of_mem_filter hg
    simp only [List.mem_cons, List.not_mem_nil, or_false] at h4
    omega
  split
  · exact hg
  · exact hg.trans otherLinesKept_putHomeMeta

/-! ### A run that is written -/

/-- The n low bytes of v stand in t from `loc` on, and every other byte is as in s. -/
def BytesPut (loc n v : Nat) (s t : State) : Prop :=
  ∀ a : Nat, readByte t.mem a = if loc ≤ a ∧ a < loc + n then BitVec.ofNat 8 (v / 256 ^ (a - loc)) else readByte s.mem a

/-- A run over good granules is written line by line, from `line` on. -/
theorem putLines_of_good (ha : area.cached = false) {et : Bool} {r : RunPut} {fuel k : Nat} (hs : r.syns = none)
    (hf : r.loc + r.n ≤ 64 * (line + fuel))
    (hg : ∀ g, line ≤ g / 4 → r.loc / 16 ≤ g → 16 * g < r.loc + r.n →
      granSyn s.mem g = 0 ∧ poisoned (homeMeta s (g / 4)) = false) :
    ∃ u, putLines (.core c job) area et r fuel line s k = some (u, k)
      ∧ ∀ a : Nat, readByte u.mem a = if 64 * line ≤ a ∧ r.loc ≤ a ∧ a < r.loc + r.n
        then BitVec.ofNat 8 (r.v / 256 ^ (a - r.loc)) else readByte s.mem a := by
  induction fuel generalizing line s with
  | zero => exact ⟨s, rfl, fun a => (if_neg (by omega)).symm⟩
  | succ fuel ih =>
    unfold putLines
    by_cases h : r.loc + r.n ≤ 64 * line
    · exact ⟨s, if_pos h, fun a => (if_neg (by omega)).symm⟩
    · obtain ⟨hbytes, hsyns, hmetas⟩ := otherLinesKept_lineMerged (s := s) (line := line) (p := r.part line)
      have hput : putLine s (.core c job) area et line (r.part line) = some (lineMerged s line (r.part line), 0) :=
        putLine_of_good ha (by rw [RunPut.part, hs]; rfl) fun g h4 hm => by
          obtain ⟨hlo, hhi⟩ := granBits_part_mask_ne_zero h4 hm
          have hgood := hg (4 * line + g) (by omega) hlo hhi
          rwa [show (4 * line + g) / 4 = line by omega] at hgood
      obtain ⟨u, hu, hb⟩ := ih (line := line + 1) (s := lineMerged s line (r.part line)) (by omega) fun g hl hlo hhi => by
        rw [hsyns g (by omega), hmetas (g / 4) (by omega)]
        exact hg g (by omega) hlo hhi
      refine ⟨u, by rw [if_neg h, hput]; exact hu, fun a => ?_⟩
      rw [hb a]
      by_cases hl : a / 64 = line
      · have hk := readByte_lineMerged_part (s := s) (line := line) (r := r) (k := a % 64) (by omega)
        rw [show 64 * line + a % 64 = a by omega] at hk
        rw [if_neg (by omega), hk]
        exact if_congr (by omega) rfl rfl
      · rw [hbytes a hl]
        exact if_congr (by omega) rfl rfl

theorem putRun_of_good (ha : area.cached = false) {et : Bool} {r : RunPut} (hs : r.syns = none) (hg : GoodGrans s r.loc r.n) :
    ∃ u, putRun s (.core c job) area et r = some (u, 0) ∧ BytesPut r.loc r.n r.v s u := by
  obtain ⟨u, hu, hb⟩ := putLines_of_good (s := clearRanges s r.loc r.n) (c := c) (job := job) (line := r.loc / 64)
    (fuel := r.n / 64 + 2) (k := 0) (et := et) ha hs (by omega) fun g _ => hg g
  refine ⟨u, ?_, fun a => (hb a).trans (if_congr (by omega) rfl rfl)⟩
  unfold putRun
  rw [ha]
  exact hu

theorem storeSpans_of_uncached {src slot v : Nat} {sp : Span} (ha : sp.area.cached = false) (hg : GoodGrans s sp.loc sp.len) :
    ∃ u, storeSpans src slot (.core c job) none s [sp] v none = .ok u ∧ BytesPut sp.loc sp.len v s u := by
  obtain ⟨u, hu, hb⟩ := putRun_of_good (s := s) (c := c) (job := job) ha (et := sp.et)
    (r := { loc := sp.loc, n := sp.len, v, syns := none, stamp := none }) rfl hg
  exact ⟨u, by simp only [storeSpans, hu, countSubst, if_true], hb⟩

theorem performOp_plain_of_uncached {slot v : Nat} {sp : Span} (ha : sp.area.cached = false) (hg : GoodGrans s sp.loc sp.len) :
    ∃ u, performOp s slot (.plain [sp] v) = .ok u ∧ BytesPut sp.loc sp.len v s u := by
  obtain ⟨u, hu, hb⟩ := storeSpans_of_uncached (s := s) (src := 9) (slot := slot) (v := v) (c := coreOf slot)
    (job := (getSlot s slot).job) ha hg
  exact ⟨claimWrs u slot, congrArg (claimed slot) hu, hb⟩

end

/-- Settles O33: a load by the granules that it reads, a store line by line by the bits that it puts over them. -/
theorem accessedBytes : Obligations.AccessedBytes := by
  intro src slot sp v s ha hg
  exact ⟨loadSpans_of_uncached ha hg, performOp_plain_of_uncached ha hg⟩

end Sys2Proof.Machine
end

section
/-! PROOFS. Fences, cache words and waits on a copy pointer (08 R206, R220, R223, 15 R377, R387, 05 R139). -/

namespace Sys2Proof.Machine

section
variable {s s1 : State} {t : Thread} {a b : Opnd} {w : Nat} {bad : Word}

/-- A word that observes, in a slot that holds no mark, has its effect (10 R274). -/
theorem observe_of_no_marks {o : Observe} {r : Res} (h : (getSlot s t.slot).marks = []) : observe s t o r = r := by
  simp only [observe, h, List.find?_nil]

/-! ### XFENCE -/

/-- XFENCE's first attempt has noted which commands came before it (R220). -/
def fenceNoted (s : State) (t : Thread) : State :=
  setSlot s t.slot { getSlot s t.slot with fence := (getSlot s t.slot).fence ++ [(t.seq, s.nextUid)] }

theorem marks_fenceNoted : (getSlot (fenceNoted s t) t.slot).marks = (getSlot s t.slot).marks := by
  rw [fenceNoted, getSlot_setSlot, if_pos rfl]

/-- XFENCE's first attempt waits where a word or a command before it is under way, and is done elsewhere. -/
theorem xfenceEff_first {src : Path} (hf : ((getSlot s t.slot).fence.find? fun f => f.1 == t.seq) = none)
    (hm : (getSlot s t.slot).marks = []) :
    xfenceEff src s t = if (pending (fenceNoted s t) t || pathBusy (fenceNoted s t) t.slot src s.nextUid) = true
      then .wait (fenceNoted s t) false else .done (fenceNoted s t) := by
  rw [xfenceEff, hf]
  exact congrArg (ite _ _) (observe_of_no_marks (marks_fenceNoted.trans hm))

/-! ### CFLUSH and CINV -/

theorem cflushEff_of_empty (h : (srcVal s t b).toNat = 0) : cflushEff a b s t = .done s := if_pos h

theorem cinvEff_of_empty (h : (srcVal s t b).toNat = 0) : cinvEff a b s t = .done s := if_pos h

/-- A range that leaves its half is refused at the first byte outside (15 R377). -/
theorem cflushEff_of_leavesHalf (hl : (srcVal s t b).toNat ≠ 0) (hb : leavesHalf (srcVal s t a) (srcVal s t b).toNat = some bad) :
    cflushEff a b s t = .trap s { cause := 4, kind := 4, addr := bad } := by
  simp only [cflushEff, if_neg hl, hb]
  rfl

theorem cinvEff_of_leavesHalf (hl : (srcVal s t b).toNat ≠ 0) (hb : leavesHalf (srcVal s t a) (srcVal s t b).toNat = some bad) :
    cinvEff a b s t = .trap s { cause := 4, kind := 4, addr := bad } := by
  simp only [cinvEff, if_neg hl, hb]
  rfl

section
variable (hl : (srcVal s t b).toNat ≠ 0) (hb : leavesHalf (srcVal s t a) (srcVal s t b).toNat = none)
  (hw : pageWidth s t (srcVal s t a) = (s1, w))
include hl hb hw

theorem cinvEff_drops : cinvEff a b s t =
    .done (dropRange s1 (coreOf t.slot) (getSlot s1 t.slot).job w [((srcVal s t a).toNat, (srcVal s t b).toNat)]) := by
  simp only [cinvEff, if_neg hl, hb, hw]

/-- CFLUSH waits for the posted writes of its range that widths 4 and 5 cover (02 R43). -/
theorem cflushEff_waits (hp : pending s t = false) (h4 : 4 ≤ w)
    (hc : (coveredWrs s1 t.slot [((srcVal s t a).toNat, (srcVal s t b).toNat)]).any (fun o => !o.lost) = true) :
    cflushEff a b s t = .wait s1 false := by
  simp only [cflushEff, if_neg hl, hb, hp, hw, Bool.false_eq_true, if_false]
  exact if_pos ⟨h4, hc⟩

/-- CFLUSH of a slot with no region has nothing buffered to perform, and writes the dirty lines back. -/
theorem cflushEff_writesBack (hp : pending s t = false)
    (hc : 4 ≤ w → (coveredWrs s1 t.slot [((srcVal s t a).toNat, (srcVal s t b).toNat)]).any (fun o => !o.lost) = false)
    (hr : (getSlot s1 t.slot).region = none) :
    cflushEff a b s t = .done ((viewLines s1 s1.clines (clusterOf (coreOf t.slot)) (dieOfCore (coreOf t.slot))
        (getSlot s1 t.slot).job [((srcVal s t a).toNat, (srcVal s t b).toNat)]).foldl
      (fun u line => writeBack u (clusterOf (coreOf t.slot)) line fun o =>
        o == BitVec.ofNat 4 (coreOf t.slot % 8) || (decide (2 ≤ w) && o == 8)) s1) := by
  have hd : drainRange s1 t (srcVal s t a).toNat (srcVal s t b).toNat = .ok s1 := by simp only [drainRange, hr]
  have hn : ¬(4 ≤ w ∧ (coveredWrs s1 t.slot [((srcVal s t a).toNat, (srcVal s t b).toNat)]).any (fun o => !o.lost) = true) :=
    fun h => Bool.false_ne_true ((hc h.1).symm.trans h.2)
  simp only [cflushEff, if_neg hl, hb, hp, hw, hd, ite_self, Bool.false_eq_true, if_false]
  exact if_neg hn

end

/-! ### WPWAIT -/

theorem fires_iff {p v : BitVec 32} : fires p v = true ↔ (p - v).toNat < 2 ^ 31 := decide_eq_true_iff

section
variable {f : Opnd} {ctx : BitVec 2}

theorem wpwaitEff_of_half (h : (srcVal s t f).setWidth 32 - vget (getSlot s t.slot).chwp ctx = 0x80000000#32) :
    wpwaitEff f ctx s t = .trap s { cause := 18 } := if_pos h

theorem wpwaitEff_reached (h : (srcVal s t f).setWidth 32 - vget (getSlot s t.slot).chwp ctx ≠ 0x80000000#32)
    (hr : (vget (getSlot s t.slot).chwp ctx - (srcVal s t f).setWidth 32).toNat < 2 ^ 31) (hm : (getSlot s t.slot).marks = []) :
    wpwaitEff f ctx s t = .done s :=
  (if_neg h).trans ((if_pos (fires_iff.2 hr)).trans (observe_of_no_marks hm))

theorem wpwaitEff_waits (h : (srcVal s t f).setWidth 32 - vget (getSlot s t.slot).chwp ctx ≠ 0x80000000#32)
    (hr : 2 ^ 31 ≤ (vget (getSlot s t.slot).chwp ctx - (srcVal s t f).setWidth 32).toNat) : wpwaitEff f ctx s t = .wait s false :=
  (if_neg h).trans (if_neg (fires_iff.not.2 hr.not_gt))

end

end

/-- Settles O37: each word by the branch of its effect that its condition takes. -/
theorem fenceAndCacheWords : Obligations.FenceAndCacheWords := by
  intro n a b src dst ctx s s1 w t x va len job r2 core noted v p
  refine ⟨fun hp => yields_of_done rfl (if_neg (ne_true_of_eq_false hp)), fun hp => waitsAt_of_wait rfl (if_pos hp),
    fun hf hm => ⟨fun hb => ?_, fun hb => ?_⟩,
    fun hl => ⟨yields_of_done rfl (cflushEff_of_empty hl), yields_of_done rfl (cinvEff_of_empty hl)⟩,
    fun bad hl hb => ⟨entersTrap_of_trap rfl (cflushEff_of_leavesHalf hl hb), entersTrap_of_trap rfl (cinvEff_of_leavesHalf hl hb)⟩,
    fun hl hb hw => ⟨yields_of_done rfl (cinvEff_drops hl hb hw),
      fun hp h4 hc => waitsAt_of_wait rfl (cflushEff_waits hl hb hw hp h4 hc),
      fun hp hc hr => yields_of_done rfl (cflushEff_writesBack hl hb hw hp hc hr)⟩,
    fun h => entersTrap_of_trap rfl (wpwaitEff_of_half h), fun h hr hm => yields_of_done rfl (wpwaitEff_reached h hr hm),
    fun h hr => waitsAt_of_wait rfl (wpwaitEff_waits h hr)⟩
  · exact yields_of_done rfl ((xfenceEff_first hf hm).trans (if_neg (ne_true_of_eq_false hb)))
  · exact waitsAt_of_wait rfl ((xfenceEff_first hf hm).trans (if_pos hb))

end Sys2Proof.Machine
end

section
/-! PROOFS. CROPEN and CRCLOSE (11 R287, R288, R292, R294, 18 R443). -/

namespace Sys2Proof.Machine

/-! ### The PC after a word that has issued -/

/-- A sequencer of a settled slot is the one before but for its words under way, in every mode. -/
theorem Slot.quiet.seq {x y : Slot} (h : Slot.quiet x y) (q : Seq) : SeqSt.kept (x.seq q) (y.seq q) := by
  obtain ⟨hy, -, hk, hksup, hl, hc, hs⟩ := h
  have hm : y.mode = x.mode := (congrArg Slot.mode hy :)
  cases q with
  | K =>
    simp only [Slot.seq, hm]
    split
    · exact hk
    · exact hksup
  | L => exact hl
  | C => exact hc
  | S => exact hs

theorem SeqSt.kept.pc {a b : SeqSt} (h : SeqSt.kept a b) : b.pc = a.pc := (congrArg SeqSt.pc h :)

theorem segCount_pc (q : SeqSt) (e : Enc) : (segCount q e).pc = q.pc := (congrArg SeqSt.pc (segCount_frame q e) :)

/-- The fields of a slot that an issuing word clears or counts are outside its sequencers. -/
theorem seq_retiring (x : Slot) (q : Seq) (tok : Vector (BitVec 4) (2 ^ 3)) (f g : List (Seq × Nat)) :
    Slot.seq { x with tok, deadlock := 0, fence := f, relAt := g } q = x.seq q := by
  cases q <;> rfl

/-- The PC stands past the word that retired (07 R173). -/
theorem getSeq_retireWord_pc (s : State) (t : Thread) (e : Enc) (ws sigs : List (BitVec 3 × Nat)) (o : Option (Nat × Work)) :
    (getSeq (retireWord s t e ws sigs o) t).pc = (getSeq s t).pc + if opcodeLong (opcodeOf e.1) then 8 else 4 := by
  simp only [retireWord, getSeq, getSlot_updSlot, if_true]
  rw [((settle_quiet _).seq t.seq).pc, seq_retiring, seq_setSeq, segCount_pc]

theorem opcodeOf_long (n : Nib) (op : BitVec 8) (p : BitVec 20) (x : IWord) : opcodeOf (long n op p x).1 = op.toNat :=
  congrArg BitVec.toNat ((BitVec.extractLsb'_append_eq_of_le le_rfl).trans BitVec.extractLsb'_append_eq_right)

/-- What a retired word leaves of the slot's region (11 R288). -/
theorem Slot.movedOn.region_crstat {q : Seq} {x y : Slot} (h : Slot.movedOn q x y) : y.region = x.region ∧ y.crstat = x.crstat :=
  ⟨(congrArg Slot.region h.1 :), (congrArg Slot.crstat h.1 :)⟩

/-! ### CROPEN -/

/-- The region that CROPEN of this offset opens at pc, with nothing buffered (11 R287, 18 R443). -/
def openedRegion (off : BitVec 32) (pc : Word) : Region :=
  { buf := [], handler := pc + BitVec.ofInt 64 (4 * off.toInt), resume := pc + 8, phase := .opened, closePc := 0, closeUid := 0,
    failed := none }

/-- The slot holds that region, with STATE 1, and AUTO where the offset is 0 (11 R288). -/
def openedSlot (off : BitVec 32) (pc : Word) (x : Slot) : Slot :=
  { x with crstat := if off = 0 then 9 else 1, region := some (openedRegion off pc) }

/-- An extension word counts words, four bytes each (12 R304). -/
theorem signExtend_mul_four (off : BitVec 32) : off.signExtend 64 * 4 = BitVec.ofInt 64 (4 * off.toInt) := by
  rw [BitVec.signExtend, mul_comm, BitVec.ofInt_mul]
  rfl

/-- AUTO and STATE of CRSTAT. -/
theorem crstat_opened (off : BitVec 32) : BitVec.ofNat 64 (1 + if off = 0 then 8 else 0) = if off = 0 then 9 else 1 := by
  split <;> rfl

section
variable {s : State} {t : Thread} {n : Nib} {off : BitVec 32}

theorem cropenEff_refused (h : (getSlot s t.slot).region.isSome = true ∨ isSup s t = true ∨ (getSlot s t.slot).need < 2) :
    cropenEff n off s t = .trap s { cause := 10 } := if_pos h

theorem getSeq_fenceNoted : getSeq (fenceNoted s t) t = getSeq s t := by
  unfold getSeq fenceNoted
  rw [getSlot_setSlot, if_pos rfl]
  cases t.seq <;> rfl

/-- The engines or the words of the slot are still at work (18 R443; log 67). -/
def openWaits (s : State) (slot uid : Nat) : Bool :=
  [Path.copy, .matrix, .gather].any (fun p => pathBusy s slot p uid) || slotPending (getSlot s slot)

section
variable (hr : (getSlot s t.slot).region = none) (hs : isSup s t = false) (hn : 2 ≤ (getSlot s t.slot).need)
include hr hs hn

theorem region_may_open : ¬ ((getSlot s t.slot).region.isSome = true ∨ isSup s t = true ∨ (getSlot s t.slot).need < 2) :=
  fun h => h.elim (by simp [hr]) (·.elim (by simp [hs]) (Nat.not_lt.2 hn))

variable (hf : ((getSlot s t.slot).fence.find? fun f => f.1 == t.seq) = none)
include hf

theorem cropenEff_waits (hb : openWaits (fenceNoted s t) t.slot s.nextUid = true) : cropenEff n off s t = .wait (fenceNoted s t) false := by
  simp only [cropenEff, if_neg (region_may_open hr hs hn), hf]
  exact if_pos hb

/-- Before the region opens, only storage has changed: the entry area is written and the journal is empty (11 R287, 18 R443). -/
theorem cropenEff_opens (hb : openWaits (fenceNoted s t) t.slot s.nextUid = false) :
    ∃ m, cropenEff n off s t = .done (updSlot { fenceNoted s t with mem := m } t.slot (openedSlot off (getSeq s t).pc)) := by
  rw [← getSeq_fenceNoted (s := s)]
  simp only [cropenEff, if_neg (region_may_open hr hs hn), hf, signExtend_mul_four, crstat_opened]
  exact ⟨_, if_neg (ne_true_of_eq_false hb)⟩

end

theorem openedSlot_seq {pc : Word} {x : Slot} {q : Seq} : (openedSlot off pc x).seq q = x.seq q := by
  cases q <;> rfl

/-- The retirement of the CROPEN itself leaves the region open and the PC at its resume point. -/
theorem cropen_completes {u : State} {pc : Word} (hu : (getSeq u s.turn).pc = pc)
    (he : cropenEff n off s s.turn = .done (updSlot u s.turn.slot (openedSlot off pc))) (hi : issues (.cropen n off) n none {} s = true) :
    ∃ v, exec (.cropen n off) s = .next v ∧ (getSlot v s.turn.slot).region = some (openedRegion off pc)
      ∧ (getSlot v s.turn.slot).crstat = (if off = 0 then 9 else 1) ∧ (getSeq v s.turn).pc = pc + 8 := by
  have hy : yields (.cropen n off) n {} s (updSlot u s.turn.slot (openedSlot off pc)) := yields_of_done rfl he
  have hx : getSlot (updSlot u s.turn.slot (openedSlot off pc)) s.turn.slot = openedSlot off pc (getSlot u s.turn.slot) :=
    (getSlot_updSlot ..).trans (if_pos rfl)
  obtain ⟨hregion, hcrstat⟩ := (retireWord_frame (updSlot u s.turn.slot (openedSlot off pc)) s.turn (wordsOf (.cropen n off))
    (waitsOf s.turn.seq n none) (sigsOf s.turn.seq n none) none).2.region_crstat
  rw [hx] at hregion hcrstat
  have hop : opcodeOf (wordsOf (.cropen n off)).1 = 0xF6 := opcodeOf_long n 0xF6 0 off
  refine ⟨_, hy hi, hregion, hcrstat, ?_⟩
  rw [retired, getSeq_retireWord_pc, hop, getSeq, hx, openedSlot_seq]
  exact congrArg (· + 8) hu

/-! ### CRCLOSE -/

theorem crcloseEff_closed (h : (getSlot s t.slot).region = none) : crcloseEff s t = .trap s { cause := 10 } := by
  simp only [crcloseEff, h]

theorem crcloseEff_refused {r : Region} (h : (getSlot s t.slot).region = some r) (hp : isSup s t = true ∨ r.phase ≠ .opened) :
    crcloseEff s t = .trap s { cause := 10 } := by
  simp only [crcloseEff, h, if_pos hp]

/-- An open region begins its drain, and the word stands under way until the drain completes it (11 R294). -/
theorem crcloseEff_drains {r : Region} (h : (getSlot s t.slot).region = some r) (hs : isSup s t = false) (hp : r.phase = .opened) :
    crcloseEff s t = .pend (enqueue (updSlot { s with nextUid := s.nextUid + 1 } t.slot fun x =>
        { x with region := some { r with phase := .draining, closePc := (getSeq s t).pc, closeUid := s.nextUid },
                 crstat := (x.crstat &&& ~~~3#64) ||| 2 })
      (.event (.regionDrainComplete t.slot))) s.nextUid .none := by
  have hn : ¬ (isSup s t = true ∨ r.phase ≠ .opened) := by simp [hs, hp]
  simp only [crcloseEff, h, if_neg hn]
  rfl

end

/-- Settles O48: CROPEN and CRCLOSE by whether a region is open, in which mode, and whether the slot is still at work. -/
theorem regionWords : Obligations.RegionWords := by
  intro n off s t x pc noted
  refine ⟨fun h => entersTrap_of_trap rfl (cropenEff_refused h), fun hr hs hn hf => ⟨fun hb => ?_, fun hb hi => ?_⟩, fun h => ?_,
    fun r hr hs => ⟨fun hp => entersTrap_of_trap rfl (crcloseEff_refused hr (.inr hp)),
      fun hp => pends_of_pend rfl (crcloseEff_drains hr hs hp)⟩⟩
  · exact waitsAt_of_wait rfl (cropenEff_waits hr hs hn hf hb)
  · obtain ⟨m, hm⟩ := cropenEff_opens (n := n) (off := off) hr hs hn hf hb
    have hu : getSeq { fenceNoted s t with mem := m } t = getSeq s t := getSeq_fenceNoted
    obtain ⟨v, hv, hregion, hcrstat, hpc⟩ := cropen_completes (congrArg SeqSt.pc hu) hm hi
    exact ⟨v, _, hv, hregion, rfl, rfl, rfl, rfl, hcrstat, hpc⟩
  · cases hr : x.region with
    | none => exact entersTrap_of_trap rfl (crcloseEff_closed hr)
    | some r => exact entersTrap_of_trap rfl (crcloseEff_refused hr (.inl (h.resolve_left (by simp [hr]))))

end Sys2Proof.Machine
end

section
/-! PROOFS. VOTE: the pair of a VOTE and the computing word after it (11 R296, 18 R444). -/

namespace Sys2Proof.Machine

/-! ### The vote on three results -/

section
variable {a b c w : AVal}

theorem majority_of_equal (hb : a = b) (hc : a = c) : majority a b c = some (a, false) := by
  subst hb hc
  simp [majority]

/-- Two results that agree outvote the third, wherever it stands (11 R296). -/
theorem majority_of_two (h : a = w ∧ b = w ∧ c ≠ w ∨ a = w ∧ c = w ∧ b ≠ w ∨ b = w ∧ c = w ∧ a ≠ w) :
    majority a b c = some (w, true) := by
  obtain ⟨rfl, rfl, hc⟩ | ⟨rfl, rfl, hb⟩ | ⟨rfl, rfl, ha⟩ := h
  · simp [majority, hc]
  · simp [majority, hb.symm]
  · simp [majority, ha]

theorem majority_of_distinct (hab : a ≠ b) (hac : a ≠ c) (hbc : b ≠ c) : majority a b c = none := by
  simp only [majority, if_neg hab, if_neg hac, if_neg hbc]

end

section
variable {s s1 : State} {t : Thread} {i : Instr} {a : Alu} {v w : AVal} {g : Word} {ws sigs : List (BitVec 3 × Nat)}

/-! ### The three computations -/

/-- The three results of a voted word, each with the bits that soft errors flipped in it (11 R296). -/
def voteResults (s : State) (t : Thread) (v : AVal) : AVal × AVal × AVal :=
  let m := (getSlot s t.slot).vote.getD (0, 0, 0)
  (upset v m.1, upset v m.2.1, upset v m.2.2)

/-- The flipped bits are used up by one vote. -/
def voteTaken (s : State) (t : Thread) : State := updSlot s t.slot fun x => { x with vote := none }

/-- A corrected vote is counted in CORRCNT (11 R296). -/
def voteCounted (s : State) (t : Thread) : State :=
  updSlot s t.slot fun x => { x with corrcnt := BitVec.ofNat 64 (min (x.corrcnt.toNat + 1) 0xFFFFFFFF) }

theorem voteRun_traps {c : Nat} (h : a.eval s t = .trap c) : voteRun s t i a ws sigs = voteTrap s t { cause := c } := by
  simp only [voteRun, h]

section
variable (h : a.eval s t = .ok v g)
include h

/-- The results have no majority: an uncorrectable error (11 R296). -/
theorem voteRun_fails (hm : majority (voteResults s t v).1 (voteResults s t v).2.1 (voteResults s t v).2.2 = none) :
    voteRun s t i a ws sigs = wordError (stall (voteTaken s t) t false) t (getSeq (voteTaken s t) t).pc (voteTaken s t).nextUid
      { cause := 3, src := seqNum t.seq, addr := 0 } := by
  simp only [voteResults] at hm
  simp only [voteRun, h, hm]
  rfl

/-- The majority's result is written, and a correction counted (11 R296). -/
theorem voteRun_writes {fixed : Bool}
    (hm : majority (voteResults s t v).1 (voteResults s t v).2.1 (voteResults s t v).2.2 = some (w, fixed)) :
    voteRun s t i a ws sigs =
      retireWord (passVote (writeAlu (if fixed then voteCounted (voteTaken s t) t else voteTaken s t) t a.dst w g) t) t (wordsOf i)
        ws sigs none := by
  simp only [voteResults] at hm
  simp only [voteRun, h, hm]
  rfl

end

/-! ### The pair -/

theorem voteStep_of_not_ready (h : ready s s.turn = false) : voteStep s = s := by
  simp [voteStep, h]

theorem voteStep_of_word (hr : ready s s.turn = true) (hf : fetchAt s s.turn ((getSeq s s.turn).pc + 4) = (s1, .word i)) :
    voteStep s = voteWord s1 s.turn i := by
  simp only [voteStep, hr, hf, Bool.not_true, Bool.false_eq_true, if_false]

/-- VOTE before a word that it may not precede (18 R444). -/
theorem voteWord_of_aluOf_none (h : aluOf i = none) :
    voteWord s t i = if voteSquashed (getSeq s t) then passVote s t else voteTrap s t { cause := 1 } := by
  simp only [voteWord, h]
  rfl

section
variable (ha : aluOf i = some a)
include ha

theorem voteWord_squashed (hq : voteSquashed (getSeq s t) = true) : voteWord s t i =
    if waitsMet (getSlot s t.slot).tok (waitsOf t.seq (nibOf i) none) then
      retireWord (passVote (pushVoid s t a.dst) t) t (wordsOf i) (waitsOf t.seq (nibOf i) none) (sigsOf t.seq (nibOf i) none) none
    else stall s t true := by
  simp only [voteWord, ha]
  exact if_pos hq

variable (hq : voteSquashed (getSeq s t) = false)
include hq

theorem voteWord_decodeTrap {tr : Trap} (hd : decodeTrap i t.seq (getSlot s t.slot).supMode = some tr) :
    voteWord s t i = voteTrap s t tr := by
  simp only [voteWord, ha, hd]
  exact if_neg (ne_true_of_eq_false hq)

variable (hd : decodeTrap i t.seq (getSlot s t.slot).supMode = none)
include hd

theorem voteWord_waits (hw : waitsMet (getSlot s t.slot).tok (waitsOf t.seq (nibOf i) none) = false) :
    voteWord s t i = stall s t true := by
  simp only [voteWord, ha, hd, hw, Bool.not_false, if_true]
  exact if_neg (ne_true_of_eq_false hq)

theorem voteWord_runs (hw : waitsMet (getSlot s t.slot).tok (waitsOf t.seq (nibOf i) none) = true)
    (hr : Reads.waits { scalars := a.scalars, vectors := a.vectors } (getSeq s t) = false)
    (hb : Reads.bad { scalars := a.scalars, vectors := a.vectors } (getSlot s t.slot) (getSeq s t) = false) :
    voteWord s t i = voteRun s t i a (waitsOf t.seq (nibOf i) none) (sigsOf t.seq (nibOf i) none) := by
  unfold getSeq at hq hr hb
  simp only [voteWord, ha, hd, hw, hq, hr, hb, Bool.not_true, Bool.false_eq_true, if_false]

end

end

/-- Settles O60: the pair by the order of its checks, then by the majority of its three results. -/
theorem votePairs : Obligations.VotePairs := by
  intro s s1 i a v w g tr c t x q n ws sigs m r0 r1 r2 s2 counted writes reads
  refine ⟨fun h => congrArg _ (voteStep_of_not_ready h), fun hr hf => ?_⟩
  have hx : exec .vote s = .next (voteWord s1 t i) := congrArg _ (voteStep_of_word hr hf)
  rw [hx]
  refine ⟨fun ha => congrArg _ (voteWord_of_aluOf_none ha), fun ha hq => ?_,
    fun ha hq hd => congrArg _ (voteWord_decodeTrap ha hq hd), fun ha hq hd => ⟨fun hw => congrArg _ (voteWord_waits ha hq hd hw),
    fun hw hwait hbad => ?_⟩⟩
  · rw [voteWord_squashed ha hq]
    exact ⟨fun hw => congrArg _ (if_pos hw), fun hw => congrArg _ (if_neg (ne_true_of_eq_false hw))⟩
  · rw [voteWord_runs ha hq hd hw hwait hbad]
    refine ⟨fun h => congrArg _ (voteRun_traps h), fun h => ?_⟩
    exact ⟨fun h1 h2 => congrArg _ (voteRun_writes h (majority_of_equal h1 h2)),
      fun h2 => congrArg _ (voteRun_writes h (majority_of_two h2)),
      fun h1 h2 h3 => congrArg _ (voteRun_fails h (majority_of_distinct h1 h2 h3))⟩

end Sys2Proof.Machine
end

section
/-! PROOFS. The decoder reads back every word that the encoder makes (12 R300-R307). -/

namespace Sys2Proof

open BitVec (extractLsb'_append_eq_of_le extractLsb'_append_eq_of_add_le extractLsb'_append_eq_left extractLsb'_append_eq_right)

/-! ### Bits of an append and of a widened value -/

section
variable {v w s k len : Nat} {x : BitVec v} {y : BitVec w}

/-- Bits taken across the border of two parts are zero where those of each part are. -/
theorem extractLsb'_append_eq_zero (hs : s ≤ w) (hlen : len = w - s + k) (hx : x.extractLsb' 0 k = 0)
    (hy : y.extractLsb' s (w - s) = 0) : (x ++ y).extractLsb' s len = 0 := by
  ext i hi
  simp only [BitVec.getElem_extractLsb', BitVec.getLsbD_append, BitVec.ofNat_eq_ofNat, BitVec.getElem_zero]
  split
  case isTrue hlow =>
    have h := congrArg (·.getLsbD i) hy
    simpa [show i < w - s by omega] using h
  case isFalse hhigh =>
    have h := congrArg (·.getLsbD (s + i - w)) hx
    simpa [show s + i - w < k by omega] using h

theorem extractLsb'_setWidth_eq_zero (h : v ≤ s) : (x.setWidth w).extractLsb' s len = 0 := by
  ext i hi
  simp [BitVec.getLsbD_of_ge x (s + i) (by omega)]

theorem extractLsb'_setWidth_eq_self (h : v ≤ w) : (x.setWidth w).extractLsb' 0 v = x := by
  rw [BitVec.extractLsb'_setWidth_of_le (by omega), BitVec.extractLsb'_eq_self]

theorem getLsbD_append_of_lt {i : Nat} (h : i < w) : (x ++ y).getLsbD i = y.getLsbD i :=
  BitVec.getLsbD_append.trans (if_pos h)

theorem getLsbD_append_of_le {i : Nat} (h : w ≤ i) : (x ++ y).getLsbD i = x.getLsbD (i - w) :=
  BitVec.getLsbD_append.trans (if_neg h.not_gt)

theorem getLsbD_zero_ofBool (b : Bool) : (BitVec.ofBool b).getLsbD 0 = b := by
  cases b <;> rfl

end

/-! ### Operands and mods -/

@[simp] theorem Nib.ofBits_bits (n : Nib) : Nib.ofBits n.bits = n := by
  obtain ⟨wp, wn, sp, sn⟩ := n
  revert wp wn sp sn
  decide

@[simp] theorem src_bits (o : Opnd) : src o.bits = o := by
  cases o with
  | belt a => revert a; decide
  | short n => revert n; decide
  | main m => revert m; decide

@[simp] theorem dest?_bits (d : Dest) : dest? d.bits = some d := by
  cases d with
  | push => rfl
  | short n => revert n; decide
  | main m => revert m; decide

@[simp] theorem MulhMod.ofBits_bits (m : MulhMod) : MulhMod.ofBits m.bits = some m := by cases m <;> rfl
@[simp] theorem Sgn.ofBits_bits (m : Sgn) : Sgn.ofBits m.bits = some m := by cases m <;> rfl
@[simp] theorem XWidth.ofBits_bits (m : XWidth) : XWidth.ofBits m.bits = some m := by cases m <;> rfl
@[simp] theorem Cond.ofBits_bits (m : Cond) : Cond.ofBits m.bits = some m := by cases m <;> rfl
@[simp] theorem MemOrd.ofBits_bits (m : MemOrd) : MemOrd.ofBits m.bits = some m := by cases m <;> rfl
@[simp] theorem FmaMod.ofBits_bits (m : FmaMod) : FmaMod.ofBits m.bits = some m := by cases m <;> rfl
@[simp] theorem AbsMod.ofBits_bits (m : AbsMod) : AbsMod.ofBits m.bits = some m := by cases m <;> rfl
@[simp] theorem VCond.ofBits_bits (m : VCond) : VCond.ofBits m.bits = some m := by cases m <;> rfl
@[simp] theorem SatMod.ofBits_bits (m : SatMod) : SatMod.ofBits m.bits = some m := by cases m <;> rfl
@[simp] theorem LogicOp.ofBits_bits (m : LogicOp) : LogicOp.ofBits m.bits = some m := by cases m <;> rfl
@[simp] theorem ShiftOp.ofBits_bits (m : ShiftOp) : ShiftOp.ofBits m.bits = some m := by cases m <;> rfl
@[simp] theorem MinMaxOp.ofBits_bits (m : MinMaxOp) : MinMaxOp.ofBits m.bits = some m := by cases m <;> rfl
@[simp] theorem RedmOp.ofBits_bits (m : RedmOp) : RedmOp.ofBits m.bits = some m := by cases m <;> rfl
@[simp] theorem ESize.ofBits_bits (m : ESize) : ESize.ofBits m.bits = some m := by cases m <;> rfl
@[simp] theorem PackT.ofBits_bits (m : PackT) : PackT.ofBits m.bits = some m := by cases m <;> rfl
@[simp] theorem RedOp.ofBits_bits (m : RedOp) : RedOp.ofBits m.bits = some m := by cases m <;> rfl
@[simp] theorem Path.ofBits_bits (m : Path) : Path.ofBits m.bits = some m := by cases m <;> rfl
@[simp] theorem Role.ofBits_bits (m : Role) : Role.ofBits m.bits = some m := by cases m <;> rfl
@[simp] theorem Fmt.ofBits_bits (m : Fmt) : Fmt.ofBits m.bits = some m := by cases m <;> rfl

/-! ### The fields of the payload formats (12 R301) -/

section
variable {a b d f : BitVec 6} {m : BitVec 2}

@[simp] theorem fa_wA : fa (wA a b d m) = a :=
  (extractLsb'_append_eq_of_le (by decide)).trans <|
    (extractLsb'_append_eq_of_le (by decide)).trans extractLsb'_append_eq_left
@[simp] theorem fb_wA : fb (wA a b d m) = b :=
  (extractLsb'_append_eq_of_le (by decide)).trans <|
    (extractLsb'_append_eq_of_le (by decide)).trans extractLsb'_append_eq_right
@[simp] theorem fd_wA : fd (wA a b d m) = d :=
  (extractLsb'_append_eq_of_le (by decide)).trans extractLsb'_append_eq_right
@[simp] theorem fm_wA : fm (wA a b d m) = m := extractLsb'_append_eq_right

section
variable {o : BitVec 8}

@[simp] theorem fa_wB2 : fa (wB2 a b o) = a :=
  (extractLsb'_append_eq_of_le (by decide)).trans extractLsb'_append_eq_left
@[simp] theorem fb_wB2 : fb (wB2 a b o) = b :=
  (extractLsb'_append_eq_of_le (by decide)).trans extractLsb'_append_eq_right
@[simp] theorem fo_wB2 : fo (wB2 a b o) = o := extractLsb'_append_eq_right

end

section
variable {i : BitVec 14} {s len : Nat}

@[simp] theorem fa_wAI : fa (wAI f i) = f := extractLsb'_append_eq_left
@[simp] theorem fi_wAI : fi (wAI f i) = i := extractLsb'_append_eq_right

/-- Bits within imm14. -/
@[simp] theorem extractLsb'_wAI (h : s + len ≤ 14) : (wAI f i).extractLsb' s len = i.extractLsb' s len :=
  extractLsb'_append_eq_of_add_le h
@[simp] theorem extractLsb'_wAI_high : (wAI f i).extractLsb' 14 6 = f := extractLsb'_append_eq_left
@[simp] theorem getLsbD_wAI (h : s < 14) : (wAI f i).getLsbD s = i.getLsbD s := getLsbD_append_of_lt h

/-- With f zero the rest of the payload is zero where imm14 is. -/
theorem extractLsb'_wAI_zero (hs : s ≤ 14) (hlen : len = 14 - s + 6) (h : i.extractLsb' s (14 - s) = 0) :
    (wAI 0#6 i).extractLsb' s len = 0 :=
  extractLsb'_append_eq_zero hs hlen rfl h

end

section
variable {k : BitVec 3} {o : BitVec 8}

@[simp] theorem fa_wQ : fa (wQ f k o) = f :=
  (extractLsb'_append_eq_of_le (by decide)).trans <|
    (extractLsb'_append_eq_of_le (by decide)).trans extractLsb'_append_eq_left
@[simp] theorem fq_wQ : fq (wQ f k o) = k :=
  (extractLsb'_append_eq_of_le (by decide)).trans <|
    (extractLsb'_append_eq_of_le (by decide)).trans extractLsb'_append_eq_right
@[simp] theorem off_wQ : (wQ f k o).extractLsb' 3 8 = o :=
  (extractLsb'_append_eq_of_le (by decide)).trans extractLsb'_append_eq_right
@[simp] theorem low_wQ : (wQ f k o).extractLsb' 0 3 = 0 := extractLsb'_append_eq_right
@[simp] theorem rest_wQ : (wQ f k 0#8).extractLsb' 0 11 = 0 :=
  extractLsb'_append_eq_zero (by decide) rfl extractLsb'_append_eq_right rfl

end

section
variable {r : BitVec 12}

@[simp] theorem fa_wS : fa (wS f r) = f :=
  (extractLsb'_append_eq_of_le (by decide)).trans extractLsb'_append_eq_left
@[simp] theorem number_wS : (wS f r).extractLsb' 2 12 = r :=
  (extractLsb'_append_eq_of_le (by decide)).trans extractLsb'_append_eq_right
@[simp] theorem fm_wS : fm (wS f r) = 0 := extractLsb'_append_eq_right

end

section
variable {r : BitVec 5} {l : BitVec 2}

@[simp] theorem fa_wG : fa (wG f r l) = f :=
  (extractLsb'_append_eq_of_le (by decide)).trans <|
    (extractLsb'_append_eq_of_le (by decide)).trans extractLsb'_append_eq_left
@[simp] theorem ring_wG : (wG f r l).extractLsb' 9 5 = r :=
  (extractLsb'_append_eq_of_le (by decide)).trans <|
    (extractLsb'_append_eq_of_le (by decide)).trans extractLsb'_append_eq_right
@[simp] theorem role_wG : (wG f r l).extractLsb' 7 2 = l :=
  (extractLsb'_append_eq_of_le (by decide)).trans extractLsb'_append_eq_right
@[simp] theorem low_wG : (wG f r l).extractLsb' 0 7 = 0 := extractLsb'_append_eq_right
@[simp] theorem rest_wG : (wG f r 0#2).extractLsb' 0 9 = 0 :=
  extractLsb'_append_eq_zero (by decide) rfl extractLsb'_append_eq_right rfl

end

section
variable {d s : BitVec 4} {rtz hi : Bool}

@[simp] theorem fa_wC : fa (wC f d s rtz hi) = f :=
  (extractLsb'_append_eq_of_le (by decide)).trans <| (extractLsb'_append_eq_of_le (by decide)).trans <|
    (extractLsb'_append_eq_of_le (by decide)).trans <| (extractLsb'_append_eq_of_le (by decide)).trans extractLsb'_append_eq_left
@[simp] theorem dst_wC : (wC f d s rtz hi).extractLsb' 10 4 = d :=
  (extractLsb'_append_eq_of_le (by decide)).trans <| (extractLsb'_append_eq_of_le (by decide)).trans <|
    (extractLsb'_append_eq_of_le (by decide)).trans <| (extractLsb'_append_eq_of_le (by decide)).trans extractLsb'_append_eq_right
@[simp] theorem src_wC : (wC f d s rtz hi).extractLsb' 6 4 = s :=
  (extractLsb'_append_eq_of_le (by decide)).trans <| (extractLsb'_append_eq_of_le (by decide)).trans <|
    (extractLsb'_append_eq_of_le (by decide)).trans extractLsb'_append_eq_right
@[simp] theorem rtz_wC : (wC f d s rtz hi).getLsbD 5 = rtz :=
  (getLsbD_append_of_le (by decide)).trans <| (getLsbD_append_of_le (by decide)).trans <|
    (getLsbD_append_of_lt (by decide)).trans (getLsbD_zero_ofBool rtz)
@[simp] theorem hi_wC : (wC f d s rtz hi).getLsbD 4 = hi :=
  (getLsbD_append_of_le (by decide)).trans <| (getLsbD_append_of_lt (by decide)).trans (getLsbD_zero_ofBool hi)
@[simp] theorem low_wC : (wC f d s rtz hi).extractLsb' 0 4 = 0 := extractLsb'_append_eq_right

end

end

/-! ### Each format is read back (12 R301, R302, R305) -/

section
variable {n : Nib} {d : Dest} {a b c f : Opnd} {o : BitVec 8} {x : IWord}

@[simp] theorem rZ_zero {i : Instr} : rZ 0 i = .ok i := rfl

theorem rA2_wA {k : Dest → Opnd → Opnd → Instr} : rA2 (wA a.bits b.bits d.bits 0) k = .ok (k d a b) := by
  simp [rA2, rDest]
theorem rA2u_wA {k : Dest → Opnd → Instr} : rA2u (wA a.bits 0 d.bits 0) k = .ok (k d a) := by
  simp [rA2u, rDest, rZero]
theorem rNoD_wA {k : Opnd → Opnd → Instr} : rNoD (wA a.bits b.bits 0 0) k = .ok (k a b) := by
  simp [rNoD, rZero]
theorem rA3_wA {k : Opnd → Opnd → Opnd → Instr} : rA3 (wA a.bits b.bits c.bits 0) k = .ok (k a b c) := by
  simp [rA3]

section
variable {α : Type} {tbl : BitVec 2 → Option α} {code : BitVec 2} {m : α} (h : tbl code = some m)
include h

theorem rA2m_wA {k : α → Dest → Opnd → Opnd → Instr} : rA2m tbl (wA a.bits b.bits d.bits code) k = .ok (k m d a b) := by
  simp [rA2m, rDest, rMod, h]
theorem rA2um_wA {k : α → Dest → Opnd → Instr} : rA2um tbl (wA a.bits 0 d.bits code) k = .ok (k m d a) := by
  simp [rA2um, rDest, rMod, rZero, h]
theorem rA3m_wA {k : α → Opnd → Opnd → Opnd → Instr} : rA3m tbl (wA a.bits b.bits c.bits code) k = .ok (k m a b c) := by
  simp [rA3m, rMod, h]

end

theorem rLea_wA {sh : BitVec 2} : rLea n (wA a.bits b.bits d.bits sh) = .ok (.lea n sh d a b) := by
  simp [rLea, rDest]
theorem rRed_wA {op : RedOp} {m : MemOrd} : rRed n (wA a.bits b.bits op.bits m.bits) = .ok (.red n op m a b) := by
  simp [rRed, rMod]
theorem rVabs_wA {m : AbsMod} (h : (Instr.vabs n m d a b).wellFormed = true) :
    rVabs n (wA a.bits b.bits d.bits m.bits) = .ok (.vabs n m d a b) := by
  simp [rVabs, rMod, rDest, rZero, h]

theorem rB2_wB2 {k : Opnd → Opnd → BitVec 8 → Instr} : rB2 (wB2 a.bits b.bits o) k = .ok (k a b o) := by
  simp [rB2]
/-- The word's b field is the instruction's first operand. -/
theorem rB2_wB2_swapped {k : Opnd → Opnd → BitVec 8 → Instr} :
    rB2 (wB2 a.bits b.bits o) (fun a b o => k b a o) = .ok (k b a o) := rB2_wB2
theorem rB2d_wB2 {k : Dest → Opnd → BitVec 8 → Instr} : rB2d (wB2 a.bits d.bits o) k = .ok (k d a o) := by
  simp [rB2d, rDest]
theorem rPref_wB2 : rPref n (wB2 a.bits 0 o) = .ok (.pref n a o) := by
  simp [rPref, rZero]
theorem rLihi_wB2 : rLihi n (wB2 a.bits d.bits 0) x = .ok (.lihi n d a x) := by
  simp [rLihi, rDest, rZero]
theorem rStt_wB2 {g : BitVec 2} : rStt n (wB2 a.bits b.bits 0) (g.setWidth 32) = .ok (.stt n a b g) := by
  simp [rStt, extractLsb'_setWidth_eq_zero, extractLsb'_setWidth_eq_self]

theorem rAI_wAI {k : Opnd → BitVec 14 → Instr} {i : BitVec 14} :
    rAI (wAI f.bits i) (fun f i => .ok (k f i)) = .ok (k f i) := by
  simp [rAI]
theorem rAI_wAI_zero {k : Opnd → Instr} : rAI (wAI f.bits 0) (fun f i => rZero (i == 0) (k f)) = .ok (k f) := by
  simp [rAI, rZero]
theorem rAId_wAI {k : Dest → BitVec 14 → Instr} {i : BitVec 14} : rAId (wAI d.bits i) k = .ok (k d i) := by
  simp [rAId, rDest]
theorem rAIsh_wAI {k : Opnd → BitVec 6 → Instr} {g : BitVec 6} : rAIsh (wAI f.bits (g.setWidth 14)) k = .ok (k f g) := by
  simp [rAIsh, rZero, extractLsb'_setWidth_eq_zero, extractLsb'_setWidth_eq_self]
theorem rLiw_wAI : rLiw n (wAI d.bits 0) x = .ok (.liw n d x) := by
  simp [rLiw, rDest, rZero]
theorem rStage_wAI {k : BitVec 3} : rStage .none (wAI 0#6 (k.setWidth 14)) = .ok (.stage k) := by
  simp [rStage, extractLsb'_setWidth_eq_zero, extractLsb'_setWidth_eq_self]
theorem rCmpi_wAI {m : Cond} {i : BitVec 12} : rCmpi n (wAI a.bits (m.bits ++ i)) = .ok (.cmpi n m a i) := by
  simp [rCmpi, rMod, extractLsb'_append_eq_left (a := m.bits) (b := i), extractLsb'_append_eq_right (a := m.bits) (b := i)]
theorem rBarwait_wAI {g : BitVec 4} : rBarwait n (wAI f.bits (g.setWidth 14)) = .ok (.barwait n f g) := by
  simp [rBarwait, rZero, extractLsb'_setWidth_eq_zero, extractLsb'_setWidth_eq_self]
theorem rCtx_wAI {k : Opnd → BitVec 2 → Instr} {g : BitVec 2} : rCtx (wAI f.bits (g.setWidth 14)) k = .ok (k f g) := by
  simp [rCtx, rZero, fm, extractLsb'_setWidth_eq_zero, extractLsb'_setWidth_eq_self]
theorem rVtopk_wAI {k : BitVec 5} (h : k ≠ 0) : rVtopk n (wAI f.bits (k.setWidth 14)) = .ok (.vtopk n f k) := by
  simpa [rVtopk, extractLsb'_setWidth_eq_zero, extractLsb'_setWidth_eq_self] using h
theorem rMstatr_wAI {k : Bool} : rMstatr n (wAI d.bits (0#13 ++ BitVec.ofBool k)) = .ok (.mstatr n d k) := by
  have hz : (0#13 ++ BitVec.ofBool k).extractLsb' 1 13 = 0 := extractLsb'_append_eq_left
  have hk : (0#13 ++ BitVec.ofBool k).getLsbD 0 = k := (getLsbD_append_of_lt (by decide)).trans (getLsbD_zero_ofBool k)
  simp [rMstatr, rDest, rZero, hz, hk, -BitVec.getLsbD_eq_getElem]

/-! With the f field zero. -/

theorem rImm_wAI {k : BitVec 14 → Instr} {i : BitVec 14} : rImm (wAI 0 i) k = .ok (k i) := by
  simp [rImm, rZero]
theorem rBar_wAI {k : BitVec 4 → Instr} {g : BitVec 4} : rBar (wAI 0#6 (g.setWidth 14)) k = .ok (k g) := by
  have hz : (wAI 0#6 (g.setWidth 14)).extractLsb' 4 16 = 0 :=
    extractLsb'_wAI_zero (by decide) rfl (extractLsb'_setWidth_eq_zero le_rfl)
  simp [rBar, rZero, extractLsb'_setWidth_eq_self, hz]
theorem rVsett_wAI {g : BitVec 4} (h : vtypeFmt g = true) : rVsett n (wAI 0#6 (g.setWidth 14)) = .ok (.vsett n g) := by
  have hz : (wAI 0#6 (g.setWidth 14)).extractLsb' 4 16 = 0 :=
    extractLsb'_wAI_zero (by decide) rfl (extractLsb'_setWidth_eq_zero le_rfl)
  simp [rVsett, extractLsb'_setWidth_eq_self, hz, h]
theorem rTok_wAI {k : BitVec 4 → Bool → Instr} {g : BitVec 4} {e : Bool} (h : g ≠ 0) :
    rTok (wAI 0#6 (0#9 ++ BitVec.ofBool e ++ g)) k = .ok (k g e) := by
  have hz : (wAI 0#6 (0#9 ++ BitVec.ofBool e ++ g)).extractLsb' 5 15 = 0 :=
    extractLsb'_wAI_zero (by decide) rfl ((extractLsb'_append_eq_of_le (by decide)).trans extractLsb'_append_eq_left)
  have hg : (0#9 ++ BitVec.ofBool e ++ g).extractLsb' 0 4 = g := extractLsb'_append_eq_right
  have he : (0#9 ++ BitVec.ofBool e ++ g).getLsbD 4 = e :=
    (getLsbD_append_of_le le_rfl).trans ((getLsbD_append_of_lt (by decide)).trans (getLsbD_zero_ofBool e))
  simpa [rTok, hz, hg, he, -BitVec.getLsbD_eq_getElem] using h
theorem rXfence_wAI {s e : Path} : rXfence n (wAI 0#6 (0#8 ++ e.bits ++ s.bits)) = .ok (.xfence n s e) := by
  have hz : (wAI 0#6 (0#8 ++ e.bits ++ s.bits)).extractLsb' 6 14 = 0 :=
    extractLsb'_wAI_zero (by decide) rfl ((extractLsb'_append_eq_of_le (by decide)).trans extractLsb'_append_eq_left)
  have hs : (0#8 ++ e.bits ++ s.bits).extractLsb' 0 3 = s.bits := extractLsb'_append_eq_right
  have he : (0#8 ++ e.bits ++ s.bits).extractLsb' 3 3 = e.bits :=
    (extractLsb'_append_eq_of_le le_rfl).trans extractLsb'_append_eq_right
  simp [rXfence, rMod, hz, hs, he]
theorem rMzero_wAI {k e : Bool} :
    rMzero n (wAI 0#6 (0#12 ++ BitVec.ofBool e ++ BitVec.ofBool k)) = .ok (.mzero n k e) := by
  have hz : (wAI 0#6 (0#12 ++ BitVec.ofBool e ++ BitVec.ofBool k)).extractLsb' 2 18 = 0 :=
    extractLsb'_wAI_zero (by decide) rfl ((extractLsb'_append_eq_of_le (by decide)).trans extractLsb'_append_eq_left)
  have hk : (0#12 ++ BitVec.ofBool e ++ BitVec.ofBool k).getLsbD 0 = k :=
    (getLsbD_append_of_lt (by decide)).trans (getLsbD_zero_ofBool k)
  have he : (0#12 ++ BitVec.ofBool e ++ BitVec.ofBool k).getLsbD 1 = e :=
    (getLsbD_append_of_le le_rfl).trans ((getLsbD_append_of_lt (by decide)).trans (getLsbD_zero_ofBool e))
  simp [rMzero, rZero, hz, hk, he, -BitVec.getLsbD_eq_getElem]

theorem rTlbinv_range : rTlbinv n (wA a.bits b.bits 0 0) = .ok (.tlbinvRange n a b) := by
  simp [rTlbinv]
theorem rTlbinv_job : rTlbinv n (wA a.bits 0 0 1) = .ok (.tlbinvJob n a) := by
  simp [rTlbinv, rZero]
theorem rTlbinv_all : rTlbinv n (wA 0 0 0 2) = .ok (.tlbinvAll n) := by
  simp [rTlbinv, rZero]

section
variable {k : BitVec 3}

theorem rQput_wQ : rQput n (wQ f.bits k 0) = .ok (.qput n k f) := by
  simp [rQput, rZero]
theorem rQd_wQ {g : Dest → BitVec 3 → Instr} : rQd (wQ d.bits k 0) g = .ok (g d k) := by
  simp [rQd, rDest, rZero]
theorem rQm_wQ {g : BitVec 3 → Opnd → BitVec 8 → Instr} (h : (g k f o).wellFormed = true) :
    rQm (wQ f.bits k o) g = .ok (g k f o) := by
  simp [rQm, h]

end

theorem rRdsr_wS {r : BitVec 12} : rRdsr n (wS d.bits r) = .ok (.rdsr n d r) := by
  simp [rRdsr, rDest, rZero]
theorem rWrsr_wS {r : BitVec 12} : rWrsr n (wS f.bits r) = .ok (.wrsr n r f) := by
  simp [rWrsr, rZero]

section
variable {r : BitVec 5}

theorem rG_wG {k : BitVec 5 → Opnd → Instr} : rG (wG f.bits r 0) k = .ok (k r f) := by
  simp [rG, rZero]
theorem rRstat_wG : rRstat n (wG d.bits r 0) = .ok (.rstat n d r) := by
  simp [rRstat, rDest, rZero]
theorem rRbind_wG {l : Role} : rRbind n (wG f.bits r l.bits) = .ok (.rbind n r f l) := by
  simp [rRbind, rMod]

end

theorem rC_wC {k : Opnd → Fmt → Fmt → Bool → Bool → Instr} {t s : Fmt} {z hi : Bool}
    (h : (k f t s z hi).wellFormed = true) : rC (wC f.bits t.bits s.bits z hi) k = .ok (k f t s z hi) := by
  simp [rC, h, -BitVec.getLsbD_eq_getElem]

end

/-! ### Each instruction is read back -/

/-- The opcode map applied to the fields of a word (12 R303, R307). -/
def decodeFields (n : Nib) (op : Nat) (p : BitVec 20) (x : IWord) : Dec :=
  match op / 32 with
  | 0 => decControl n op p x
  | 1 => decScalar n op p x
  | 2 => decImm n op p x
  | 3 => decMem n op p x
  | 4 => decSync n op p x
  | 5 => decVec n op p x
  | 6 => decVecMem n op p x
  | _ => decSys n op p x

/-- A word's fields stand where the encoder puts them (12 R300). -/
theorem fields_long (n : Nib) (op : BitVec 8) (p : BitVec 20) (x : IWord) :
    (long n op p x).1.extractLsb' 28 4 = n.bits ∧ opcodeOf (long n op p x).1 = op.toNat ∧ payloadOf (long n op p x).1 = p :=
  ⟨(extractLsb'_append_eq_of_le (by decide)).trans extractLsb'_append_eq_left, Machine.opcodeOf_long n op p x,
    extractLsb'_append_eq_right⟩

theorem decode_long (n : Nib) (op : BitVec 8) (p : BitVec 20) (x : IWord) :
    decode (long n op p x).1 x = decodeFields n op.toNat p x := by
  obtain ⟨hn, ho, hp⟩ := fields_long n op p x
  rw [decode, hn, ho, hp, Nib.ofBits_bits]
  rfl

/-- The words of the instruction are read back, and their opcode is assigned and of the instruction's length (12 R303-R307). -/
def RoundTrip (i : Instr) : Prop :=
  ∃ w x, encode i = some (w, x) ∧ decode w x = .ok i ∧ (i.isLong = false → x = 0)
    ∧ opcodeLong (opcodeOf w) = i.isLong ∧ opcodeAssigned (opcodeOf w) = true

section
variable {i : Instr} {n : Nib} {op : BitVec 8} {p : BitVec 20} {x : IWord}

theorem RoundTrip.long (he : encode i = some (long n op p x)) (hd : decodeFields n op.toNat p x = .ok i)
    (hi : i.isLong = true) (hl : opcodeLong op.toNat = true) (ha : opcodeAssigned op.toNat = true) : RoundTrip i := by
  obtain ⟨-, ho, -⟩ := fields_long n op p x
  exact ⟨_, x, he, (decode_long n op p x).trans hd, fun h => absurd (h.symm.trans hi) Bool.false_ne_true,
    (congrArg opcodeLong ho).trans (hl.trans hi.symm), (congrArg opcodeAssigned ho).trans ha⟩

theorem RoundTrip.short (he : encode i = some (short n op p)) (hd : decodeFields n op.toNat p 0 = .ok i)
    (hl : opcodeLong op.toNat = i.isLong) (ha : opcodeAssigned op.toNat = true) : RoundTrip i := by
  obtain ⟨-, ho, -⟩ := fields_long n op p 0
  exact ⟨_, 0, he, (decode_long n op p 0).trans hd, fun _ => rfl, (congrArg opcodeLong ho).trans hl,
    (congrArg opcodeAssigned ho).trans ha⟩

end

/-- A payload that is one offset. -/
theorem ok_offset {k : BitVec 20 → Instr} {o : BitVec 20} : (.ok (k (o.extractLsb' 0 20)) : Dec) = .ok (k o) := by
  rw [BitVec.extractLsb'_eq_self]

/-- Every well-formed word is read back, by its payload format (12 R301, R307). -/
theorem roundTrip {i : Instr} (hw : i.isWord = true) (hf : i.wellFormed = true) : RoundTrip i := by
  cases i with
  | nop | tend | yield | segend | fence | mswap | eret | crclose | vote => exact .short rfl rZ_zero rfl rfl
  | br | call | loop => exact .short rfl ok_offset rfl rfl
  | seg => exact .long rfl (ok_offset (k := (.seg _ · _))) rfl rfl rfl
  | beq | bne | blt | bge | bltu | bgeu => exact .short rfl rB2_wB2 rfl rfl
  | stb | sth | stw | std | vst => exact .short rfl rB2_wB2_swapped rfl rfl
  | bz | bnz | calli | jmpi | addi | andi | ori | xori => exact .short rfl rAI_wAI rfl rfl
  | ret | mma | gmma | mconv | mepi | gath | strsub | strdrop | coll | launch | gang | spawn | cancel | phend | snap | snapld =>
    exact .short rfl rAI_wAI_zero rfl rfl
  | setlc | rel | unbind | cflush | cinv | ffill | vhist | jdec => exact .short rfl rNoD_wA rfl rfl
  | stage => exact .short rfl rStage_wAI rfl rfl
  | add | sub | mul | and | or | xor | andn | shl | shr | sra | rot
  | vadd | vsub | vmul | vmin | vmax | vdiv | vextr | vperm => exact .short rfl rA2_wA rfl rfl
  | mulh n m | div n m | rem n m | min n m | max n m | cmp n m
  | aadd n m | amin n m | amax n m | aminu n m | amaxu n m | aand n m | aor n m | axor n m | aswap n m
  | vcmp n m | viadd n m | visub n m | vimul n m | vlogic n m | vshift n m | viminmax n m | vldx n m | vpack n m =>
    exact .short rfl (rA2m_wA m.ofBits_bits) rfl rfl
  | clz | ctz | popc | mov | acq | ftest | vsqrt | vrcp | vrsq | vexp2 | vlog2 | vbcast | vreds | vamax =>
    exact .short rfl rA2u_wA rfl rfl
  | sext n m | zext n m | vredm n m | vunpk n m => exact .short rfl (rA2um_wA m.ofBits_bits) rfl rfl
  | sel | bind | fwait | vsel | vins | vresid => exact .short rfl rA3_wA rfl rfl
  | cas n m | casw n m | vfma n m | vstx n m => exact .short rfl (rA3m_wA m.ofBits_bits) rfl rfl
  | lea => exact .short rfl rLea_wA rfl rfl
  | red => exact .short rfl rRed_wA rfl rfl
  | vabs => exact .short rfl (rVabs_wA hf) rfl rfl
  | li | viota => exact .short rfl rAId_wAI rfl rfl
  | liw => exact .long rfl rLiw_wAI rfl rfl rfl
  | lihi => exact .long rfl rLihi_wB2 rfl rfl rfl
  | shli | shri | srai => exact .short rfl rAIsh_wAI rfl rfl
  | cmpi => exact .short rfl rCmpi_wAI rfl rfl
  | qput => exact .short rfl rQput_wQ rfl rfl
  | qget | qpeek | qcnt => exact .short rfl rQd_wQ rfl rfl
  | rdsr => exact .short rfl rRdsr_wS rfl rfl
  | wrsr => exact .short rfl rWrsr_wS rfl rfl
  | tsig | twait => exact .short rfl (rTok_wAI (by simpa [Instr.wellFormed] using hf)) rfl rfl
  | ldb | ldh | ldw | ldd | ldc | vld => exact .short rfl rB2d_wB2 rfl rfl
  | ldq | ldvq | stvq => exact .short rfl (rQm_wQ hf) rfl rfl
  | stt => exact .long rfl rStt_wB2 rfl rfl rfl
  | pref => exact .short rfl rPref_wB2 rfl rfl
  | xfence => exact .short rfl rXfence_wAI rfl rfl
  | rclaim | rfill | rwaitf | rtake | rfree | rwaite => exact .short rfl rG_wG rfl rfl
  | rstat => exact .short rfl rRstat_wG rfl rfl
  | rbind => exact .short rfl rRbind_wG rfl rfl
  | bararr | barsync => exact .short rfl rBar_wAI rfl rfl
  | barwait => exact .short rfl rBarwait_wAI rfl rfl
  | wpwait | copy | copym => exact .short rfl rCtx_wAI rfl rfl
  | vsett => exact .short rfl (rVsett_wAI hf) rfl rfl
  | vcvt | vquant | vdeq => exact .short rfl (rC_wC hf) rfl rfl
  | vtopk => exact .short rfl (rVtopk_wAI (by simpa [Instr.wellFormed] using hf)) rfl rfl
  | mzero => exact .short rfl rMzero_wAI rfl rfl
  | mstatr => exact .short rfl rMstatr_wAI rfl rfl
  | svc | trap => exact .short rfl rImm_wAI rfl rfl
  | cropen => exact .long rfl rZ_zero rfl rfl rfl
  | tlbinvRange => exact .short rfl rTlbinv_range rfl rfl
  | tlbinvJob => exact .short rfl rTlbinv_job rfl rfl
  | tlbinvAll => exact .short rfl rTlbinv_all rfl rfl
  | _ => cases hw

/-- Words have an encoding, and event rows none (12 R303). -/
theorem isSome_encode (i : Instr) : (encode i).isSome = i.isWord := by
  cases i <;> rfl

/-- Settles O23: each payload format is read back, and the opcode map names the format of each instruction. -/
theorem decodeEncode : Obligations.DecodeEncode := by
  refine fun i => ⟨roundTrip, fun he => ?_⟩
  have hw : (encode i).isSome = false := by rw [isSome_encode, Instr.isWord, he, Bool.not_true]
  exact Option.isNone_iff_eq_none.mp (Option.isSome_eq_false_iff.mp hw)

/-- Settles O22: the decoder evaluated at each word. -/
theorem decodeWords : Obligations.DecodeWords := by
  unfold Obligations.DecodeWords
  decide

end Sys2Proof
end

section
/-! PROOFS. The gates that a word meets before it issues (12 R305, 07 R171, R173, R183). -/

namespace Sys2Proof.Machine

/-! ### Every word issues by the shared rule -/

section
variable {i : Instr} {n : Nib} {w g : Option (Bool × Nat)} {d : Option RDest} {r : Reads} {eff : State → Thread → Res} {s : State}

theorem nibOf_of_encode {op : BitVec 8} {p : BitVec 20} {x : IWord} (he : encode i = some (long n op p x)) : nibOf i = n := by
  rw [nibOf, wordsOf, he, Option.getD_some, (fields_long n op p x).1, Nib.ofBits_bits]

/-- The word issues by the shared rule, with the nibble that its encoding holds. -/
def IssuesByRule (i : Instr) (s : State) : Prop :=
  ∃ w g d r eff, exec i s = .next (issueFull i (nibOf i) w g d r eff s)

theorem IssuesByRule.of_encode {op : BitVec 8} {p : BitVec 20} {x : IWord} (he : encode i = some (long n op p x))
    (hx : exec i s = .next (issueFull i n w g d r eff s)) : IssuesByRule i s :=
  ⟨w, g, d, r, eff, by rw [nibOf_of_encode he, hx]⟩

/-- Every word but VOTE, whose pair has a rule of its own (18 R444). -/
theorem issuesByRule (s : State) (hw : i.isWord = true) (hv : i ≠ .vote) : IssuesByRule i s := by
  cases i <;> cases hw
  case vote => exact absurd rfl hv
  all_goals exact .of_encode rfl rfl

/-! ### Token waits -/

theorem demand_append (l m : List (BitVec 3 × Nat)) (k : BitVec 3) : demand (l ++ m) k = demand l k + demand m k := by
  simp [demand]

/-- More waits are met only where fewer are. -/
theorem waitsMet_of_append {tok : Vector (BitVec 4) (2 ^ 3)} {l m : List (BitVec 3 × Nat)} (h : waitsMet tok (l ++ m) = true) :
    waitsMet tok l = true := by
  simp only [waitsMet, List.all_eq_true, decide_eq_true_eq, demand_append] at h ⊢
  exact fun k hk => le_trans (Nat.le_add_right _ _) (h k (List.mem_append_left m hk))

/-- A word waits for its nibble's tokens and for its own count (14 R358). -/
theorem waitsOf_eq_append (q : Seq) : waitsOf q n w = waitsOf q n none ++ waitsOf q .none w := by
  simp [waitsOf, Nib.none]

/-- A nibble's wait that is not met leaves a word waiting, whatever it waits for beside (07 R173, 14 R358). -/
theorem waitsMet_extra {tok : Vector (BitVec 4) (2 ^ 3)} {q : Seq} (h : waitsMet tok (waitsOf q n none) = false) :
    waitsMet tok (waitsOf q n w) = false := by
  rw [waitsOf_eq_append]
  exact Bool.eq_false_iff.mpr fun hc => Bool.eq_false_iff.mp h (waitsMet_of_append hc)

/-! ### The rule's answers before a word issues -/

theorem issueFull_of_not_ready (h : ready s s.turn = false) : issueFull i n w g d r eff s = s := by
  simp [issueFull, h]

section
variable (hr : ready s s.turn = true)
include hr

theorem issueFull_of_squashed (hq : squashed (getSeq s s.turn) i = true) : issueFull i n w g d r eff s =
    if waitsMet (turnSlot s).tok (waitsOf s.turn.seq n none) then
      retireWord (pushVoid s s.turn d) s.turn (wordsOf i) (waitsOf s.turn.seq n none) (sigsOf s.turn.seq n none) none
    else stall s s.turn true := by
  unfold getSeq at hq
  simp only [issueFull, hr, hq, Bool.not_true, Bool.false_eq_true, if_false, if_true]
  rfl

variable (hq : squashed (getSeq s s.turn) i = false)
include hq

theorem issueFull_of_decodeTrap {tr : Trap} (hd : decodeTrap i s.turn.seq (turnSlot s).supMode = some tr) :
    issueFull i n w g d r eff s = takeTrap (stall s s.turn false) s.turn.slot s.turn.seq (getSeq s s.turn).pc tr := by
  unfold getSeq at hq ⊢
  unfold turnSlot at hd
  simp [issueFull, hr, hq, hd]

theorem issueFull_of_tokens_missing (hd : decodeTrap i s.turn.seq (turnSlot s).supMode = none)
    (hw : waitsMet (turnSlot s).tok (waitsOf s.turn.seq n none) = false) :
    issueFull i n w g d r eff s = stall s s.turn true := by
  have hw' : waitsMet (turnSlot s).tok (waitsOf s.turn.seq n w) = false := waitsMet_extra hw
  unfold getSeq at hq
  unfold turnSlot at hd hw'
  simp [issueFull, hr, hq, hd, hw']

end
end

/-! ### The decoder's traps, in their order (12 R305) -/

section
variable {i : Instr} {q : Seq} {sup : Bool}

theorem decodeTrap_of_not_permitted (h : opcodePermits (opcodeOf (wordsOf i).1) q = false) :
    decodeTrap i q sup = some { cause := 2 } := by
  simp [decodeTrap, h]

variable (hp : opcodePermits (opcodeOf (wordsOf i).1) q = true)
include hp

theorem decodeTrap_of_role_fails (h : queueRoleFails q (wordsOf i).1 = true) : decodeTrap i q sup = some { cause := 2 } := by
  simp [decodeTrap, hp, h]

variable (hq : queueRoleFails q (wordsOf i).1 = false)
include hq

theorem decodeTrap_of_bad_encoding (h : (i.wellFormed && queueKindOk q i && !srIllegal i) = false) :
    decodeTrap i q sup = some { cause := 1 } := by
  have hnot : (!i.wellFormed || !queueKindOk q i || srIllegal i) = !(i.wellFormed && queueKindOk q i && !srIllegal i) := by simp
  have hbad : (!i.wellFormed || !queueKindOk q i || srIllegal i) = true := by rw [hnot, h]; rfl
  simp only [decodeTrap, hp, hq, hbad, Bool.not_true, Bool.false_eq_true, if_false, if_true]

variable (he : (i.wellFormed && queueKindOk q i && !srIllegal i) = true)
include he

theorem decodeTrap_of_encoding : decodeTrap i q sup =
    if ((opcodeSupervisor (opcodeOf (wordsOf i).1) || srPrivileged i) && !sup) = true then some { cause := 3 } else none := by
  simp only [Bool.and_eq_true, Bool.not_eq_true'] at he
  obtain ⟨⟨hf, hk⟩, hs⟩ := he
  simp only [decodeTrap, hp, hq, hf, hk, hs, Bool.not_true, Bool.or_self, Bool.false_eq_true, if_false]

end

/-- Settles O19: each gate of the shared rule, for a word that issues by it. -/
theorem wordGates : Obligations.WordGates := by
  intro i s hw hv t x q e n ws trapped
  obtain ⟨w, g, d, r, eff, hx⟩ := issuesByRule s hw hv
  refine ⟨fun hr => ?_, fun hr hq => ?_, fun hr hq => ?_⟩
  · rw [hx, issueFull_of_not_ready hr]
  · rw [hx, issueFull_of_squashed hr hq]
    exact ⟨fun hm => ⟨d, congrArg _ (if_pos hm)⟩, fun hm => congrArg _ (if_neg (ne_true_of_eq_false hm))⟩
  have traps {c : Nat} (hd : decodeTrap i t.seq x.supMode = some { cause := c }) : trapped c :=
    hx.trans (congrArg _ (issueFull_of_decodeTrap hr hq hd))
  refine ⟨fun hp => traps (decodeTrap_of_not_permitted hp), fun hp hf => traps (decodeTrap_of_role_fails hp hf),
    fun hp hf => ⟨fun he => traps (decodeTrap_of_bad_encoding hp hf he), fun he => ⟨fun hs hu => ?_, fun hs hm => ?_⟩⟩⟩
  · have hpriv : ((opcodeSupervisor (opcodeOf e) || srPrivileged i) && !x.supMode) = true := by rw [hs, hu]; rfl
    exact traps ((decodeTrap_of_encoding hp hf he).trans (if_pos hpriv))
  · have hpriv : ¬ ((opcodeSupervisor (opcodeOf e) || srPrivileged i) && !x.supMode) = true := by
      rcases hs with hs | hs <;> simp [hs]
    have hd : decodeTrap i t.seq x.supMode = none := (decodeTrap_of_encoding hp hf he).trans (if_neg hpriv)
    rw [hx, issueFull_of_tokens_missing hr hq hd hm]

end Sys2Proof.Machine
end

section
/-! PROOFS. The scalar operations as arithmetic on the values of words (14 R348, R349, R351). -/

namespace Sys2Proof.Machine

/-! ### Sums, products and shifts -/

section
variable (x y : Word)

theorem word_add : x + y = BitVec.ofNat 64 (x.toNat + y.toNat) := by
  simp [BitVec.ofNat_add]

theorem word_sub : x - y = BitVec.ofInt 64 ((x.toNat : Int) - y.toNat) := by
  simp [BitVec.sub_eq_add_neg, Int.sub_eq_add_neg, BitVec.ofInt_add, BitVec.ofInt_neg]

theorem word_mul : x * y = BitVec.ofNat 64 (x.toNat * y.toNat) := by
  simp [BitVec.ofNat_mul]

theorem word_add_signExtend {w : Nat} (i : BitVec w) : x + i.signExtend 64 = BitVec.ofInt 64 (x.toNat + i.toInt) := by
  simp [BitVec.ofInt_add, BitVec.signExtend]

theorem word_shiftLeft (k : Nat) : x <<< k = BitVec.ofNat 64 (x.toNat * 2 ^ k) :=
  BitVec.eq_of_toNat_eq (by simp [Nat.shiftLeft_eq])

theorem word_shiftRight (k : Nat) : x >>> k = BitVec.ofNat 64 (x.toNat / 2 ^ k) := by
  rw [← Nat.shiftRight_eq_div_pow, ← BitVec.toNat_ushiftRight, BitVec.ofNat_toNat, BitVec.setWidth_eq]

theorem word_sshiftRight (k : Nat) : x.sshiftRight k = BitVec.ofInt 64 (x.toInt / 2 ^ k) := by
  rw [BitVec.sshiftRight, Int.shiftRight_eq_div_pow]
  norm_cast

/-- A shift count is b[5:0]. -/
theorem shiftAmt_eq : shiftAmt y = y.toNat % 64 := by
  simp [shiftAmt]

theorem word_scaled (k : Nat) : x <<< k = x * BitVec.ofNat 64 (2 ^ k) := by
  rw [word_shiftLeft, BitVec.ofNat_mul, BitVec.ofNat_toNat, BitVec.setWidth_eq]

theorem append_low (i : BitVec 32) :
    i ++ x.extractLsb' 0 32 = BitVec.ofNat 64 (x.toNat % 2 ^ 32 + i.toNat * 2 ^ 32) := by
  have hlow : x.toNat % 2 ^ 32 < 2 ^ 32 := Nat.mod_lt _ (by positivity)
  have hall : x.toNat % 2 ^ 32 + i.toNat * 2 ^ 32 < 2 ^ 64 := by omega
  refine BitVec.eq_of_toNat_eq ?_
  rw [BitVec.toNat_append, BitVec.extractLsb'_toNat, Nat.shiftRight_zero, ← Nat.shiftLeft_add_eq_or_of_lt hlow, Nat.shiftLeft_eq,
    BitVec.toNat_ofNat, Nat.mod_eq_of_lt hall, Nat.add_comm]

/-! ### The high half of a product -/

theorem highHalf_ofInt (z : Int) : ((BitVec.ofInt 128 z) >>> 64).setWidth 64 = BitVec.ofInt 64 (z / 2 ^ 64) := by
  refine BitVec.eq_of_toNat_eq ?_
  simp only [BitVec.toNat_setWidth, BitVec.toNat_ushiftRight, BitVec.toNat_ofInt, Nat.shiftRight_eq_div_pow]
  omega

theorem setWidth_eq_ofInt : x.setWidth 128 = BitVec.ofInt 128 x.toNat := by
  simp

theorem mulHigh_ss : mulHigh .ss x y = BitVec.ofInt 64 (x.toInt * y.toInt / 2 ^ 64) := by
  rw [← highHalf_ofInt, BitVec.ofInt_mul]
  rfl

theorem mulHigh_su : mulHigh .su x y = BitVec.ofInt 64 (x.toInt * y.toNat / 2 ^ 64) := by
  rw [← highHalf_ofInt, BitVec.ofInt_mul, ← setWidth_eq_ofInt]
  rfl

theorem mulHigh_uu : mulHigh .uu x y = BitVec.ofNat 64 (x.toNat * y.toNat / 2 ^ 64) := by
  have h : mulHigh .uu x y = BitVec.ofInt 64 (x.toNat * y.toNat / 2 ^ 64 : Int) := by
    rw [← highHalf_ofInt, BitVec.ofInt_mul, ← setWidth_eq_ofInt, ← setWidth_eq_ofInt]
    rfl
  rw [h, ← BitVec.ofInt_natCast]
  norm_cast

/-! ### Division -/

theorem divWord_u : divWord .u x y = if y = 0 then BitVec.ofNat 64 (2 ^ 64 - 1) else BitVec.ofNat 64 (x.toNat / y.toNat) :=
  ite_congr rfl (fun _ => rfl) fun _ => BitVec.udiv_def

theorem remWord_u : remWord .u x y = if y = 0 then x else BitVec.ofNat 64 (x.toNat % y.toNat) :=
  ite_congr rfl (fun _ => rfl) fun _ => BitVec.umod_def

/-- The quotient is rounded towards zero, and -2^63 by -1 wraps to -2^63. -/
theorem divWord_s :
    divWord .s x y = if y = 0 then BitVec.ofNat 64 (2 ^ 64 - 1) else BitVec.ofInt 64 (x.toInt.tdiv y.toInt) :=
  ite_congr rfl (fun _ => rfl) fun _ =>
    BitVec.eq_of_toInt_eq ((BitVec.toInt_sdiv x y).trans (BitVec.toInt_ofInt _).symm)

theorem remWord_s : remWord .s x y = if y = 0 then x else BitVec.ofInt 64 (x.toInt.tmod y.toInt) :=
  ite_congr rfl (fun _ => rfl) fun _ => by rw [← BitVec.toInt_srem, BitVec.ofInt_toInt]

/-! ### Comparisons -/

theorem minWord_s : minWord .s x y = if y.toInt < x.toInt then y else x := by
  simp [minWord, BitVec.slt_iff_toInt_lt]

theorem minWord_u : minWord .u x y = if y.toNat < x.toNat then y else x := by
  simp [minWord, BitVec.ult_iff_toNat_lt]

theorem maxWord_s : maxWord .s x y = if x.toInt < y.toInt then y else x := by
  simp [maxWord, BitVec.slt_iff_toInt_lt]

theorem maxWord_u : maxWord .u x y = if x.toNat < y.toNat then y else x := by
  simp [maxWord, BitVec.ult_iff_toNat_lt]

theorem beq_iff_toNat_eq : (x == y) = true ↔ x.toNat = y.toNat :=
  beq_iff_eq.trans BitVec.toNat_inj.symm

theorem bne_iff_toNat_ne : (x != y) = true ↔ x.toNat ≠ y.toNat :=
  bne_iff_ne.trans BitVec.toNat_inj.symm.not

theorem slt_signExtend_iff (i : BitVec 12) : x.slt (i.signExtend 64) = true ↔ x.toInt < i.toInt := by
  rw [BitVec.slt_iff_toInt_lt, BitVec.toInt_signExtend_of_le (by decide)]

theorem not_slt_iff : (!x.slt y) = true ↔ y.toInt ≤ x.toInt := by
  rw [Bool.not_eq_true', ← Bool.not_eq_true, BitVec.slt_iff_toInt_lt, not_lt]

theorem not_ult_iff : (!x.ult y) = true ↔ y.toNat ≤ x.toNat := by
  rw [Bool.not_eq_true', ← Bool.not_eq_true, BitVec.ult_iff_toNat_lt, not_lt]

theorem flagWord_eq_ite {b : Bool} {c : Prop} [Decidable c] (h : b = true ↔ c) : flagWord b = if c then 1 else 0 := by
  simp only [flagWord, h]

end

/-! ### Counts of bits -/

section
variable (x : Word)

/-- The low bits of a value, by the bit above them. -/
theorem mod_two_pow_getLsbD (n : Nat) : x.toNat % 2 ^ (n + 1) = x.toNat % 2 ^ n + 2 ^ n * (x.getLsbD n).toNat := by
  rw [Nat.mod_pow_succ, BitVec.getLsbD, Nat.toNat_testBit]

theorem leadZeros_le (n : Nat) : leadZeros x n ≤ n := by
  induction n with
  | zero => exact le_rfl
  | succ n ih =>
    unfold leadZeros
    split
    · exact Nat.zero_le _
    · exact Nat.succ_le_succ ih

theorem lt_of_leadZeros (n : Nat) : x.toNat % 2 ^ n < 2 ^ (n - leadZeros x n) := by
  induction n with
  | zero => simp [leadZeros, Nat.mod_one]
  | succ n ih =>
    unfold leadZeros
    split
    · exact Nat.mod_lt _ (by positivity)
    · next h => simpa [mod_two_pow_getLsbD, h] using ih

/-- Below the leading zeros stands a bit that is set. -/
theorem le_of_leadZeros (n : Nat) (h : x.toNat % 2 ^ n ≠ 0) : 2 ^ (n - 1 - leadZeros x n) ≤ x.toNat % 2 ^ n := by
  induction n with
  | zero => exact absurd (Nat.mod_one _) h
  | succ n ih =>
    rw [mod_two_pow_getLsbD] at h ⊢
    unfold leadZeros
    split
    · next hb => simp [hb]
    · next hb =>
      have hn : n + 1 - 1 - (leadZeros x n + 1) = n - 1 - leadZeros x n := by omega
      rw [Bool.not_eq_true] at hb
      rw [hb, Bool.toNat_false, Nat.mul_zero, Nat.add_zero] at h ⊢
      rw [hn]
      exact ih h

theorem trailZeros_le (i n : Nat) : trailZeros x i n ≤ n := by
  induction n generalizing i with
  | zero => exact le_rfl
  | succ n ih =>
    unfold trailZeros
    split
    · exact Nat.zero_le _
    · exact Nat.succ_le_succ (ih _)

theorem two_pow_succ_dvd_iff {i : Nat} (h : 2 ^ i ∣ x.toNat) : 2 ^ (i + 1) ∣ x.toNat ↔ x.getLsbD i = false := by
  rw [Nat.dvd_iff_mod_eq_zero, mod_two_pow_getLsbD, Nat.mod_eq_zero_of_dvd h]
  cases x.getLsbD i <;> simp

theorem dvd_of_trailZeros {i : Nat} (n : Nat) (h : 2 ^ i ∣ x.toNat) : 2 ^ (i + trailZeros x i n) ∣ x.toNat := by
  induction n generalizing i with
  | zero => exact h
  | succ n ih =>
    unfold trailZeros
    split
    · exact h
    · next hb =>
      rw [Nat.add_comm (trailZeros x (i + 1) n), ← Nat.add_assoc]
      exact ih ((two_pow_succ_dvd_iff x h).2 (by simpa using hb))

/-- Above the trailing zeros, where they end among the n bits from bit i up, stands a bit that is set. -/
theorem not_dvd_of_trailZeros {i : Nat} (n : Nat) (h : 2 ^ i ∣ x.toNat) (hz : trailZeros x i n < n) :
    ¬ 2 ^ (i + trailZeros x i n + 1) ∣ x.toNat := by
  induction n generalizing i with
  | zero => exact absurd hz (Nat.not_lt_zero _)
  | succ n ih =>
    unfold trailZeros at hz ⊢
    split
    · next hb => exact fun hd => absurd ((two_pow_succ_dvd_iff x h).1 hd) (by simp [hb])
    · next hb =>
      rw [if_neg hb] at hz
      rw [Nat.add_comm (trailZeros x (i + 1) n), ← Nat.add_assoc]
      exact ih ((two_pow_succ_dvd_iff x h).2 (by simpa using hb)) (by omega)

theorem trailZeros_zero (i n : Nat) : trailZeros 0 i n = n := by
  induction n generalizing i with
  | zero => rfl
  | succ n ih => rw [trailZeros, if_neg (by simp), ih]

theorem popCount_eq (n : Nat) : popCount x n = ((List.range n).filter fun i => x.getLsbD i).length := by
  induction n with
  | zero => rfl
  | succ n ih =>
    rw [popCount, ih, List.range_succ, List.filter_append, List.length_append, Nat.add_comm]
    cases h : x.getLsbD n <;> simp [h]

/-! ### Extensions of a low field -/

theorem lowField_signExtend (w : Nat) (h : w ≤ 64) : (x.extractLsb' 0 w).signExtend 64 = (x.setWidth w).signExtend 64 := by
  rw [BitVec.setWidth_eq_extractLsb' h]

theorem lowField_setWidth (w : Nat) : (x.extractLsb' 0 w).setWidth 64 = BitVec.ofNat 64 (x.toNat % 2 ^ w) := by
  rw [← BitVec.ofNat_toNat, BitVec.extractLsb'_toNat, Nat.shiftRight_zero]

end

end Sys2Proof.Machine
end

section
/-! PROOFS. Scalar words and immediates complete with their result (14 R348-R352). -/

namespace Sys2Proof.Machine

section
variable {i : Instr} {n : Nib} {d : Dest} {a b c : Opnd} {s : State} {w : Word}

theorem yields_alu0 (he : exec i s = issueAlu i n (alu0 d w) s) : yields i n {} s (putResult s s.turn d w) :=
  yields_of_eval he rfl

theorem yields_alu1 {f : Word → Word} (he : exec i s = issueAlu i n (alu1 d a f) s) (h : f (srcVal s s.turn a) = w) :
    yields i n (sources [a]) s (putResult s s.turn d w) := by
  subst h
  exact yields_of_eval he rfl

theorem yields_alu2 {f : Word → Word → Word} (he : exec i s = issueAlu i n (alu2 d a b f) s)
    (h : f (srcVal s s.turn a) (srcVal s s.turn b) = w) : yields i n (sources [a, b]) s (putResult s s.turn d w) := by
  subst h
  exact yields_of_eval he rfl

theorem yields_alu3 {f : Word → Word → Word → Word} (he : exec i s = issueAlu i n (alu3 a b c f) s)
    (h : f (srcVal s s.turn a) (srcVal s s.turn b) (srcVal s s.turn c) = w) :
    yields i n (sources [a, b, c]) s (putResult s s.turn .push w) := by
  subst h
  exact yields_of_eval he rfl

end

/-- Settles O1: each word is one of two sources, and its operation is the arithmetic on their values. -/
theorem scalarBinaryResults : Obligations.ScalarBinaryResults := by
  intro n d a b s x y r put
  have ht : y.toNat % 64 = shiftAmt y := (shiftAmt_eq y).symm
  rw [ht]
  exact ⟨yields_alu2 rfl (word_add x y), yields_alu2 rfl (word_sub x y), yields_alu2 rfl (word_mul x y),
    yields_alu2 rfl (mulHigh_ss x y), yields_alu2 rfl (mulHigh_uu x y), yields_alu2 rfl (mulHigh_su x y),
    yields_alu2 rfl rfl, yields_alu2 rfl rfl, yields_alu2 rfl rfl, yields_alu2 rfl rfl,
    yields_alu2 rfl (word_shiftLeft x _), yields_alu2 rfl (word_shiftRight x _), yields_alu2 rfl (word_sshiftRight x _),
    yields_alu2 rfl rfl,
    yields_alu2 rfl (minWord_s x y), yields_alu2 rfl (minWord_u x y), yields_alu2 rfl (maxWord_s x y),
    yields_alu2 rfl (maxWord_u x y),
    yields_alu2 rfl (flagWord_eq_ite (beq_iff_toNat_eq x y)), yields_alu2 rfl (flagWord_eq_ite BitVec.slt_iff_toInt_lt),
    yields_alu2 rfl (flagWord_eq_ite BitVec.ult_iff_toNat_lt), yields_alu2 rfl (flagWord_eq_ite (bne_iff_toNat_ne x y)),
    fun m => yields_alu2 rfl (congrArg (x + ·) (word_scaled y m.toNat))⟩

/-- Settles O2: quotient and remainder of either signedness, division by zero among them. -/
theorem divisionResults : Obligations.DivisionResults := by
  intro n d a b s x y r put
  exact ⟨yields_alu2 rfl (divWord_u x y), yields_alu2 rfl (remWord_u x y), yields_alu2 rfl (divWord_s x y),
    yields_alu2 rfl (remWord_s x y)⟩

/-- Settles O3: the counts of zeros by the powers of two that bound or divide the value. -/
theorem scalarUnaryResults : Obligations.ScalarUnaryResults := by
  intro n d a b c s x r put
  have hx : x.toNat % 2 ^ 64 = x.toNat := Nat.mod_eq_of_lt x.isLt
  have hne (h : x ≠ 0) : x.toNat ≠ 0 := fun h0 => h (BitVec.eq_of_toNat_eq h0)
  have hdvd : 2 ^ trailZeros x 0 64 ∣ x.toNat := by simpa using dvd_of_trailZeros x (i := 0) 64 (by simp)
  refine ⟨⟨leadZeros x 64, yields_alu1 rfl rfl, leadZeros_le x 64, ?_, fun h => ?_⟩,
    ⟨trailZeros x 0 64, yields_alu1 rfl rfl, trailZeros_le x 0 64, hdvd, fun h => ?_, fun h => ?_⟩,
    yields_alu1 rfl (congrArg _ (popCount_eq x 64)), yields_alu1 rfl (lowField_signExtend x 8 (by decide)),
    yields_alu1 rfl (lowField_signExtend x 16 (by decide)), yields_alu1 rfl (lowField_signExtend x 32 (by decide)),
    yields_alu1 rfl (lowField_setWidth x 8), yields_alu1 rfl (lowField_setWidth x 16), yields_alu1 rfl (lowField_setWidth x 32),
    yields_alu1 rfl rfl, yields_alu3 rfl (ite_not ..).symm⟩
  · simpa only [hx] using lt_of_leadZeros x 64
  · simpa only [hx] using le_of_leadZeros x 64 (hx.symm ▸ hne h)
  · rw [h, trailZeros_zero]
  · have hz : trailZeros x 0 64 < 64 := by
      refine lt_of_le_of_ne (trailZeros_le x 0 64) fun h64 => hne h ?_
      rw [h64] at hdvd
      exact Nat.eq_zero_of_dvd_of_lt hdvd x.isLt
    simpa using not_dvd_of_trailZeros x (i := 0) 64 (by simp) hz

/-- Settles O4: immediates are sign-extended, and the operand's own form names the destination. -/
theorem immediateResults : Obligations.ImmediateResults := by
  intro n d f i14 i32 i12 sh s x r inPlace put push
  have hd : inPlace = aiDest f := by cases f <;> rfl
  have hput : put = putResult s s.turn (aiDest f) := by rw [← hd]
  rw [hput]
  exact ⟨yields_alu0 rfl, yields_alu0 rfl, yields_alu1 rfl (append_low x i32), yields_alu1 rfl (word_add_signExtend x i14),
    yields_alu1 rfl rfl, yields_alu1 rfl rfl, yields_alu1 rfl rfl, yields_alu1 rfl (word_shiftLeft x _),
    yields_alu1 rfl (word_shiftRight x _), yields_alu1 rfl (word_sshiftRight x _),
    yields_alu1 rfl (flagWord_eq_ite beq_iff_eq), yields_alu1 rfl (flagWord_eq_ite (slt_signExtend_iff x i12)),
    yields_alu1 rfl (flagWord_eq_ite BitVec.ult_iff_toNat_lt),
    yields_alu1 rfl ((flagWord_eq_ite bne_iff_ne).trans (ite_not ..))⟩

end Sys2Proof.Machine
end

section
/-! PROOFS. The frame of a computing word (14 R348, R350, 16 R390, R392). -/

namespace Sys2Proof.Machine

/-! ### Words that compute -/

/-- A word that VOTE may precede issues as its computation, with the nibble that its encoding holds. -/
theorem exec_of_aluOf {i : Instr} {a : Alu} {s : State} (h : aluOf i = some a) : exec i s = issueAlu i (nibOf i) a s := by
  cases i <;> cases h
  all_goals exact congrArg (issueAlu _ · _ s) (nibOf_of_encode rfl).symm

section
variable {s t u : State} {k : Nat}

theorem State.onlySlot.trans (h : State.onlySlot k s t) (g : State.onlySlot k t u) : State.onlySlot k s u := by
  obtain ⟨hs, hj⟩ := h
  obtain ⟨gs, gj⟩ := g
  refine ⟨?_, fun j hne => (gj j hne).trans (hj j hne)⟩
  rw [gs, hs]

theorem State.onlySlot.mem (h : State.onlySlot k s t) : t.mem = s.mem := (congrArg State.mem h.1 :)

/-- State t is s but for slot k, which is y. -/
def State.setsSlot (k : Nat) (s t : State) (y : Slot) : Prop := State.onlySlot k s t ∧ getSlot t k = y

theorem setsSlot_self : State.setsSlot k s s (getSlot s k) := ⟨⟨rfl, fun _ _ => rfl⟩, rfl⟩

theorem setsSlot_updSlot (f : Slot → Slot) : State.setsSlot k s (updSlot s k f) (f (getSlot s k)) :=
  ⟨⟨updSlot_slots s k f, fun _ hj => (getSlot_updSlot ..).trans (if_neg hj)⟩, (getSlot_updSlot ..).trans (if_pos rfl)⟩

theorem setsSlot_updSeq {th : Thread} (f : SeqSt → SeqSt) :
    State.setsSlot th.slot s (updSeq s th f) ((getSlot s th.slot).setSeq th.seq (f (getSeq s th))) :=
  setsSlot_updSlot fun x => x.setSeq th.seq (f (getSeq s th))

theorem State.setsSlot.trans {x y : Slot} (h : State.setsSlot k s t x) (g : State.setsSlot k t u y) : State.setsSlot k s u y :=
  ⟨h.1.trans g.1, g.2⟩

end

/-! ### What a result changes -/

/-- A slot with a result of its sequencer q in its destination. -/
def Slot.aluWritten (x : Slot) (q : Seq) (v : AVal) (d : Option RDest) : Slot :=
  match v, d with
  | .s w, some (.scalar d) => x.setSeq q (writeS (x.seq q) d (.fresh w))
  | .v w, some (.vector d) => writeV x d (.fresh w)
  | .vtype w, _ => { x with vtype := w }
  | _, _ => x

theorem setSeq_frame (x : Slot) (q : Seq) (v : SeqSt) :
    x.setSeq q v = { x with k := (x.setSeq q v).k, ksup := (x.setSeq q v).ksup, l := (x.setSeq q v).l, c := (x.setSeq q v).c,
                            s := (x.setSeq q v).s } := by
  cases q with
  | K => unfold Slot.setSeq; dsimp only; split <;> rfl
  | L => rfl
  | C => rfl
  | S => rfl

section
variable {s : State} {t : Thread} {g : Word}

/-- A result that raises no flag changes its destination. -/
theorem writeAlu_zero : ∀ (d : Option RDest) (v : AVal),
    State.setsSlot t.slot s (writeAlu s t d v 0) ((getSlot s t.slot).aluWritten t.seq v d)
  | some (.scalar d), .s w => setsSlot_updSeq fun q => writeS q d (.fresh w)
  | some (.vector d), .v w => setsSlot_updSlot fun x => writeV x d (.fresh w)
  | none, .vtype w => setsSlot_updSlot fun x => { x with vtype := w }
  | some (.scalar _), .vtype w => setsSlot_updSlot fun x => { x with vtype := w }
  | some (.vector _), .vtype w => setsSlot_updSlot fun x => { x with vtype := w }
  | none, .s _ => setsSlot_self
  | none, .v _ => setsSlot_self
  | some (.vector _), .s _ => setsSlot_self
  | some (.scalar _), .v _ => setsSlot_self

theorem aluWritten_fpstat (x : Slot) (q : Seq) : ∀ (d : Option RDest) (v : AVal), (x.aluWritten q v d).fpstat = x.fpstat
  | some (.scalar _), .s _ => (congrArg Slot.fpstat (setSeq_frame x q _) :)
  | some (.vector d), .v _ => by cases d <;> rfl
  | none, .vtype _ => rfl
  | some (.scalar _), .vtype _ => rfl
  | some (.vector _), .vtype _ => rfl
  | none, .s _ => rfl
  | none, .v _ => rfl
  | some (.vector _), .s _ => rfl
  | some (.scalar _), .v _ => rfl

/-- The flags of a result go into FPSTAT (16 R392). -/
theorem writeAlu_flags (d : Option RDest) (v : AVal) : writeAlu s t d v g =
    if g = 0 then writeAlu s t d v 0 else updSlot (writeAlu s t d v 0) t.slot fun x => { x with fpstat := x.fpstat ||| g } :=
  rfl

/-- A result and its flags change one slot: its destination and FPSTAT. -/
theorem writeAlu_frame (d : Option RDest) (v : AVal) : State.setsSlot t.slot s (writeAlu s t d v g)
    { (getSlot s t.slot).aluWritten t.seq v d with fpstat := (getSlot s t.slot).fpstat ||| g } := by
  have h := writeAlu_zero (s := s) (t := t) d v
  rw [writeAlu_flags, ← aluWritten_fpstat (getSlot s t.slot) t.seq d v, ← h.2]
  split
  · next hg => exact ⟨h.1, by simp only [hg, BitVec.ofNat_eq_ofNat, BitVec.or_zero]⟩
  · exact h.trans (setsSlot_updSlot fun x => { x with fpstat := x.fpstat ||| g })

end

/-- Settles O10: the word's result changes its destination and FPSTAT, and its retirement what every retirement may change. -/
theorem computeFrame : Obligations.ComputeFrame := by
  intro i a v g s ha hi he
  obtain ⟨hw, hx⟩ := writeAlu_frame (s := s) (t := s.turn) (g := g) a.dst v
  obtain ⟨hr, hm⟩ := retireWord_frame (writeAlu s s.turn a.dst v g) s.turn (wordsOf i) (waitsOf s.turn.seq (nibOf i) none)
    (sigsOf s.turn.seq (nibOf i) none) none
  rw [hx] at hm
  have hs := hw.trans hr
  refine ⟨_, yields_of_eval (exec_of_aluOf ha) he hi, hs, fun l => congrArg (readByte · l) hs.mem,
    (turnSlot s).aluWritten s.turn.seq v a.dst, hm, ?_⟩
  generalize a.dst = d
  cases v with
  | s w => rcases d with _ | d | d <;> rfl
  | v w => rcases d with _ | d | d <;> rfl
  | vtype w => rcases d with _ | d | d <;> rfl

end Sys2Proof.Machine
end

section
/-! PROOFS. Branches, calls and returns (14 R339, R341). -/

namespace Sys2Proof.Machine

section
variable {i : Instr} {n : Nib} {r : Reads} {s : State} {w : Nat} {off : BitVec w}

/-- A conditional transfer, by the condition that it tests. -/
theorem branch_cases {c : Prop} {taken : State → Thread → Bool}
    (he : exec i s = issueWord i n none r (branchEff taken (wordOff off)) s) (hc : taken s s.turn = true ↔ c) :
    (c → jumps i n r s s ((getSeq s s.turn).pc + BitVec.ofInt 64 (4 * off.toInt))) ∧ (¬c → yields i n r s s) := by
  rw [← wordOff_eq_ofInt]
  exact ⟨fun h => jumps_of_jump he (if_pos (hc.2 h)), fun h => yields_of_done he (if_neg fun ht => h (hc.1 ht))⟩

end

/-- Settles O5: each conditional transfer by its comparison, the others at their target. -/
theorem transferResults : Obligations.TransferResults := by
  intro n a b o8 o14 o20 s x y pc to8 to14 to20 two one pushed
  have h20 : pc + wordOff o20 = to20 := congrArg (pc + ·) (wordOff_eq_ofInt o20)
  have h14 : x + wordOff o14 = x + BitVec.ofInt 64 (4 * o14.toInt) := congrArg (x + ·) (wordOff_eq_ofInt o14)
  rw [← h20, ← h14]
  exact ⟨jumps_of_jump rfl rfl, branch_cases rfl (beq_iff_toNat_eq x y), branch_cases rfl (bne_iff_toNat_ne x y),
    branch_cases rfl BitVec.slt_iff_toInt_lt, branch_cases rfl (not_slt_iff x y),
    branch_cases rfl BitVec.ult_iff_toNat_lt, branch_cases rfl (not_ult_iff x y),
    branch_cases rfl beq_iff_eq, branch_cases rfl bne_iff_ne,
    jumps_of_jump rfl rfl, jumps_of_jump rfl rfl, jumps_of_jump rfl rfl, jumps_of_jump rfl rfl⟩

end Sys2Proof.Machine
end

section
/-! PROOFS. Queue words and token words (14 R353, R357, R358). -/

namespace Sys2Proof.Machine

section
variable {s : State} {n : Nib} {k : BitVec 3}

/-- A queue with room takes a QPUT's entry, by the queue's kind and depth (07 R176). -/
theorem pends_qput {f : Opnd} {b : Bool} (hv : vectorQueue k = b)
    (hl : (vget (turnSlot s).queues k).length < if b then 8 else 16) :
    pends (.qput n k f) n (if b then { vectors := [f], checked := false } else { scalars := [f], checked := false }) s
      { updSlot s s.turn.slot fun x => reserve x k s.nextUid none with nextUid := s.nextUid + 1 } s.nextUid
      (.qput k (if b then .v (readV (turnSlot s) f) else .s (readS (getSeq s s.turn) f))) := by
  subst hv
  have hroom : queueFull (getSlot s s.turn.slot) k = false := decide_eq_false (Nat.not_le.2 hl)
  exact pends_of_pend rfl (if_neg (ne_true_of_eq_false hroom))

section
variable {d : Dest} {tag : Nat} {v : QVal} {l : List QEnt} (h : vget (turnSlot s).queues k = { tag, val := some v } :: l)
include h

theorem yields_qget : yields (.qget n d k) n {} s
    (putQVal (updSlot s s.turn.slot fun x => { x with queues := vset x.queues k l }) s.turn d v) := by
  unfold turnSlot at h
  exact yields_of_done rfl (by simp only [qgetEff, h])

theorem yields_qpeek : yields (.qpeek n d k) n {} s (putQVal s s.turn d v) := by
  unfold turnSlot at h
  exact yields_of_done rfl (by simp only [qpeekEff, h])

end

end

/-- Settles O8: what a queue holds decides its words, and a token word is retired with its own count. -/
theorem queueAndTokenWords : Obligations.QueueAndTokenWords := by
  intro n f d k c pred s x l setQueue
  exact ⟨fun hv hl => pends_qput hv hl, fun hv hl => pends_qput hv hl, fun tag w r h => ⟨yields_qget h, yields_qpeek h⟩,
    fun tag w r h => ⟨yields_qget h, yields_qpeek h⟩, yields_of_done rfl rfl,
    fun hi => congrArg Host.Outcome.next (issueFull_of_issues hi), fun hi => congrArg Host.Outcome.next (issueFull_of_issues hi)⟩

end Sys2Proof.Machine
end

section
/-! PROOFS. NOP, TEND, YIELD, SEG and SEGEND (14 R345-R347, 11 R297, R298). -/

namespace Sys2Proof.Machine

/-! ### A slot written twice -/

section
variable {α : Type}

theorem kvErase_kvInsert (a : Nat) (v : α) (l : List (Nat × α)) : kvErase (kvInsert a v l) a = kvErase l a := by
  induction l with
  | nil => simp [kvInsert, kvErase]
  | cons e l ih =>
    unfold kvErase at ih ⊢
    unfold kvInsert
    split
    · simp
    split
    · next h => simp [← h]
    · simp [List.filter_cons, ih]

theorem kvInsert_kvInsert (a : Nat) (v w : α) (l : List (Nat × α)) : kvInsert a w (kvInsert a v l) = kvInsert a w l := by
  induction l with
  | nil => simp [kvInsert]
  | cons e l ih =>
    obtain ⟨k, x⟩ := e
    rcases lt_trichotomy a k with h | h | h
    · simp [kvInsert, h]
    · simp [kvInsert, h]
    · simp [kvInsert, h.not_gt, h.ne', ih]

/-- The second of two writes counts, where the first lists its key. -/
theorem kvSet_kvSet [DecidableEq α] {d v : α} (hv : v ≠ d) (l : List (Nat × α)) (a : Nat) (w : α) :
    kvSet d (kvSet d l a v) a w = kvSet d l a w := by
  simp only [kvSet, if_neg hv, kvErase_kvInsert, kvInsert_kvInsert]

end

theorem setSeq_setSeq (x : Slot) (q : Seq) (u v : SeqSt) : (x.setSeq q u).setSeq q v = x.setSeq q v := by
  cases q with
  | K => unfold Slot.setSeq; dsimp only; split <;> rfl
  | L => rfl
  | C => rfl
  | S => rfl

section
variable {s : State} {t : Thread}

theorem setSlot_setSlot {k : Nat} {y : Slot} (hy : y ≠ .vacant) (z : Slot) : setSlot (setSlot s k y) k z = setSlot s k z :=
  congrArg (fun l => { s with slots := l }) (kvSet_kvSet hy s.slots k z)

theorem updSeq_eq_setSlot (f : SeqSt → SeqSt) :
    updSeq s t f = setSlot s t.slot ((getSlot s t.slot).setSeq t.seq (f (getSeq s t))) := rfl

/-- Two changes of a sequencer of a slot that holds a task are one. -/
theorem updSeq_updSeq (h : ∀ v, (getSlot s t.slot).setSeq t.seq v ≠ .vacant) (f g : SeqSt → SeqSt) :
    updSeq (updSeq s t f) t g = updSeq s t fun q => g (f q) := by
  rw [updSeq_eq_setSlot g, getSeq_updSeq, (setsSlot_updSeq f).2, setSeq_setSeq, updSeq_eq_setSlot f, setSlot_setSlot (h _)]
  rfl

/-- A thread that may issue stands in a slot that holds a task (07 R171). -/
theorem setSeq_ne_vacant_of_ready (h : ready s t = true) (q : Seq) (v : SeqSt) : (getSlot s t.slot).setSeq q v ≠ .vacant := by
  have htask : ((getSlot s t.slot).task.isSome || (getSlot s t.slot).mode == .supTask) = true := by
    simp only [ready, Bool.and_eq_true] at h
    obtain ⟨⟨⟨⟨⟨⟨⟨-, htask⟩, -⟩, -⟩, -⟩, -⟩, -⟩, -⟩ := h
    exact htask
  intro hv
  have ht : ((getSlot s t.slot).setSeq q v).task = (getSlot s t.slot).task := (congrArg Slot.task (setSeq_frame _ q v) :)
  rw [← ht, ← setSeq_mode _ q v, hv] at htask
  exact absurd htask (by decide)

theorem ready_of_issues {i : Instr} {n : Nib} {w : Option (Bool × Nat)} {r : Reads} (h : issues i n w r s = true) :
    ready s s.turn = true := by
  simp only [issues, Bool.and_eq_true] at h
  obtain ⟨⟨⟨⟨⟨⟨hr, -⟩, -⟩, -⟩, -⟩, -⟩, -⟩ := h
  exact hr

/-! ### Segments -/

theorem closeSeg_of_agrees {k : State → Res} (h : ((getSeq s t).segOpen && !segAgrees (getSeq s t)) = false) :
    closeSeg s t k = k (updSeq s t fun q => { q with segOpen := false }) :=
  if_neg (ne_true_of_eq_false h)

theorem segAgrees_iff (q : SeqSt) : segAgrees q = true ↔ q.segCnt = q.segExp ∧ q.segSig = q.segXsig := by
  simp [segAgrees]

/-! ### The end of a sequencer -/

theorem finishAwaits_kept (drops : List (Nat × Nat)) (x : Slot) (q : Seq) : SeqSt.kept (x.seq q) ((finishAwaits drops x).seq q) := by
  unfold finishAwaits
  extract_lets f
  refine SeqSt.kept_trans ?_ ((settle_quiet _).seq q)
  cases q with
  | K => unfold Slot.seq; dsimp only; split <;> rfl
  | L => rfl
  | C => rfl
  | S => rfl

/-- A key's value before and after a change of every listed value. -/
theorem kvGet_map_rel {α : Type} {d : α} {p : α → α → Prop} {f : α → α} (hd : p d d) (hf : ∀ x, p x (f x))
    (l : List (Nat × α)) (a : Nat) :
    p (kvGet d l a) (kvGet d (l.map fun e => (e.1, f e.2)) a) := by
  induction l with
  | nil => exact hd
  | cons e l ih =>
    simp only [List.map_cons, kvGet]
    split
    · exact hf _
    · exact ih

theorem settleDrops_kept : SeqSt.kept (getSeq s t) (getSeq (settleDrops s) t) := by
  unfold settleDrops
  extract_lets drops s₁ ended s₂
  have h₁ : SeqSt.kept (getSeq s t) (getSeq s₁ t) := by
    dsimp only [s₁]
    split
    · exact SeqSt.kept_refl _
    · exact kvGet_map_rel (p := fun x y => SeqSt.kept (x.seq t.seq) (y.seq t.seq)) (SeqSt.kept_refl _)
        (fun x => finishAwaits_kept drops x t.seq) s.slots t.slot
  have h₂ : getSeq s₂ t = getSeq s₁ t :=
    foldl_keeps (p := (getSeq · t)) (f := fun s k => enqueue s (.event (.taskEnd k))) fun _ _ => rfl
  rw [← h₂] at h₁
  split
  · exact h₁
  · exact h₁

theorem checkEnd_kept {k : Nat} : SeqSt.kept (getSeq s t) (getSeq (checkEnd s k) t) := by
  refine SeqSt.kept_trans settleDrops_kept ?_
  unfold checkEnd
  extract_lets s₁ draining s₂
  have h₂ : getSeq s₂ t = getSeq s₁ t := by
    dsimp only [s₂]
    split <;> rfl
  split
  · exact h₂ ▸ SeqSt.kept_refl _
  · exact h₂ ▸ SeqSt.kept_refl _

theorem SeqSt.kept.tend {a b : SeqSt} (h : SeqSt.kept a b) : b.tend = a.tend := (congrArg SeqSt.tend h :)

theorem segCount_tend (q : SeqSt) (e : Enc) : (segCount q e).tend = q.tend := (congrArg SeqSt.tend (segCount_frame q e) :)

theorem segCount_segOpen (q : SeqSt) (e : Enc) : (segCount q e).segOpen = q.segOpen := (congrArg SeqSt.segOpen (segCount_frame q e) :)

/-- A word that retires leaves TEND as it was. -/
theorem getSeq_retireWord_tend (e : Enc) (ws sigs : List (BitVec 3 × Nat)) (o : Option (Nat × Work)) :
    (getSeq (retireWord s t e ws sigs o) t).tend = (getSeq s t).tend := by
  simp only [retireWord, getSeq, getSlot_updSlot, if_true]
  rw [((settle_quiet _).seq t.seq).tend, seq_retiring, seq_setSeq, segCount_tend]

theorem retireWord_mem (e : Enc) (ws sigs : List (BitVec 3 × Nat)) (o : Option (Nat × Work)) :
    (retireWord s t e ws sigs o).mem = s.mem := by
  rw [retireWord, updSlot_mem]

/-- The state in which a TEND outside a segment is done, before it retires (14 R346). -/
def tended (n : Nib) (s : State) (t : Thread) : State :=
  checkEnd (updSeq (updSeq (updSeq s t fun q => segCount q (wordsOf (.tend n))) t fun q => { q with segOpen := false }) t
    fun q => { q with tend := true }) t.slot

theorem tendEff_ends {n : Nib} (hr : ¬(t.seq = .K ∧ (getSlot s t.slot).regionOpen = true)) (ho : (getSeq s t).segOpen = false)
    (hm : (getSlot s t.slot).marks = []) : tendEff n s t = .done (tended n s t) := by
  have hopen : (getSeq (updSeq s t fun q => segCount q (wordsOf (.tend n))) t).segOpen = false := by
    rw [getSeq_updSeq, segCount_segOpen, ho]
  unfold tendEff
  rw [if_neg hr, observe_of_no_marks hm, closeSeg_of_agrees (by rw [hopen, Bool.false_and])]
  rfl

theorem getSeq_tended_tend {n : Nib} : (getSeq (tended n s t) t).tend = true := by
  unfold tended
  rw [checkEnd_kept.tend, getSeq_updSeq]

theorem tended_mem {n : Nib} : (tended n s t).mem = s.mem := by
  unfold tended
  rw [checkEnd_mem, updSeq_mem, updSeq_mem, updSeq_mem]

end

/-- Settles O7: TEND sets its sequencer's end, which nothing after it takes back; a segment that agrees is opened and closed. -/
theorem endingWords : Obligations.EndingWords := by
  intro n cost sig s q x
  refine ⟨yields_of_done rfl rfl, fun hr ho hm hi => ?_, fun hk hr => entersTrap_of_trap rfl (if_pos ⟨hk, hr⟩),
    fun hs hr => entersTrap_of_trap rfl ?_, fun hs hr k hk => yields_of_done rfl ?_, fun h => ?_⟩
  · have hmem : (retired (.tend n) n none none s (tended n s s.turn) none).mem = s.mem := (retireWord_mem ..).trans tended_mem
    have htend : (getSeq (retired (.tend n) n none none s (tended n s s.turn) none) s.turn).tend = true :=
      (getSeq_retireWord_tend ..).trans getSeq_tended_tend
    exact ⟨_, yields_of_done rfl (tendEff_ends hr ho hm) hi, htend, fun a => by rw [hmem]⟩
  · exact (if_neg (ne_true_of_eq_false hs)).trans (if_pos hr)
  · refine (if_neg (ne_true_of_eq_false hs)).trans ((if_neg (ne_true_of_eq_false hr)).trans ?_)
    have hk' : (getSlot s s.turn.slot).task = some k := hk
    rw [hk']
    rfl
  · have hc : (q.segOpen && !segAgrees q) = false := by
      rcases h with ho | ha
      · rw [ho, Bool.false_and]
      · rw [(segAgrees_iff q).2 ha, Bool.not_true, Bool.and_false]
    refine ⟨fun hi => yields_of_done rfl ?_ hi, yields_of_done rfl (closeSeg_of_agrees hc)⟩
    refine (closeSeg_of_agrees hc).trans (congrArg Res.done ?_)
    exact updSeq_updSeq (setSeq_ne_vacant_of_ready (ready_of_issues hi) _) _ _

end Sys2Proof.Machine
end

section
/-! PROOFS. RDSR and WRSR (14 R355, 12 R308, R309, 16 R389). -/

namespace Sys2Proof.Machine

section
variable {s : State} {n : Nib} {d : Dest} {f : Opnd} {sr : BitVec 12}

/-- A read of a register whose value nothing observes. -/
theorem yields_rdsr (h : sr ≠ 0x030 ∧ sr ≠ 0x031 := by decide) :
    yields (.rdsr n d sr) n {} s (putResult s s.turn d (readSr s s.turn sr)) :=
  yields_of_done rfl ((if_neg h.1).trans (if_neg h.2))

theorem yields_wrsr {s1 : State} (h : writeSr s s.turn sr (srcVal s s.turn f) = some s1) :
    yields (.wrsr n sr f) n (sources [f]) s s1 :=
  yields_of_done rfl (by simp only [h])

theorem wrsr_illegal (h : writeSr s s.turn sr (srcVal s s.turn f) = none) :
    entersTrap (.wrsr n sr f) n (sources [f]) s s { cause := 1 } :=
  entersTrap_of_trap rfl (by simp only [h])

/-- FMT of a value that VTYPE is to hold (16 R389). -/
theorem vtypeFmt_setWidth_iff (v : Word) :
    vtypeFmt (v.setWidth 4) = true ↔ v.toNat % 16 < 6 ∨ 8 ≤ v.toNat % 16 ∧ v.toNat % 16 < 13 := by
  have hv : (v.setWidth 4).toNat = v.toNat % 16 := BitVec.toNat_setWidth ..
  have hult (k : BitVec 4) : (v.setWidth 4).ult k = true ↔ v.toNat % 16 < k.toNat := by rw [BitVec.ult_iff_toNat_lt, hv]
  simp only [vtypeFmt, Bool.or_eq_true, Bool.and_eq_true, Bool.not_eq_true', ← Bool.not_eq_true, hult, not_lt]
  rfl

end

/-- Settles O9: a register by its number, and VTYPE's FMT by its low four bits. -/
theorem specialRegisterWords : Obligations.SpecialRegisterWords := by
  intro n d f s x q v reads writes seqWrites
  have hseq : reads 0x003 (BitVec.ofNat 64 (seqNum s.turn.seq)) := yields_rdsr
  have hfmt : vtypeFmt (v.setWidth 4) = true ↔ v.toNat % 16 < 6 ∨ 8 ≤ v.toNat % 16 ∧ v.toNat % 16 < 13 :=
    vtypeFmt_setWidth_iff v
  refine ⟨yields_rdsr, yields_rdsr, ?_, yields_rdsr, yields_rdsr, yields_rdsr, yields_rdsr, yields_rdsr, yields_rdsr, yields_rdsr,
    yields_rdsr, yields_rdsr, yields_rdsr, yields_rdsr, yields_rdsr, yields_rdsr, yields_rdsr, yields_rdsr, yields_rdsr,
    fun hm => ⟨yields_of_done rfl (observe_of_no_marks hm), yields_of_done rfl (observe_of_no_marks hm)⟩,
    yields_wrsr rfl, yields_wrsr rfl, yields_wrsr rfl, yields_wrsr rfl, yields_wrsr rfl, yields_wrsr rfl,
    fun hv => wrsr_illegal (if_neg ?_), fun hv => yields_wrsr (if_pos ?_)⟩
  · cases hq : s.turn.seq <;> (rw [hq] at hseq; exact hseq)
  all_goals
    rw [hfmt]
    simp only [List.mem_cons, List.not_mem_nil, or_false] at hv
    omega

end Sys2Proof.Machine
end

section
/-! PROOFS. A word's turn on the agenda of a package that does not run (01 R31), and the entry into the supervisor (18 R435, R437, R438,
R440). -/

namespace Sys2Proof.Machine

/-! ### The agenda of a package that does not run -/

section
variable {s : State} {t : Thread}

theorem ready_of_stopped (h : s.running = false) : ready s t = false := by
  simp only [ready, h, Bool.false_and]

/-- The word itself only loses its turn to another thread. -/
theorem wordStep_of_stopped (h : s.running = false) : wordStep s = .next s :=
  if_neg (ne_true_of_eq_false (ready_of_stopped h))

/-- What stands on the agenda is held, and the turn stays where it was. -/
theorem step_issue_of_stopped {it : Item} {rest : List Item} (ha : s.agenda = it :: rest) (hw : it.what = .issue t)
    (h : s.running = false) : step s = .next { s with agenda := rest, time := s.time + it.dt } := by
  simp only [step, ha, hw, happen, h, Bool.not_false, Bool.and_self, if_true]

end

/-- The package before its first start, with a turn of sequencer L at the head of its agenda. -/
def stoppedTurn : State := { State.reset with agenda := [⟨0, .issue ⟨0, .L⟩⟩] }

/-- Refutes O18: while the package does not run, a word on the agenda is dropped before the turn passes to its thread. -/
theorem not_agendaStep : ¬ Obligations.AgendaStep := by
  intro h
  have hw := (h stoppedTurn _ [] rfl).2 ⟨0, .L⟩ rfl
  rw [step_issue_of_stopped rfl rfl rfl, wordStep_of_stopped rfl] at hw
  have hseq : Seq.K = Seq.L := congrArg (fun o : Host.Outcome State Fault Refusal => match o with
    | .next s => s.turn.seq
    | _ => .K) hw
  cases hseq

/-! ### What a trap writes (18 R435) -/

section
variable {q : Seq} {tr : Trap} {nest : Bool} {lo w : Nat}

/-- TRAPCAUSE as a number: its fields do not overlap, so none carries into the next. -/
theorem trapCause_toNat (h : tr.cause < 256) : (trapCause q tr nest).toNat =
    tr.cause + tr.kind.toNat * 2 ^ 8 + tr.wr.toNat * 2 ^ 11 + seqNum q * 2 ^ 12 + tr.num.toNat * 2 ^ 16 + tr.mcc.toNat * 2 ^ 32
      + nest.toNat * 2 ^ 36 := by
  have hk := tr.kind.isLt
  have hn := tr.num.isLt
  have hm := tr.mcc.isLt
  have hq : seqNum q < 4 := by cases q <;> decide
  have hw : (if tr.wr = true then 2 ^ 11 else 0) = tr.wr.toNat * 2 ^ 11 := by cases tr.wr <;> rfl
  have hs : (if nest = true then 2 ^ 36 else 0) = nest.toNat * 2 ^ 36 := by cases nest <;> rfl
  have hw' := tr.wr.toNat_lt
  have hs' := nest.toNat_lt
  rw [trapCause, hw, hs, BitVec.toNat_ofNat]
  omega

/-- A field of TRAPCAUSE, from the number that the fields make. -/
theorem trapCause_field (h : tr.cause < 256) {v : BitVec w}
    (hv : (tr.cause + tr.kind.toNat * 2 ^ 8 + tr.wr.toNat * 2 ^ 11 + seqNum q * 2 ^ 12 + tr.num.toNat * 2 ^ 16 + tr.mcc.toNat * 2 ^ 32
      + nest.toNat * 2 ^ 36) / 2 ^ lo % 2 ^ w = v.toNat) : (trapCause q tr nest).extractLsb' lo w = v := by
  apply BitVec.eq_of_toNat_eq
  rw [BitVec.extractLsb'_toNat, trapCause_toNat h, Nat.shiftRight_eq_div_pow, hv]

/-- The fields of TRAPCAUSE, from its lowest bit up. -/
theorem trapCause_fields (h : tr.cause < 256) :
    (trapCause q tr nest).extractLsb' 0 8 = BitVec.ofNat 8 tr.cause ∧ (trapCause q tr nest).extractLsb' 8 3 = tr.kind
      ∧ (trapCause q tr nest).getLsbD 11 = tr.wr ∧ (trapCause q tr nest).extractLsb' 12 2 = BitVec.ofNat 2 (seqNum q)
      ∧ (trapCause q tr nest).extractLsb' 14 2 = 0 ∧ (trapCause q tr nest).extractLsb' 16 14 = tr.num
      ∧ (trapCause q tr nest).extractLsb' 30 2 = 0 ∧ (trapCause q tr nest).extractLsb' 32 4 = tr.mcc
      ∧ (trapCause q tr nest).getLsbD 36 = nest ∧ (trapCause q tr nest).extractLsb' 37 27 = 0 := by
  have hk := tr.kind.isLt
  have hn := tr.num.isLt
  have hm := tr.mcc.isLt
  have hq : seqNum q < 4 := by cases q <;> decide
  have hw := tr.wr.toNat_lt
  have hs := nest.toNat_lt
  have bit (i : Nat) (b : Bool) (hb : (trapCause q tr nest).toNat / 2 ^ i % 2 = b.toNat) : (trapCause q tr nest).getLsbD i = b := by
    rw [BitVec.getLsbD, Nat.testBit_eq_decide_div_mod_eq, hb]
    cases b <;> rfl
  refine ⟨trapCause_field h ?_, trapCause_field h ?_, bit 11 _ ?_, trapCause_field h ?_, trapCause_field h ?_, trapCause_field h ?_,
    trapCause_field h ?_, trapCause_field h ?_, bit 36 _ ?_, trapCause_field h ?_⟩
  case refine_3 => rw [trapCause_toNat h]; omega
  case refine_9 => rw [trapCause_toNat h]; omega
  case refine_1 | refine_4 => rw [BitVec.toNat_ofNat]; omega
  case refine_5 | refine_7 | refine_10 => simp only [BitVec.ofNat_eq_ofNat, BitVec.toNat_ofNat]; omega
  all_goals omega

end

/-! ### Where a trap goes (18 R437, R438, R440) -/

/-- The slot that a trap enters the supervisor with: the trap registers are written, and K stands at its entry. -/
def enteredSlot (x : Slot) (base : Word) (q : Seq) (pc : Word) (tr : Trap) : Slot :=
  let y := { x with tcause := trapCause q tr x.supMode, taddr := tr.addr, tpc := if tr.after then pc + 4 else pc, tpcSet := false }
  if x.supMode then { y with ksup := { y.ksup with pc := base + 0x40 } }
  else { y with mode := .handler, snapped := false, ksup := entryBank y base }

/-- A trap's slot: with no supervisor to enter, it freezes. -/
def trappedSlot (x : Slot) (base : Word) (q : Seq) (pc : Word) (tr : Trap) : Slot :=
  if base = 0 then { enteredSlot x base q pc tr with mode := .frozen } else enteredSlot x base q pc tr

section
variable {x : Slot} {base : Word} {q : Seq} {pc : Word} {tr : Trap}

theorem enteredSlot_user (h : x.supMode = false) : enteredSlot x base q pc tr =
    { x with tcause := trapCause q tr false, taddr := tr.addr, tpc := if tr.after then pc + 4 else pc, tpcSet := false,
             mode := .handler, snapped := false, ksup := entryBank x base } := by
  simp only [enteredSlot, h, entryBank, Bool.false_eq_true, if_false]

theorem enteredSlot_sup (h : x.supMode = true) : enteredSlot x base q pc tr =
    { x with tcause := trapCause q tr true, taddr := tr.addr, tpc := if tr.after then pc + 4 else pc, tpcSet := false,
             ksup := { x.ksup with pc := base + 0x40 } } := by
  simp only [enteredSlot, h, if_true]

/-- A trap leaves every sequencer but the supervisor's bank, and writes the trap registers. -/
theorem trappedSlot_frame : trappedSlot x base q pc tr =
    { x with tcause := trapCause q tr x.supMode, taddr := tr.addr, tpc := if tr.after then pc + 4 else pc, tpcSet := false,
             mode := (trappedSlot x base q pc tr).mode, snapped := (trappedSlot x base q pc tr).snapped,
             ksup := (trappedSlot x base q pc tr).ksup } := by
  have h : enteredSlot x base q pc tr =
      { x with tcause := trapCause q tr x.supMode, taddr := tr.addr, tpc := if tr.after then pc + 4 else pc, tpcSet := false,
               mode := (enteredSlot x base q pc tr).mode, snapped := (enteredSlot x base q pc tr).snapped,
               ksup := (enteredSlot x base q pc tr).ksup } := by
    cases hs : x.supMode
    · rw [enteredSlot_user hs]
    · rw [enteredSlot_sup hs]
  unfold trappedSlot
  split
  · rw [h]
  · exact h

end

section
variable {s : State} {slot : Nat} {q : Seq} {pc : Word} {tr : Trap}

theorem getSlot_takeTrap {k : Nat} : getSlot (takeTrap s slot q pc tr) k =
    if k = slot then trappedSlot (getSlot s slot) (getDie s (dieOfCore (coreOf slot))).svbase q pc tr else getSlot s k := by
  have ht : takeTrap s slot q pc tr =
      let u := setSlot s slot (enteredSlot (getSlot s slot) (getDie s (dieOfCore (coreOf slot))).svbase q pc tr)
      if (getDie s (dieOfCore (coreOf slot))).svbase = 0 then freezeSlot u slot else u := rfl
  have hf (u : State) : getSlot (freezeSlot u slot) k = getSlot (updSlot u slot fun x => { x with mode := .frozen }) k := rfl
  rw [ht, trappedSlot]
  dsimp only
  split
  · rw [hf, getSlot_updSlot, getSlot_setSlot, getSlot_setSlot, if_pos rfl]
    split <;> rfl
  · exact getSlot_setSlot ..

theorem takeTrap_mem : (takeTrap s slot q pc tr).mem = s.mem := by
  unfold takeTrap
  extract_lets x base nest y z u
  split <;> rfl

/-- A core with no supervisor to enter is fenced (18 R440). -/
theorem mem_deadCores_fenceCore {core : Nat} : core ∈ (fenceCore s core).deadCores := by
  unfold fenceCore
  dsimp only
  split
  · next h => exact List.contains_iff_mem.1 h
  · exact List.mem_append_right _ (List.mem_singleton_self core)

theorem mem_deadCores_takeTrap (h : (getDie s (dieOfCore (coreOf slot))).svbase = 0) :
    coreOf slot ∈ (takeTrap s slot q pc tr).deadCores := by
  have ht : takeTrap s slot q pc tr = fenceCore (updSlot _ slot fun x => { x with mode := .frozen }) (coreOf slot) := if_pos h
  rw [ht]
  exact mem_deadCores_fenceCore

end

/-- s0-s7 of the supervisor's bank take m8-m15, and the other registers stay (18 R437 step 3). -/
theorem entryBank_short (x : Slot) (base : Word) (i : Nat) : (entryBank x base).short.toList.getD i .zero =
    if i < 8 then x.k.main.toList.getD (8 + i) .zero else x.ksup.short.toList.getD i .zero := by
  unfold entryBank
  extract_lets m b short
  simp only [short, List.getD_eq_getElem?_getD, Vector.getElem?_toList, Vector.getElem?_set]
  rcases Nat.lt_or_ge i 8 with h | h
  · interval_cases i <;> simp [m]
  · repeat rw [if_neg (by omega)]

/-- Settles O20: the trap registers field by field, and K's entry by the mode and the base. -/
theorem trapEntry : Obligations.TrapEntry := by
  intro s slot q pc tr hc x base t y
  have hy : y = trappedSlot x base q pc tr := getSlot_takeTrap.trans (if_pos rfl)
  have hf := trappedSlot_frame (x := x) (base := base) (q := q) (pc := pc) (tr := tr)
  rw [← hy] at hf
  obtain ⟨h0, h8, h11, h12, h14, h16, h30, h32, h36, h37⟩ := trapCause_fields (q := q) (nest := x.supMode) hc
  have ht : y.tcause = trapCause q tr x.supMode := (congrArg Slot.tcause hf :)
  have hentered (hb : base ≠ 0) : y = enteredSlot x base q pc tr := hy.trans (if_neg hb)
  rw [← ht] at h0 h8 h11 h12 h14 h16 h30 h32 h36 h37
  refine ⟨(congrArg Slot.taddr hf :), (congrArg Slot.tpc hf :), h0, h8, h11, h12, h14, h16, h30, h32, h36, h37,
    (congrArg Slot.k hf :), (congrArg Slot.l hf :), (congrArg Slot.c hf :), (congrArg Slot.s hf :), fun hs hb => ?_, fun hs hb => ?_,
    fun hb => ⟨?_, mem_deadCores_takeTrap hb⟩, fun k hk => getSlot_takeTrap.trans (if_neg hk), fun a => congrArg (readByte · a) takeTrap_mem⟩
  · rw [hentered hb, enteredSlot_user hs]
    exact ⟨rfl, rfl, fun i hi => (entryBank_short x base i).trans (if_pos hi),
      fun i hi => (entryBank_short x base i).trans (if_neg hi.not_gt), rfl, rfl⟩
  · rw [hentered hb, enteredSlot_sup hs]
    exact ⟨rfl, rfl⟩
  · exact (congrArg Slot.mode (hy.trans (if_pos hb)) :)

end Sys2Proof.Machine
end

section
/-! PROOFS. ERET after a fault of K's own fetch at an extension word (12 R306, 18 R441). -/

namespace Sys2Proof.Machine

/-- A user task whose K has entered the supervisor because the extension word after its word at 0 could not be fetched: TRAPPC names the
extension word, 4 (12 R306). -/
def extensionFault : Slot :=
  { Slot.vacant with task := some { record := 0, taskid := 1, job := 1, prio := 0, need := 1, parent := 0, index := 0, gang := none,
                                    graph := none, dealt := false, idem := false, escs := 0, start := 0 }
                     mode := .handler, tcause := 4, tpc := 4 }

/-- The package running that task in slot 0, K having the turn. -/
def extensionFaultState : State := { State.reset with running := true, slots := [(0, extensionFault)] }

/-- K returns to the word that the faulting extension word belongs to. -/
theorem returnUser_extensionFault : (returnUser extensionFault).k.pc = 0 := by decide

/-- Refutes O21: after a fetch fault at an extension word, ERET gives K back at its word, which stands 4 before TRAPPC. -/
theorem not_supervisorWords : ¬ Obligations.SupervisorWords := by
  intro h
  obtain ⟨-, -, -, -, heret, -⟩ := h .none 0 (.belt 0) (.belt 0) extensionFaultState
  obtain ⟨-, -, -, -, -, hpc, -⟩ := heret rfl rfl (by decide) (by decide)
  have hk : (0 : Word) = 4 := returnUser_extensionFault.symm.trans (hpc (.inl (by decide)))
  exact absurd hk (by decide)

end Sys2Proof.Machine
end

section
/-! PROOFS. Vector words complete with their elements, or trap ELEMTYPE (16 R390-R399, R403-R411). -/

namespace Sys2Proof.Machine

/-! ### Elements -/

/-- Element e of a vector, w bits wide. -/
def elemAt (w : Nat) (x : Vec) (e : Nat) : Nat := x.toNat / 2 ^ (w * e) % 2 ^ w

/-- Both lists run over the same indices. -/
theorem zipWith_map_same {α β γ δ : Type} (g : β → γ → δ) (p : α → β) (q : α → γ) (l : List α) :
    List.zipWith g (l.map p) (l.map q) = l.map fun e => g (p e) (q e) := by
  rw [List.zipWith_map, List.zipWith_self]

section
variable {w : Nat} {x y z : Vec}

theorem elems_eq : elems w x = (List.range (2048 / w)).map (elemAt w x) := rfl

theorem elems_length : (elems w x).length = 2048 / w := by
  rw [elems_eq, List.length_map, List.length_range]

theorem map_elems {α : Type} (g : Nat → α) : (elems w x).map g = (List.range (2048 / w)).map fun e => g (elemAt w x e) := by
  rw [elems_eq, List.map_map]
  rfl

theorem zipWith_elems {α : Type} (g : Nat → Nat → α) :
    List.zipWith g (elems w x) (elems w y) = (List.range (2048 / w)).map fun e => g (elemAt w x e) (elemAt w y e) :=
  zipWith_map_same ..

theorem zipWith3_elems {α : Type} (g : Nat → Nat → Nat → α) :
    List.zipWith (fun p e => g p.1 p.2 e) (List.zip (elems w x) (elems w y)) (elems w z) =
      (List.range (2048 / w)).map fun e => g (elemAt w x e) (elemAt w y e) (elemAt w z e) := by
  rw [List.zip, zipWith_elems]
  exact zipWith_map_same ..

/-- A packed element counts by its low bits. -/
theorem packElems_mod {α : Type} (l : List α) (g : α → Nat) :
    packElems w (l.map fun e => g e % 2 ^ w) = packElems w (l.map g) := by
  simp only [packElems, List.foldr_map, Nat.mod_mod]

theorem packElems_congr {α : Type} {l : List α} {g h : α → Nat} (hgh : ∀ e, g e % 2 ^ w = h e % 2 ^ w) :
    packElems w (l.map g) = packElems w (l.map h) := by
  rw [← packElems_mod l g, ← packElems_mod l h, funext hgh]

/-- Elements that raise no flag. -/
theorem orFlags_zero {α : Type} (l : List α) (g : α → Nat) : orFlags (l.map fun e => (g e, 0)) = 0 := by
  rw [orFlags, List.foldl_map]
  exact l.foldlRecOn (motive := fun a => a = 0) _ rfl fun a ha _ _ => by simp [ha]

theorem vout_eq (l : List (Nat × Word)) : vout w l = .ok (.v (packElems w (l.map (·.1)))) (orFlags l) := rfl

/-- A vector result whose elements raise no flag. -/
theorem vout_quiet {α : Type} (l : List α) (g : α → Nat) : vout w (l.map fun e => (g e, 0)) = .ok (.v (packElems w (l.map g))) 0 := by
  rw [vout_eq, orFlags_zero, List.map_map]
  rfl

/-- One element replaced. -/
theorem set_elems (i v : Nat) : (elems w x).set i v = (List.range (2048 / w)).map fun e => if e = i then v else elemAt w x e := by
  refine List.ext_getElem (by simp [elems_eq]) fun e h _ => ?_
  simp [elems_eq, List.getElem_set, eq_comm]

/-- The blocks of 32 of a list, from its first. -/
theorem blocks32_eq {α : Type} (k : Nat) (l : List α) :
    blocks32 k l = (List.range k).map fun i => (l.drop (32 * i)).take 32 := by
  induction k generalizing l with
  | zero => rfl
  | succ k ih =>
    rw [blocks32, ih, List.range_succ_eq_map, List.map_cons, List.map_map]
    simp [List.drop_drop, Nat.mul_succ, Nat.add_comm]

end

/-! ### Vector words that compute -/

section
variable {i : Instr} {n : Nib} {d : Dest} {a b c : Opnd} {s : State} {ok : Fmt → Bool} {f : Fmt} {v : AVal} {fl : Word}

/-- The value of a vector source of the slot whose turn it is. -/
def vecVal (s : State) (o : Opnd) : Vec := (readV (turnSlot s) o).val

section
variable (hf : vtFmt (turnSlot s).vtype = f) (hok : ok f = true)
include hf hok

theorem yields_vec1 {g : Fmt → Nat → Nat × Word} (he : exec i s = issueAlu i n (vec1 ok d a g) s)
    (hv : vout (fmtWidth f) ((List.range (2048 / fmtWidth f)).map fun e => g f (elemAt (fmtWidth f) (vecVal s a) e)) = .ok v fl) :
    yields i n { vectors := [a] } s (writeAlu s s.turn (some (.vector d)) v fl) := by
  subst hf
  exact yields_of_eval he ((if_pos hok).trans ((congrArg _ (map_elems _)).trans hv))

theorem yields_vec2 {g : Fmt → Nat → Nat → Nat × Word} (he : exec i s = issueAlu i n (vec2 ok d a b g) s)
    (hv : vout (fmtWidth f) ((List.range (2048 / fmtWidth f)).map fun e =>
      g f (elemAt (fmtWidth f) (vecVal s a) e) (elemAt (fmtWidth f) (vecVal s b) e)) = .ok v fl) :
    yields i n { vectors := [a, b] } s (writeAlu s s.turn (some (.vector d)) v fl) := by
  subst hf
  exact yields_of_eval he ((if_pos hok).trans ((congrArg _ (zipWith_elems _)).trans hv))

theorem yields_vec3 {g : Fmt → Nat → Nat → Nat → Nat × Word} (he : exec i s = issueAlu i n (vec3 ok a b c g) s)
    (hv : vout (fmtWidth f) ((List.range (2048 / fmtWidth f)).map fun e =>
      g f (elemAt (fmtWidth f) (vecVal s a) e) (elemAt (fmtWidth f) (vecVal s b) e) (elemAt (fmtWidth f) (vecVal s c) e)) = .ok v fl) :
    yields i n { vectors := [a, b, c] } s (writeAlu s s.turn (some (.vector .push)) v fl) := by
  subst hf
  exact yields_of_eval he ((if_pos hok).trans ((congrArg _ (zipWith3_elems _)).trans hv))

theorem yields_vecRed {g : Fmt → List Nat → Nat × Word} (he : exec i s = issueAlu i n (vecRed ok d a g) s) :
    yields i n { vectors := [a] } s (writeAlu s s.turn (some (.scalar d))
      (.s (BitVec.ofNat 64 (g f (elems (fmtWidth f) (vecVal s a))).1)) (g f (elems (fmtWidth f) (vecVal s a))).2) := by
  subst hf
  exact yields_of_eval he (if_pos hok)

end

end

theorem fmtWide_iff {f : Fmt} : fmtWide f = true ↔ f ∈ [Fmt.fp32, .bf16, .fp16, .fp64] := by cases f <;> decide
theorem fmtShort_iff {f : Fmt} : fmtShort f = true ↔ f ∈ [Fmt.fp32, .bf16, .fp16] := by cases f <;> decide
theorem fmtFloat_iff {f : Fmt} : fmtFloat f = true ↔ f ∈ [Fmt.fp32, .bf16, .fp16, .fp64, .e4m3, .e5m2] := by cases f <;> decide
theorem fmtInt_iff {f : Fmt} : fmtInt f = true ↔ f ∈ [Fmt.int8, .uint8, .int16, .int32, .int64] := by cases f <;> decide
theorem fmtNum_iff {f : Fmt} :
    fmtNum f = true ↔ f ∈ [Fmt.fp32, .bf16, .fp16, .fp64, .int8, .uint8, .int16, .int32, .int64] := by cases f <;> decide

/-- Settles O11: each word is one of one, two or three sources, in a format that it takes. -/
theorem vectorFloatResults : Obligations.VectorFloatResults := by
  intro n d a b c s x f w el put x1 x2 x3 r1 r2 r3
  refine ⟨fun h => ?_, fun h => ?_, fun h => ?_, fun h m => ?_⟩
  · have hw : fmtWide f = true := fmtWide_iff.2 h
    exact ⟨yields_vec2 rfl hw rfl rfl, yields_vec2 rfl hw rfl rfl, yields_vec2 rfl hw rfl rfl, yields_vec2 rfl hw rfl rfl,
      yields_vec2 rfl hw rfl rfl, yields_vec2 rfl hw rfl rfl, yields_vec1 rfl hw rfl rfl, yields_vec1 rfl hw rfl rfl,
      yields_vec1 rfl hw rfl rfl, yields_vec3 rfl hw rfl rfl, yields_vec3 rfl hw rfl rfl, yields_vec3 rfl hw rfl rfl,
      yields_vec3 rfl hw rfl rfl⟩
  · have hw : fmtShort f = true := fmtShort_iff.2 h
    exact ⟨yields_vec1 rfl hw rfl rfl, yields_vec1 rfl hw rfl rfl⟩
  · have hw : fmtFloat f = true := fmtFloat_iff.2 h
    exact ⟨yields_vec1 rfl hw rfl rfl, yields_vec1 rfl hw rfl rfl, yields_vec2 rfl hw rfl rfl⟩
  · exact yields_vec2 rfl (fmtNum_iff.2 h) rfl rfl

/-- Settles O12: the integer words element by element with no flag, and the words that move elements. -/
theorem vectorIntegerResults : Obligations.VectorIntegerResults := by
  intro n d a b c imm fmt s x f w n_ el put whole va vb r2
  have hbcast : packElems w (List.replicate n_ (srcVal s s.turn a).toNat) =
      packElems w ((List.range n_).map fun _ => (srcVal s s.turn a).toNat % 2 ^ w) := by
    rw [packElems_mod, List.map_const', List.length_range]
  have hins : packElems w ((elems w va).set ((srcVal s s.turn b).toNat % n_) (srcVal s s.turn c).toNat) =
      packElems w ((List.range n_).map fun e =>
        if e = (srcVal s s.turn b).toNat % n_ then (srcVal s s.turn c).toNat % 2 ^ w else el a e) := by
    rw [set_elems]
    refine packElems_congr fun e => ?_
    split
    · exact (Nat.mod_mod ..).symm
    · rfl
  refine ⟨fun hi => ⟨fun m => ⟨yields_vec2 rfl hi rfl (vout_quiet _ _), yields_vec2 rfl hi rfl (vout_quiet _ _),
      yields_vec2 rfl hi rfl (vout_quiet _ _)⟩, fun m => yields_vec2 rfl hi rfl (vout_quiet _ _),
      fun m => yields_vec2 rfl hi rfl (vout_quiet _ _), yields_of_eval (a := aluViota d imm) rfl (if_pos hi)⟩,
    yields_of_eval (a := aluVlogic .and d a b) rfl rfl, yields_of_eval (a := aluVlogic .or d a b) rfl rfl,
    yields_of_eval (a := aluVlogic .xor d a b) rfl rfl, yields_of_eval (a := aluVlogic .andn d a b) rfl rfl, ?_,
    yields_of_eval (a := aluVbcast d a) rfl (congrArg (fun v => AluRes.ok (.v v) 0) hbcast),
    yields_of_eval (a := aluVextr d a b) rfl rfl,
    yields_of_eval (a := aluVins a b c) rfl (congrArg (fun v => AluRes.ok (.v v) 0) hins),
    yields_of_eval (a := aluVperm d a b) rfl (congrArg (fun l => AluRes.ok (.v (packElems w l)) 0) (map_elems _)),
    yields_of_eval (a := aluVsett fmt) rfl rfl⟩
  have hsel (e : Nat) : (if el a e ≠ 0 then el b e else el c e) = if el a e = 0 then el c e else el b e := ite_not ..
  simp only [hsel, put]
  exact yields_vec3 rfl rfl rfl (vout_quiet _ _)

/-! ### Conversions -/

/-- VAMAX forms the extreme of each block of 32 elements (16 R409). -/
theorem aluVamax_eval {d : Dest} {a : Opnd} {s : State} (h : fmtWide (vtFmt (turnSlot s).vtype) = true) :
    let f := vtFmt (turnSlot s).vtype
    let es := elems (fmtWidth f) (vecVal s a)
    let l := (List.range (2048 / fmtWidth f / 32)).map fun i => redExtreme .amax f ((es.drop (32 * i)).take 32)
    (aluVamax d a).eval s s.turn = .ok (.v (packElems (fmtWidth f) (l.map (·.1)))) (orFlags l) := by
  intro f es l
  have hl : (blocks32 (es.length / 32) es).map (redExtreme .amax f) = l := by
    rw [blocks32_eq, elems_length, List.map_map]
    rfl
  rw [← hl]
  unfold turnSlot at h
  simp only [Alu.eval, aluVamax, List.map_cons, List.map_nil, h]
  rfl

/-- Settles O13: reductions, block maxima and packing on the elements, and the other words by what their function answers. -/
theorem vectorConversionResults : Obligations.VectorConversionResults := by
  intro n d a b c dst src rtz hi k s x f w els ran put
  refine ⟨fun hn => ⟨yields_vecRed rfl hn rfl, fun m => yields_vecRed rfl hn rfl⟩, fun v g h => yields_of_eval rfl h,
    fun v g h => yields_of_eval rfl h, fun v g h => yields_of_eval rfl h, fun v g h => yields_of_eval rfl h,
    fun v g h => yields_of_eval rfl h, fun hw => ?_, fun t => yields_of_eval (a := aluVpack t d a b) rfl rfl,
    fun t => yields_of_eval (a := aluVunpk t d a) rfl ?_⟩
  · exact yields_of_eval rfl (aluVamax_eval hw)
  · have hwide (e : Nat) : (if fmtInt f && f != .uint8 then ofSigned (2 * packWidth t) (toSigned (packWidth t) e) else e) =
        if fmtInt f = true ∧ f ≠ .uint8 then ofSigned (2 * packWidth t) (toSigned (packWidth t) e) else e := by
      simp only [Bool.and_eq_true, bne_iff_ne]
    exact congrArg (fun g => AluRes.ok (.v (packElems (2 * packWidth t) (((els (packWidth t) a).take (1024 / packWidth t)).map g))) 0)
      (funext hwide)

/-! ### Formats that a word does not take -/

section
variable {i : Instr} {n : Nib} {d : Dest} {a b c : Opnd} {s : State} {ok : Fmt → Bool} {f : Fmt} 

/-- A computing word that its format makes trap. -/
theorem entersTrap_of_eval {al : Alu} {k : Nat} (he : exec i s = issueAlu i n al s) (h : al.eval s s.turn = .trap k) :
    entersTrap i n { scalars := al.scalars, vectors := al.vectors } s s { cause := k } :=
  entersTrap_of_trap (d := al.dst) (eff := aluEff al) he (by simp [aluEff, h])

section
variable (hok : ok (vtFmt (turnSlot s).vtype) = false)
include hok

theorem entersTrap_vec1 {g : Fmt → Nat → Nat × Word} (he : exec i s = issueAlu i n (vec1 ok d a g) s) :
    entersTrap i n { vectors := [a] } s s { cause := 15 } :=
  entersTrap_of_eval he (if_neg (ne_true_of_eq_false hok))

theorem entersTrap_vec2 {g : Fmt → Nat → Nat → Nat × Word} (he : exec i s = issueAlu i n (vec2 ok d a b g) s) :
    entersTrap i n { vectors := [a, b] } s s { cause := 15 } :=
  entersTrap_of_eval he (if_neg (ne_true_of_eq_false hok))

theorem entersTrap_vec3 {g : Fmt → Nat → Nat → Nat → Nat × Word} (he : exec i s = issueAlu i n (vec3 ok a b c g) s) :
    entersTrap i n { vectors := [a, b, c] } s s { cause := 15 } :=
  entersTrap_of_eval he (if_neg (ne_true_of_eq_false hok))

theorem entersTrap_vecRed {g : Fmt → List Nat → Nat × Word} (he : exec i s = issueAlu i n (vecRed ok d a g) s) :
    entersTrap i n { vectors := [a] } s s { cause := 15 } :=
  entersTrap_of_eval he (if_neg (ne_true_of_eq_false hok))

end

section
variable (hw : fmtWide (vtFmt (turnSlot s).vtype) = false)
include hw

theorem aluVamax_eval_of_not_wide : (aluVamax d a).eval s s.turn = .trap 15 := by
  unfold turnSlot at hw
  simp only [Alu.eval, aluVamax, List.map_cons, List.map_nil, hw]

theorem aluVtopk_eval_of_not_wide {k : BitVec 5} : (aluVtopk a k).eval s s.turn = .trap 15 := by
  unfold turnSlot at hw
  simp only [Alu.eval, aluVtopk, List.map_cons, List.map_nil, hw]
  cases ffOf (vtFmt (getSlot s s.turn.slot).vtype) <;> rfl

theorem aluVresid_eval_of_not_wide : (aluVresid a b c).eval s s.turn = .trap 15 := by
  unfold turnSlot at hw
  simp only [Alu.eval, aluVresid, List.map_cons, List.map_nil, hw, Bool.false_and, Bool.false_eq_true, if_false]
  cases ffOf (vtFmt (getSlot s s.turn.slot).vtype) <;> cases vtQfmt (getSlot s s.turn.slot).vtype <;> rfl

end

end

/-- Settles O14: a word whose row does not accept the format of VTYPE answers the trap in place of its elements. -/
theorem elemTypeTraps : Obligations.ElemTypeTraps := by
  intro n d a b c imm s f r1 r2 r3 et
  refine ⟨fun h => ?_, fun h => ?_, fun h => ?_, fun h => ?_⟩
  · have hw : fmtWide f = false := Bool.eq_false_iff.2 (mt fmtWide_iff.1 h)
    exact ⟨entersTrap_vec2 hw rfl, entersTrap_vec2 hw rfl, entersTrap_vec2 hw rfl, entersTrap_vec2 hw rfl, entersTrap_vec2 hw rfl,
      entersTrap_vec2 hw rfl, entersTrap_vec1 hw rfl, entersTrap_vec1 hw rfl, entersTrap_vec1 hw rfl,
      entersTrap_of_eval rfl (aluVamax_eval_of_not_wide hw), fun m => entersTrap_vec3 hw rfl,
      fun k => entersTrap_of_eval rfl (aluVtopk_eval_of_not_wide hw), entersTrap_of_eval rfl (aluVresid_eval_of_not_wide hw)⟩
  · have hs : fmtShort f = false := Bool.eq_false_iff.2 (mt fmtShort_iff.1 h)
    exact ⟨entersTrap_vec1 hs rfl, entersTrap_vec1 hs rfl⟩
  · have hn : fmtNum f = false := Bool.eq_false_iff.2 (mt fmtNum_iff.1 h)
    exact ⟨fun m => entersTrap_vec2 hn rfl, entersTrap_vecRed hn rfl, fun m => entersTrap_vecRed hn rfl⟩
  · have hi : fmtInt f = false := Bool.eq_false_iff.2 (mt fmtInt_iff.1 h)
    exact ⟨fun m => ⟨entersTrap_vec2 hi rfl, entersTrap_vec2 hi rfl, entersTrap_vec2 hi rfl⟩, fun m => entersTrap_vec2 hi rfl,
      fun m => entersTrap_vec2 hi rfl, entersTrap_of_eval (al := aluViota d imm) rfl (if_neg (ne_true_of_eq_false hi))⟩

end Sys2Proof.Machine
end

section
/-! PROOFS. How a word's access ends, and what its translation leaves of the slots (15 R361, 04 R101-R104). -/

namespace Sys2Proof.Machine

/-! ### Translation leaves every sequencer -/

/-- Slots are as they were but for the mark of a neighbour that a window reached (07 R194). -/
def MarksOnly (s u : State) : Prop := ∀ k, getSlot u k = { getSlot s k with nbrmask := (getSlot u k).nbrmask }

section
variable {s s1 u : State}

theorem MarksOnly.of_slots (h : u.slots = s.slots) : MarksOnly s u := fun k => by rw [getSlot_of_slots h]

theorem MarksOnly.trans (h : MarksOnly s s1) (g : MarksOnly s1 u) : MarksOnly s u := fun k => by
  rw [g k, h k]

theorem MarksOnly.getSeq (h : MarksOnly s u) (t : Thread) : getSeq u t = getSeq s t := by
  unfold Machine.getSeq
  rw [h t.slot]
  cases t.seq <;> rfl

theorem MarksOnly.srcVal (h : MarksOnly s u) (t : Thread) (o : Opnd) : srcVal u t o = srcVal s t o := by
  unfold Machine.srcVal
  rw [h.getSeq]

theorem tlbPut_slots {e : TlbEnt} {n : Nat} : (tlbPut e s n).slots = s.slots := by rw [tlbPut_eq]

theorem foldl_tlbPut_slots {e : TlbEnt} {l : List Nat} : (l.foldl (tlbPut e) s).slots = s.slots :=
  foldl_keeps (p := State.slots) fun _ _ => tlbPut_slots

theorem walkFill_slots {caches : List Nat} {die job : Nat} {va : Word} : (walkFill s caches die job va).1.slots = s.slots := by
  by_cases h : (s.parked.find? fun p => p.2 == (die * 1024 + job, walkPage va)) = none ∧ walksHeld s die < 4096
  · obtain ⟨hp, hw⟩ := h
    have hf : (ptrsFilled s die job va).slots = s.slots := by rw [ptrsFilled_eq]
    cases hr : walk s die job va with
    | leaf e base size lines => rw [walkFill_leaf hp hw hr, foldl_tlbPut_slots, hf]
    | mig line =>
      rw [walkFill_mig hp hw hr]
      exact hf
    | fault k => rw [walkFill_fault hp hw hr, hf]
  · rw [walkFill_stalled ((Decidable.not_and_iff_or_not.1 h).imp_right Nat.not_lt.1)]

section
variable {ctx : TCtx} {va : Word} {len : Nat} {n : Need}

theorem marksOnly_updSlot_nbrmask {k : Nat} {f : Slot → BitVec 8} :
    MarksOnly s (updSlot s k fun x => { x with nbrmask := f x }) := fun j => by
  rw [getSlot_updSlot]
  split
  · next h => rw [h]
  · rfl

theorem marksOnly_trWindow : MarksOnly s (trWindow s ctx va len).1 := by
  have hrefl : MarksOnly s s := .of_slots rfl
  unfold trWindow
  simp only []
  repeat' split
  all_goals simp only [hrefl, marksOnly_updSlot_nbrmask]

theorem marksOnly_trPage : MarksOnly s (trPage s ctx va len n).1 := by
  have hrefl : MarksOnly s s := .of_slots rfl
  have hput : ∀ e, MarksOnly s (ctx.caches.foldl (tlbPut e) s) := fun e => .of_slots foldl_tlbPut_slots
  have hfill : MarksOnly s (walkFill s ctx.caches ctx.die ctx.job va).1 := .of_slots walkFill_slots
  unfold trPage
  simp only []
  split
  · exact hrefl
  split
  · grind only [marksOnly_trWindow]
  · cases tlbHit s ctx.caches ctx.job va <;> grind only

theorem marksOnly_trRun {m : Nat} : MarksOnly s (trRun ctx n m s va len).1 := by
  fun_induction trRun ctx n m s va len <;> grind only [marksOnly_trPage, MarksOnly.trans, MarksOnly.of_slots]

end

theorem marksOnly_of_reaches {va : Word} {len : Nat} {need : Need} {sps : List Span} (h : reaches s va len need s1 sps) : MarksOnly s s1 := by
  have hr : MarksOnly s (translate s (slotCtx s s.turn.slot s.turn.seq) va len need).1 := marksOnly_trRun
  rwa [h.1] at hr

end

/-! ### Accesses -/

section
variable {s s1 : State} {t : Thread} {va : Word} {len m : Nat} {need : Need} {sps : List Span} {kd : Kind} {ad : Word}

theorem effAddr_eq (base : Word) (off : BitVec 8) (size : Nat) : effAddr base off size = base + BitVec.ofInt 64 (off.toInt * size) := by
  rw [effAddr, BitVec.signExtend, BitVec.ofInt_mul, BitVec.ofInt_natCast]

theorem aligned_of_misaligned {r : Res} (h : va.toNat % m ≠ 0) : aligned s va m r = .trap s { cause := 5, addr := va } := if_neg h

/-- An access traps at the lowest byte that does not translate (04 R101, R104). -/
theorem access_of_fault {k : State → List Span → Res} (h : translate s (slotCtx s t.slot t.seq) va len need = (s1, .fault kd ad)) :
    access s t va len need k = .trap s1 { cause := 4, kind := kd, wr := need.w, addr := ad } := by
  simp only [access, h]

/-- A write into the region's own areas (11 R288). -/
def intoRegion (s : State) (t : Thread) (sps : List Span) : Bool :=
  !isSup s t && (getSlot s t.slot).regionOpen && sps.any fun sp => inRegionAreas (getSlot s t.slot) t.slot sp.loc sp.len

theorem outsideRegion_inside {r : Res} (h : intoRegion s t sps = true) : outsideRegion s t sps r = .trap s { cause := 10 } := if_pos h

theorem outsideRegion_outside {r : Res} (h : intoRegion s t sps = false) : outsideRegion s t sps r = r := if_neg (ne_true_of_eq_false h)

section
variable {i : Instr} {n : Nib} {d : Option RDest} {r : Reads} {eff : State → Thread → Res}
variable (he : exec i s = issueWord i n d r eff s)
include he

/-- A word that is aligned first traps MISALIGNED before it translates (15 R361). -/
theorem entersTrap_of_misaligned {k : Res} (hx : eff s s.turn = aligned s va m k) (hm : va.toNat % m ≠ 0) :
    entersTrap i n r s s { cause := 5, addr := va } :=
  entersTrap_of_trap he (hx.trans (aligned_of_misaligned hm))

theorem entersTrap_of_fault {k : State → List Span → Res} (hx : eff s s.turn = access s s.turn va len need k)
    (h : translate s (slotCtx s s.turn.slot s.turn.seq) va len need = (s1, .fault kd ad)) :
    entersTrap i n r s s1 { cause := 4, kind := kd, wr := need.w, addr := ad } :=
  entersTrap_of_trap he (hx.trans (access_of_fault h))

theorem entersTrap_of_aligned_fault {k : State → List Span → Res}
    (hx : eff s s.turn = aligned s va m (access s s.turn va len need k)) (hm : va.toNat % m = 0)
    (h : translate s (slotCtx s s.turn.slot s.turn.seq) va len need = (s1, .fault kd ad)) :
    entersTrap i n r s s1 { cause := 4, kind := kd, wr := need.w, addr := ad } :=
  entersTrap_of_trap he ((hx.trans (if_pos hm)).trans (access_of_fault h))

end

end

/-- Settles O31: each word by its alignment, and by the fault that its translation answers. -/
theorem memoryTraps : Obligations.MemoryTraps := by
  intro n d a b c k off op o s s1 kd ad t va here mis page ld st rw at8
  have hva : va = effAddr (srcVal s t a) off := funext fun z => (effAddr_eq ..).symm
  clear_value va
  subst hva
  exact ⟨fun _ => entersTrap_of_fault rfl rfl, fun _ => entersTrap_of_fault rfl rfl, fun _ => entersTrap_of_fault rfl rfl,
    fun _ => entersTrap_of_fault rfl rfl, entersTrap_of_misaligned rfl rfl, entersTrap_of_aligned_fault rfl rfl,
    entersTrap_of_misaligned rfl rfl, entersTrap_of_aligned_fault rfl rfl,
    entersTrap_of_misaligned rfl rfl, entersTrap_of_aligned_fault rfl rfl, entersTrap_of_misaligned rfl rfl,
    fun _ => entersTrap_of_fault rfl rfl, fun _ => entersTrap_of_fault rfl rfl, fun _ => entersTrap_of_fault rfl rfl,
    fun _ => entersTrap_of_fault rfl rfl, entersTrap_of_misaligned rfl rfl, entersTrap_of_aligned_fault rfl rfl,
    entersTrap_of_misaligned rfl rfl, entersTrap_of_aligned_fault rfl rfl,
    entersTrap_of_misaligned rfl rfl, entersTrap_of_aligned_fault rfl rfl,
    entersTrap_of_misaligned rfl rfl, entersTrap_of_aligned_fault rfl rfl,
    entersTrap_of_misaligned rfl rfl, entersTrap_of_aligned_fault rfl rfl,
    entersTrap_of_misaligned rfl rfl, entersTrap_of_aligned_fault rfl rfl,
    entersTrap_of_misaligned rfl rfl, entersTrap_of_aligned_fault rfl rfl,
    entersTrap_of_misaligned rfl rfl, entersTrap_of_aligned_fault rfl rfl,
    entersTrap_of_misaligned rfl rfl, entersTrap_of_misaligned rfl rfl⟩

end Sys2Proof.Machine
end

section
/-! PROOFS. Scalar and queue loads, stores and RED as they issue (15 R362-R368, R371, 04 R104). -/

namespace Sys2Proof.Machine

/-! ### A load that issues (15 R363; log 9) -/

/-- The state in which a word has taken its number. -/
def numbered (s : State) : State := { s with nextUid := s.nextUid + 1 }

section
variable {i : Instr} {n : Nib} {d : Option RDest} {r : Reads} {eff : State → Thread → Res} {s s1 : State} {t : Thread} {sps : List Span}
  {mk : QVal → Work} {k : State → Nat → State}

/-- A load waits for its sequencer's earlier words to its lines; else it reads, and takes its error or issues. -/
theorem issueLoad_cases (he : exec i s = issueWord i n d r eff s)
    (hx : eff s s.turn = issueLoad s1 t sps mk fun s tag w => .pend (k s tag) tag w) :
    (ownPending s1 t sps = true → waitsAt i n r s s1 false)
      ∧ (ownPending s1 t sps = false →
        (∀ u q v, loadValue s1 t.slot t.seq (isSup s1 t) (mk (.s .zero)) = .ok (u, q, v) →
          pends i n r s (k (numbered s1) s1.nextUid) s1.nextUid (mk v))
        ∧ ∀ e, loadValue s1 t.slot t.seq (isSup s1 t) (mk (.s .zero)) = .error e → meetsError i n r s s1 e) := by
  refine ⟨fun hp => waitsAt_of_wait he (hx.trans (if_pos hp)), fun hp => ?_⟩
  have hl : eff s s.turn = _ := hx.trans (if_neg (ne_true_of_eq_false hp))
  refine ⟨fun u q v hv => pends_of_pend he ?_, fun e hv => meetsError_of_bad he ?_⟩
  · rw [hl, hv]
    rfl
  · rw [hl, hv]

end

/-- An access that begins in the device control registers (04 R474). -/
theorem controlCase_control {sp : Span} {l : List Span} {f : Loc → Res} {g : Res} (h : sp.area = .control) :
    (match sp :: l with
      | { area := .control, loc, .. } :: _ => f loc
      | _ => g) = f sp.loc := by
  obtain ⟨_, _, _, _, _, _, _, _, _⟩ := sp
  cases h
  rfl

theorem controlCase_other {sps : List Span} {f : Loc → Res} {g : Res} (h : ∀ sp ∈ sps, sp.area ≠ .control) :
    (match (generalizing := false) sps with
      | { area := .control, loc, .. } :: _ => f loc
      | _ => g) = g := by
  cases sps with
  | nil => rfl
  | cons sp l =>
    have ha : sp.area ≠ .control := h sp (List.mem_cons_self ..)
    obtain ⟨_, _, _, area, _, _, _, _, _⟩ := sp
    cases area
    case control => exact absurd rfl ha
    all_goals rfl

section
variable {s s1 s2 : State} {t : Thread} {d : Dest} {a : Opnd} {off : BitVec 8} {sps : List Span} {const : Bool} {z : Nat}

theorem loadEff_of_reaches (hr : reaches s (effAddr (srcVal s s.turn a) off z) z
      { r := true, ctl := !const && z == 8 && (effAddr (srcVal s s.turn a) off z).toNat % 8 == 0, sys := true } s1 sps)
    (hc : ∀ sp ∈ sps, sp.area ≠ .control) :
    loadEff const z d a off s s.turn =
      issueLoad s1 s.turn sps (fun v => if const then .const sps v else .load sps v) fun u tag w =>
        .pend (enqueue (putBusy u s.turn d tag) (.event (.loadDelivery s.turn.slot s.turn.seq tag))) tag w := by
  unfold loadEff
  extract_lets va ctl
  rw [access_of_reaches rfl hr]
  exact controlCase_other hc

/-- A device control register is read at once (04 R474). -/
theorem loadEff_of_control {sp : Span} {r : List Span} {v : Word} (hr : reaches s (effAddr (srcVal s s.turn a) off z) z
      { r := true, ctl := !const && z == 8 && (effAddr (srcVal s s.turn a) off z).toNat % 8 == 0, sys := true } s1 (sp :: r))
    (hc : sp.area = .control) (hv : ctlRead s1 (dieOfCore (coreOf s.turn.slot)) (sp.loc - ctlBase) = (s2, v)) :
    loadEff const z d a off s s.turn = .done (putResult s2 s.turn d v) := by
  unfold loadEff
  extract_lets va ctl
  rw [access_of_reaches rfl hr]
  refine (controlCase_control hc).trans ?_
  generalize ctlRead s1 (dieOfCore (coreOf s.turn.slot)) (sp.loc - ctlBase) = p at hv ⊢
  subst hv
  rfl

theorem queueLoadEff_of_reaches {k : BitVec 3} {m : Nat} (hm : (effAddr (srcVal s s.turn a) off z).toNat % m = 0)
    (hr : reaches s (effAddr (srcVal s s.turn a) off z) z { r := true, sys := true } s1 sps)
    (hq : queueFull (getSlot s1 s.turn.slot) k = false) :
    queueLoadEff k a off z m s s.turn =
      issueLoad s1 s.turn sps (.ldq k sps (vectorQueue k)) fun u tag w =>
        .pend (enqueue (updSlot u s.turn.slot fun x => reserve x k tag none) (.event (.loadDelivery s.turn.slot s.turn.seq tag))) tag w := by
  unfold queueLoadEff
  extract_lets va
  rw [aligned_of_mod hm, access_of_reaches rfl hr]
  exact if_neg (ne_true_of_eq_false hq)

end

/-- Settles O27: each load by the way its access takes, its issue by what it reads there. -/
theorem loadWords : Obligations.LoadWords := by
  intro n d a k off s s1 sps t va need ctl tag taken later found issued load queued
  have hva : va = effAddr (srcVal s t a) off := funext fun z => (effAddr_eq ..).symm
  clear_value va
  subst hva
  refine ⟨fun hc => ⟨fun hr => ?_, fun hr => ?_, fun hr => ?_, fun hr => ?_, fun hm hr => ⟨?_, fun hq => ?_⟩, fun hm hr hq => ?_⟩,
    fun sp r s2 v hs hc hr hv => ?_, fun hm => ⟨fun sp h => ?_, fun kd ad h => ?_⟩⟩
  · exact issueLoad_cases rfl (loadEff_of_reaches (const := false) hr hc)
  · exact issueLoad_cases rfl (loadEff_of_reaches (const := false) hr hc)
  · exact issueLoad_cases rfl (loadEff_of_reaches (const := false) hr hc)
  · exact issueLoad_cases rfl (loadEff_of_reaches (const := false) hr hc)
  · exact issueLoad_cases (eff := ldcEff d a off) rfl ((aligned_of_mod hm).trans (loadEff_of_reaches (const := true) hr hc))
  · exact issueLoad_cases rfl (queueLoadEff_of_reaches hm hr hq)
  · exact issueLoad_cases rfl (queueLoadEff_of_reaches hm hr hq)
  · subst hs
    exact yields_of_done rfl (loadEff_of_control (const := false) hr hc hv)
  · refine yields_of_done rfl ((aligned_of_mod hm).trans ?_)
    rw [h]
  · refine yields_of_done rfl ((aligned_of_mod hm).trans ?_)
    rw [h]

/-! ### A store that issues (15 R364; log 9) -/

/-- The write that a store tries as it issues. -/
def storeTried (s : State) (t : Thread) (op : StoreOp) : Risk State :=
  if isSup s t then performOp s t.slot op else slotWrite s t.slot t.seq 0 s.nextUid op

/-- The store is under way, its performance to come. -/
def storeIssued (s : State) (t : Thread) : State := enqueue (numbered s) (.event (.storePerformed t.slot t.seq))

section
variable {s s1 s2 : State} {t : Thread} {op : StoreOp}

section
variable (hop : ∀ r, op ≠ .red r) (hp : ownPending s t op.spans = false) (hd : heldByDrain (getSlot s t.slot) s.nextUid op = false)
include hop hp hd

theorem pendStore_eq : pendStore s t op = match storeTried s t op with
    | .error b => .bad s b
    | .ok _ => .pend (storeIssued s t) s.nextUid (.store op) := by
  have hw : ¬ (ownPending s t op.spans || heldByDrain (getSlot s t.slot) s.nextUid op) = true := by rw [hp, hd]; exact Bool.false_ne_true
  cases op with
  | red r => exact absurd rfl (hop r)
  | _ => exact if_neg hw

theorem pendStore_of_ok {u : State} (h : storeTried s t op = .ok u) : pendStore s t op = .pend (storeIssued s t) s.nextUid (.store op) := by
  rw [pendStore_eq hop hp hd, h]

theorem pendStore_of_error {b : Bad} (h : storeTried s t op = .error b) : pendStore s t op = .bad s b := by
  rw [pendStore_eq hop hp hd, h]

end

variable {i : Instr} {n : Nib} {d : Option RDest} {r : Reads} {eff : State → Thread → Res} {R : Res}

/-- A store traps in its region's areas; outside, where nothing holds it, it tries its write, and takes its error or issues. -/
theorem store_cases (he : exec i s = issueWord i n d r eff s) (hx : eff s s.turn = outsideRegion s1 t op.spans R)
    (hop : ∀ r, op ≠ .red r) (hok : ∀ a b c, pendStore s2 t op = .pend a b c → R = .pend a b c)
    (hbad : ∀ e, pendStore s2 t op = .bad s2 e → R = .bad s1 e) :
    (intoRegion s1 t op.spans = true → entersTrap i n r s s1 { cause := 10 })
      ∧ (intoRegion s1 t op.spans = false → ownPending s2 t op.spans = false → heldByDrain (getSlot s2 t.slot) s2.nextUid op = false →
        (∀ u, storeTried s2 t op = .ok u → pends i n r s (storeIssued s2 t) s2.nextUid (.store op))
        ∧ ∀ e, storeTried s2 t op = .error e → meetsError i n r s s1 e) := by
  refine ⟨fun h => entersTrap_of_trap he (hx.trans (outsideRegion_inside h)), fun h hp hd => ?_⟩
  have hR : eff s s.turn = R := hx.trans (outsideRegion_outside h)
  exact ⟨fun u hu => pends_of_pend he (hR.trans (hok _ _ _ (pendStore_of_ok hop hp hd hu))),
    fun e hu => meetsError_of_bad he (hR.trans (hbad e (pendStore_of_error hop hp hd hu)))⟩

end

section
variable {s s1 : State} {a b : Opnd} {off : BitVec 8} {sps : List Span} {z : Nat}

theorem storeEff_of_reaches (hr : reaches s (effAddr (srcVal s s.turn a) off z) z
      { w := true, ctl := z == 8 && (effAddr (srcVal s s.turn a) off z).toNat % 8 == 0 } s1 sps)
    (hc : ∀ sp ∈ sps, sp.area ≠ .control) :
    storeEff z b a off s s.turn = outsideRegion s1 s.turn sps
      (pendStore s1 s.turn (.plain sps ((srcVal s s.turn b).toNat % 2 ^ (8 * z)))) := by
  unfold storeEff
  extract_lets va v
  rw [access_of_reaches rfl hr]
  exact controlCase_other hc

/-- A device control register is written at once (04 R474). -/
theorem storeEff_of_control {sp : Span} {r : List Span} (hr : reaches s (effAddr (srcVal s s.turn a) off z) z
      { w := true, ctl := z == 8 && (effAddr (srcVal s s.turn a) off z).toNat % 8 == 0 } s1 (sp :: r))
    (hc : sp.area = .control) (hp : pending s1 s.turn = false) :
    storeEff z b a off s s.turn = .done (ctlWrite s1 (dieOfCore (coreOf s.turn.slot)) (sp.loc - ctlBase)
      (BitVec.ofNat 64 ((srcVal s s.turn b).toNat % 2 ^ (8 * z)))) := by
  unfold storeEff
  extract_lets va v
  rw [access_of_reaches rfl hr]
  exact (controlCase_control hc).trans (if_neg (ne_true_of_eq_false hp))

/-- A store's answer where the store has not issued, in the state before it. -/
def Res.orBefore (s : State) : Res → Res
  | .bad _ b => .bad s b
  | .wait _ r => .wait s r
  | r => r

/-- STVQ takes the oldest entry only as its write issues (15 R368). -/
theorem stvqEff_of_reaches {k : BitVec 3} {tag : Nat} {w : VWord} {l : List QEnt}
    (hm : (effAddr (srcVal s s.turn a) off 256).toNat % 16 = 0)
    (hr : reaches s (effAddr (srcVal s s.turn a) off 256) 256 { w := true } s1 sps)
    (hq : vget (getSlot s1 s.turn.slot).queues k = { tag := tag, val := some (.v w) } :: l) :
    stvqEff k a off s s.turn = outsideRegion s1 s.turn sps
      ((pendStore (updSlot s1 s.turn.slot fun x => { x with queues := vset x.queues k l }) s.turn (.vec sps w)).orBefore s1) := by
  unfold stvqEff
  extract_lets va
  rw [aligned_of_mod hm, access_of_reaches rfl hr, hq] <;> rfl

theorem redEff_of_reaches {op : RedOp} {o : MemOrd} {sp : Span} (hm : (srcVal s s.turn a).toNat % 8 = 0)
    (hr : reaches s (srcVal s s.turn a) 8 { r := true, w := true, atHome := true } s1 [sp]) :
    redEff op o a b s s.turn = outsideRegion s1 s.turn [sp]
      (.pend (storeIssued s1 s.turn) s1.nextUid (.store (.red { span := sp, op, ord := o, val := srcVal s s.turn b }))) := by
  unfold redEff
  extract_lets va
  rw [aligned_of_mod hm, access_of_reaches rfl hr, ← (marksOnly_of_reaches hr).srcVal]
  rfl

end

/-- Settles O28: each store by the region that it writes into, then by what holds it, then by the write that it tries. -/
theorem storeWords : Obligations.StoreWords := by
  intro n b a k off op o s s1 sps t x va val need ctl inside later store rw red
  have hva : va = effAddr (srcVal s t a) off := funext fun z => (effAddr_eq ..).symm
  clear_value va
  subst hva
  refine ⟨fun hc => ⟨fun hr => ?_, fun hr => ?_, fun hr => ?_, fun hr => ?_, fun tag w l hq hm hr => ?_, fun hl hm hr => ?_⟩,
    fun sp r hs hc hr hp => ?_⟩
  · exact store_cases (op := .plain sps (val 1)) rfl (storeEff_of_reaches hr hc) (by simp) (fun _ _ _ => id) fun _ => id
  · exact store_cases (op := .plain sps (val 2)) rfl (storeEff_of_reaches hr hc) (by simp) (fun _ _ _ => id) fun _ => id
  · exact store_cases (op := .plain sps (val 4)) rfl (storeEff_of_reaches hr hc) (by simp) (fun _ _ _ => id) fun _ => id
  · exact store_cases (op := .plain sps (val 8)) rfl (storeEff_of_reaches hr hc) (by simp) (fun _ _ _ => id) fun _ => id
  · exact store_cases (op := .vec sps w) rfl (stvqEff_of_reaches hm hr hq) (by simp) (fun _ _ _ h => congrArg (Res.orBefore s1) h)
      fun _ h => congrArg (Res.orBefore s1) h
  · obtain ⟨sp, rfl⟩ := List.length_eq_one_iff.1 hl
    have he := redEff_of_reaches (b := b) (op := op) (o := o) hm hr
    exact ⟨fun h => entersTrap_of_trap rfl (he.trans (outsideRegion_inside h)),
      fun h => pends_of_pend rfl (he.trans (outsideRegion_outside h))⟩
  · subst hs
    exact yields_of_done rfl (storeEff_of_control hr hc hp)

end Sys2Proof.Machine
end

section
/-! PROOFS. Atomics, and what LOAD_DELIVERY and STORE_PERFORMED complete (15 R363, R364, R371-R373, 08 R216). -/

namespace Sys2Proof.Machine

/-! ### An atomic that issues (15 R371-R373) -/

section
variable {i : Instr} {n : Nib} {d d' : Dest} {r : Reads} {s s1 s2 s3 : State} {a b c : Opnd} {sp : Span} {o : MemOrd} {op w v : Nat}
  {f : State → Thread → Nat → Option Nat}

/-- The state in which an atomic that releases has made its release steps (08 R210). -/
def atomFreed (s : State) (slot : Nat) (sp : Span) (o : MemOrd) : State := if ordReleases o then releaseSteps s slot sp else s

section
variable (hin : (isSup s1 s.turn || !(getSlot s1 s.turn.slot).regionOpen
      || !inRegionAreas (getSlot s1 s.turn.slot) s.turn.slot sp.loc sp.len) = true)
  (hp : pending s1 s.turn = false) (hg : relGate s1 s.turn sp o = none) (he : escaping s1 s.turn escAtom [sp] = .ok s2)
  (hm : (srcVal s s.turn a).toNat % w = 0)
  (hr : reaches s (srcVal s s.turn a) w { r := true, w := true, atHome := true } s1 [sp])
include hin hp hg he hm hr

/-- Nothing that comes before an atomic holds it: it goes on to its home. -/
theorem atomEff_of_reaches : atomEff op w o d a b c f s s.turn =
    if sp.area = .remote then
      farPend (atomFreed s2 s.turn.slot sp o) s.turn d sp o fun s' dst tag pa =>
        atomFlit s' dst tag (slotTag s1 s.turn.slot) pa op (srcVal s s.turn b) (srcVal s s.turn c) (w == 4) false
    else
      match atomicAt s2 s.turn.slot sp w o (f s1 s.turn) with
      | .error b => .bad s2 b
      | .ok (u, v) =>
        let u := putResult u s.turn d (BitVec.ofNat 64 v)
        match freshDrops s1 u with
        | [] => .done u
        | ds => let (tag, u) := takeUid u; .pend u tag (.await ds) := by
  have hout : intoRegion s1 s.turn [sp] = false := by
    rw [intoRegion, List.any_cons, List.any_nil, Bool.or_false, ← Bool.not_eq_true']
    simpa using hin
  unfold atomEff
  extract_lets va
  rw [aligned_of_mod hm, access_of_reaches rfl hr, outsideRegion_outside hout, if_neg (ne_true_of_eq_false hp),
    ← (marksOnly_of_reaches hr).srcVal s.turn b, ← (marksOnly_of_reaches hr).srcVal s.turn c]
  simp only [hg, he, Option.getD_none] <;> rfl

/-- The atomic ends at its home as it issues, or leaves its flit for a home on another device. -/
theorem atomEff_cases {dst : BitVec 12} {pa : Nat} {g : Nat → Option Nat} (hx : exec i s = issueWord i n (some (.scalar d')) r (atomEff op w o d a b c f) s)
    (hf : f s1 s.turn = g) :
    (sp.area ≠ .remote → atomicAt s2 s.turn.slot sp w o g = .ok (s3, v) →
      (freshDrops s1 (putResult s3 s.turn d (BitVec.ofNat 64 v)) = [] → yields i n r s (putResult s3 s.turn d (BitVec.ofNat 64 v)))
      ∧ (freshDrops s1 (putResult s3 s.turn d (BitVec.ofNat 64 v)) ≠ [] →
        pends i n r s (numbered (putResult s3 s.turn d (BitVec.ofNat 64 v))) s3.nextUid
          (.await (freshDrops s1 (putResult s3 s.turn d (BitVec.ofNat 64 v))))))
    ∧ (sp.area = .remote → farAddr (atomFreed s2 s.turn.slot sp o) sp.loc = some (dst, pa) →
      unreachable (atomFreed s2 s.turn.slot sp o) dst = false →
      let gone := purge (atomFreed s2 s.turn.slot sp o) (clusterOf (coreOf s.turn.slot)) (sp.loc / 64)
      pends i n r s (putBusy (sendFlit (numbered gone) (atomFlit (numbered gone) dst (BitVec.ofNat 12 gone.nextUid)
          (slotTag s1 s.turn.slot) pa op (srcVal s s.turn b) (srcVal s s.turn c) (w == 4) false)) s.turn d gone.nextUid)
        gone.nextUid (.far sp (BitVec.ofNat 12 gone.nextUid) o)) := by
  have heff := atomEff_of_reaches (op := op) (d := d) (b := b) (c := c) (f := f) hin hp hg he hm hr
  rw [hf] at heff
  refine ⟨fun ha hat => ?_, fun ha hfar hun => pends_of_pend hx ?_⟩
  · rw [if_neg ha, hat] at heff
    refine ⟨fun hd => yields_of_done hx ?_, fun hd => pends_of_pend hx ?_⟩
    · rw [heff]
      simp only [hd]
    · obtain ⟨x, l, hl⟩ := List.exists_cons_of_ne_nil hd
      rw [heff]
      simp only [hl] <;> rfl
  · rw [heff, if_pos ha, farPend]
    simp only [hfar, hun]
    rfl

end

end

section
variable {s s1 : State} {t : Thread} {b c : Opnd} {n : Nat}

/-- An atomic of one operand on the state that its translation leaves. -/
theorem rmw_of_marksOnly {g : Word → Word → Word} (h : MarksOnly s s1) :
    rmw b g s1 t = fun m => some (g (BitVec.ofNat 64 m) (srcVal s t b)).toNat := by
  rw [← h.srcVal]
  rfl

theorem swapIf_of_marksOnly (h : MarksOnly s s1) : swapIf n b c s1 t = fun m =>
    if m = (srcVal s t b).toNat % 2 ^ (8 * n) then some ((srcVal s t c).toNat % 2 ^ (8 * n)) else none := by
  rw [← h.srcVal, ← h.srcVal]
  rfl

end

theorem redFun_min (m y : Word) : (redFun .min m y).toNat = if m.toInt < y.toInt then m.toNat else y.toNat := by
  simp only [redFun, BitVec.slt_iff_toInt_lt, apply_ite BitVec.toNat]

theorem redFun_max (m y : Word) : (redFun .max m y).toNat = if m.toInt < y.toInt then y.toNat else m.toNat := by
  simp only [redFun, BitVec.slt_iff_toInt_lt, apply_ite BitVec.toNat]

theorem redFun_minu (m y : Word) : (redFun .minu m y).toNat = if m.toNat < y.toNat then m.toNat else y.toNat := by
  simp only [redFun, BitVec.ult_iff_toNat_lt, apply_ite BitVec.toNat]

theorem redFun_maxu (m y : Word) : (redFun .maxu m y).toNat = if m.toNat < y.toNat then y.toNat else m.toNat := by
  simp only [redFun, BitVec.ult_iff_toNat_lt, apply_ite BitVec.toNat]

/-- Settles O29: each atomic by its home, with the operation that its row names. -/
theorem atomicWords : Obligations.AtomicWords := by
  intro n o d a b c s s1 s2 s3 sp v dst pa t x va y z rw hin hp hg he freed gone tag sent runs does swaps w64
  have one {i : Instr} {op : Nat} {g : Word → Word → Word} {f : Nat → Nat}
      (hx : exec i s = issueWord i n (some (.scalar d)) (sources [a, b]) (atomEff op 8 o d a b b (rmw b g)) s)
      (hf : ∀ m, (g (w64 m) y).toNat = f m) : does i op f := fun hm hr =>
    atomEff_cases hin hp hg he hm hr hx
      ((rmw_of_marksOnly (marksOnly_of_reaches hr)).trans (funext fun m => congrArg some (hf m)))
  have two {i : Instr} {w : Nat}
      (hx : exec i s = issueWord i n (some (.scalar .push)) (sources [a, b, c]) (atomEff 9 w o .push a b c (swapIf w b c)) s) :
      swaps i w := fun hm hr =>
    atomEff_cases hin hp hg he hm hr hx (swapIf_of_marksOnly (marksOnly_of_reaches hr))
  exact ⟨one rfl fun _ => rfl, one rfl fun m => redFun_min (w64 m) y, one rfl fun m => redFun_max (w64 m) y,
    one rfl fun m => redFun_minu (w64 m) y, one rfl fun m => redFun_maxu (w64 m) y, one rfl fun _ => rfl, one rfl fun _ => rfl,
    one rfl fun _ => rfl, one rfl fun _ => rfl, two rfl, two rfl⟩

/-! ### LOAD_DELIVERY (15 R363, 04 R104) -/

section
variable {s s1 : State} {slot tag v : Nat} {q : Seq} {o : Outst} {sps : List Span} {old : QVal}

/-- A slot with no region reads storage as it stands. -/
theorem readFor_of_no_region {α : Type} {sup : Bool} {f : State → Risk (State × α)} (h : (getSlot s slot).region = none) :
    readFor s slot sup f = f s := by
  simp only [readFor, h, Bool.true_or, if_true]

section
variable (hl : ((getSlot s slot).issued q).find? (fun e => e.2.tag == tag && !e.2.done && e.2.work.isLoad) = some (false, o))
  (hw : o.work = .load sps old) (hs : sps ≠ []) (hr : (getSlot s slot).region = none) (hb : blockedBy ((getSlot s slot).issued q) o = false)
include hl hw hs hr hb

/-- A load that nothing before it holds is delivered what its bytes hold now. -/
theorem deliverLoad_of_ok (hv : loadSpans (seqNum q) slot (coreWho s slot) s sps = .ok (s1, v)) : deliverLoad s slot q tag =
    checkEnd (updSlot s1 slot fun x =>
      settle (markDone (x.onBanks q fun r => deliver r tag (BitVec.ofNat 64 v)) q tag)) slot := by
  have hspans : (Work.load sps old).spans.isEmpty = false := List.isEmpty_eq_false_iff.2 hs
  have hheld : queueHeld ((getSlot s slot).issued q) o = false := by simp only [queueHeld, hw]
  unfold deliverLoad
  simp only [hl, hb, hheld, Bool.or_false, Bool.false_eq_true, if_false, hw, hspans, loadValue, readFor_of_no_region hr, hv]
  rfl

/-- Bytes that have turned bad since deliver what the load found as it issued (04 R104). -/
theorem deliverLoad_of_error {b : Bad} {w : SWord} (hv : loadSpans (seqNum q) slot (coreWho s slot) s sps = .error b) (ho : old = .s w) :
    deliverLoad s slot q tag = checkEnd (updSlot s slot fun x =>
      settle (markDone (x.onBanks q fun r => deliver r tag w.val) q tag)) slot := by
  have hspans : (Work.load sps old).spans.isEmpty = false := List.isEmpty_eq_false_iff.2 hs
  have hheld : queueHeld ((getSlot s slot).issued q) o = false := by simp only [queueHeld, hw]
  subst ho
  unfold deliverLoad
  simp only [hl, hb, hheld, Bool.or_false, Bool.false_eq_true, if_false, hw, hspans, loadValue, readFor_of_no_region hr, hv, seenValue]

end

end

/-! ### STORE_PERFORMED (15 R364, 08 R205, 04 R100) -/

section
variable {s s1 : State} {slot : Nat} {q : Seq} {o : Outst} {op : StoreOp}

/-- A slot whose write has performed: its word is complete, or awaits the accesses in flight under what it dropped (04 R100). -/
def Slot.performed (x : Slot) (q : Seq) (tag : Nat) : List (Nat × Nat) → Slot
  | [] => settle (markDone x q tag)
  | d :: ds => markAwait x q tag (d :: ds)

/-- The one write under way of a sequencer performs where nothing holds it, and its word is complete or awaits what it dropped. -/
theorem performStore_of_ok
    (hl : ((getSlot s slot).issued q).filter (fun e => !e.2.done && e.2.work.isStore) = [(false, o)]) (hw : o.work = .store op)
    (hr : (getSlot s slot).region = none) (hb : blockedBy ((getSlot s slot).issued q) o = false) (hn : needFar s slot op.merges = none)
    (hh : farRelHeld s slot o.tag op = false) (hf : farRelease (getSlot s slot) o.tag op = false) (hp : performOp s slot op = .ok s1) :
    performStore s slot q = checkEnd (updSlot s1 slot fun x => x.performed q o.tag (freshDrops s s1)) slot := by
  have hd : heldByDrain (getSlot s slot) o.tag op = false := by simp only [heldByDrain, hr]
  have hm : bufMerges (getSlot s slot) = [] := by simp only [bufMerges, hr]
  have hi : slotWrite s slot q o.pc o.tag op = performOp s slot op := by
    simp only [slotWrite, inRegion, hr, Bool.false_eq_true, if_false]
  unfold performStore
  simp only [hl, List.foldl_nil, hw, hb, hd, hm, List.append_nil, hn, hh, hf, hi, hp, Bool.or_self, Option.isSome_none,
    Bool.false_eq_true, if_false]
  cases freshDrops s s1 <;> rfl

end

/-- Settles O32: a delivery by what its bytes hold, a performance by whether the write left accesses to await. -/
theorem deliveredAndPerformed : Obligations.DeliveredAndPerformed := by
  intro slot tag q o sps old op s s1 v w b x l
  refine ⟨fun hl hw hs hr hb => ⟨fun hv => ?_, fun hv ho => ?_⟩, fun hl hw hr hb hn hh hf hp => ⟨fun hd => ?_, fun hd => ?_⟩⟩
  · exact congrArg Host.Outcome.next (deliverLoad_of_ok hl hw hs hr hb hv)
  · exact congrArg Host.Outcome.next (deliverLoad_of_error hl hw hs hr hb hv ho)
  · refine congrArg Host.Outcome.next ((performStore_of_ok hl hw hr hb hn hh hf hp).trans ?_)
    rw [hd]
    rfl
  · obtain ⟨e, ds, he⟩ := List.exists_cons_of_ne_nil hd
    refine congrArg Host.Outcome.next ((performStore_of_ok hl hw hr hb hn hh hf hp).trans ?_)
    rw [he]
    rfl

end Sys2Proof.Machine
end

section
/-! PROOFS. ACQ, FTEST, REL and the binding table (15 R374, R375, 08 R208-R212). -/

namespace Sys2Proof.Machine

section
variable {s s1 s2 : State} {t : Thread} {d : Dest} {a b c : Opnd} {sp : Span} {v : Word}

/-! ### Acquires (15 R374, 08 R208, R210) -/

theorem observe_of_find_none {o : Observe} {r : Res} (h : ((getSlot s t.slot).marks.find? fun m => o.sees t.seq m) = none) :
    observe s t o r = r := by
  simp only [observe, h]

theorem observe_of_find_some {o : Observe} {r : Res} {m : OvfMark} (h : ((getSlot s t.slot).marks.find? fun m => o.sees t.seq m) = some m) :
    observe s t o r =
      .trap (setSlot s t.slot { getSlot s t.slot with marks := (getSlot s t.slot).marks.erase m }) { cause := 11, addr := m.record } := by
  simp only [observe, h]

theorem acqEff_near (h : sp.area ≠ .remote ∨ sp.sw < 2) (ha : acquireRead s t.slot (isSup s t) sp = .ok (s2, v)) :
    acqEff d s t sp = observe s2 t (.done sp.va v) (.done (putResult s2 t d v)) := by
  have hn : ¬ (sp.area = .remote ∧ 2 ≤ sp.sw) := fun ⟨h1, h2⟩ => h.elim (fun h => h h1) fun h => absurd h2 (Nat.not_le.2 h)
  simp only [acqEff, if_neg hn, ha]

theorem acquired_of_acquire {f : State → Word → Res} (ha : acquireRead s t.slot (isSup s t) sp = .ok (s2, v)) :
    (match acquireRead s t.slot (isSup s t) sp with
      | .error b => .bad s b
      | .ok (s, v) => f s v) = f s2 v := by
  rw [ha]

theorem SentHome.slots (h : SentHome s s1) : s1.slots = s.slots := by rw [h]

theorem SentHome.jobs (h : SentHome s s1) : s1.jobs = s.jobs := by rw [h]

/-- A line that leaves a cluster leaves the slots and their jobs. -/
theorem slotTag_purge {cl line slot : Nat} : slotTag (numbered (purge s cl line)) slot = slotTag s slot := by
  have hs : getSlot (numbered (purge s cl line)) slot = getSlot s slot := getSlot_of_slots sentHome_purge.slots
  have hj : (numbered (purge s cl line)).jobs = s.jobs := sentHome_purge.jobs
  rw [slotTag, slotTag, getJob, getJob, hs, hj]

/-- A sync word of width 2 to 5 on another device is read there (08 R208). -/
theorem acqEff_far {dst : BitVec 12} {pa : Nat} (h : sp.area = .remote) (hw : 2 ≤ sp.sw) (hf : farAddr s sp.loc = some (dst, pa))
    (hu : unreachable s dst = false) : acqEff d s t sp =
      let gone := purge s (clusterOf (coreOf t.slot)) (sp.loc / 64)
      .pend (putBusy (sendFlit (numbered gone) (readFlit (numbered gone) dst (BitVec.ofNat 12 gone.nextUid) (slotTag s t.slot) pa)) t d
        gone.nextUid) gone.nextUid (.far sp (BitVec.ofNat 12 gone.nextUid) .acq) := by
  rw [acqEff, if_pos ⟨h, hw⟩, farPend, ← slotTag_purge (cl := clusterOf (coreOf t.slot)) (line := sp.loc / 64)]
  simp only [hf, hu]
  rfl

theorem intoRegion_of_closed {sps : List Span} (h : (getSlot s t.slot).regionOpen = false) : intoRegion s t sps = false := by
  rw [intoRegion, h, Bool.and_false, Bool.false_and]

/-! ### REL (15 R374, 08 R210) -/

theorem relEff_of_reaches (hv : (srcVal s s.turn a).toNat % 8 = 0)
    (hr : reaches s (srcVal s s.turn a) 8 { w := true, atHome := true } s1 [sp]) :
    relEff a b s s.turn = outsideRegion s1 s.turn [sp]
      (if sp.cst then .trap s1 { cause := 4, kind := kPermission, wr := true, addr := srcVal s s.turn a }
        else pendStore s1 s.turn (.rel sp (srcVal s s.turn b))) := by
  unfold relEff
  extract_lets va
  rw [aligned_of_mod hv, access_of_reaches rfl hr, ← (marksOnly_of_reaches hr).srcVal s.turn b]

/-! ### The binding table (15 R375, 08 R209) -/

/-- The length of a binding of `len` bytes from `ub`, in whole granules. -/
def boundLen (ub len : Nat) : Nat := (ub + len + 63) / 64 * 64 - ub / 64 * 64

/-- The entry of a binding of a word and a base. -/
def bindsAt (sync : Word) (ub : Nat) (e : Nat × Option (Word × Nat × Nat)) : Bool :=
  e.2.any fun v => v.1 == (BitVec.ofNat 57 (syncField sync)).signExtend 64 && v.2.1 == ub / 64 * 64

/-- What a word answers that ends with one write. -/
def Res.ofRisk (s : State) : Risk State → Res
  | .ok u => .done u
  | .error b => .bad s b

/-- What BIND does with the entry of its word and base, if there is one, and else with a free one. -/
def boundInto (s : State) (t : Thread) (sync : Word) (ub len : Nat) : (mine free : Option (Nat × Option (Word × Nat × Nat))) → Res
  | some e, _ => .ofRisk s (tableWrite s t (32 * e.1 + 16) 8 len)
  | none, some e => .ofRisk s (tableWrite s t (32 * e.1) 32 (syncField sync + 1 + ub / 64 * 64 * 2 ^ 64 + len * 2 ^ 128))
  | none, none => .trap s { cause := 19, addr := sync }

section
variable (hv : (srcVal s t a).toNat % 8 = 0)
include hv

theorem bindEff_bad (h : srcVal s t c = 0 ∨ 2 ^ 48 < boundLen (srcVal s t b).toNat (srcVal s t c).toNat ∨ (getSlot s t.slot).need = 0) :
    bindEff a b c s t = .trap s { cause := 19, addr := srcVal s t a } := by
  unfold bindEff
  extract_lets sync ub base len bad key fin
  exact (aligned_of_mod hv).trans (if_pos h)

section
variable (h : ¬ (srcVal s t c = 0 ∨ 2 ^ 48 < boundLen (srcVal s t b).toNat (srcVal s t c).toNat ∨ (getSlot s t.slot).need = 0))
  (hp : pending s t = false)
include h hp

/-- A sound BIND looks for the entry of its word and base, and else for a free one. -/
theorem bindEff_of_sound : bindEff a b c s t =
    boundInto s t (srcVal s t a) (srcVal s t b).toNat (boundLen (srcVal s t b).toNat (srcVal s t c).toNat)
      ((bindings s t.slot).find? (bindsAt (srcVal s t a) (srcVal s t b).toNat)) ((bindings s t.slot).find? fun e => e.2.isNone) := by
  unfold bindEff
  extract_lets sync ub base len bad key fin l
  have hl : len = boundLen (srcVal s t b).toNat (srcVal s t c).toNat := rfl
  have hf : fin = Res.ofRisk s := rfl
  have hb : (fun e : Nat × Option (Word × Nat × Nat) => e.2.any fun v => v.1 == key && v.2.1 == base) = bindsAt sync ub := rfl
  clear_value len fin
  subst hl hf
  rw [aligned_of_mod hv, if_neg h, if_neg (ne_true_of_eq_false hp), hb]
  simp only [sync, ub, base, bad, l]
  cases (bindings s t.slot).find? (bindsAt (srcVal s t a) (srcVal s t b).toNat) with
  | some e => rfl
  | none => cases (bindings s t.slot).find? (fun e => e.2.isNone) <;> rfl

end

end

/-- UNBIND zeroes the entries that it names in the slot's table, where it has one (log 111). -/
theorem unbindEff_of_invalidate (hv : (srcVal s t a).toNat % 8 = 0) (hp : pending s t = false)
    (h : invalidate t s (((if (getSlot s t.slot).need = 0 then [] else bindings s t.slot).filter fun e => e.2.any fun v =>
      v.1 == (BitVec.ofNat 57 (syncField (srcVal s t a))).signExtend 64
        && (srcVal s t b == BitVec.allOnes 64 || v.2.1 == (srcVal s t b).toNat / 64 * 64)).map (·.1)) = .ok s2) :
    unbindEff a b s t = .done s2 := by
  unfold unbindEff
  extract_lets sync key ub l hit
  refine (aligned_of_mod hv).trans ((if_neg (ne_true_of_eq_false hp)).trans ?_)
  rw [show invalidate t s (hit.map (·.1)) = .ok s2 from h]

end

/-- Settles O36: each word by its access, then by the state of its sync word, its stores or its binding table. -/
theorem syncWords : Obligations.SyncWords := by
  intro n d a b c s s1 s2 sp v dst pa t va key ub base len r2 r3 l mine hv
  refine ⟨fun hp ha => ⟨fun hr => ?_, fun hr hn => ⟨fun hm => ?_, fun m hm => ?_⟩⟩, fun hp hr hm hw hf hu => ?_,
    fun hr ho => ⟨fun hc => ?_, fun hc hw hd => ?_⟩, fun h => ?_, fun hc hl hn hp => ?_, fun hp hn hi => ?_, fun hp hn => ?_⟩
  · refine yields_of_done rfl ((syncAccess_of_reaches hv hr hp).trans (acquired_of_acquire ha))
  · exact yields_of_done rfl ((syncAccess_of_reaches hv hr hp).trans ((acqEff_near hn ha).trans (observe_of_find_none hm)))
  · exact entersTrap_of_trap rfl ((syncAccess_of_reaches hv hr hp).trans ((acqEff_near hn ha).trans (observe_of_find_some hm)))
  · exact pends_of_pend rfl ((syncAccess_of_reaches hv hr hp).trans (acqEff_far hm hw hf hu))
  · refine entersTrap_of_trap rfl ((relEff_of_reaches hv hr).trans ((outsideRegion_outside (intoRegion_of_closed ho)).trans ?_))
    exact if_pos hc
  · exact (store_cases (op := .rel sp (srcVal s t b)) rfl (relEff_of_reaches hv hr) (by simp)
      (fun _ _ _ => (if_neg (ne_true_of_eq_false hc)).trans) fun _ => (if_neg (ne_true_of_eq_false hc)).trans).2
      (intoRegion_of_closed ho) hw hd
  · exact entersTrap_of_trap rfl (bindEff_bad hv h)
  · have hx := bindEff_of_sound (a := a) (b := b) (c := c) hv (t := t) (by grind [boundLen, turnSlot]) hp
    refine ⟨fun e hf hw => ?_, fun hf => ⟨fun e hf' hw => ?_, fun hf' => ?_⟩⟩
    · rw [show (bindings s t.slot).find? (bindsAt (srcVal s t a) (srcVal s t b).toNat) = some e from hf] at hx
      exact yields_of_done rfl (hx.trans (congrArg (Res.ofRisk s) hw))
    · rw [show (bindings s t.slot).find? (bindsAt (srcVal s t a) (srcVal s t b).toNat) = none from hf,
        show (bindings s t.slot).find? (fun e => e.2.isNone) = some e from hf'] at hx
      exact yields_of_done rfl (hx.trans (congrArg (Res.ofRisk s) hw))
    · rw [show (bindings s t.slot).find? (bindsAt (srcVal s t a) (srcVal s t b).toNat) = none from hf,
        show (bindings s t.slot).find? (fun e => e.2.isNone) = none from hf'] at hx
      exact entersTrap_of_trap rfl hx
  · refine yields_of_done rfl (unbindEff_of_invalidate hv hp ?_)
    rw [if_neg (show ¬ (getSlot s s.turn.slot).need = 0 from hn)]
    exact hi
  · refine yields_of_done rfl (unbindEff_of_invalidate hv hp ?_)
    rw [if_pos (show (getSlot s s.turn.slot).need = 0 from hn)]
    rfl

end Sys2Proof.Machine
end

section
/-! PROOFS. What an atomic at the home of uncached storage changes (15 R371, R373, 08 R216). -/

namespace Sys2Proof.Machine

/-! ### A run of bytes inside a wider run -/

theorem readNat_congr {m m' : Store} {a n : Nat} (h : ∀ i < n, readByte m (a + i) = readByte m' (a + i)) : readNat m a n = readNat m' a n := by
  induction n generalizing a with
  | zero => rfl
  | succ n ih =>
    rw [readNat, readNat, ih fun i hi => by simpa only [Nat.add_assoc, Nat.add_comm 1] using h (i + 1) (Nat.succ_lt_succ hi)]
    rw [show readByte m a = readByte m' a from h 0 n.succ_pos]

theorem readNat_inside (m : Store) (a k n r : Nat) : readNat m a (k + (n + r)) / 256 ^ k % 256 ^ n = readNat m (a + k) n := by
  rw [readNat_add, Nat.add_mul_div_left _ _ (Nat.pow_pos (by decide)), Nat.div_eq_of_lt (readNat_lt m a k), Nat.zero_add, readNat_add,
    Nat.add_mul_mod_self_left, Nat.mod_eq_of_lt (readNat_lt ..)]

/-- A wider run, after a write inside it. -/
theorem readNat_writeNat_inside (m : Store) (a k n r v : Nat) : readNat (writeNat m (a + k) n v) a (k + (n + r)) =
    readNat m a (k + (n + r)) - readNat m (a + k) n * 256 ^ k + v % 256 ^ n * 256 ^ k := by
  have hlo : readNat (writeNat m (a + k) n v) a k = readNat m a k :=
    readNat_congr fun i hi => readByte_writeNat_of_not_mem _ _ _ _ _ (.inl (by omega))
  have hhi : readNat (writeNat m (a + k) n v) (a + k + n) r = readNat m (a + k + n) r :=
    readNat_congr fun i _ => readByte_writeNat_of_not_mem _ _ _ _ _ (.inr (by omega))
  simp only [readNat_add _ _ k, readNat_add _ _ n, hlo, hhi, readNat_writeNat, Nat.mul_comm (256 ^ k), Nat.add_mul]
  omega

section
variable {s : State} {sp : Span} {c n slot : Nat} {f : Nat → Option Nat}

/-! ### The home of uncached storage -/

/-- Storage after a write of a word's bytes alone. -/
def stored (s : State) (a n v : Nat) : State := { s with mem := writeNat s.mem a n v }

theorem home_run_eq {a z : Nat} (hz : z ∈ [4, 8]) (ha : a % z = 0) : a % 16 + (z + (16 - a % 16 - z)) = 16 := by
  obtain rfl | rfl : z = 4 ∨ z = 8 := by simpa using hz
  all_goals omega

theorem homeGran_toNat {loc : Nat} : (homeGran s (loc / 64) (loc / 16 % 4)).data.toNat = readNat s.mem (16 * (loc / 16)) 16 := by
  have hlt : readNat s.mem (16 * (loc / 16)) 16 < 2 ^ 128 := readNat_lt ..
  rw [homeGran_of_loc, BitVec.toNat_ofNat, Nat.mod_eq_of_lt hlt]

section
variable (hz : n ∈ [4, 8]) (ha : sp.loc % n = 0)
include hz ha

/-- The granule that holds a word, after a write of the word. -/
theorem homeGran_stored {v : Nat} : (homeGran (stored s sp.loc n v) (sp.loc / 64) (sp.loc / 16 % 4)).data =
    BitVec.ofNat 128 ((homeGran s (sp.loc / 64) (sp.loc / 16 % 4)).data.toNat - readNat s.mem sp.loc n * 2 ^ (8 * (sp.loc % 16))
      + v % 2 ^ (8 * n) * 2 ^ (8 * (sp.loc % 16))) := by
  have h := readNat_writeNat_inside s.mem (16 * (sp.loc / 16)) (sp.loc % 16) n (16 - sp.loc % 16 - n) v
  rw [Nat.div_add_mod, home_run_eq hz ha] at h
  rw [homeGran_of_loc, homeGran_toNat, pow_mul, pow_mul]
  exact congrArg (BitVec.ofNat 128) h

variable (hc : sp.area.cached = false) (hs : granSyn s.mem (sp.loc / 16) = 0) (hm : poisoned (homeMeta s (sp.loc / 64)) = false)
include hc hs hm

theorem homeRead_uncached : homeRead s (some c) sp n = .ok (s, readNat s.mem sp.loc n, 0) := by
  have h := readNat_inside s.mem (16 * (sp.loc / 16)) (sp.loc % 16) n (16 - sp.loc % 16 - n)
  rw [Nat.div_add_mod, home_run_eq hz ha] at h
  have hy : (homeGran s (sp.loc / 64) (sp.loc / 16 % 4)).syn = 0 := by rw [homeGran_of_loc, hs]
  simp only [homeRead, hc, hm, hy, homeGran_toNat, pow_mul, Bool.false_eq_true, if_false, bne_self_eq_false, Bool.or_self]
  rw [show readNat s.mem (16 * (sp.loc / 16)) 16 / (2 ^ 8) ^ (sp.loc % 16) % (2 ^ 8) ^ n = _ from h]

/-- An update with no new value leaves the state. -/
theorem homeUpdate_none (hf : f (readNat s.mem sp.loc n) = none) :
    homeUpdate s (some c) sp n f = .ok (s, readNat s.mem sp.loc n, 0) := by
  simp only [homeUpdate, homeRead_uncached hz ha hc hs hm, hf, Option.map_none]

/-- An update with a new value writes the granule that holds it. -/
theorem homeUpdate_some {v : Nat} (hf : f (readNat s.mem sp.loc n) = some v) :
    homeUpdate s (some c) sp n f = .ok (lineWritten (clearRanges (putHomeGran s (sp.loc / 64) (sp.loc / 16 % 4)
      (homeGran (stored s sp.loc n v) (sp.loc / 64) (sp.loc / 16 % 4)).data 0) sp.loc n) (sp.loc / 64), readNat s.mem sp.loc n, 0) := by
  simp only [homeUpdate, homeRead_uncached hz ha hc hs hm, hf, Option.map_some, Option.getD_some, if_true, homeGran_stored hz ha]

end

theorem readByte_stored {loc l v : Nat} : readByte (stored s loc n v).mem l =
    if loc ≤ l ∧ l < loc + n then BitVec.ofNat 8 (v / 256 ^ (l - loc)) else readByte s.mem l := by
  split
  · next h =>
    have hw := readByte_writeNat_of_mem (m := s.mem) (a := loc) (n := n) (v := v) (i := l - loc) (by omega)
    rwa [Nat.add_sub_cancel' h.1] at hw
  · next h => exact readByte_writeNat_of_not_mem _ _ _ _ _ (by omega)

/-- A word's granule, written as storage holds it after the write, writes the word. -/
theorem readByte_putHomeGran_stored {loc l v : Nat} (hz : n ∈ [4, 8]) (ha : loc % n = 0) :
    readByte (putHomeGran s (loc / 64) (loc / 16 % 4) (homeGran (stored s loc n v) (loc / 64) (loc / 16 % 4)).data 0).mem l =
      readByte (stored s loc n v).mem l := by
  have hn := home_run_eq hz ha
  by_cases h : l / 16 = loc / 16
  · have hl : l = 64 * (loc / 64) + 16 * (loc / 16 % 4) + l % 16 := by omega
    rw [hl, readByte_putHomeGran_same (Nat.mod_lt _ (by decide)), homeGran_data_byte (Nat.mod_lt _ (by decide))]
  · rw [readByte_putHomeGran_other (by omega), readByte_stored, if_neg (by omega)]

end

/-- Settles O30: the granule that the home writes is the old one with the word's own bytes replaced. -/
theorem atomicAtHome : Obligations.AtomicAtHome := by
  intro s slot sp z f hc hz ha hs hm
  have hat {u : State} (h : homeUpdate s (some (clusterOf (coreOf slot))) sp z f = .ok (u, readNat s.mem sp.loc z, 0)) :
      atomicAt s slot sp z .rlx f = .ok (u, readNat s.mem sp.loc z) := by
    have hr : ordReleases .rlx = false := rfl
    have ho : ordAcquires .rlx = false := rfl
    simp only [atomicAt, hr, ho, Bool.false_eq_true, if_false, h, countSubst, if_true]
  cases hf : f (readNat s.mem sp.loc z) with
  | none => exact ⟨s, hat (homeUpdate_none hz ha hc hs hm hf), fun l => rfl⟩
  | some v =>
    refine ⟨_, hat (homeUpdate_some hz ha hc hs hm hf), fun l => ?_⟩
    rw [lineWritten_mem]
    exact (readByte_putHomeGran_stored hz ha).trans readByte_stored

end Sys2Proof.Machine
end

section
/-! PROOFS. The scratchpad words of C (16 R400-R402). -/

namespace Sys2Proof.Machine

section
variable {s s1 : State} {t : Thread} {va base bad : Word} {n : Nat} {sp : Span} {sps : List Span} {wr : Bool}

/-! ### A run and the elements in a window (16 R400, R401) -/

theorem windowAccess_outside {k : State → Span → Res} (h : windowRun s t.slot va n = (s1, .error bad)) :
    windowAccess s t wr va n k = .trap s1 { cause := 4, kind := kWindow, wr, addr := bad } := by
  simp only [windowAccess, h]

theorem windowAccess_read {k : State → Span → Res} (h : windowRun s t.slot va n = (s1, .ok sp)) (hp : pending s1 t = false) :
    windowAccess s t false va n k = k s1 sp := by
  simp only [windowAccess, h, hp, Bool.false_eq_true, if_false]

theorem windowAccess_write {k : State → Span → Res} (h : windowRun s t.slot va n = (s1, .ok sp)) (hp : pending s1 t = false)
    (hc : intoRegion s1 t [sp] = false) : windowAccess s t true va n k = k s1 sp := by
  simp only [windowAccess, h, hp, outsideRegion_outside hc, if_true, Bool.false_eq_true, if_false]

/-- The elements of a vector by their bytes. -/
theorem elems_esize (z : ESize) (v : Vec) : elems (8 * esize z) v =
    (List.range (256 / esize z)).map fun e => v.toNat / 2 ^ (8 * esize z * e) % 2 ^ (8 * esize z) := by
  rw [elems, Nat.mul_div_mul_left 256 (esize z) (by decide : 0 < 8)]

section
variable {ix : Vec} {k : State → List Span → Res} (hm : base.toNat % n = 0) (h : elemSpans t.slot n s (elemAddrs n base ix) = (s1, .ok sps))
  (hp : pending s1 t = false)
include hm h hp

theorem indexAccess_read : indexAccess s t false n base ix k = k s1 sps := by
  rw [indexAccess, aligned_of_mod hm]
  simp only [h, hp, Bool.false_eq_true, if_false]

theorem indexAccess_write (hc : intoRegion s1 t sps = false) : indexAccess s t true n base ix k = k s1 sps := by
  rw [indexAccess, aligned_of_mod hm]
  simp only [h, hp, outsideRegion_outside hc, if_true, Bool.false_eq_true, if_false]

end

end

/-- Settles O34: VLD and VST by the run that they reach, VLDX and VSTX by their elements. -/
theorem vectorMemoryWords : Obligations.VectorMemoryWords := by
  intro n z d a b c off s s1 s2 sp sps v y bad t va base size addrs put ix ix3 clear
  have hva : va = effAddr (srcVal s t a) off 256 := (effAddr_eq ..).symm
  clear_value va
  subst hva
  have haddr : elemAddrs size base (readV (turnSlot s) b).val = addrs := by
    rw [elemAddrs, elems_esize, List.map_map]
    rfl
  refine ⟨fun hm hw hp => ⟨fun hv => ?_, fun hc hv => ?_⟩, fun hm hw hp => ⟨fun hv => ?_, fun hc hv => ?_⟩,
    fun hm hw => ⟨?_, ?_⟩, fun hm => ⟨?_, ?_⟩⟩
  · refine yields_of_done rfl ((aligned_of_mod hm).trans ((windowAccess_read hw hp).trans ?_))
    rw [hv]
    rfl
  · refine yields_of_done rfl ((aligned_of_mod hm).trans ((windowAccess_write hw hp hc).trans ?_))
    rw [vecWrite, hv]
  · refine yields_of_done rfl ((indexAccess_read hm (haddr ▸ hw) hp).trans ?_)
    rw [hv]
    rfl
  · have hx : writeElems s.turn s1 (sps.zip (elems (8 * esize z) (readV (getSlot s s.turn.slot) c).val)) = .ok s2 := by
      rw [elems_esize]
      exact hv
    refine yields_of_done rfl ((indexAccess_write hm (haddr ▸ hw) hp hc).trans ?_)
    rw [hx]
  · exact entersTrap_of_trap rfl ((aligned_of_mod hm).trans (windowAccess_outside hw))
  · exact entersTrap_of_trap rfl ((aligned_of_mod hm).trans (windowAccess_outside hw))
  · exact entersTrap_of_misaligned rfl rfl hm
  · exact entersTrap_of_misaligned rfl rfl hm

end Sys2Proof.Machine
end

section
/-! PROOFS. Rings: claims, publications, waits, RSTAT and RBIND (15 R379-R383, 07 R189, R190). -/

namespace Sys2Proof.Machine

section
variable {s s1 s2 s3 : State} {t : Thread} {rg : BitVec 5} {f : Opnd} {sp : Span} {r : RDesc} {role : Role} {zero graphOk update : Bool}

/-! ### A handle's descriptor and the checks of a ring word (15 R379) -/

theorem withDesc_update {k : State → Handle → Span → RDesc → Res}
    (hr : reaches s (getHandle s s.turn.slot rg).va 32 { r := true, w := true } s1 [sp]) (hd : readDesc s1 s.turn.slot sp = .ok (s2, r)) :
    withDesc true rg s s.turn k = k s2 (getHandle s s.turn.slot rg) sp r := by
  unfold withDesc
  extract_lets h
  rw [access_of_reaches rfl hr]
  simp only [hd, if_true]
  rfl

theorem withDesc_read {k : State → Handle → Span → RDesc → Res}
    (hr : reaches s (getHandle s s.turn.slot rg).va 32 { r := true } s1 [sp])
    (hd : readFor s1 s.turn.slot (isSup s1 s.turn) (fun u => readDesc u s.turn.slot sp) = .ok (s2, r)) :
    withDesc false rg s s.turn k = k s2 (getHandle s s.turn.slot rg) sp r := by
  unfold withDesc
  extract_lets h
  rw [access_of_reaches rfl hr]
  simp only [hd, Bool.false_eq_true, if_false]
  rfl

/-- The counts of a ring word that trap before its descriptor is read, and the graph ring of one that claims (15 R379). -/
abbrev ringRefuses (h : Handle) (zero graphOk : Bool) (n : Nat) : Bool :=
  65535 < n || (n == 0 && !zero) || (h.flags.getLsbD 0 && !graphOk)

section
variable {k : State → Handle → Span → RDesc → Nat → Res}

theorem ringWord_of_role (h : (getHandle s t.slot rg).role ≠ some role) : ringWord role zero graphOk update rg f s t k =
    .trap s { cause := 16, addr := if (getHandle s t.slot rg).role.isNone then 0 else (getHandle s t.slot rg).va } := if_pos h

section
variable (h : (getHandle s t.slot rg).role = some role)
include h

theorem ringWord_of_refuses (hc : ringRefuses (getHandle s t.slot rg) zero graphOk (srcVal s t f).toNat = true) :
    ringWord role zero graphOk update rg f s t k = .trap s { cause := 16, addr := (getHandle s t.slot rg).va } :=
  (if_neg (not_not_intro h)).trans (if_pos hc)

theorem ringWord_of_admits (hc : ringRefuses (getHandle s t.slot rg) zero graphOk (srcVal s t f).toNat = false) :
    ringWord role zero graphOk update rg f s t k = withDesc update rg s t fun u h sp r =>
      if r.n < (srcVal s t f).toNat then ringTrap u h.va else k u h sp r (srcVal s t f).toNat :=
  (if_neg (not_not_intro h)).trans (if_neg (ne_true_of_eq_false hc))

end

end

/-! ### Claims, publications and waits (15 R381-R383) -/

/-- What a claim that is made does to its ring and its handle. -/
def ringClaimed (s : State) (t : Thread) (rg : BitVec 5) (h : Handle) (sp : Span) (r : RDesc) (role : Role) (first : BitVec 32) (n : Nat) : State :=
  let u := setDescField s (some (clusterOf (coreOf t.slot))) sp (match role with | .producer => 20 | .consumer => 16) 4
    (first + BitVec.ofNat 32 n).toNat
  let u := match role with
    | .producer => acquireStep u t.slot { sp with va := sp.va + 12, loc := sp.loc + 12 }
    | .consumer => dropRange u (coreOf t.slot) (getSlot u t.slot).job sp.sw (slotRanges r first n)
  setHandle u t.slot rg { h.saw r with first, count := BitVec.ofNat 16 n, done := 0, status := 0 }

/-- What a ring word's checks leave of it, once its descriptor is read. -/
theorem ringWord_update {k : State → Handle → Span → RDesc → Nat → Res} (h : (getHandle s s.turn.slot rg).role = some role)
    (hc : ringRefuses (getHandle s s.turn.slot rg) zero graphOk (srcVal s s.turn f).toNat = false)
    (hr : reaches s (getHandle s s.turn.slot rg).va 32 { r := true, w := true } s1 [sp]) (hd : readDesc s1 s.turn.slot sp = .ok (s2, r)) :
    ringWord role zero graphOk true rg f s s.turn k =
      if r.n < (srcVal s s.turn f).toNat then .trap s2 { cause := 16, addr := (getHandle s s.turn.slot rg).va }
      else k s2 (getHandle s s.turn.slot rg) sp r (srcVal s s.turn f).toNat := by
  rw [ringWord_of_admits h hc, withDesc_update hr hd]
  rfl

theorem ringWord_read {k : State → Handle → Span → RDesc → Nat → Res} (h : (getHandle s s.turn.slot rg).role = some role)
    (hc : ringRefuses (getHandle s s.turn.slot rg) zero graphOk (srcVal s s.turn f).toNat = false)
    (hr : reaches s (getHandle s s.turn.slot rg).va 32 { r := true } s1 [sp])
    (hd : readFor s1 s.turn.slot (isSup s1 s.turn) (fun u => readDesc u s.turn.slot sp) = .ok (s2, r)) :
    ringWord role zero graphOk false rg f s s.turn k =
      if r.n < (srcVal s s.turn f).toNat then .trap s2 { cause := 16, addr := (getHandle s s.turn.slot rg).va }
      else k s2 (getHandle s s.turn.slot rg) sp r (srcVal s s.turn f).toNat := by
  rw [ringWord_of_admits h hc, withDesc_read hr hd]
  rfl

section
variable (h : (getHandle s s.turn.slot rg).role = some role)
  (hr : reaches s (getHandle s s.turn.slot rg).va 32 { r := true, w := true } s1 [sp]) (hd : readDesc s1 s.turn.slot sp = .ok (s2, r))
  (hn : (srcVal s s.turn f).toNat ≤ r.n)
include h hr hd hn

section
variable (hc : ringRefuses (getHandle s s.turn.slot rg) false false (srcVal s s.turn f).toNat = false)
include hc

theorem claimEff_outstanding (hne : (getHandle s s.turn.slot rg).done ≠ (getHandle s s.turn.slot rg).count) :
    claimEff role rg f s s.turn = .trap s2 { cause := 16, addr := (getHandle s s.turn.slot rg).va } :=
  (ringWord_update h hc hr hd).trans ((if_neg (Nat.not_lt.2 hn)).trans (if_pos hne))

variable (he : (getHandle s s.turn.slot rg).done = (getHandle s s.turn.slot rg).count)
include he

theorem claimEff_waits (hs : claimStatus role r (ringLost s2 sp.loc r role) (srcVal s s.turn f).toNat = none) :
    claimEff role rg f s s.turn = .wait (setHandle s2 s.turn.slot rg ((getHandle s s.turn.slot rg).saw r)) false := by
  refine (ringWord_update h hc hr hd).trans ((if_neg (Nat.not_lt.2 hn)).trans ((if_neg (not_not_intro he)).trans ?_))
  rw [hs]

/-- A claim that ends with a closed ring or a lost partner leaves the ring. -/
theorem claimEff_ends {st : Nat} (hs : claimStatus role r (ringLost s2 sp.loc r role) (srcVal s s.turn f).toNat = some (st + 1)) :
    claimEff role rg f s s.turn = .done (putResult (setHandle (if st + 1 = 2 then touchLost s2 s.turn.slot else s2) s.turn.slot rg
      { (getHandle s s.turn.slot rg).saw r with status := BitVec.ofNat 8 (st + 1) }) s.turn .push
      (ringResult (getHandle s s.turn.slot rg).first (st + 1))) := by
  refine (ringWord_update h hc hr hd).trans ((if_neg (Nat.not_lt.2 hn)).trans ((if_neg (not_not_intro he)).trans ?_))
  rw [hs] <;> rfl

theorem claimEff_made (hs : claimStatus role r (ringLost s2 sp.loc r role) (srcVal s s.turn f).toNat = some 0)
    (hp : pending s2 s.turn = false) (hx : ringEscape s2 s.turn sp = .ok s3) : claimEff role rg f s s.turn =
    .done (putResult (ringClaimed s3 s.turn rg (getHandle s s.turn.slot rg) sp r role
      (match role with | .producer => r.claim | .consumer => r.take) (srcVal s s.turn f).toNat) s.turn .push
      (ringResult (match role with | .producer => r.claim | .consumer => r.take) 0)) := by
  refine (ringWord_update h hc hr hd).trans ((if_neg (Nat.not_lt.2 hn)).trans ((if_neg (not_not_intro he)).trans ?_))
  rw [hs]
  refine (if_neg (ne_true_of_eq_false hp)).trans ?_
  rw [hx]
  cases role <;> rfl

end

section
variable (hc : ringRefuses (getHandle s s.turn.slot rg) (role == .producer) true (srcVal s s.turn f).toNat = false)
include hc

theorem publishEff_beyond (hx : (getHandle s s.turn.slot rg).count.toNat - (getHandle s s.turn.slot rg).done.toNat < (srcVal s s.turn f).toNat) :
    publishEff role rg f s s.turn = .trap s2 { cause := 16, addr := (getHandle s s.turn.slot rg).va } :=
  (ringWord_update h hc hr hd).trans ((if_neg (Nat.not_lt.2 hn)).trans (if_pos hx))

variable (hx : (srcVal s s.turn f).toNat ≤ (getHandle s s.turn.slot rg).count.toNat - (getHandle s s.turn.slot rg).done.toNat)
  (hp : pending s2 s.turn = false) (he : ringEscape s2 s.turn sp = .ok s3)
include hx hp he

/-- RFILL of 0 closes the ring. -/
theorem publishEff_closes (h0 : (srcVal s s.turn f).toNat = 0) : publishEff role rg f s s.turn =
    .done (ringAdvance (setMarks s3 sp.loc { marksOf s3 sp.loc with closing := true }) sp.loc (slotTag s3 s.turn.slot)) := by
  refine (ringWord_update h hc hr hd).trans ((if_neg (Nat.not_lt.2 hn)).trans ((if_neg (Nat.not_lt.2 hx)).trans
    ((if_neg (ne_true_of_eq_false hp)).trans ?_)))
  rw [he]
  exact if_pos h0

/-- The slots that a publication marks, once what a producer wrote in them has gone home. -/
def ringMarked (s : State) (t : Thread) (rg : BitVec 5) (h : Handle) (sp : Span) (r : RDesc) (role : Role) (n : Nat) : State :=
  let u := match role with
    | .producer => writeBackRange s (coreOf t.slot) (getSlot s t.slot).job sp.sw (slotRanges r (h.first + h.done.setWidth 32) n)
    | .consumer => s
  setHandle (markSlots u sp.loc role (h.next n)) t.slot rg { h.saw r with done := h.done + BitVec.ofNat 16 n }

theorem publishEff_marks (h0 : 0 < (srcVal s s.turn f).toNat) : publishEff role rg f s s.turn =
    .done (ringAdvance (ringMarked s3 s.turn rg (getHandle s s.turn.slot rg) sp r role (srcVal s s.turn f).toNat) sp.loc
      (slotTag (ringMarked s3 s.turn rg (getHandle s s.turn.slot rg) sp r role (srcVal s s.turn f).toNat) s.turn.slot)) := by
  refine (ringWord_update h hc hr hd).trans ((if_neg (Nat.not_lt.2 hn)).trans ((if_neg (Nat.not_lt.2 hx)).trans
    ((if_neg (ne_true_of_eq_false hp)).trans ?_)))
  rw [he]
  exact if_neg (Nat.pos_iff_ne_zero.1 h0)

end

end

end

/-- Settles O38: each word by its role and count, then by its descriptor, then by what the ring answers. -/
theorem ringMoves : Obligations.RingMoves := by
  intro n rg f s s1 s2 s3 sp r t h k reads trap claim publish first
  have hcl (role : Role) : exec (claim role) s = issueWord (claim role) n (some (.scalar .push)) reads (claimEff role rg f) s := by
    cases role <;> rfl
  have hpu (role : Role) : exec (publish role) s = issueWord (publish role) n none reads (publishEff role rg f) s := by
    cases role <;> rfl
  refine ⟨fun role hr => ⟨?_, ?_⟩, fun role hr hc => ?_, fun role hr hc => ?_, fun role hr hd hdesc hk => ⟨fun hn => ⟨fun h0 hg => ?_, ?_⟩,
    fun hn h0 hg => ⟨fun hne => ?_, fun heq => ⟨fun hs => ?_, fun hs => ?_, fun hs => ?_, fun hs hp he => ?_⟩⟩,
    fun hn h0 => ⟨fun hx => ?_, fun hx hp he => ⟨fun h0 => ?_, fun h0 => ?_⟩⟩⟩⟩
  · exact entersTrap_of_trap (hcl role) (ringWord_of_role hr)
  · exact entersTrap_of_trap (hpu role) (ringWord_of_role hr)
  · exact entersTrap_of_trap (hcl role) (ringWord_of_refuses hr (by grind))
  · exact entersTrap_of_trap (hpu role) (ringWord_of_refuses hr (by grind))
  · exact entersTrap_of_trap (hcl role) ((ringWord_update hr (by grind) hd hdesc).trans (if_pos hn))
  · exact entersTrap_of_trap (hpu role) ((ringWord_update hr (by grind) hd hdesc).trans (if_pos hn))
  · exact entersTrap_of_trap (hcl role) (claimEff_outstanding hr hd hdesc hn (by grind) hne)
  · exact waitsAt_of_wait (hcl role) (claimEff_waits hr hd hdesc hn (by grind) heq hs)
  · exact yields_of_done (hcl role) (claimEff_ends hr hd hdesc hn (by grind) heq hs)
  · exact yields_of_done (hcl role) (claimEff_ends hr hd hdesc hn (by grind) heq hs)
  · have hx := claimEff_made hr hd hdesc hn (by grind) heq hs hp he
    cases role <;> exact yields_of_done rfl hx
  · exact entersTrap_of_trap (hpu role) (publishEff_beyond hr hd hdesc hn (by grind) hx)
  · exact yields_of_done (hpu role) (publishEff_closes hr hd hdesc hn (by grind) hx hp he h0)
  · have hy := publishEff_marks hr hd hdesc hn (by grind) hx hp he h0
    cases role <;> exact yields_of_done rfl hy

/-! ### RWAITF, RWAITE, RSTAT and RBIND (15 R380, R383) -/

section
variable {s s1 s2 : State} {rg : BitVec 5} {f : Opnd} {d : Dest} {sp : Span} {r : RDesc} {role : Role}

section
variable (h : (getHandle s s.turn.slot rg).role = some role)
  (hc : ringRefuses (getHandle s s.turn.slot rg) false true (srcVal s s.turn f).toNat = false)
  (hr : reaches s (getHandle s s.turn.slot rg).va 32 { r := true } s1 [sp])
  (hd : readFor s1 s.turn.slot (isSup s1 s.turn) (fun u => readDesc u s.turn.slot sp) = .ok (s2, r))
  (hn : (srcVal s s.turn f).toNat ≤ r.n)
include h hc hr hd hn

theorem ringWaitEff_waits (hs : waitStatus role r (ringLost s2 sp.loc r role) (srcVal s s.turn f).toNat = none) :
    ringWaitEff role rg f s s.turn = .wait (setHandle s2 s.turn.slot rg ((getHandle s s.turn.slot rg).saw r)) false := by
  refine (ringWord_read h hc hr hd).trans ((if_neg (Nat.not_lt.2 hn)).trans ?_)
  rw [hs]

theorem ringWaitEff_ends {st : Nat} (hs : waitStatus role r (ringLost s2 sp.loc r role) (srcVal s s.turn f).toNat = some st) :
    ringWaitEff role rg f s s.turn = .done (putResult (setHandle (if st = 2 then touchLost s2 s.turn.slot else s2) s.turn.slot rg
      { (getHandle s s.turn.slot rg).saw r with status := BitVec.ofNat 8 st }) s.turn .push
      (ringResult (BitVec.ofNat 32 (r.avail role)) st)) := by
  refine (ringWord_read h hc hr hd).trans ((if_neg (Nat.not_lt.2 hn)).trans ?_)
  rw [hs]

end

section
variable (hdone : (getHandle s s.turn.slot rg).done = (getHandle s s.turn.slot rg).count)
  (hb : stageBound (getSlot s s.turn.slot) rg = false)
include hdone hb

theorem rbindEff_checked : rbindEff rg f role s s.turn =
    if srcVal s s.turn f = 0 then .done (setHandle s s.turn.slot rg .unbound)
    else aligned s (srcVal s s.turn f) 32 <| access s s.turn (srcVal s s.turn f) 32 { r := true } fun u sps =>
      match sps with
      | [sp] =>
        match readFor u s.turn.slot (isSup u s.turn) fun u => readDesc u s.turn.slot sp with
        | .error b => .bad u b
        | .ok (u, r) => if !r.ok || r.graph then ringTrap u (srcVal s s.turn f)
            else .done (setHandle u s.turn.slot rg (boundHandle (srcVal s s.turn f) role r))
      | _ => ringTrap u (srcVal s s.turn f) :=
  if_neg (not_or.2 ⟨not_not_intro hdone, ne_true_of_eq_false hb⟩)

/-- RBIND of a descriptor that is read: it binds where the descriptor is sound (13 R335). -/
theorem rbindEff_read (h0 : srcVal s s.turn f ≠ 0) (hm : (srcVal s s.turn f).toNat % 32 = 0)
    (hr : reaches s (srcVal s s.turn f) 32 { r := true } s1 [sp])
    (hd : readFor s1 s.turn.slot (isSup s1 s.turn) (fun u => readDesc u s.turn.slot sp) = .ok (s2, r)) :
    rbindEff rg f role s s.turn = if !r.ok || r.graph then .trap s2 { cause := 16, addr := srcVal s s.turn f }
      else .done (setHandle s2 s.turn.slot rg (boundHandle (srcVal s s.turn f) role r)) := by
  rw [rbindEff_checked hdone hb, if_neg h0, aligned_of_mod hm, access_of_reaches rfl hr]
  simp only [hd] <;> rfl

end

end

/-- Settles O39: each word by its handle's descriptor, and by the status that it gives. -/
theorem ringWaits : Obligations.RingWaits := by
  intro n rg f d s s1 s2 sp r t h k va reads look desc
  have hlook (role : Role) : exec (look role) s = issueWord (look role) n (some (.scalar .push)) reads (ringWaitEff role rg f) s := by
    cases role <;> rfl
  refine ⟨fun role hr h0 hk ⟨hd, hdesc⟩ hn => ⟨fun hs => ?_, fun st hs => ?_⟩, fun hr => ?_, fun role hr ⟨hd, hdesc⟩ => ?_,
    fun role => ⟨fun hx => ?_, fun hdone hb => ⟨fun h0 => ?_, fun h0 hm ⟨hd, hdesc⟩ => ⟨fun hok hg => ?_, fun hx => ?_⟩⟩⟩⟩
  · exact waitsAt_of_wait (hlook role) (ringWaitEff_waits hr (by grind) hd hdesc hn hs)
  · exact yields_of_done (hlook role) (ringWaitEff_ends hr (by grind) hd hdesc hn hs)
  · refine yields_of_done (eff := rstatEff d rg) rfl ?_
    rw [rstatEff, show (getHandle s s.turn.slot rg).role = none from hr]
  · refine yields_of_done (eff := rstatEff d rg) rfl ?_
    rw [rstatEff, show (getHandle s s.turn.slot rg).role = some role from hr]
    exact withDesc_read hd hdesc
  · exact entersTrap_of_trap (eff := rbindEff rg f role) rfl (if_pos hx)
  · exact yields_of_done rfl ((rbindEff_checked hdone hb).trans (if_pos h0))
  · exact yields_of_done rfl ((rbindEff_read hdone hb h0 hm hd hdesc).trans (if_neg (by rw [hok, hg]; decide)))
  · exact entersTrap_of_trap rfl ((rbindEff_read hdone hb h0 hm hd hdesc).trans (if_pos (by simpa using hx)))

end Sys2Proof.Machine
end

section
/-! PROOFS. A read of a tensor record leaves every sequencer (10 R265, 11 R285). -/

namespace Sys2Proof.Machine

/-- Slots are as they were but for the mark of a neighbour that a window reached and the count of sectors read as zeros (07 R194, 11 R285). -/
def CountsOnly (s u : State) : Prop :=
  ∀ k, getSlot u k = { getSlot s k with nbrmask := (getSlot u k).nbrmask, subcnt := (getSlot u k).subcnt }

section
variable {s s1 u : State}

theorem MarksOnly.countsOnly (h : MarksOnly s u) : CountsOnly s u := fun k => by
  rw [h k]

theorem CountsOnly.of_slots (h : u.slots = s.slots) : CountsOnly s u := (MarksOnly.of_slots h).countsOnly

theorem CountsOnly.trans (h : CountsOnly s s1) (g : CountsOnly s1 u) : CountsOnly s u := fun k => by
  rw [g k, h k]

theorem CountsOnly.srcVal (h : CountsOnly s u) (t : Thread) (o : Opnd) : srcVal u t o = srcVal s t o := by
  unfold Machine.srcVal Machine.getSeq
  rw [h t.slot]
  cases t.seq <;> rfl

/-! ### Writes by a unit of the device -/

theorem slots_putLine {area : Area} {et : Bool} {line m : Nat} {p : LinePut} (h : putLine s .home area et line p = some (u, m)) :
    u.slots = s.slots := by
  have hput (s : State) (e : Nat × BitVec 128 × BitVec 16) : (putHomeGran s line e.1 e.2.1 e.2.2).slots = s.slots := by
    unfold putHomeGran
    extract_lets y s₁
    split <;> rfl
  have hwr {job mark : Nat} {l : List (Nat × BitVec 128 × BitVec 16)} {md : Byte} (s : State) :
      (postWr s job line mark l md).slots = s.slots := by
    unfold postWr sendFlit
    split
    · rfl
    · dsimp only
      split <;> rfl
  unfold putLine at h
  extract_lets s₁ md step at h
  split at h
  · cases h
  next l subs e =>
  have hg : (l.foldl (fun s e => putHomeGran s line e.1 e.2.1 e.2.2) s).slots = s.slots := foldl_keeps (p := State.slots) hput
  simp only [] at h
  split at h <;> obtain ⟨rfl, -⟩ := Prod.mk.inj (Option.some.inj h)
  · exact hwr s
  · refine ((homeWrite_lineWritten (b := 0)).sentHome.slots.trans ?_).trans hg
    split <;> rfl

theorem slots_putLines {area : Area} {et : Bool} {r : RunPut} {n line k m : Nat}
    (h : putLines .home area et r n line s k = some (u, m)) : u.slots = s.slots := by
  induction n generalizing line s k with
  | zero => cases h; rfl
  | succ n ih =>
    unfold putLines at h
    split at h
    · cases h; rfl
    split at h
    · cases h
    · next e => exact (ih h).trans (slots_putLine e)

theorem slots_putSpans {l : List Span} {v : Nat} (h : putSpans s .home l v = some u) : u.slots = s.slots := by
  induction l generalizing s v with
  | nil => cases h; rfl
  | cons sp l ih =>
    unfold putSpans at h
    split at h
    · next e => exact (ih h).trans (slots_putLines (s := clearRanges s sp.loc sp.len) (e :))
    · cases h

theorem countsOnly_translate {ctx : TCtx} {va : Word} {len : Nat} {n : Need} : CountsOnly s (translate s ctx va len n).1 :=
  MarksOnly.countsOnly marksOnly_trRun

theorem countsOnly_unitWrite {ctx : TCtx} {va : Word} {n v : Nat} : CountsOnly s (unitWrite s ctx va n v).1 := by
  have ht := countsOnly_translate (s := s) (ctx := ctx) (va := va) (len := n) (n := { w := true })
  unfold unitWrite
  split
  · next s₁ sps e =>
    rw [e] at ht
    split
    · next h => exact ht.trans (.of_slots (slots_putSpans h))
    · exact ht
  · next s₁ r e =>
    rw [e] at ht
    exact ht

theorem countsOnly_unitRead {ctx : TCtx} {va : Word} {n : Nat} : CountsOnly s (unitRead s ctx va n).1 := by
  have ht := countsOnly_translate (s := s) (ctx := ctx) (va := va) (len := n) (n := { r := true })
  unfold unitRead countUnit
  split
  · next s₁ sps e =>
    rw [e] at ht
    split
    · refine ht.trans (.of_slots ?_)
      dsimp only
      split <;> rfl
    · exact ht
  · next s₁ r e =>
    rw [e] at ht
    exact ht

/-! ### The posting of an event -/

theorem countsOnly_publishAll {ctx : TCtx} {q : QDesc} {setWr : State → Nat → State} {i : Nat} {l : List Event}
    (hw : ∀ s a, CountsOnly s (setWr s a)) : CountsOnly s (publishAll ctx q setWr s i l).1 := by
  induction l generalizing s i with
  | nil => exact .of_slots rfl
  | cons e l ih =>
    unfold publishAll
    split
    · exact (countsOnly_unitWrite.trans countsOnly_unitWrite).trans ((hw _ _).trans ih)
    · exact .of_slots rfl

theorem countsOnly_postTo {ctx : TCtx} {q : QDesc} {setWr : State → Nat → State} {lost : Nat} {e : Event}
    (hw : ∀ s a, CountsOnly s (setWr s a)) : CountsOnly s (postTo s ctx q setWr lost e).1 := by
  unfold postTo
  extract_lets l
  split
  next s₁ n h =>
  have hp : CountsOnly s s₁ := by
    have := countsOnly_publishAll (s := s) (ctx := ctx) (q := q) (i := q.wridx) (l := l) hw
    rwa [h] at this
  split
  · exact hp
  · split <;> exact hp

theorem countsOnly_postJob {job : Nat} {e : Event} : CountsOnly s (postJob s job e) := by
  unfold postJob
  extract_lets j ctx
  have hr := countsOnly_unitRead (s := s) (ctx := ctx) (va := j.evq) (n := 64)
  split
  · next s₁ v h =>
    rw [h] at hr
    have hp := countsOnly_postTo (s := s₁) (ctx := ctx) (q := qdescOf v) (setWr := fun s i => (unitWrite s ctx (j.evq + 16) 8 i).1)
      (lost := j.dropped) (e := e) fun _ _ => countsOnly_unitWrite
    exact (hr.trans hp).trans (.of_slots rfl)
  · next s₁ h =>
    rw [h] at hr
    exact hr.trans (.of_slots rfl)

/-! ### A record at its home -/

theorem countsOnly_countSubst {slot n : Nat} : CountsOnly s (countSubst s slot n) := by
  unfold countSubst
  split
  · exact .of_slots rfl
  split
  · exact .of_slots rfl
  extract_lets old s₁ x
  have h₁ : CountsOnly s s₁ := fun k => by
    rw [getSlot_updSlot]
    split
    · next h =>
      rw [h]
      rfl
    · rfl
  split
  · exact h₁
  · exact h₁.trans countsOnly_postJob

/-- A read at the home brings no line into a cache. -/
theorem getGrans_home {area : Area} {stop n m : Nat} {l : List GRead} : (getGrans .home area stop n m s l).1 = s := by
  induction n generalizing m l with
  | zero => rfl
  | succ n ih =>
    unfold getGrans
    simp only [touchLine, ite_self]
    split
    · rfl
    · exact ih

theorem countsOnly_readRecord {src slot raw : Nat} {sp : Span} (h : readRecord s src slot sp = .ok (u, raw)) : CountsOnly s u := by
  unfold readRecord loadSpans at h
  have hg : (getRun s .home sp.area sp.loc sp.len).1 = s := getGrans_home
  generalize getRun s .home sp.area sp.loc sp.len = g at h hg
  obtain ⟨s₁, gs⟩ := g
  subst hg
  simp only [loadSpans] at h
  split at h
  · cases h
  · cases h
    exact countsOnly_countSubst

end

/-! ### STT and VHIST (15 R369, R370, 16 R410) -/

section
variable {s s0 s1 s2 s3 s4 s5 : State} {t : Thread} {a b : Opnd} {fmt : BitVec 2} {rec : Span} {raw r o : Nat} {v : Resolution} {src : Fmt} {va : Word}
  {vs : List VWord} {ws : List TWrite}

/-- What an STT does on what the resolution of its record answers (10 R265). -/
def sttOn (s : State) (t : Thread) (va : Word) (rec : Span) (src : Fmt) (o : Nat) : Resolve → Res
  | .bad => .trap s { cause := 12, addr := va }
  | .held => .wait s false
  | .skew => .trap s { cause := 13, addr := va }
  | .ok u r v => sttStore s.mem u t va rec r v src o

/-- STT goes by what the resolution of its record answers, with the element offset that the word names. -/
theorem sttEff_of_record (hm : (srcVal s s.turn a).toNat % 256 = 0) (hr : reaches s (srcVal s s.turn a) 256 { r := true } s0 [rec])
    (hd : readRecord s0 (seqNum s.turn.seq) s.turn.slot rec = .ok (s1, raw)) : sttEff a b fmt s s.turn =
    sttOn s1 s.turn (srcVal s s.turn a) rec (sttFmt fmt) (srcVal s s.turn b).toNat
      (resolveRecord s1 (getSlot s1 s.turn.slot).job (getSlot s1 s.turn.slot).fmtovr (srcVal s s.turn a) rec raw) := by
  have hb : srcVal s1 s.turn b = srcVal s s.turn b :=
    (countsOnly_readRecord hd).srcVal _ _ |>.trans ((marksOnly_of_reaches hr).srcVal _ _)
  unfold sttEff
  extract_lets va
  rw [aligned_of_mod hm, access_of_reaches rfl hr, ← hb]
  simp only [hd] <;> rfl

/-- How many entries an STT takes, and of how many elements each. -/
def sttTakes (v : Resolution) (src : Fmt) : Nat := max 1 (512 / (2048 / fmtWidth src * fmtWidth (fmtOf v.2.1)))

/-- The elements that an STT writes. -/
def sttElems (r o : Nat) (src : Fmt) (vs : List VWord) : List XV := (vecValues src vs).take (recExtent r - o)

/-- They encoded through the record. -/
def sttOut (r o : Nat) (v : Resolution) (src : Fmt) (vs : List VWord) : TOut :=
  encodeElems (fmtOf v.2.1) v.2.2 false false (sttElems r o src vs)

/-- The runs that it writes. -/
def sttRuns (r o : Nat) (v : Resolution) (src : Fmt) (vs : List VWord) : List TRun :=
  if (sttElems r o src vs).isEmpty then []
  else tensorRuns (fmtOf v.2.1) (recBase r) (recScales r) (some (BitVec.ofNat 4 v.1)) o (sttOut r o v src vs)

/-- The entries of q2 taken, and the flags kept (15 R370). -/
def sttTaken (s : State) (t : Thread) (flags : Word) (k : Nat) : State :=
  updSlot s t.slot fun x => { x with fpstat := x.fpstat ||| flags, queues := vset x.queues 2 ((vget x.queues 2).drop k) }

theorem sttWrite_done {k : Nat} {out : TOut} {xs : List XV}
    (hw : slotWrite s3 t.slot t.seq (getSeq s3 t).pc s3.nextUid (.tensor ws) = .ok s4)
    (hc : mergeCounts (sttTaken s4 t out.flags k) (getSlot s4 t.slot).job rec (countValues xs out.sats) = (s5, false)) :
    sttWrite s3 t va rec k ws out xs = .done s5 := by
  have hj : (getSlot (sttTaken s4 t out.flags k) t.slot).job = (getSlot s4 t.slot).job := by
    rw [sttTaken, getSlot_updSlot, if_pos rfl]
    rfl
  rw [← hj] at hc
  unfold sttTaken at hc
  rw [sttWrite, hw]
  simp only [hc]

variable {m : Store}

theorem sttStore_misaligned (h : o * fmtWidth (fmtOf v.2.1) % 512 ≠ 0) :
    sttStore m s2 t va rec r v src o = .trap { s2 with mem := m } { cause := 5, addr := va } := if_pos h

section
variable (hm : o * fmtWidth (fmtOf v.2.1) % 512 = 0) (hq : oldest (sttTakes v src) (vget (getSlot s2 t.slot).queues 2) = some vs)
include hm hq

theorem sttStore_beyond (h : recExtent r < o + 2048 / fmtWidth src * sttTakes v src) (hok : recOobok r = false) :
    sttStore m s2 t va rec r v src o = .trap { s2 with mem := m } { cause := 14, addr := va } := by
  unfold sttTakes at hq
  refine (if_neg (not_not_intro hm)).trans ?_
  rw [hq]
  exact if_pos (Bool.and_eq_true_iff.2 ⟨decide_eq_true h, by rw [hok]; rfl⟩)

theorem sttStore_writes (h : o + 2048 / fmtWidth src * sttTakes v src ≤ recExtent r ∨ recOobok r = true)
    (ht : transRuns (slotCtx s2 t.slot t.seq) s2 (sttRuns r o v src vs) = (s3, .ok ws)) (hf : flipping s3 (ws.map (·.span)) = false)
    (hg : sttRegion s3 t (ws.map (·.span)) = false) (hb : vs.any vwBad = false) (hp : pending s3 t = false)
    (hw : slotWrite s3 t.slot t.seq (getSeq s3 t).pc s3.nextUid (.tensor ws) = .ok s4)
    (hc : mergeCounts (sttTaken s4 t (sttOut r o v src vs).flags (sttTakes v src)) (getSlot s4 t.slot).job rec (countValues (sttElems r o src vs) (sttOut r o v src vs).sats) = (s5, false)) :
    sttStore m s2 t va rec r v src o = .done s5 := by
  have hfit : ¬ (decide (recExtent r < o + 2048 / fmtWidth src * sttTakes v src) && !recOobok r) = true := by
    simpa [Nat.not_lt, imp_iff_not_or, or_comm] using h
  have hwr : sttWrite s3 t va rec (sttTakes v src) ws (sttOut r o v src vs) (sttElems r o src vs) = .done s5 :=
    sttWrite_done hw hc
  unfold sttTakes at hq
  unfold sttRuns sttOut sttElems at ht
  refine (if_neg (not_not_intro hm)).trans ?_
  rw [hq]
  refine (if_neg hfit).trans ?_
  extract_lets xs out runs
  rw [show transRuns _ s2 runs = _ from ht]
  refine (if_neg (ne_true_of_eq_false hf)).trans ((if_neg (ne_true_of_eq_false hg)).trans ((if_neg (ne_true_of_eq_false hb)).trans
    ((if_neg (ne_true_of_eq_false hp)).trans ?_)))
  unfold sttTakes sttOut sttElems at hwr
  rw [hwr]

end

end

section
variable {s s0 s1 s2 s3 : State} {a b : Opnd} {rec : Span} {raw : Nat}
variable (hv : fmtWide (vtFmt (getSlot s s.turn.slot).vtype) = true) (hm : (srcVal s s.turn b).toNat % 256 = 0)
  (hr : reaches s (srcVal s s.turn b) 256 { r := true, w := true } s0 [rec])
  (hd : readRecord s0 (seqNum s.turn.seq) s.turn.slot rec = .ok (s1, raw))
include hv hm hr hd

theorem vhistEff_of_check {c : Option Nat} (hc : checkRecord s1 (getSlot s1 s.turn.slot).job raw = (s2, c)) : vhistEff a b s s.turn =
    match c with
    | none => .trap s2 { cause := 12, addr := srcVal s s.turn b }
    | some _ => .ofRisk s2 (slotWrite s2 s.turn.slot s.turn.seq (getSeq s2 s.turn).pc s2.nextUid
        (.count rec (countValues (vecValues (vtFmt (getSlot s s.turn.slot).vtype) [readV (getSlot s2 s.turn.slot) a]) 0))) := by
  unfold vhistEff
  extract_lets va f
  refine (if_neg (by rw [hv]; decide)).trans ((aligned_of_mod hm).trans ((access_of_reaches rfl hr).trans ?_))
  simp only [hd, hc]
  cases c <;> rfl
end

/-- Settles O35: STT by its record's resolution and then by what its write meets, VHIST by its record's check. -/
theorem tensorWords : Obligations.TensorWords := by
  intro n a b fmt s s0 s1 s2 s3 s4 s5 rec raw r v vs ws t x va o job src f w k xs out runs stt reads read found resolved
  refine ⟨fun ⟨hm, hr, hd⟩ h => ?_, fun ⟨hm, hr, hd⟩ h => ?_, fun ⟨hm, hr, hd⟩ h => ?_, fun ⟨hm, hr, hd⟩ h => ⟨fun hx => ?_, fun hx hq =>
    ⟨fun he ho => ?_, fun he ht hf hg hb hp hw hc => ?_⟩⟩, fun hv hm hr hd => ⟨fun m hc hw => ?_, fun hc => ?_⟩⟩
  · exact entersTrap_of_trap rfl ((sttEff_of_record hm hr hd).trans (congrArg _ h))
  · exact waitsAt_of_wait rfl ((sttEff_of_record hm hr hd).trans (congrArg _ h))
  · exact entersTrap_of_trap rfl ((sttEff_of_record hm hr hd).trans (congrArg _ h))
  · exact entersTrap_of_trap rfl (((sttEff_of_record hm hr hd).trans (congrArg _ h)).trans (sttStore_misaligned hx))
  · exact entersTrap_of_trap rfl (((sttEff_of_record hm hr hd).trans (congrArg _ h)).trans (sttStore_beyond hx hq he ho))
  · exact yields_of_done rfl (((sttEff_of_record hm hr hd).trans (congrArg _ h)).trans (sttStore_writes hx hq he ht hf hg hb hp hw hc))
  · exact yields_of_done rfl ((vhistEff_of_check hv hm hr hd hc).trans (congrArg (Res.ofRisk s2) hw))
  · exact entersTrap_of_trap rfl (vhistEff_of_check hv hm hr hd hc)

end Sys2Proof.Machine
end

section
/-! PROOFS. Packet words: what their packet's checks answer, and where it is queued (17 R414-R423, 13 R317, R318). -/

namespace Sys2Proof.Machine

section
variable {s s1 s2 s3 : State} {f : Opnd} {size align v : Nat} {room : State → Bool} {k : State → Word → Nat → Res}

/-- A word that reads its packet goes on with it where its engine has room, and else waits. -/
theorem readPacket_of_reads (h : readsPacket s (srcVal s s.turn f) size align s1 s2 v) : readPacket size align room f s s.turn k =
    if room s1 then k s2 (srcVal s s.turn f) v else .wait s1 false := by
  obtain ⟨hm, hp, sps, hr, hl⟩ := h
  have hrd : (if (!room s1 || pending s1 s.turn) = true then Res.wait s1 false else
      match readFor s1 s.turn.slot (isSup s1 s.turn) fun u => loadSpans (seqNum s.turn.seq) s.turn.slot (coreWho u s.turn.slot) u sps with
      | .ok (u, v) => k u (srcVal s s.turn f) v
      | .error b => .bad s1 b) = if room s1 then k s2 (srcVal s s.turn f) v else .wait s1 false := by
    rw [hp, hl]
    cases room s1 <;> rfl
  unfold readPacket
  extract_lets va rd
  rw [aligned_of_mod hm]
  by_cases hc : s.turn.seq = .C
  · rw [if_pos hc] at hr ⊢
    obtain ⟨sp, hw, rfl⟩ := hr
    rw [hw]
    exact hrd
  · rw [if_neg hc] at hr ⊢
    exact (access_of_reaches rfl hr).trans hrd

variable {i : Instr} {n : Nib} {reads : Reads} {eff : State → Thread → Res} {eng p ext fc : Nat} {c : Chk} {r : Resolved} {tr : Trap}

/-- A packet word that reads its packet queues it as its checks answer. -/
theorem takes_of_queuePacket (he : exec i s = issueWord i n none reads eff s)
    (hx : eff s s.turn = if roomFor s1 s.turn.slot eng 1 then queuePacket s2 s.turn eng p ext none c else .wait s1 false) :
    (roomFor s1 s.turn.slot eng 1 = false → waitsAt i n reads s s1 false)
      ∧ (roomFor s1 s.turn.slot eng 1 = true →
        (c = .ok s3 r →
          let a := addCmd s3 s.turn.slot eng s.turn.seq (.packet (BitVec.ofNat 512 p) (BitVec.ofNat 512 ext) r none) none none
          let w := checkAssertion a.1 s.turn.slot eng a.2
          yields i n reads s (if eng = 5 ∧ mxClosed p = false then setDirty w s.turn.slot else w))
        ∧ (c = .reject s3 fc →
          yields i n reads s (addCmd s3 s.turn.slot eng s.turn.seq (packetBody p) none (some fc)).1)
        ∧ (c = .trap s3 tr → entersTrap i n reads s { s3 with mem := s2.mem } tr)) := by
  refine ⟨fun h => waitsAt_of_wait he (hx.trans (if_neg (ne_true_of_eq_false h))), fun h => ?_⟩
  rw [if_pos h] at hx
  refine ⟨fun hc => yields_of_done he (hx.trans ?_), fun hc => yields_of_done he (hx.trans ?_),
    fun hc => entersTrap_of_trap he (hx.trans ?_)⟩
  · rw [hc, queuePacket]
    simp only [Bool.not_eq_true']
  · rw [hc, queuePacket]
  · rw [hc, queuePacket]

end

section
variable {s s1 s2 : State} {f : Opnd} {p kind : Nat}

theorem matrixEff_of_reads
    (h : readsPacket s (srcVal s s.turn f) (if kind = 7 then 128 else 64) (if kind = 7 then 128 else 64) s1 s2 p) :
    matrixEff kind f s s.turn = if roomFor s1 s.turn.slot 5 1 then queuePacket s2 s.turn 5 (p % 2 ^ 512) (p / 2 ^ 512) none
      (acceptMatrix s2 s.turn [kind] (p % 2 ^ 512) (p / 2 ^ 512) (mxM (p % 2 ^ 512))) else .wait s1 false := by
  unfold matrixEff
  exact readPacket_of_reads h

/-- The members of the gang of a slot, itself first (17 R417). -/
def gangOrder (s : State) (slot : Nat) : List (Nat × Nat) :=
  (gangSlots s slot).filter (fun m => m.1 == slot) ++ (gangSlots s slot).filter fun m => m.1 != slot

/-- A GMMA outside a region, with its packet read and room on every engine. -/
theorem gmmaEff_of_reads (ho : (getSlot s s.turn.slot).regionOpen = false) (h : readsPacket s (srcVal s s.turn f) 64 64 s1 s2 p)
    (hg : gangOrder s s.turn.slot = []) : gmmaEff f s s.turn = if roomFor s1 s.turn.slot 5 1 then
      queuePacket s2 s.turn 5 p 0 none (acceptMatrix s2 s.turn [6] p 0 (mxM p)) else .wait s1 false := by
  refine (if_neg (ne_true_of_eq_false ho)).trans ?_
  simp only [show (gangSlots s s.turn.slot).filter (fun m => m.1 == s.turn.slot) ++ _ = [] from hg]
  refine (readPacket_of_reads h).trans ?_
  simp only [List.all_nil, Bool.and_true, List.isEmpty_nil, if_true]

end

/-- Settles O43: each word reads its packet, and queues it as its own checks answer. -/
theorem packetWords : Obligations.PacketWords := by
  intro n f ctx s s1 s2 s3 p fc r tr t va reads wide takes lo hi
  refine ⟨fun h => takes_of_queuePacket rfl (readPacket_of_reads h), fun h => takes_of_queuePacket rfl (readPacket_of_reads h),
    fun h => takes_of_queuePacket rfl (matrixEff_of_reads h), fun h => takes_of_queuePacket rfl (matrixEff_of_reads h),
    fun h => takes_of_queuePacket rfl (matrixEff_of_reads h), fun ho => entersTrap_of_trap rfl (if_pos ho),
    fun ho hg h => takes_of_queuePacket rfl (gmmaEff_of_reads ho h ?_)⟩
  rw [gangOrder, show gangSlots s s.turn.slot = [] from hg]
  rfl

end Sys2Proof.Machine
end

section
/-! PROOFS. COLL: its checks, and the collective that joins the unit (17 R426). -/

namespace Sys2Proof.Machine

section
variable {s s1 s2 s3 s4 : State} {t : Thread} {ctx : TCtx} {ovr : Word} {slot job core : Nat} {addr : Word} {d : Nat} {queue : Option Word}
  {c : Coll} {f : Opnd}

/-- The collective that the checks answer is the descriptor's; one that fails a check of its fields has ended with status 1. -/
theorem coll_of_acceptColl (h : acceptColl s ctx ovr slot job core addr d queue = .ok s1 c) :
    c.slot = slot ∧ c.addr = addr ∧ (checkColl d = none ∨ c.status = some 1) := by
  unfold acceptColl at h
  simp only [] at h
  cases hd : checkColl d with
  | some fc =>
    simp only [hd] at h
    cases h
    exact ⟨rfl, rfl, .inr rfl⟩
  | none =>
    simp only [hd] at h
    suffices hc : c.slot = slot ∧ c.addr = addr from ⟨hc.1, hc.2, .inl rfl⟩
    repeat' split at h
    all_goals cases h
    all_goals exact ⟨rfl, rfl⟩

/-- The slot's unit holds fewer than four of its collectives (17 R426). -/
def collRoom (s : State) (slot : Nat) : Bool := decide ((s.colls.filter fun c => c.slot == slot).length < 4)

/-- The checks that a COLL makes of its descriptor. -/
def collChecks (s : State) (t : Thread) (va : Word) (d : Nat) : CollRes :=
  acceptColl s (slotCtx s t.slot t.seq) (getSlot s t.slot).fmtovr t.slot (slotJob s t.slot) (coreOf t.slot) va d none

section
variable (h : readsPacket s (srcVal s s.turn f) 256 64 s1 s2 d)
include h

theorem collEff_waits (hr : collRoom s1 s.turn.slot = false) : collEff f s s.turn = .wait s1 false := by
  unfold collEff
  exact (readPacket_of_reads h).trans (if_neg (ne_true_of_eq_false hr))

variable (hr : collRoom s1 s.turn.slot = true)
include hr

theorem collEff_traps {tr : Trap} (hc : collChecks s2 s.turn (srcVal s s.turn f) d = .trap s3 tr) : collEff f s s.turn = .trap s3 tr := by
  unfold collChecks at hc
  unfold collEff
  refine (readPacket_of_reads h).trans ((if_pos hr).trans ?_)
  rw [hc]

theorem collEff_joins (hc : collChecks s2 s.turn (srcVal s s.turn f) d = .ok s3 c)
    (he : (if isSup s3 s.turn then .ok s3 else escape s3 s.turn.slot s3.nextUid escColl) = .ok s4) :
    collEff f s s.turn = .done (addColl s4 c) := by
  unfold collChecks at hc
  unfold collEff
  refine (readPacket_of_reads h).trans ((if_pos hr).trans ?_)
  simp only [hc, he]

end

end

/-- Settles O46: COLL by the room of its unit, then by its descriptor's checks. -/
theorem collectiveWord : Obligations.CollectiveWord := by
  intro n f s s1 s2 s3 s4 d c tr t va reads accepted h
  refine ⟨fun hr => ?_, fun hr => ⟨fun hc => ?_, fun hc he => ⟨?_, coll_of_acceptColl hc⟩⟩⟩
  · exact waitsAt_of_wait rfl (collEff_waits h (decide_eq_false (Nat.not_lt.2 hr)))
  · exact entersTrap_of_trap rfl (collEff_traps h (decide_eq_true hr) hc)
  · exact yields_of_done rfl (collEff_joins h (decide_eq_true hr) hc he)

end Sys2Proof.Machine
end

section
/-! PROOFS. Launch words: what they push, and where they trap (17 R427-R432, 05 R118-R122). -/

namespace Sys2Proof.Machine

/-- What a launch word answers: one that traps or waits has changed nothing (17 R427). -/
def Res.launched (s : State) : Res → Res
  | .trap _ tr => .trap s tr
  | .wait _ b => .wait s b
  | r => r

/-- A launch word's escape is drained (11 R290). -/
def launchDrained (s : State) (t : Thread) : Risk State := if isSup s t then .ok s else escape s t.slot s.nextUid escLaunch

section
variable {s s1 s2 s3 s4 : State} {t : Thread} {f a b : Opnd} {sps : List Span} {sp : Span} {k : State → Res} {h old c : Nat} {gang : Bool}

theorem launchWord_of_drained (hp : pending s t = false) (hd : launchDrained s t = .ok s2) : launchWord s t k = (k s2).launched s := by
  unfold launchDrained at hd
  rw [launchWord, if_neg (ne_true_of_eq_false hp), hd]
  dsimp only
  generalize k s2 = r
  cases r <;> rfl

/-! ### LAUNCH and GANG (17 R428) -/

/-- What LAUNCH and GANG answer to the issue of their level. -/
def Issue.answer (s : State) (t : Thread) (va : Word) : Issue → Res
  | .ok u => launchStatus t (releaseAll u t.slot va) 0
  | .dropped u => launchStatus t u 2
  | .bad c => .trap s { cause := c, addr := va }
  | .graph a b => .trap (unitWrite s (jobCtx s (slotJob s t.slot)) (va + 38) 2 (a + 256 * b)).1 { cause := 25, addr := va }

theorem levelEff_of_reaches (hr : reaches s (srcVal s s.turn f) 64 { r := true, w := true } s1 sps) (hp : pending s1 s.turn = false)
    (hd : launchDrained s1 s.turn = .ok s2) : levelEff gang f s s.turn =
    (issueLevel s2 (some (clusterOf (coreOf s.turn.slot))) (dieOfCore (coreOf s.turn.slot)) (slotJob s1 s.turn.slot)
      (srcVal s s.turn f) gang).answer s1 s.turn (srcVal s s.turn f) := by
  unfold launchDrained at hd
  unfold levelEff
  refine (access_of_reaches rfl hr).trans ((if_neg (ne_true_of_eq_false hp)).trans ?_)
  rw [hd]
  dsimp only
  generalize issueLevel s2 _ _ _ _ gang = i
  cases i <;> rfl

/-! ### SPAWN and JDEC (17 R429, R430) -/

/-- What a launch word answers to a push that is its last step. -/
def Push.answer (s : State) (t : Thread) (va : Word) : Push → Res
  | .ok u => launchStatus t u 0
  | .dropped u => launchStatus t u 2
  | .bad _ => .trap s { cause := 26, addr := va }
  | .full _ => .trap s { cause := 23, addr := va }

theorem spawnEff_of_reaches (hr : reaches s (srcVal s s.turn f) 64 { r := true } s1 sps) (hp : pending s1 s.turn = false)
    (hd : launchDrained s1 s.turn = .ok s2) :
    spawnEff f s s.turn = (slotPush s2 s.turn.slot (srcVal s s.turn f)).answer s1 s.turn (srcVal s s.turn f) := by
  refine (access_of_reaches rfl hr).trans ((launchWord_of_drained hp hd).trans ?_)
  generalize slotPush s2 s.turn.slot (srcVal s s.turn f) = p
  cases p <;> rfl

/-- What JDEC answers to its decrement, its queue with room or without (17 R430). -/
def jdecTake (s u : State) (t : Thread) (sp : Span) (ca va : Word) (room : Bool) : Res :=
  match atomicAt u t.slot sp 8 .acqrel fun m => if m = 0 ∨ (m = 1 ∧ !room) then none else some (m - 1) with
  | .error e => .bad u e
  | .ok (w, old) =>
    if old = 0 then .trap s { cause := 22, addr := ca }
    else if 1 < old then launchStatus t w 1
    else if !room then .trap s { cause := 23, addr := va }
    else (slotPush w t.slot va).answer s t va

/-- JDEC's record is checked, and its queue's room tested, before the counter changes. -/
def Push.joins (s u : State) (t : Thread) (sp : Span) (ca va : Word) : Push → Res
  | .bad _ => .trap s { cause := 26, addr := va }
  | .full _ => jdecTake s u t sp ca va false
  | _ => jdecTake s u t sp ca va true

theorem launched_jdecTake {u : State} {ca va : Word} {room : Bool} :
    (jdecTake u u t sp ca va room).launched s = jdecTake s u t sp ca va room := by
  unfold jdecTake
  generalize atomicAt u t.slot sp 8 .acqrel _ = r
  cases r with
  | error e => rfl
  | ok r =>
    dsimp only
    split
    · rfl
    split
    · rfl
    split
    · rfl
    generalize slotPush r.1 t.slot va = p
    cases p <;> rfl

/-- With no room JDEC counts down only where others still hold the join. -/
theorem jdecTake_full {u w : State} {ca va : Word}
    (h : atomicAt u t.slot sp 8 .acqrel (fun m => if m = 0 ∨ m = 1 then none else some (m - 1)) = .ok (w, old)) :
    jdecTake s u t sp ca va false = if old = 0 then .trap s { cause := 22, addr := ca }
      else if 1 < old then launchStatus t w 1 else .trap s { cause := 23, addr := va } := by
  unfold jdecTake
  simp only [Bool.not_false, and_true, h, if_true]

theorem jdecTake_room {u w : State} {ca va : Word}
    (h : atomicAt u t.slot sp 8 .acqrel (fun m => if m = 0 then none else some (m - 1)) = .ok (w, old)) :
    jdecTake s u t sp ca va true = if old = 0 then .trap s { cause := 22, addr := ca }
      else if 1 < old then launchStatus t w 1 else (slotPush w t.slot va).answer s t va := by
  unfold jdecTake
  simp only [Bool.not_true, Bool.false_eq_true, and_false, or_false, h, if_false]

theorem jdecEff_of_reaches (hm : (srcVal s s.turn a).toNat % 8 = 0)
    (hc : reaches s (srcVal s s.turn a) 8 { r := true, w := true } s4 [sp])
    (hr : reaches s4 (srcVal s s.turn b) 64 { r := true } s1 sps) (hp : pending s1 s.turn = false) (hd : launchDrained s1 s.turn = .ok s2) :
    jdecEff a b s s.turn = (slotPush s2 s.turn.slot (srcVal s s.turn b)).joins s1 s2 s.turn sp (srcVal s s.turn a) (srcVal s s.turn b) := by
  refine (aligned_of_mod hm).trans ((access_of_reaches rfl hc).trans ((access_of_reaches (turn_of_reaches hc) hr).trans
    ((launchWord_of_drained hp hd).trans ?_)))
  dsimp only
  generalize slotPush s2 s.turn.slot (srcVal s s.turn b) = p
  cases p with
  | bad u => rfl
  | full u => exact launched_jdecTake (room := false)
  | ok u => exact launched_jdecTake (room := true)
  | dropped u => exact launched_jdecTake (room := true)

/-! ### CANCEL (17 R431) -/

/-- The record of a CANCEL as its home holds it, with its cluster's copies written back. -/
def cancelRecord (s : State) (t : Thread) (va : Word) : State × Option Nat :=
  let u := ownRange s (clusterOf (coreOf t.slot)) (slotJob s t.slot) va 32
  unitRead u (jobCtx u (slotJob s t.slot)) va 32

/-- STATE 1 on a level and its live descendants; the rest comes about next (05 R120). -/
def cancelMade (s : State) (job : Nat) (va : Word) : State :=
  let u := (descendants (s.levels.filter fun l => l.job == job) (s.levels.length + 1) [va]).foldl
    (fun s h => (levelWord s job h 25 1 fun v => some (if v = 0 then 1 else v)).1) s
  { u with agenda := ⟨0, .cancelled job va⟩ :: u.agenda }

section
variable (hr : reaches s (srcVal s s.turn f) 32 { r := true, w := true } s1 sps) (hp : pending s1 s.turn = false)
  (hd : launchDrained s1 s.turn = .ok s2)
include hr hp hd

theorem cancelEff_unread (hu : cancelRecord s2 s.turn (srcVal s s.turn f) = (s3, none)) :
    cancelEff f s s.turn = .trap s1 { cause := 26, addr := srcVal s s.turn f } := by
  unfold cancelRecord at hu
  refine (access_of_reaches rfl hr).trans ((launchWord_of_drained hp hd).trans ?_)
  dsimp only at hu ⊢
  rw [hu]
  rfl

theorem cancelEff_read (hu : cancelRecord s2 s.turn (srcVal s s.turn f) = (s3, some h))
    (hok : ¬ (srcVal s s.turn f = 0 ∨ (srcVal s s.turn f).toNat % 8 ≠ 0 ∨ hdKind h = 0 ∨ 4 < hdKind h
      ∨ (hdKind h ≠ 3 ∧ (srcVal s s.turn f).toNat % 64 ≠ 0) ∨ hdJob h ≠ slotJob s2 s.turn.slot)) : cancelEff f s s.turn =
    launchStatus s.turn (if hdState h ≠ 0 then s3 else cancelMade s3 (slotJob s2 s.turn.slot) (srcVal s s.turn f)) 0 := by
  unfold cancelRecord at hu
  refine (access_of_reaches rfl hr).trans ((launchWord_of_drained hp hd).trans ?_)
  dsimp only at hu ⊢
  rw [hu]
  dsimp only
  rw [if_neg hok]
  split <;> rfl

end

/-! ### PHEND (17 R432, 05 R118) -/

/-- The new phase is live, and the old one closed. -/
def phaseMade (s : State) (t : Thread) (job : Nat) (va : Word) : State :=
  let n := (getJob s job).phaseno + 1
  let m := makeLive (setJob s job { getJob s job with phaseno := n }) job va 0 4 1
  let u := (unitWrite m.1 (jobCtx m.1 job) (va + 32) 8 n).1
  releaseAll (closePhase u job (if m.2 then va else 0)) t.slot va

/-- What PHEND answers to its record. -/
def phaseAnswer (s : State) (t : Thread) (job : Nat) (va : Word) : State × Option Nat → Res
  | (_, none) => .trap s { cause := 26, addr := va }
  | (u, some h) =>
    if va.toNat % 64 ≠ 0 ∨ hdKind h ≠ 4 ∨ hdParent h ≠ 0 ∨ rf h 40 24 ≠ 0 ∨ (hdSync h).toNat % 8 ≠ 0 then
      .trap s { cause := 26, addr := va }
    else if 3 ≤ (getJob u job).state then launchStatus t u 2
    else if Config.maxLevels ≤ u.levels.length then .trap s { cause := 24, addr := va }
    else launchStatus t (phaseMade u t job va) 0

section
variable (hc : (getJob s (slotJob s s.turn.slot)).closed = [])
include hc

/-- PHEND of 0 closes the open phase alone. -/
theorem phendEff_zero (h0 : srcVal s s.turn f = 0) (hp : pending s s.turn = false) (hd : launchDrained s s.turn = .ok s2) :
    phendEff f s s.turn = launchStatus s.turn (closePhase s2 (slotJob s s.turn.slot) 0) 0 :=
  (if_neg (not_not_intro hc)).trans ((if_pos h0).trans (launchWord_of_drained hp hd))

theorem phendEff_of_reaches (h0 : srcVal s s.turn f ≠ 0) (hr : reaches s (srcVal s s.turn f) 64 { r := true, w := true } s1 sps)
    (hp : pending s1 s.turn = false) (hd : launchDrained s1 s.turn = .ok s2) :
    let v := ownRange s2 (clusterOf (coreOf s.turn.slot)) (slotJob s s.turn.slot) (srcVal s s.turn f) 64
    phendEff f s s.turn = phaseAnswer s1 s.turn (slotJob s s.turn.slot) (srcVal s s.turn f)
      (unitRead v (jobCtx v (slotJob s s.turn.slot)) (srcVal s s.turn f) 64) := by
  intro v
  refine (if_neg (not_not_intro hc)).trans ((if_neg h0).trans ((access_of_reaches rfl hr).trans
    ((launchWord_of_drained hp hd).trans ?_)))
  dsimp only
  generalize unitRead v (jobCtx v (slotJob s s.turn.slot)) (srcVal s s.turn f) 64 = r
  obtain ⟨u, _ | h⟩ := r
  · rfl
  · dsimp only [phaseAnswer]
    split
    · rfl
    split
    · rfl
    split
    · rfl
    · rfl

end

end

/-- Settles O47: each word by its record, its escape drained, and by what its level, its queue or its counter answers. -/
theorem launchWords : Obligations.LaunchWords := by
  intro n f a b s s1 s2 s3 s4 sps sp c old h t va reads r2 job done trap drained level
  have made {i : Instr} {gang : Bool} (he : exec i s = issueWord i n (some (.scalar .push)) reads (levelEff gang f) s)
      (hr : reaches s va 64 { r := true, w := true } s1 sps) (hp : pending s1 t = false) (hd : drained) : level i gang :=
    have hl := levelEff_of_reaches (gang := gang) hr hp hd
    ⟨fun h => yields_of_done he (hl.trans (congrArg (Issue.answer s1 t va) h)),
      fun h => yields_of_done he (hl.trans (congrArg (Issue.answer s1 t va) h)),
      fun h => entersTrap_of_trap he (hl.trans (congrArg (Issue.answer s1 t va) h))⟩
  have unsound : ¬ (va.toNat % 64 = 0 ∧ hdKind h = 4 ∧ hdParent h = 0 ∧ rf h 40 24 = 0 ∧ (hdSync h).toNat % 8 = 0) ↔
      va.toNat % 64 ≠ 0 ∨ hdKind h ≠ 4 ∨ hdParent h ≠ 0 ∨ rf h 40 24 ≠ 0 ∨ (hdSync h).toNat % 8 ≠ 0 := by
    simp only [not_and_or, ne_eq]
  have taken {q : Push} (hm : (srcVal s t a).toNat % 8 = 0) (hca : reaches s (srcVal s t a) 8 { r := true, w := true } s4 [sp])
      (hr : reaches s4 (srcVal s t b) 64 { r := true } s1 sps) (hp : pending s1 t = false) (hd : drained)
      (hq : slotPush s2 t.slot (srcVal s t b) = q) : jdecEff a b s t = q.joins s1 s2 t sp (srcVal s t a) (srcVal s t b) :=
    hq ▸ jdecEff_of_reaches hm hca hr hp hd
  have phase {r : State × Option Nat} (hc : (getJob s (slotJob s t.slot)).closed = []) (h0 : va ≠ 0)
      (hr : reaches s va 64 { r := true, w := true } s1 sps) (hp : pending s1 t = false) (hd : drained)
      (hu : let v := ownRange s2 (clusterOf (coreOf t.slot)) (slotJob s t.slot) va 64
        unitRead v (jobCtx v (slotJob s t.slot)) va 64 = r) : phendEff f s t = phaseAnswer s1 t (slotJob s t.slot) va r :=
    (phendEff_of_reaches hc h0 hr hp hd).trans (congrArg (phaseAnswer s1 t (slotJob s t.slot) va) hu)
  refine ⟨fun hr hp hd => ⟨?_, ?_⟩, fun hr hp hd => ⟨fun hq => ?_, fun hq => ?_, fun hq => ?_, fun hq => ?_⟩,
    fun hr hp hd => ⟨fun hu => ?_, fun hu h8 h0 h64 h1 h4 hj => ⟨fun hs => ?_, fun hs => ?_⟩⟩,
    fun hr hp hd hc h0 => ⟨fun hu => ?_, fun hu => ⟨fun hs => ?_, fun hs h3 => ?_, fun hs h3 hl => ?_, fun hs h3 hl => ?_⟩⟩,
    fun hc => ?_, fun hc h0 hp hd => ?_, fun hm hca hr hp hd => ⟨fun u hq => ?_, fun u hq ha => ⟨fun ho => ?_, fun ho => ?_, fun ho => ?_⟩,
      fun u hq ha => ⟨fun ho => ?_, fun ho => ?_, fun v ho hv => ?_⟩, fun u hq ha => ⟨fun ho => ?_, fun ho => ?_, fun v ho hv => ?_⟩⟩⟩
  · exact made rfl hr hp hd
  · exact made rfl hr hp hd
  · exact yields_of_done rfl ((spawnEff_of_reaches hr hp hd).trans (congrArg (Push.answer s1 t va) hq))
  · exact yields_of_done rfl ((spawnEff_of_reaches hr hp hd).trans (congrArg (Push.answer s1 t va) hq))
  · exact entersTrap_of_trap rfl ((spawnEff_of_reaches hr hp hd).trans (congrArg (Push.answer s1 t va) hq))
  · exact entersTrap_of_trap rfl ((spawnEff_of_reaches hr hp hd).trans (congrArg (Push.answer s1 t va) hq))
  · exact entersTrap_of_trap rfl (cancelEff_unread hr hp hd hu)
  · exact yields_of_done rfl ((cancelEff_read hr hp hd hu (by grind)).trans (congrArg (launchStatus t · 0) (if_pos hs)))
  · exact yields_of_done rfl ((cancelEff_read hr hp hd hu (by grind)).trans (congrArg (launchStatus t · 0) (if_neg (not_not_intro hs))))
  · exact entersTrap_of_trap rfl (phase hc h0 hr hp hd hu)
  · exact entersTrap_of_trap rfl ((phase hc h0 hr hp hd hu).trans (if_pos (unsound.1 hs)))
  · exact yields_of_done rfl ((phase hc h0 hr hp hd hu).trans ((if_neg (unsound.not.1 (not_not_intro hs))).trans (if_pos h3)))
  · exact entersTrap_of_trap rfl ((phase hc h0 hr hp hd hu).trans ((if_neg (unsound.not.1 (not_not_intro hs))).trans
      ((if_neg (Nat.not_le.2 h3)).trans (if_pos hl))))
  · exact yields_of_done rfl ((phase hc h0 hr hp hd hu).trans ((if_neg (unsound.not.1 (not_not_intro hs))).trans
      ((if_neg (Nat.not_le.2 h3)).trans (if_neg (Nat.not_le.2 hl)))))
  · exact waitsAt_of_wait rfl (if_pos hc)
  · exact yields_of_done rfl (phendEff_zero hc h0 hp hd)
  · exact entersTrap_of_trap rfl (taken hm hca hr hp hd hq)
  · exact entersTrap_of_trap rfl ((taken hm hca hr hp hd hq).trans ((jdecTake_full ha).trans (if_pos ho)))
  · exact entersTrap_of_trap rfl ((taken hm hca hr hp hd hq).trans ((jdecTake_full ha).trans
      ((if_neg (by omega)).trans (if_neg (by omega)))))
  · exact yields_of_done rfl ((taken hm hca hr hp hd hq).trans ((jdecTake_full ha).trans ((if_neg (by omega)).trans (if_pos ho))))
  · exact entersTrap_of_trap rfl ((taken hm hca hr hp hd hq).trans ((jdecTake_room ha).trans (if_pos ho)))
  · exact yields_of_done rfl ((taken hm hca hr hp hd hq).trans ((jdecTake_room ha).trans ((if_neg (by omega)).trans (if_pos ho))))
  · exact yields_of_done rfl ((taken hm hca hr hp hd hq).trans ((jdecTake_room ha).trans
      ((if_neg (by omega)).trans ((if_neg (by omega)).trans (congrArg (Push.answer s1 t (srcVal s t b)) hv)))))
  · exact entersTrap_of_trap rfl ((taken hm hca hr hp hd hq).trans ((jdecTake_room ha).trans (if_pos ho)))
  · exact yields_of_done rfl ((taken hm hca hr hp hd hq).trans ((jdecTake_room ha).trans ((if_neg (by omega)).trans (if_pos ho))))
  · exact yields_of_done rfl ((taken hm hca hr hp hd hq).trans ((jdecTake_room ha).trans
      ((if_neg (by omega)).trans ((if_neg (by omega)).trans (congrArg (Push.answer s1 t (srcVal s t b)) hv)))))

end Sys2Proof.Machine
end

section
/-! PROOFS. GMMA of a gang beside a queued command that bears the number of its part (17 R417, 06 R163). -/

namespace Sys2Proof.Machine

/-! ### An engine's write of storage that no cache holds (08 R219) -/

section
variable {s : State} {c job slot : Nat} {area : Area} (ha : area.cached = false)
include ha

theorem touchLine_engine_of_uncached {line : Nat} : touchLine s (.engine c job) area line = s := by
  cases area with
  | hbm | host => cases ha
  | _ => rfl

/-- Where no cache holds a line, an engine writes it as its core would. -/
theorem putLine_engine_of_uncached {et : Bool} {line : Nat} {p : LinePut} :
    putLine s (.engine c job) area et line p = putLine s (.core c job) area et line p := by
  have hr : area ≠ .remote := by rintro rfl; cases ha
  unfold putLine
  simp only [touchLine_engine_of_uncached ha, touchLine_of_uncached ha, seeMeta, seeGran, ha, if_neg hr, Bool.false_eq_true, if_false]

theorem putLines_engine_of_uncached {et : Bool} {r : RunPut} {n line k : Nat} :
    putLines (.engine c job) area et r n line s k = putLines (.core c job) area et r n line s k := by
  induction n generalizing line s k with
  | zero => rfl
  | succ n ih =>
    unfold putLines
    rw [putLine_engine_of_uncached ha]
    simp only [ih]

theorem putRun_engine_of_uncached {et : Bool} {r : RunPut} :
    putRun s (.engine c job) area et r = putRun s (.core c job) area et r := by
  unfold putRun
  rw [ha]
  exact putLines_engine_of_uncached ha

end

section
variable {s : State} {slot eng uid : Nat} {sp : Span}

theorem performOp_engine_of_uncached {v : Nat} (hu : isUnit slot = false) (ha : sp.area.cached = false) (hg : GoodGrans s sp.loc sp.len) :
    ∃ u, performOp s slot (.engine [{ span := sp, val := v, syns := none, stamp := none, md := none }]) = .ok u
      ∧ BytesPut sp.loc sp.len v s u := by
  obtain ⟨u, hp, hb⟩ := putRun_of_good (s := s) (c := coreOf slot) (job := (getSlot s slot).job) ha (et := sp.et)
    (r := { loc := sp.loc, n := sp.len, v, syns := none, stamp := none }) rfl hg
  have he : storeSpans 5 slot (.engine (coreOf slot) (getSlot s slot).job) none s [sp] v none = .ok u := by
    simp only [storeSpans, putRun_engine_of_uncached ha, hp, countSubst, if_true]
  refine ⟨claimWrs u slot, ?_, hb⟩
  simp only [performOp, engineWho, hu, performEngine, he, Bool.false_eq_true, if_false]
  rfl

/-! ### Storage that a false RELOC leaves undefined (06 R163) -/

/-- The number that shared storage of n bytes then holds (log 10). -/
def freeNumber (d n : Nat) : Nat := natOf ((List.range n).map fun i => Config.freeByte d i)

/-- Storage of no region, which no cache holds, takes contents that nothing constrains. -/
theorem bytesPut_freeSpan {e : Eng} (hr : (getSlot s e.slot).region = none) (hu : isUnit e.slot = false) (ha : sp.area.cached = false)
    (hg : GoodGrans s sp.loc sp.len) : BytesPut sp.loc sp.len (freeNumber s.draws sp.len) s (freeSpan e s sp) := by
  obtain ⟨u, hp, hb⟩ := performOp_engine_of_uncached (s := (draw s).2) (v := freeNumber s.draws sp.len) hu ha hg
  have hd : getSlot (draw s).2 e.slot = getSlot s e.slot := getSlot_of_slots rfl
  have hw : engWrite e [{ span := sp, val := freeNumber s.draws sp.len, syns := none, stamp := none, md := none }] (draw s).2 = .ok u () := by
    simp only [engWrite, heldByDrain, slotWrite, inRegion, hd, hr, Bool.false_eq_true, if_false, hp]
  have hf : freeSpan e s sp = u := by
    unfold freeNumber at hw
    unfold freeSpan
    simp only [draw] at hw ⊢
    rw [hw]
  rw [hf]
  exact hb

/-- The commands of an engine that run beside one and came before it (06 R163). -/
def earlierCmds (s : State) (slot eng uid : Nat) (c : Cmd) : List (Nat × Cmd) :=
  s.slots.flatMap fun e => (engQueue e.2 eng).filterMap fun d =>
    if d.status.isNone && decide (d.uid < uid) && d.place e.1 eng == c.place slot eng then some (e.1, d) else none

/-- The storage that a command must not share with an earlier one, and shares. -/
def clashSpans (s : State) (slot eng : Nat) (c : Cmd) (e : Nat × Cmd) : List Span :=
  sharedSpans (storageOf s e.1 (cmdWrites eng e.2)) (storageOf s slot (cmdReads eng c))
    ++ sharedSpans (storageOf s e.1 (cmdReads eng e.2) ++ storageOf s e.1 (cmdWrites eng e.2)) (storageOf s slot (cmdWrites eng c))

/-- Both commands remember the storage that they share. -/
def clashNoted (s : State) (slot eng uid : Nat) (e : Nat × Cmd) (l : List Span) : State :=
  let note (c : Cmd) : Cmd := { c with scram := c.scram ++ l }
  updCmd (updCmd s slot eng uid note) e.1 eng e.2.uid note

/-- A false RELOC beside one earlier command that shares one run of storage with it. -/
theorem checkAssertion_of_clash {c : Cmd} {e : Nat × Cmd} (hf : findCmd s slot eng uid = some c) (hr : pkReloc c.pkt = true)
    (hs : c.status = none) (he : earlierCmds s slot eng uid c = [e]) (hl : clashSpans s slot eng c e = [sp]) :
    checkAssertion s slot eng uid = freeSpan (c.eng slot eng) (clashNoted s slot eng uid e [sp]) sp := by
  unfold earlierCmds at he
  unfold clashSpans at hl
  unfold checkAssertion
  simp only [hf, hr, hs, he, Bool.not_true, Option.isSome_none, Bool.or_self, Bool.false_eq_true, if_false, List.foldl_cons, List.foldl_nil, hl]
  rfl

end

/-! ### GMMA of a gang (17 R417) -/

/-- The rows that a GMMA's checks count: its own where D is local, else those of all parts (13 R327). -/
def gmmaRows (p members : Nat) : Nat := if inLocal (mxDaddr p) then mxM p else members * mxM p

/-- A GMMA of a slot stands, its parts to be queued. -/
def gmmaBegun (s : State) (slot p members : Nat) (parts : List (Nat × Nat × Resolved)) : State :=
  let g : GCmd := { gid := s.nextUid, owner := slot, pkt := BitVec.ofNat 512 p,
                    rver := match parts with | (_, _, r) :: _ => r.rver | [] => 0
                    fails := [], aborted := false, bytes := 0, sats := 0, marked := none, paused := none
                    range := match parts with | (_, _, r) :: _ => mxRange p r (gmmaRows p members) | [] => .range 0 0 }
  { numbered s with gcmds := s.gcmds ++ [g] }

/-- The command that a GMMA's part becomes, and its number. -/
def gmmaQueued (p gid : Nat) (s : State) (m : Nat × Nat × Resolved) : State × Nat :=
  addCmd s m.1 5 .C (.packet (BitVec.ofNat 512 p) 0 m.2.2 (some { gid, member := m.2.1 })) none none

/-- One part of a GMMA on its member's engine. -/
def gmmaPart (p gid : Nat) (s : State) (m : Nat × Nat × Resolved) : State :=
  let a := gmmaQueued p gid s m
  let w := checkAssertion a.1 m.1 5 a.2
  if mxClosed p then w else setDirty w m.1

section
variable {s s1 s2 s3 : State} {f : Opnd} {p : Nat} {parts : List (Nat × Nat × Resolved)}

theorem gmmaEff_of_parts (ho : (getSlot s s.turn.slot).regionOpen = false) (h : readsPacket s (srcVal s s.turn f) 64 64 s1 s2 p)
    (hn : gangOrder s s.turn.slot ≠ [])
    (hroom : (roomFor s1 s.turn.slot 5 1 && (gangOrder s s.turn.slot).all fun m => roomFor s1 m.1 5 1) = true)
    (hp : acceptParts s.turn p (gmmaRows p (gangOrder s s.turn.slot).length) (inLocal (mxDaddr p)) (gangOrder s s.turn.slot) s2
      = .ok (s3, parts)) : gmmaEff f s s.turn =
    .done (parts.foldl (gmmaPart p s3.nextUid) (gmmaBegun s3 s.turn.slot p (gangOrder s s.turn.slot).length parts)) := by
  refine (if_neg (ne_true_of_eq_false ho)).trans ?_
  change readPacket 64 64 (fun u => roomFor u s.turn.slot 5 1 && (gangOrder s s.turn.slot).all fun m => roomFor u m.1 5 1) f s s.turn _ = _
  refine (readPacket_of_reads h).trans ((if_pos hroom).trans ?_)
  have he : ¬ (gangOrder s s.turn.slot).isEmpty = true := by simpa using hn
  refine (if_neg he).trans ?_
  unfold gmmaRows gangOrder at hp
  dsimp only
  rw [hp]
  rfl

theorem gmmaPart_mem {gid : Nat} {m : Nat × Nat × Resolved} :
    (gmmaPart p gid s m).mem = (checkAssertion (gmmaQueued p gid s m).1 m.1 5 (gmmaQueued p gid s m).2).mem := by
  simp only [gmmaPart, apply_ite State.mem, setDirty, updSlot_mem, ite_self]

end

/-! ### A queue that holds the number of the part already -/

/-- A matrix epilogue of one FP32 element with RELOC, into the local window at 0x1000. -/
def clashPacket : Nat := 11 + 256 + 0xFFFFFF0000001000 * 256 ^ 24

def clashCmd (uid : Nat) : Cmd :=
  { uid, body := .packet (BitVec.ofNat 512 clashPacket) 0 (.plain .fp32 .fp32) none, progress := 0, sats := 0, started := false
    paused := none, status := none, fcode := 0, inRegion := false, after := none, by_ := .C, pulled := none, marked := false }

/-- The only member of a gang, with two such commands on its matrix engine; M 0 of C holds the local window's first address. -/
def clashSlot : Slot :=
  { Slot.vacant with
    task := some { record := 0, taskid := 1, job := 1, prio := 0, need := 1, parent := 0, index := 0,
                   gang := some { level := 0x40, shape := 1, member := 0, members := 1, lgid := none }, graph := none, dealt := false,
                   idem := false, escs := 0, start := 0 }
    mode := .user, mq := [clashCmd 0, clashCmd 1], c := { Slot.vacant.c with main := vset Slot.vacant.c.main 0 (.fresh windowBase) } }

/-- A GMMA of a BF16 product, without RELOC. -/
def clashGmma : Nat := 6 + 0x11 * 256 ^ 44 + 256 ^ 46 + 256 ^ 48

/-- The GMMA's packet stands at the window's first byte and the byte b at 0x1000 in it; the numbers begin at 0 again, so the GMMA's part
will bear the number 1 of a command that is queued. -/
def clashState (b : Bool) : State :=
  { State.reset with running := true, turn := ⟨0, .C⟩, slots := [(0, clashSlot)]
                     mem := writeByte (writeNat State.reset.mem (2 ^ 60) 64 clashGmma) (2 ^ 60 + 0x1000) (if b then 1 else 0) }

/-- The storage that both commands write. -/
def clashSpan : Span :=
  { va := windowBase + 0x1000, loc := 2 ^ 60 + 0x1000, len := 4, area := .scratch 0, sw := 0, et := false, tt := false, cst := false }

/-- The packet's storage. -/
def clashGmmaSpan : Span :=
  { va := windowBase, loc := 2 ^ 60, len := 64, area := .scratch 0, sw := 0, et := false, tt := false, cst := false }

/-- The GMMA's part as its checks answer. -/
def clashPart : Nat × Nat × Resolved := (0, 0, .plain .fp32 .fp32)

/-- The part's command stands queued behind the two, and its number is theirs. -/
def clashQueued (b : Bool) : State × Nat := gmmaQueued clashGmma 0 (gmmaBegun (clashState b) 0 clashGmma 1 [clashPart]) clashPart

theorem clash_window (b : Bool) : windowRun (clashState b) 0 windowBase 64 = (clashState b, .ok clashGmmaSpan) := by
  cases b <;> decide +kernel

theorem clash_load (b : Bool) : readFor (clashState b) 0 false
    (fun u => loadSpans 2 0 (coreWho u 0) u [clashGmmaSpan]) = .ok (clashState b, clashGmma) := by
  cases b <;> decide +kernel

theorem clash_accept (b : Bool) : acceptParts ⟨0, .C⟩ clashGmma (gmmaRows clashGmma 1) false [(0, 0)] (clashState b)
    = .ok (clashState b, [clashPart]) := by
  cases b <;> decide +kernel

theorem clash_found (b : Bool) : findCmd (clashQueued b).1 0 5 (clashQueued b).2 = some (clashCmd 1) := by
  cases b <;> decide +kernel

theorem clash_earlier (b : Bool) : earlierCmds (clashQueued b).1 0 5 (clashQueued b).2 (clashCmd 1) = [(0, clashCmd 0)] := by
  cases b <;> decide +kernel

theorem clash_spans (b : Bool) : clashSpans (clashQueued b).1 0 5 (clashCmd 1) (0, clashCmd 0) = [clashSpan] := by
  cases b <;> decide +kernel

/-- Beside the part the two commands' shared storage has become undefined. -/
def clashed (b : Bool) : State := clashNoted (clashQueued b).1 0 5 (clashQueued b).2 (0, clashCmd 0) [clashSpan]

theorem clashed_good (b : Bool) : GoodGrans (clashed b) clashSpan.loc clashSpan.len := by
  have hloc : clashSpan.loc = 1152921504606851072 := by decide +kernel
  have hlen : clashSpan.len = 4 := rfl
  rw [hloc, hlen]
  intro g hl hh
  obtain rfl : g = 72057594037928192 := by omega
  cases b <;> decide +kernel

theorem clashed_quiet (b : Bool) : (getSlot (clashed b) 0).region = none ∧ (clashed b).draws = 0 := by
  cases b <;> decide +kernel

/-- Whatever byte stood at 0x1000, the byte that the GMMA leaves there is the same. -/
theorem clash_byte (b : Bool) :
    readByte (gmmaPart clashGmma 0 (gmmaBegun (clashState b) 0 clashGmma 1 [clashPart]) clashPart).mem (2 ^ 60 + 0x1000) =
      BitVec.ofNat 8 (freeNumber 0 4 / 256 ^ 0) := by
  obtain ⟨hr, hd⟩ := clashed_quiet b
  have hc : checkAssertion (clashQueued b).1 0 5 (clashQueued b).2 = freeSpan ((clashCmd 1).eng 0 5) (clashed b) clashSpan :=
    checkAssertion_of_clash (clash_found b) (by decide +kernel) rfl (clash_earlier b) (clash_spans b)
  have hu : isUnit ((clashCmd 1).eng 0 5).slot = false := by decide +kernel
  have hb := bytesPut_freeSpan (e := (clashCmd 1).eng 0 5) hr hu rfl (clashed_good b) (2 ^ 60 + 0x1000)
  rw [gmmaPart_mem]
  refine (congrArg (fun u : State => readByte u.mem (2 ^ 60 + 0x1000)) hc).trans (hb.trans ?_)
  rw [hd]
  exact if_pos (by decide)

theorem clashState_byte (b : Bool) : readByte (clashState b).mem (2 ^ 60 + 0x1000) = if b then 1 else 0 := by
  cases b <;> decide +kernel

/-! ### The GMMA issues -/

theorem clash_src (b : Bool) : srcVal (clashState b) (clashState b).turn (.main 0) = windowBase := by
  cases b <;> decide +kernel

theorem clash_reads (b : Bool) :
    readsPacket (clashState b) (srcVal (clashState b) (clashState b).turn (.main 0)) 64 64 (clashState b) (clashState b) clashGmma := by
  rw [clash_src]
  exact ⟨by decide, by cases b <;> decide +kernel, [clashGmmaSpan], ⟨clashGmmaSpan, clash_window b, rfl⟩, clash_load b⟩

theorem clash_order (b : Bool) : gangOrder (clashState b) (clashState b).turn.slot = [(0, 0)] := by
  cases b <;> decide +kernel

theorem clash_member (b : Bool) : gangOrder (clashState b) (clashState b).turn.slot ≠ [] := by
  rw [clash_order]
  exact List.cons_ne_nil _ _

theorem clash_room (b : Bool) : (roomFor (clashState b) (clashState b).turn.slot 5 1
    && (gangOrder (clashState b) (clashState b).turn.slot).all fun m => roomFor (clashState b) m.1 5 1) = true := by
  cases b <;> decide +kernel

theorem clash_closed (b : Bool) : (getSlot (clashState b) (clashState b).turn.slot).regionOpen = false := by
  cases b <;> decide +kernel

theorem clash_parts (b : Bool) : acceptParts (clashState b).turn clashGmma
    (gmmaRows clashGmma (gangOrder (clashState b) (clashState b).turn.slot).length) (inLocal (mxDaddr clashGmma))
    (gangOrder (clashState b) (clashState b).turn.slot) (clashState b) = .ok (clashState b, [clashPart]) := by
  rw [show inLocal (mxDaddr clashGmma) = false by decide +kernel, clash_order]
  exact clash_accept b

theorem clash_issues (b : Bool) : issues (.gmma .none (.main 0)) .none none (sources [.main 0]) (clashState b) = true := by
  cases b <;> decide +kernel

/-- The GMMA leaves the same byte at 0x1000, whatever stood there. -/
theorem clash_exec {b : Bool} {u : State} (hu : exec (.gmma .none (.main 0)) (clashState b) = .next u) :
    readByte u.mem (2 ^ 60 + 0x1000) = BitVec.ofNat 8 (freeNumber 0 4 / 256 ^ 0) := by
  have hx := yields_of_done rfl
    (gmmaEff_of_parts (clash_closed b) (clash_reads b) (clash_member b) (clash_room b) (clash_parts b)) (clash_issues b)
  rw [clash_order] at hx
  have hm : u.mem = (gmmaPart clashGmma 0 (gmmaBegun (clashState b) 0 clashGmma 1 [clashPart]) clashPart).mem := by
    rw [Host.Outcome.next.inj (hu.symm.trans hx)]
    exact retireWord_mem ..
  rw [hm, clash_byte]

/-- Refutes O44: numbers that begin again give a GMMA's part the number of a queued command with RELOC, whose storage then becomes
undefined, though the GMMA's packet has no RELOC. -/
theorem not_otherEngineWords : ¬ Obligations.OtherEngineWords := by
  intro h
  have hkept (b : Bool) : BitVec.ofNat 8 (freeNumber 0 4 / 256 ^ 0) = if b then 1 else 0 := by
    obtain ⟨hgmma, -⟩ := h .none (.main 0) .push false false 0 (clashState b) (clashState b) (clashState b) (clashState b)
      (clashState b) clashGmma (.plain .fp32 .fp32) [clashPart]
    obtain ⟨u, hu, -, hmem⟩ :=
      hgmma (clash_closed b) (clash_member b) (clash_reads b) (clash_room b) (clash_parts b) (clash_issues b)
    have hreloc : pkReloc clashGmma = false := by decide +kernel
    calc BitVec.ofNat 8 (freeNumber 0 4 / 256 ^ 0) = readByte u.mem (2 ^ 60 + 0x1000) := (clash_exec hu).symm
      _ = readByte (clashState b).mem (2 ^ 60 + 0x1000) := hmem hreloc _
      _ = if b then 1 else 0 := clashState_byte b
  exact absurd ((hkept false).symm.trans (hkept true)) (by decide)

end Sys2Proof.Machine
end
